-- ==== Sys2Proof/Word.lean ====
section
/-! DEFINITION. The word types of the G9 (R24, R40, R51): bytes, 32-bit words, 64-bit addresses. -/

namespace Sys2Proof

/-- One byte of memory (R4). -/
abbrev Byte := BitVec 8

/-- A 32-bit register, instruction or literal word (R24, R51). -/
abbrev Word := BitVec 32

/-- A 64-bit value: an address, a time, a system register pair (R11, R40). -/
abbrev Quad := BitVec 64

end Sys2Proof
end

