-- ==== Sys2Proof/Machine/Store.lean ====
section
/-! DEFINITION. Finite tables with a default, as plain data: a list of (index, value) pairs in one
canonical form. Memory, the local store, register files and every table of the part are stores. -/

namespace Sys2Proof.Machine

/-- A table: entries by index, an index without an entry holding `default`. -/
abbrev Store (α : Type) := List (Nat × α)

/-- The value at an index. -/
def Store.get {α : Type} [Inhabited α] : Store α → Nat → α
  | [], _ => default
  | (k', v) :: r, k => if k' = k then v else Store.get r k

/-- Puts an entry at its place in ascending order, replacing one of the same index. -/
def Store.ins {α : Type} : Store α → Nat → α → Store α
  | [], k, v => [(k, v)]
  | (k', v') :: r, k, v =>
    if k < k' then (k, v) :: (k', v') :: r
    else if k = k' then (k, v) :: r
    else (k', v') :: Store.ins r k v

/-- Takes every entry of an index out. -/
def Store.del {α : Type} : Store α → Nat → Store α
  | [], _ => []
  | (k', v') :: r, k => if k' = k then Store.del r k else (k', v') :: Store.del r k

/-- Writes a value; writing the default takes the entry out, so equal tables are equal lists. -/
def Store.set {α : Type} [Inhabited α] [DecidableEq α] (m : Store α) (k : Nat) (v : α) : Store α :=
  if v = default then Store.del m k else Store.ins m k v

/-- Applies a function to one entry. -/
def Store.upd {α : Type} [Inhabited α] [DecidableEq α] (m : Store α) (k : Nat) (f : α → α) : Store α :=
  Store.set m k (f (Store.get m k))

/-- The canonical form: indexes strictly rise and no entry is the default. -/
def Store.wf {α : Type} [Inhabited α] [DecidableEq α] : Store α → Bool
  | [] => true
  | (k, v) :: r => (v != default) && r.all (fun e => k < e.1) && Store.wf r

/-- Writes values at consecutive indexes. -/
def Store.setList {α : Type} [Inhabited α] [DecidableEq α] (m : Store α) (k : Nat) : List α → Store α
  | [] => m
  | v :: r => Store.setList (Store.set m k v) (k + 1) r

/-- The values at `n` consecutive indexes. -/
def Store.getList {α : Type} [Inhabited α] (m : Store α) (k n : Nat) : List α :=
  (List.range n).map fun i => Store.get m (k + i)

/-- The entries a predicate on the index keeps. -/
def Store.keep {α : Type} (m : Store α) (p : Nat → Bool) : Store α := m.filter fun e => p e.1

end Sys2Proof.Machine
end

