-- ==== Sys2Proof/Machine/Bits.lean ====
section
/-! DEFINITION. Bit fields, sign extension, byte order (R4) and thread masks. -/

namespace Sys2Proof.Machine

/-- Bits [hi:lo] of a number (R4). -/
def bits (x hi lo : Nat) : Nat := x / 2 ^ lo % 2 ^ (hi + 1 - lo)

/-- Bit i of a number. -/
def bit (x i : Nat) : Bool := x / 2 ^ i % 2 == 1

/-- A truth value as a bit. -/
def b2n (b : Bool) : Nat := if b then 1 else 0

/-- `n` read as a signed number of `w` bits. -/
def sgn (w n : Nat) : Int := if n % 2 ^ w < 2 ^ (w - 1) then ((n % 2 ^ w : Nat) : Int) else ((n % 2 ^ w : Nat) : Int) - 2 ^ w

/-- An integer wrapped to `w` bits (R79). -/
def wrapN (w : Nat) (x : Int) : Nat := (x % (2 ^ w : Int)).toNat

/-- A 32-bit word of a number. -/
def w32 (n : Nat) : Word := BitVec.ofNat 32 n

/-- A 64-bit word of a number. -/
def w64 (n : Nat) : Quad := BitVec.ofNat 64 n

/-- Little-endian bytes of a number (R4). -/
def leBytes : Nat → Nat → List Byte
  | 0, _ => []
  | n + 1, x => BitVec.ofNat 8 x :: leBytes n (x / 256)

/-- The number of little-endian bytes (R4). -/
def leNat : List Byte → Nat
  | [] => 0
  | b :: r => b.toNat + 256 * leNat r

/-- The threads of a mask, ascending. -/
def threads (m : Word) : List Nat := (List.range 32).filter fun t => m.getLsbD t

/-- The mask of some threads. -/
def maskOf (l : List Nat) : Word := l.foldl (fun m t => m ||| (1#32 <<< t)) 0#32

/-- The lowest-numbered thread of a mask (R15). -/
def lowest (m : Word) : Option Nat := (threads m).head?

/-- Is a 32-bit mask empty? -/
def emptyMask (m : Word) : Bool := m == 0#32

/-- Population count. -/
def popcount (m : Word) : Nat := (threads m).length

/-- Signed comparison of two counters in serial arithmetic: (a − b) mod 2^32 as I32 (R311). -/
def serial (a b : Word) : Int := (a - b).toInt

/-- Distinct values, first occurrences kept. -/
def distinct {α : Type} [BEq α] (l : List α) : List α := l.foldl (fun acc x => if acc.contains x then acc else acc ++ [x]) []

/-- Takes a value out of an option. -/
def orZero (o : Option Nat) : Nat := o.getD 0

/-- Stable ascending sort by a key. -/
def sortBy {α : Type} (f : α → Nat) : List α → List α
  | [] => []
  | x :: r => insertFront f x (sortBy f r)
where
  /-- Inserts before the first element whose key is at least as large, so equal keys keep their order. -/
  insertFront {α : Type} (f : α → Nat) (x : α) : List α → List α
    | [] => [x]
    | y :: r => if f x ≤ f y then x :: y :: r else y :: insertFront f x r

end Sys2Proof.Machine
end

