-- ==== Sys2Proof/Syntax.lean ====
section
/-! DEFINITION. The syntax of Korzu: the operand forms of R26 and ONE inductive with a constructor for
each row of the opcode table, the 197 instructions first and then the 144 steps of the part that are no
instruction (a completion, a wake, a register write, a message). -/

namespace Sys2Proof

/-- An operand field value (R26). `lit` carries the literal word that the field consumes (R28);
`rsv` is one of the reserved values 0xF8 to 0xFD. -/
inductive Opnd where
  | v (n : Nat)
  | s (n : Nat)
  | zero | one | fone | tid | grp | ls | tm | mone
  | rsv (n : Nat)
  | nul
  | lit (w : Word)
deriving DecidableEq, Repr, Inhabited

/-- One constructor for each row of the opcode table. Operand fields are `Opnd`; selector fields
keep their bits (R25); the atomics carry the literal operands of their no-return form (R232); the
steps of the part carry what names the unit that moves, and what an outside agent puts in. -/
inductive Instr where
  /-- NOP (R113, opcode 0x00): Does nothing; its only legal word is zero. -/
  | nop
  /-- BRA (R101, opcode 0x01): Transfers every active thread of the fragment to a target offset from the fetch block, pushing nothing. -/
  | bra (a : Opnd)
  /-- BRC (R102, opcode 0x02): Branches on a possibly inverted predicate, diverging onto the reconvergence stack when threads disagree. -/
  | brc (n : BitVec 1) (p : BitVec 3) (a : Opnd) (b : Opnd)
  /-- BRX (R103, opcode 0x03): Branches to an absolute target held in an s pair, or in a per-thread v pair with divergence by distinct target. -/
  | brx (a : Opnd) (b : Opnd)
  /-- CALL (R107, opcode 0x04): Pushes a RETURN entry for the next fetch block and transfers every active thread to the target. -/
  | call (a : Opnd)
  /-- RET (R107, opcode 0x05): Pops a RETURN entry and transfers to its PC with its mask less exited threads and its MODE. -/
  | ret
  /-- SYNC (R106, opcode 0x06): Pops the reconvergence stack, taking a deferred path or restoring a reconvergence mask. -/
  | sync
  /-- EXIT (R109, opcode 0x07): Ends the fragment's active threads, removes them from the stack and other fragments, and pops discarding empty entries. -/
  | exit
  /-- YIELD (R110, opcode 0x08): Ends the group as if every live thread exited and reports that it has yielded. -/
  | yield
  /-- SLEEP (R111, opcode 0x09): Records the issue time and puts the fragment in WAITING for n gt or until a pre-emption request. -/
  | sleep (a : Opnd)
  /-- TRAP (R112, opcode 0x0A): Splits the active threads into a HANDLER fragment with cause SOFTWARE and the code in FADRL. -/
  | trap (a : Opnd)
  /-- SETM (R114, opcode 0x0B): Writes the MODE fields selected by a mask from a source, checked under R56. -/
  | setm (m : BitVec 8) (a : Opnd)
  /-- GETM (R115, opcode 0x0C): Writes MODE into the destination. -/
  | getm (d : Opnd)
  /-- MFS (R115, opcode 0x0D): Reads a system register by index into the destination, with the side effects of that read such as the time latch. -/
  | mfs (d : Opnd) (i : BitVec 8)
  /-- MTS (R115, opcode 0x0E): Writes a source into a system register by index under the access codes, checking MODE and clearing FLAGS bits. -/
  | mts (i : BitVec 8) (b : Opnd)
  /-- BAR (R118, opcode 0x0F): Sets a barrier's EXPECT and completes any phases the count now covers. -/
  | bar (k : BitVec 3) (b : Opnd)
  /-- ARRIVE (R118, opcode 0x10): Adds a count to a barrier after earlier scratch stores are performed, completes phases and returns the phase. -/
  | arrive (d : Opnd) (k : BitVec 3) (b : Opnd)
  /-- AWAIT (R119, opcode 0x11): Waits until a barrier's phase reaches a target and returns the phase. -/
  | await (d : Opnd) (k : BitVec 3) (b : Opnd)
  /-- VOTE (R121, opcode 0x12): Computes a mask, any, all or equal vote of a predicate over the voters. -/
  | vote (d : Opnd) (k : BitVec 2) (n : BitVec 1) (p : BitVec 3)
  /-- IPF (R122, opcode 0x13): Requests the code-cache lines of a range into the core instruction cache or the cluster code cache. -/
  | ipf (l : BitVec 1) (a : Opnd) (b : Opnd)
  /-- PIN (R122, opcode 0x14): Prefetches and pins code-cache lines of a range up to half the level's lines. -/
  | pin (l : BitVec 1) (a : Opnd) (b : Opnd)
  /-- UNPIN (R122, opcode 0x15): Removes the pin mark from the code-cache lines of a range. -/
  | unpin (l : BitVec 1) (a : Opnd) (b : Opnd)
  /-- ADD (R125, opcode 0x20): Adds elements under IPACK, wrapping or saturating. -/
  | add (d : Opnd) (a : Opnd) (b : Opnd)
  /-- SUB (R125, opcode 0x21): Subtracts elements under IPACK, wrapping or saturating. -/
  | sub (d : Opnd) (a : Opnd) (b : Opnd)
  /-- ADDC (R127, opcode 0x22): Adds 32-bit values with carry-in from p7 and writes the carry-out to p7. -/
  | addc (d : Opnd) (a : Opnd) (b : Opnd)
  /-- SUBB (R127, opcode 0x23): Subtracts 32-bit values with borrow-in from p7 and writes the borrow to p7. -/
  | subb (d : Opnd) (a : Opnd) (b : Opnd)
  /-- MUL (R125, opcode 0x24): Multiplies elements, keeping the low bits or saturating. -/
  | mul (d : Opnd) (a : Opnd) (b : Opnd)
  /-- MULH (R125, opcode 0x25): Delivers the upper half of the signed element product. -/
  | mulh (d : Opnd) (a : Opnd) (b : Opnd)
  /-- MULHN (R125, opcode 0x26): Delivers the upper half of the unsigned element product. -/
  | mulhn (d : Opnd) (a : Opnd) (b : Opnd)
  /-- MAD (R125, opcode 0x27): Multiplies elements and adds the old destination. -/
  | mad (d : Opnd) (a : Opnd) (b : Opnd)
  /-- DIV (R126, opcode 0x28): Divides signed elements toward zero with the defined zero-divisor and overflow results. -/
  | div (d : Opnd) (a : Opnd) (b : Opnd)
  /-- DIVN (R126, opcode 0x29): Divides unsigned elements with the defined zero-divisor result. -/
  | divn (d : Opnd) (a : Opnd) (b : Opnd)
  /-- REM (R126, opcode 0x2A): Delivers the signed remainder of element division. -/
  | rem (d : Opnd) (a : Opnd) (b : Opnd)
  /-- REMN (R126, opcode 0x2B): Delivers the unsigned remainder of element division. -/
  | remn (d : Opnd) (a : Opnd) (b : Opnd)
  /-- AND (R125, opcode 0x2C): Bitwise AND of 32-bit values. -/
  | and (d : Opnd) (a : Opnd) (b : Opnd)
  /-- OR (R125, opcode 0x2D): Bitwise OR of 32-bit values. -/
  | or (d : Opnd) (a : Opnd) (b : Opnd)
  /-- XOR (R125, opcode 0x2E): Bitwise exclusive OR of 32-bit values. -/
  | xor (d : Opnd) (a : Opnd) (b : Opnd)
  /-- ANDN (R125, opcode 0x2F): Bitwise AND of A with the complement of B. -/
  | andn (d : Opnd) (a : Opnd) (b : Opnd)
  /-- SHL (R125, opcode 0x30): Shifts elements left by a count. -/
  | shl (d : Opnd) (a : Opnd) (b : Opnd)
  /-- SHR (R125, opcode 0x31): Shifts elements right logically by a count. -/
  | shr (d : Opnd) (a : Opnd) (b : Opnd)
  /-- SAR (R125, opcode 0x32): Shifts elements right arithmetically by a count. -/
  | sar (d : Opnd) (a : Opnd) (b : Opnd)
  /-- ROT (R125, opcode 0x33): Rotates elements left by a count modulo the width. -/
  | rot (d : Opnd) (a : Opnd) (b : Opnd)
  /-- MIN (R125, opcode 0x34): Signed element minimum. -/
  | min (d : Opnd) (a : Opnd) (b : Opnd)
  /-- MAX (R125, opcode 0x35): Signed element maximum. -/
  | max (d : Opnd) (a : Opnd) (b : Opnd)
  /-- MINN (R125, opcode 0x36): Unsigned element minimum. -/
  | minn (d : Opnd) (a : Opnd) (b : Opnd)
  /-- MAXN (R125, opcode 0x37): Unsigned element maximum. -/
  | maxn (d : Opnd) (a : Opnd) (b : Opnd)
  /-- ABS (R125, opcode 0x38): Signed element absolute value, saturating when MODE.SAT is set. -/
  | abs (d : Opnd) (a : Opnd)
  /-- CLZ (R125, opcode 0x39): Counts leading zero bits of each element. -/
  | clz (d : Opnd) (a : Opnd)
  /-- POPC (R125, opcode 0x3A): Counts set bits of each element. -/
  | popc (d : Opnd) (a : Opnd)
  /-- BREV (R125, opcode 0x3B): Reverses the bits of each element. -/
  | brev (d : Opnd) (a : Opnd)
  /-- BFE (R128, opcode 0x3C): Extracts a bit field given by a control word, zero- or sign-extended. -/
  | bfe (d : Opnd) (a : Opnd) (b : Opnd)
  /-- BFI (R128, opcode 0x3D): Inserts a bit field of A into the old destination. -/
  | bfi (d : Opnd) (a : Opnd) (b : Opnd)
  /-- SEL (R129, opcode 0x3E): Chooses A for guard-selected threads and B for the others. -/
  | sel (d : Opnd) (a : Opnd) (b : Opnd)
  /-- MOV (R129, opcode 0x3F): Copies A to the destination. -/
  | mov (d : Opnd) (a : Opnd)
  /-- CMP (R130, opcode 0x40): Compares 32-bit values as signed and writes the named predicate. -/
  | cmp (c : BitVec 3) (p : BitVec 3) (a : Opnd) (b : Opnd)
  /-- CMPN (R130, opcode 0x41): Compares 32-bit values as unsigned and writes the named predicate. -/
  | cmpn (c : BitVec 3) (p : BitVec 3) (a : Opnd) (b : Opnd)
  /-- FCMP (R146, opcode 0x42): Compares floating-point elements under a condition and writes the named predicate. -/
  | fcmp (c : BitVec 3) (p : BitVec 3) (a : Opnd) (b : Opnd)
  /-- PAND (R131, opcode 0x43): ANDs two possibly inverted predicates into a predicate. -/
  | pand (p : BitVec 3) (n : BitVec 1) (q : BitVec 3) (m : BitVec 1) (r : BitVec 3)
  /-- POR (R131, opcode 0x44): ORs two possibly inverted predicates into a predicate. -/
  | por (p : BitVec 3) (n : BitVec 1) (q : BitVec 3) (m : BitVec 1) (r : BitVec 3)
  /-- PXOR (R131, opcode 0x45): Exclusive-ORs two possibly inverted predicates into a predicate. -/
  | pxor (p : BitVec 3) (n : BitVec 1) (q : BitVec 3) (m : BitVec 1) (r : BitVec 3)
  /-- PSET (R132, opcode 0x46): Sets each selected thread's predicate bit from its bit of a source. -/
  | pset (p : BitVec 3) (a : Opnd)
  /-- PGET (R132, opcode 0x47): Writes a whole 32-bit predicate into the destination. -/
  | pget (d : Opnd) (p : BitVec 3)
  /-- SHFL (R134, opcode 0x48): Reads A from the thread named by an index. -/
  | shfl (d : Opnd) (a : Opnd) (b : Opnd)
  /-- SHUP (R134, opcode 0x49): Reads A from thread t minus n, or 0. -/
  | shup (d : Opnd) (a : Opnd) (b : Opnd)
  /-- SHDN (R134, opcode 0x4A): Reads A from thread t plus n, or 0. -/
  | shdn (d : Opnd) (a : Opnd) (b : Opnd)
  /-- QSWZ (R134, opcode 0x4B): Reads A from a thread of the same quad chosen by a selector. -/
  | qswz (d : Opnd) (a : Opnd) (b : Opnd)
  /-- QXH (R134, opcode 0x4C): Reads A from the horizontal quad neighbour. -/
  | qxh (d : Opnd) (a : Opnd)
  /-- QXV (R134, opcode 0x4D): Reads A from the vertical quad neighbour. -/
  | qxv (d : Opnd) (a : Opnd)
  /-- QXD (R134, opcode 0x4E): Reads A from the diagonal quad neighbour. -/
  | qxd (d : Opnd) (a : Opnd)
  /-- NIBL (R135, opcode 0x4F): Looks up each byte's low nibble in a 16-byte register table. -/
  | nibl (d : Opnd) (a : Opnd) (b : Opnd)
  /-- NIBH (R135, opcode 0x50): Looks up each byte's high nibble in a 16-byte register table. -/
  | nibh (d : Opnd) (a : Opnd) (b : Opnd)
  /-- PRMT (R136, opcode 0x51): Builds a word from a stepped run of bytes of A and the old destination. -/
  | prmt (d : Opnd) (a : Opnd) (b : Opnd)
  /-- RADD (R137, opcode 0x52): Reduces elements over the group by addition through the fixed tree. -/
  | radd (d : Opnd) (a : Opnd)
  /-- RMAX (R137, opcode 0x53): Reduces elements over the group by signed maximum. -/
  | rmax (d : Opnd) (a : Opnd)
  /-- RMIN (R137, opcode 0x54): Reduces elements over the group by signed minimum. -/
  | rmin (d : Opnd) (a : Opnd)
  /-- FRADD (R147, opcode 0x55): Reduces floating-point elements over the group by addition, rounding at each tree node. -/
  | fradd (d : Opnd) (a : Opnd)
  /-- FRMAX (R147, opcode 0x56): Reduces floating-point elements over the group by maximum. -/
  | frmax (d : Opnd) (a : Opnd)
  /-- PSUM (R138, opcode 0x57): Computes the inclusive prefix sum over the group's leaves. -/
  | psum (d : Opnd) (a : Opnd)
  /-- PSUMX (R138, opcode 0x58): Computes the exclusive prefix sum over the group's leaves. -/
  | psumx (d : Opnd) (a : Opnd)
  /-- FADD (R142, opcode 0x60): Adds floating-point elements with one rounding. -/
  | fadd (d : Opnd) (a : Opnd) (b : Opnd)
  /-- FSUB (R142, opcode 0x61): Subtracts floating-point elements with one rounding. -/
  | fsub (d : Opnd) (a : Opnd) (b : Opnd)
  /-- FMUL (R142, opcode 0x62): Multiplies floating-point elements with one rounding. -/
  | fmul (d : Opnd) (a : Opnd) (b : Opnd)
  /-- FMA (R142, opcode 0x63): Fused multiply-add of A, B and the old destination. -/
  | fma (d : Opnd) (a : Opnd) (b : Opnd)
  /-- FMS (R142, opcode 0x64): Fused multiply-subtract of the old destination from A times B. -/
  | fms (d : Opnd) (a : Opnd) (b : Opnd)
  /-- FMIN (R143, opcode 0x65): Returns the smaller floating-point operand, with −0 below +0. -/
  | fmin (d : Opnd) (a : Opnd) (b : Opnd)
  /-- FMAX (R143, opcode 0x66): Returns the larger floating-point operand. -/
  | fmax (d : Opnd) (a : Opnd) (b : Opnd)
  /-- FABS (R143, opcode 0x67): Clears the sign of each element. -/
  | fabs (d : Opnd) (a : Opnd)
  /-- FNEG (R143, opcode 0x68): Inverts the sign of each element. -/
  | fneg (d : Opnd) (a : Opnd)
  /-- FRCP (R145, opcode 0x69): Correctly rounded reciprocal. -/
  | frcp (d : Opnd) (a : Opnd)
  /-- FRSQ (R145, opcode 0x6A): Correctly rounded reciprocal square root. -/
  | frsq (d : Opnd) (a : Opnd)
  /-- FSQRT (R145, opcode 0x6B): Correctly rounded square root. -/
  | fsqrt (d : Opnd) (a : Opnd)
  /-- FEXP2 (R145, opcode 0x6C): Correctly rounded base-2 exponential. -/
  | fexp2 (d : Opnd) (a : Opnd)
  /-- FLOG2 (R145, opcode 0x6D): Correctly rounded base-2 logarithm. -/
  | flog2 (d : Opnd) (a : Opnd)
  /-- FSIN (R145, opcode 0x6E): Correctly rounded sine. -/
  | fsin (d : Opnd) (a : Opnd)
  /-- FCOS (R145, opcode 0x6F): Correctly rounded cosine. -/
  | fcos (d : Opnd) (a : Opnd)
  /-- FTANH (R145, opcode 0x70): Correctly rounded hyperbolic tangent. -/
  | ftanh (d : Opnd) (a : Opnd)
  /-- FSCAL (R142, opcode 0x71): Multiplies each element by a power of two given by B. -/
  | fscal (d : Opnd) (a : Opnd) (b : Opnd)
  /-- FRND (R142, opcode 0x72): Rounds each element to an integer in its own format. -/
  | frnd (d : Opnd) (a : Opnd)
  /-- FDOT2 (R144, opcode 0x73): Adds the exact two-element dot product of packed A and B to an F32 destination with one rounding. -/
  | fdot2 (d : Opnd) (a : Opnd) (b : Opnd)
  /-- SCALEQ (R156, opcode 0x74): Reads an amax entry's slots at its home and returns the scale exponent for a format. -/
  | scaleq (d : Opnd) (a : Opnd) (f : BitVec 3)
  /-- F2I (R149, opcode 0x75): Converts floating-point elements to signed integers. -/
  | f2i (d : Opnd) (a : Opnd)
  /-- F2N (R149, opcode 0x76): Converts floating-point elements to unsigned integers. -/
  | f2n (d : Opnd) (a : Opnd)
  /-- I2F (R150, opcode 0x77): Converts signed integers to floating point with one rounding. -/
  | i2f (d : Opnd) (a : Opnd)
  /-- N2F (R150, opcode 0x78): Converts unsigned integers to floating point with one rounding. -/
  | n2f (d : Opnd) (a : Opnd)
  /-- F2H (R151, opcode 0x79): Converts two F32 values into one packed F16x2 or BF16x2 word. -/
  | f2h (d : Opnd) (a : Opnd) (b : Opnd)
  /-- H2F (R151, opcode 0x7A): Converts one element of a packed word to F32 exactly. -/
  | h2f (d : Opnd) (a : Opnd) (e : BitVec 1)
  /-- PK8 (R153, opcode 0x7B): Scales and packs four F32 values into four 8-bit elements. -/
  | pk8 (d : Opnd) (a : Opnd) (b : Opnd)
  /-- UPK8 (R153, opcode 0x7C): Unpacks four 8-bit elements into four scaled F32 values. -/
  | upk8 (d : Opnd) (a : Opnd) (b : Opnd)
  /-- QFPK (R154, opcode 0x7D): Quantises sixteen F32 values into one QF block. -/
  | qfpk (d : Opnd) (a : Opnd) (f : BitVec 3)
  /-- QFUPK (R154, opcode 0x7E): Expands one QF block into sixteen F32 values. -/
  | qfupk (d : Opnd) (a : Opnd) (f : BitVec 3)
  /-- AMAXR (R157, opcode 0x7F): Records a maximum magnitude into, or advances, amax table entries at their homes. -/
  | amaxr (d : Opnd) (a : Opnd)
  /-- LDB (R228, opcode 0x80): Loads a byte, zero-extended. -/
  | ldb (d : Opnd) (a : Opnd) (b : Opnd)
  /-- LDBS (R228, opcode 0x81): Loads a byte, sign-extended. -/
  | ldbs (d : Opnd) (a : Opnd) (b : Opnd)
  /-- LDH (R228, opcode 0x82): Loads a half-word, zero-extended. -/
  | ldh (d : Opnd) (a : Opnd) (b : Opnd)
  /-- LDHS (R228, opcode 0x83): Loads a half-word, sign-extended. -/
  | ldhs (d : Opnd) (a : Opnd) (b : Opnd)
  /-- LDW (R228, opcode 0x84): Loads a word. -/
  | ldw (d : Opnd) (a : Opnd) (b : Opnd)
  /-- LDD (R228, opcode 0x85): Loads 8 bytes into a register pair. -/
  | ldd (d : Opnd) (a : Opnd) (b : Opnd)
  /-- LDQ (R228, opcode 0x86): Loads 16 bytes into a register quad. -/
  | ldq (d : Opnd) (a : Opnd) (b : Opnd)
  /-- STB (R230, opcode 0x87): Stores a byte. -/
  | stb (x : Opnd) (a : Opnd) (b : Opnd)
  /-- STH (R230, opcode 0x88): Stores a half-word. -/
  | sth (x : Opnd) (a : Opnd) (b : Opnd)
  /-- STW (R230, opcode 0x89): Stores a word. -/
  | stw (x : Opnd) (a : Opnd) (b : Opnd)
  /-- STD (R230, opcode 0x8A): Stores 8 bytes from a register pair. -/
  | std (x : Opnd) (a : Opnd) (b : Opnd)
  /-- STQ (R230, opcode 0x8B): Stores 16 bytes from a register quad. -/
  | stq (x : Opnd) (a : Opnd) (b : Opnd)
  /-- PRF (R237, opcode 0x8C): Requests lines into the L1 or the L2 without faulting or writing. -/
  | prf (l : BitVec 1) (a : Opnd) (b : Opnd)
  /-- PGREQ (R238, opcode 0x8D): Reports page residency per thread and enters a REQUEST record for each non-resident page. -/
  | pgreq (d : Opnd) (a : Opnd) (b : Opnd)
  /-- ATADD (R233, opcode 0x8E): Atomically adds to a word. -/
  | atadd (d : Opnd) (a : Opnd) (b : Opnd) (u : Word)
  /-- ATMIN (R233, opcode 0x8F): Atomic signed minimum. -/
  | atmin (d : Opnd) (a : Opnd) (b : Opnd) (u : Word)
  /-- ATMAX (R233, opcode 0x90): Atomic signed maximum. -/
  | atmax (d : Opnd) (a : Opnd) (b : Opnd) (u : Word)
  /-- ATMINN (R233, opcode 0x91): Atomic unsigned minimum. -/
  | atminn (d : Opnd) (a : Opnd) (b : Opnd) (u : Word)
  /-- ATMAXN (R233, opcode 0x92): Atomic unsigned maximum. -/
  | atmaxn (d : Opnd) (a : Opnd) (b : Opnd) (u : Word)
  /-- ATAND (R233, opcode 0x93): Atomic bitwise AND. -/
  | atand (d : Opnd) (a : Opnd) (b : Opnd) (u : Word)
  /-- ATOR (R233, opcode 0x94): Atomic bitwise OR. -/
  | ator (d : Opnd) (a : Opnd) (b : Opnd) (u : Word)
  /-- ATXOR (R233, opcode 0x95): Atomic bitwise exclusive OR. -/
  | atxor (d : Opnd) (a : Opnd) (b : Opnd) (u : Word)
  /-- ATXCH (R233, opcode 0x96): Atomic exchange. -/
  | atxch (d : Opnd) (a : Opnd) (b : Opnd) (u : Word)
  /-- ATCAS (R232, opcode 0x97): Atomic compare and swap. -/
  | atcas (d : Opnd) (a : Opnd) (b : Opnd) (u : Word) (w : Word)
  /-- ATFADD (R234, opcode 0x98): Atomic floating-point add under RNE per element. -/
  | atfadd (d : Opnd) (a : Opnd) (b : Opnd) (u : Word)
  /-- ATFMAX (R234, opcode 0x99): Atomic floating-point maximum per element. -/
  | atfmax (d : Opnd) (a : Opnd) (b : Opnd) (u : Word)
  /-- FREL (R240, opcode 0x9A): Waits for the group's earlier accesses and, at scope C or S, writes back the L1 and waits for time past LCT. -/
  | frel (s : BitVec 2)
  /-- FACQ (R241, opcode 0x9B): Keeps later loads from being performed before earlier loads return. -/
  | facq
  /-- FSEQ (R241, opcode 0x9C): Performs FREL at its scope and then FACQ. -/
  | fseq (s : BitVec 2)
  /-- FRC (R242, opcode 0x9D): Waits until the group's earlier window writes and reductions are acknowledged at every receiver and returns a status. -/
  | frc (d : Opnd)
  /-- WTIME (R243, opcode 0x9E): Waits until the global time reaches a 64-bit value. -/
  | wtime (a : Opnd)
  /-- FLUSH (R244, opcode 0x9F): Writes back, and optionally invalidates, the block's L1. -/
  | flush (i : BitVec 1)
  /-- MDS (R161, opcode 0xA0): Checks and copies eight uniform registers into a descriptor slot. -/
  | mds (j : BitVec 2) (a : Opnd)
  /-- GANG (R162, opcode 0xA1): Checks and writes the group's GANG member mask. -/
  | gang (a : Opnd)
  /-- MMA (R173, opcode 0xA2): Arrives at the Cinch with a dense matrix multiply-accumulate into an accumulator fragment. -/
  | mma (f : Opnd) (a : Opnd) (j : BitVec 2)
  /-- MMAS (R173, opcode 0xA3): Arrives at the Cinch with a 2:4 sparse matrix multiply-accumulate. -/
  | mmas (f : Opnd) (a : Opnd) (j : BitVec 2)
  /-- MZRO (R174, opcode 0xA4): Enters the engine queue to zero an accumulator fragment. -/
  | mzro (f : Opnd)
  /-- ASCORE (R191, opcode 0xA5): Arrives at the Cinch to score query rows against a KV page with an online soft-maximum. -/
  | ascore (d : Opnd) (a : Opnd) (r : BitVec 2) (j : BitVec 2)
  /-- AVACC (R193, opcode 0xA6): Arrives at the Cinch to accumulate stored P times V into an output fragment. -/
  | avacc (f : Opnd) (r : BitVec 2) (j : BitVec 2)
  /-- AFIN (R194, opcode 0xA7): Arrives at the Cinch to divide output rows by l and report lambda, optionally freeing the slot. -/
  | afin (f : Opnd) (a : Opnd) (l : BitVec 1) (r : BitVec 2)
  /-- ARST (R195, opcode 0xA8): Arrives at the Cinch to bind a row-state slot and set it fresh or from registers. -/
  | arst (r : BitVec 2) (a : Opnd) (b : Opnd)
  /-- AROW (R196, opcode 0xA9): Arrives at the Cinch to read each member row's M and L into a register pair. -/
  | arow (d : Opnd) (r : BitVec 2)
  /-- CPY (R289, opcode 0xB0): Checks and queues a one-row streamer copy. -/
  | cpy (t : BitVec 1) (s : BitVec 1) (q : BitVec 2) (a : Opnd) (b : Opnd)
  /-- CPY2 (R289, opcode 0xB1): Checks and queues a strided two-dimensional streamer copy. -/
  | cpy2 (t : BitVec 1) (s : BitVec 1) (q : BitVec 2) (a : Opnd) (b : Opnd)
  /-- CPYG (R289, opcode 0xB2): Checks and queues a gather copy driven by a scratch index table. -/
  | cpyg (t : BitVec 1) (s : BitVec 1) (q : BitVec 2) (a : Opnd) (b : Opnd)
  /-- CPYC (R290, opcode 0xB3): Checks and queues a converting copy under a CVT word. -/
  | cpyc (t : BitVec 1) (s : BitVec 1) (q : BitVec 2) (a : Opnd) (b : Opnd)
  /-- CPYR (R295, opcode 0xB4): Checks and queues a fill of one ring slot. -/
  | cpyr (r : BitVec 4) (s : BitVec 1) (q : BitVec 2) (a : Opnd) (b : Opnd)
  /-- CPYZ (R289, opcode 0xB5): Checks and queues a zero fill of a destination. -/
  | cpyz (t : BitVec 1) (q : BitVec 2) (a : Opnd) (b : Opnd)
  /-- RNGI (R293, opcode 0xB6): Sets up or invalidates a ring object of the block. -/
  | rngi (r : BitVec 4) (a : Opnd) (b : Opnd)
  /-- RNGW (R296, opcode 0xB7): Waits for a full ring slot, hands it out and returns its offset and fault bit. -/
  | rngw (d : Opnd) (r : BitVec 4)
  /-- RNGR (R298, opcode 0xB8): Releases n ring slots in order after the group's earlier RNGQs. -/
  | rngr (r : BitVec 4) (a : Opnd)
  /-- RNGQ (R297, opcode 0xB9): Reads 16 bytes per thread from a ring's storage. -/
  | rngq (d : Opnd) (r : BitVec 4) (b : Opnd)
  /-- QFNC (R299, opcode 0xBA): Places a fence entry into each named streamer queue. -/
  | qfnc (m : BitVec 4)
  /-- QWAIT (R301, opcode 0xBB): Waits for the group's earlier copies in the named queues, then reports and clears their HALT state. -/
  | qwait (d : Opnd) (m : BitVec 4)
  /-- LBCL (R292, opcode 0xBC): Waits for the group's earlier CPYCs of a queue, then takes and clears its line-buffer maximum. -/
  | lbcl (d : Opnd) (l : BitVec 2)
  /-- BANKM (R245, opcode 0xBD): Sets the mode of one of the block's local-store banks and starts its drain. -/
  | bankm (m : BitVec 2) (a : Opnd)
  /-- EVSIG (R320, opcode 0xC0): Fences as FREL.c and adds an increment to an own event or sends it to the owner chip. -/
  | evsig (a : Opnd) (b : Opnd)
  /-- EVWAIT (R321, opcode 0xC1): Waits until an event or mirror reaches a threshold, freezes or the deadline passes, and returns status and counter. -/
  | evwait (d : Opnd) (a : Opnd) (b : Opnd)
  /-- EVPOLL (R321, opcode 0xC2): Reads an event counter at one instant without waiting. -/
  | evpoll (d : Opnd) (a : Opnd)
  /-- MBXRD (R322, opcode 0xC3): Takes the oldest suitable mailbox descriptor of the core into six uniform registers, waiting until one exists. -/
  | mbxrd (d : Opnd)
  /-- MBXDONE (R323, opcode 0xC4): Fences the block as FREL.c, retires the job's point, returns its tokens and signals. -/
  | mbxdone (a : Opnd)
  /-- MBXQ (R324, opcode 0xC5): Reports the number of posted mailbox entries and whether a YIELD or STOP is posted for the block. -/
  | mbxq (d : Opnd)
  /-- FRQ (R340, opcode 0xC6): Reads an operator slot's status or one line entry of its frontier. -/
  | frq (d : Opnd) (a : Opnd) (b : Opnd)
  /-- OPPUSH (R325, opcode 0xC7): Writes a tail pair to a stream's shadow word and delivers it as a tail write. -/
  | oppush (a : Opnd) (b : Opnd)
  /-- RXADD (R372, opcode 0xD0): Sends an integer add reduction through a transmit window to the receivers. -/
  | rxadd (x : Opnd) (a : Opnd) (b : Opnd)
  /-- RXFADD (R372, opcode 0xD1): Sends an F32 add reduction through a transmit window. -/
  | rxfadd (x : Opnd) (a : Opnd) (b : Opnd)
  /-- RXBADD (R372, opcode 0xD2): Sends a packed BF16 add reduction through a transmit window. -/
  | rxbadd (x : Opnd) (a : Opnd) (b : Opnd)
  /-- RXMAX (R372, opcode 0xD3): Sends a signed maximum reduction through a transmit window. -/
  | rxmax (x : Opnd) (a : Opnd) (b : Opnd)
  /-- WSTAT (R373, opcode 0xD4): Reads a transmit entry summary or one of its send path records. -/
  | wstat (d : Opnd) (a : Opnd) (b : Opnd)
  /-- KVAPP (R383, opcode 0xE0): Sends a KV append of N tokens to the die's Skiver. -/
  | kvapp (a : Opnd)
  /-- KVSEAL (R385, opcode 0xE1): Sends a seal of the sequence's open page to the Skiver. -/
  | kvseal (a : Opnd)
  /-- KVPOS (R386, opcode 0xE2): Finds per thread the page and slot that hold a position in a sequence. -/
  | kvpos (d : Opnd) (a : Opnd) (b : Opnd)
  /-- KVEVICT (R388, opcode 0xE3): Sends an eviction and compaction command for a sequence to the Skiver. -/
  | kvevict (a : Opnd)
  /-- MFOLD (R397, opcode 0xE4): Sends a command that credits each key the softmax weight from a score strip and lambda into its mass counter. -/
  | mfold (a : Opnd)
  /-- MDECAY (R398, opcode 0xE5): Sends a command that shifts right the mass counters of a run of pages. -/
  | mdecay (a : Opnd)
  /-- RTE (R430, opcode 0xF0): Discards the handler's private stack and resumes the fragment at the trap point or a given target. -/
  | rte (a : Opnd)
  /-- GRD (R431, opcode 0xF1): Reads one 32-bit item of a group of the block or of the block. -/
  | grd (d : Opnd) (a : Opnd) (b : Opnd)
  /-- GWR (R431, opcode 0xF2): Writes one 32-bit item of a frozen group or of the issuer. -/
  | gwr (x : Opnd) (a : Opnd) (b : Opnd)
  /-- GRES (R432, opcode 0xF3): Freezes a group and, once its operations complete, rolls it back to its region entry. -/
  | gres (a : Opnd)
  /-- GFRZ (R433, opcode 0xF4): Freezes or unfreezes every live fragment of a group. -/
  | gfrz (u : BitVec 1) (a : Opnd)
  /-- TLBI (R434, opcode 0xF5): Posts a RANGE or CONTEXT translation invalidation request. -/
  | tlbi (a : Opnd)
  /-- WMAPI (R435, opcode 0xF6): Performs a window, multicast, path or subscription command held in eight uniform registers. -/
  | wmapi (a : Opnd)
  /-- FRSV (R436, opcode 0xF7): Waits for a draining operator's points to settle, writes its ragged record and frees the slot. -/
  | frsv (a : Opnd) (b : Opnd)
  /-- FRLD (R436, opcode 0xF8): Checks a ragged record, takes a slot and line entries, and loads the operator's frontier. -/
  | frld (d : Opnd) (a : Opnd)
  /-- CTXSV (R437, opcode 0xF9): Writes a frozen group's record and ends it, or writes the block's record. -/
  | ctxsv (a : Opnd) (b : Opnd)
  /-- CTXLD (R437, opcode 0xFA): Recreates an ended group frozen from its record, or restores the block's state. -/
  | ctxld (a : Opnd) (b : Opnd)
  /-- CLAUSE_START (R33): A fragment starts a clause: decode, YLD sample, convergence action, wait for WAIT flags, region entry, then issue. -/
  | clauseStart
  /-- FRAGMENT_MERGE (R108): MERGING fragments at one header become one fragment once no fragment of the group is READY, WAITING or HANDLER. -/
  | fragmentMerge (g : Nat)
  /-- HANDLER_START (R418): After its fault record is accepted the HANDLER fragment starts at TRAPENT. -/
  | handlerStart (g f : Nat)
  /-- FRAGMENT_WAKE (R119): A fragment waiting in AWAIT becomes READY after the arrival that satisfies it and receives the phase. -/
  | fragmentWake (g f : Nat)
  /-- SLEEP_WAKE (R111): A sleeping fragment becomes READY when its time passes or a pre-emption request is set. -/
  | sleepWake (g f : Nat)
  /-- WTIME_WAKE (R243): A fragment in WTIME becomes READY once the global time reaches its value. -/
  | wtimeWake (g f : Nat)
  /-- EVWAIT_WAKE (R321): A fragment in EVWAIT becomes READY on threshold, mirror freeze or deadline and receives status and counter. -/
  | evwaitWake (g f : Nat)
  /-- RNGW_WAKE (R296): A waiting RNGW resumes when a slot becomes FULL and takes it. -/
  | rngwWake (g f : Nat)
  /-- MBXRD_WAKE (R322): A waiting MBXRD resumes when a suitable descriptor is posted and takes it. -/
  | mbxrdWake (g f : Nat)
  /-- QWAIT_WAKE (R301): A waiting QWAIT resumes once its earlier copies have left their queues. -/
  | qwaitWake (g f : Nat)
  /-- LBCL_WAKE (R292): A waiting LBCL resumes once its earlier CPYCs have left the queue and takes AMAX. -/
  | lbclWake (g f : Nat)
  /-- FRC_WAKE (R242): A waiting FRC ends when every write is acknowledged, a path closes or goes down, or the deadline passes. -/
  | frcWake (g f : Nat)
  /-- FENCE_WAKE (R240): A fence or MBXDONE resumes once its accesses complete, write-backs return and time exceeds LCT. -/
  | fenceWake (g f : Nat)
  /-- GROUP_END (R109): A group with no live fragment, once every operation it issued is performed, clears GANG and frees its lane occupancy. -/
  | groupEnd (g : Nat)
  /-- LOAD_COMPLETE (R228): A load's data returns and is written to its destination, with the NRP predicate, and its flag count falls; `thr` names the threads and the
  registers (bit i for register i) that this step writes. -/
  | loadComplete (g id : Nat) (thr : Word × Nat)
  /-- L1_LEASE_EXPIRY (R209): The global time reaches a line's LEASE and its SV data stops hitting. -/
  | l1LeaseExpiry (c k : Nat)
  /-- STORE_COMPLETE (R230): A store's bytes are in the L1 or scratch, or the home has returned its completion time, and its flag count falls. -/
  | storeComplete (g id : Nat)
  /-- ATOMIC_COMPLETE (R235): An atomic performed at its home or bank returns its completion time and old value and its flag count falls; `id` is the operation
  and the threads whose old values this step writes. -/
  | atomicComplete (g : Nat) (id : Nat × Word)
  /-- HOME_READ (R213): A home slice serves a fill, granting a lease and raising LEASEMAX, and evicts a victim if needed. -/
  | homeRead (g id line : Nat)
  /-- HOME_WRITE (R248): A home performs a write-back, atomic, engine, host or window write and assigns its completion time. -/
  | homeWrite (id : Nat)
  /-- PAGE_WALK (R346): A TLB miss walks the three tables and ends with a leaf or NOT_RESIDENT. -/
  | pageWalk (cache slot page : Nat)
  /-- INVALIDATION_COMPLETE (R352): An invalidation has reached every cache and every access translated with a dropped entry has been performed. -/
  | invalidationComplete (id : Nat)
  /-- FAULT_BATCH_TIMEOUT (R277): FQTMR gt pass since a batch's first record and the batch closes. -/
  | faultBatchTimeout
  /-- FAULT_BATCH_FULL (R277): A batch reaches FQCNT records and closes. -/
  | faultBatchFull
  /-- FAULT_DELIVERY (R279): A closed batch is sorted, merged into ranges and written into the delivery ring as room allows, then signals its interrupt. -/
  | faultDelivery
  /-- FQHEAD_WRITE (R279): The driver advances FQHEAD, making ring room for waiting delivery. -/
  | fqheadWrite (v : Word)
  /-- VRHEAD_WRITE (R422): The driver advances VRHEAD and pending violation records are written in order. -/
  | vrheadWrite (v : Word)
  /-- LERHEAD_WRITE (R451): The driver advances LERHEAD and pending link event records are written. -/
  | lerheadWrite (v : Word)
  /-- MIGRATE (R220): A TCE takes a migration command: sets MIG, copies lines and recopies dirtied lines up to RETRY times. -/
  | migrate (tce slot : Nat) (cmd : BitVec 256)
  /-- MIGRATION_RESULT (R220): A migration redirects its lines, rewrites the PTE, invalidates and signals DONE, ABANDONED or FAULT. -/
  | migrationResult (tce : Nat)
  /-- DCD_ADD_CAPACITY (R217): A Dynamic Capacity Add event is accepted as tier-1 frames or rejected. -/
  | dcdAddCapacity (port base len tag : Nat)
  /-- DCD_RELEASE_ORDERLY (R218): An extent is released after its dirty sectors are written back and the device completes. -/
  | dcdReleaseOrderly (ext : Nat)
  /-- DCD_RELEASE_FORCED (R218): A forced release discards dirty sectors, emits DATA_LOST and revokes the frames. -/
  | dcdReleaseForced (ext : Nat)
  /-- BANK_DRAIN_COMPLETE (R205): A bank's exit action completes, its words read zero, DRAIN clears and the BANKM's flag count falls. -/
  | bankDrainComplete (c k : Nat)
  /-- CINCH_RELEASE (R163): A complete rendezvous passes its checks, waits for flag room and releases every member into the engine queue. -/
  | cinchRelease (c n : Nat)
  /-- MXE_QUEUE_PERFORM (R176): The engine takes the next queued matrix or attention operation and performs it, updating row state indivisibly. -/
  | mxeQueuePerform (c : Nat)
  /-- MATRIX_OP_COMPLETE (R175): The drain writes a member's tile, merges FLAGS, lowers its flag count and releases the scoreboard. -/
  | matrixOpComplete (c n g : Nat)
  /-- ATTENTION_OP_COMPLETE (R199): An attention operation's row state, strip or registers are written for a member and its flag count falls. -/
  | attentionOpComplete (c n g : Nat)
  /-- STREAMER_ACTIVATE (R274): A queued streamer command becomes ACTIVE in queue order, a CPYR claiming its ring slot. -/
  | streamerActivate (c q : Nat)
  /-- STREAMER_CHUNK (R287): After earlier chunks are performed a chunk's translation is checked and it is read and written. -/
  | streamerChunk (c q n : Nat)
  /-- STREAMER_COMPLETE (R288): A command completes: merges FLAGS, sets its DMASK bit, signals its event and lowers its flag count. -/
  | streamerComplete (c q n : Nat)
  /-- QUEUE_FENCE_LEAVE (R299): Fence entries leave their queues together once every command ahead of them has completed. -/
  | queueFenceLeave (c n : Nat)
  /-- STREAM_TAIL_WRITE (R269): The OSD takes a tail write and updates LSEQ and TI, or discards it, or errors on overrun. -/
  | streamTailWrite (slot k : Nat) (v : Quad)
  /-- STREAM_RECONCILE (R271): Every 100 µs the OSD applies each running stream's shadow word as a tail write. -/
  | streamReconcile
  /-- STREAM_CTL_EN (R270): A write of CTL.EN moves a stream from OFF to RUN. -/
  | streamCtlEn (slot k : Nat)
  /-- STREAM_CTL_RST (R270): A write of CTL.RST resets a stream's indices and cause and turns it OFF. -/
  | streamCtlRst (slot k : Nat)
  /-- OPRUN (R305): Decoding of an OPRUN operator allocates a slot and line entries for its tile jobs. -/
  | oprun (slot k : Nat)
  /-- OPCOPY (R308): Decoding of an OPCOPY reads its copy descriptor and allocates a slot and line entries. -/
  | opcopy (slot k : Nat)
  /-- OPWAIT (R305): Decoding holds until every named wait is reached. -/
  | opwait (slot k : Nat)
  /-- OPSIG (R305): Decoding records a signal of INC to SIG once earlier operators of the stream complete. -/
  | opsig (slot k : Nat)
  /-- OPFENCE (R305): Decoding holds until every earlier operator of the stream has completed. -/
  | opfence (slot k : Nat)
  /-- OPJUMP (R305): Decoding skips forward EXT0 entries if WAIT0 is none or reached. -/
  | opjump (slot k : Nat)
  /-- OPEND (R305): Decoding of OPEND turns the stream OFF. -/
  | opend (slot k : Nat)
  /-- OPPIN (R305): Decoding pins or unpins a run of L2 lines and signals when done. -/
  | oppin (slot k : Nat)
  /-- OPAMAX (R305): Decoding queues an advance of a range of amax entries after earlier operators complete. -/
  | opamax (slot k : Nat)
  /-- DECODE_RESUME (R334): A stream held for waits, completions, a free slot or line entries resumes decoding. -/
  | decodeResume (slot k : Nat)
  /-- OPSIG_SIGNAL (R305): Once earlier operators complete, an OPSIG or OPAMAX performs its work and adds INC to SIG. -/
  | opsigSignal (slot k : Nat)
  /-- POINT_FIRE (R331): A point whose window, bits and predecessors allow fires and has its waits evaluated. -/
  | pointFire (n : Nat)
  /-- TOKEN_GRANT (R315): The PTA grants a head request's tokens when the free pool holds them. -/
  | tokenGrant
  /-- JOB_DISPATCH (R316): The OSD dispatches the next ready job to an eligible core's mailbox or to a TCE. -/
  | jobDispatch
  /-- OPCOPY_POINT_COMPLETE (R308): A TCE copy of an OPCOPY point completes and the point retires. -/
  | opcopyPointComplete (n l : Nat)
  /-- EVENT_INC (R371): An INC event message is applied to an owned event entry. -/
  | eventInc (path : Nat)
  /-- EVENT_MIR (R313): A MIR message updates a mirror entry's counter if newer. -/
  | eventMir (path : Nat)
  /-- EVENT_SUB (R371): A SUB message adds or removes a subscriber and sends the current counter. -/
  | eventSub (path : Nat)
  /-- CTXCTL_LAUNCH (R410): A LAUNCH write checks the context and creates its blocks and groups. -/
  | ctxctlLaunch (slot : Nat)
  /-- CTXCTL_PRE (R423): A PRE write sets PREQ, holds streams, withdraws posted jobs and posts YIELD descriptors. -/
  | ctxctlPre (slot : Nat)
  /-- FORCED_SAVE_DECISION (R423): With every live fragment of a job-holding block parked or waiting, the part decides a forced save. -/
  | forcedSaveDecision (c b : Nat)
  /-- PREEMPT_DEADLINE (R424): The deadline expires, PREQ bit 1 is set and job-holding blocks are force-saved. -/
  | preemptDeadline (slot : Nat)
  /-- PREEMPT_HARD_DEADLINE (R425): At twice the deadline remaining groups are saved or frozen with DEADLINE and the context FAILED. -/
  | preemptHardDeadline (slot : Nat)
  /-- GROUP_ROLLBACK (R432): Once a group's operations complete it is rolled back to its region entry. -/
  | groupRollback (g : Nat)
  /-- CONTEXT_SAVE (R426): With every block yielded or saved the part writes the save area and the context becomes SAVED. -/
  | contextSave (slot : Nat)
  /-- CTXCTL_RESUME (R427): A RESUME write checks, relaunches and restores the saved context. -/
  | ctxctlResume (slot : Nat)
  /-- CTXCTL_KILL (R428): A KILL write ends the context at once and frees all it holds. -/
  | ctxctlKill (slot : Nat)
  /-- INVHI_WRITE (R406): A write of INVHI posts an invalidation request or sets the refusal bit. -/
  | invhiWrite (slot : Nat) (v : Quad)
  /-- QREL_WRITE (R406): A write of QREL with GO releases a block's frozen streamer queue. -/
  | qrelWrite (slot : Nat) (v : Word)
  /-- KV_ACCEPT (R381): After BUSY clears the Skiver accepts a KV command, reading the descriptor and making every trapping check. -/
  | kvAccept (die : Nat)
  /-- KV_COMPLETE (R381): A Skiver command's writes are performed and it completes, merging FLAGS and lowering its flag count. -/
  | kvComplete (die : Nat)
  /-- REFLECTOR_FORWARD (R262): The reflector forwards a path's next transmit-window write in key order with its sequence number. -/
  | reflectorForward (path : Nat)
  /-- SLICE_REPORT (R262): An L2 slice reports its pending transmit-window writes to the reflector at least every 64 gt. -/
  | sliceReport (slice : Nat)
  /-- RX_WRITE_APPLY (R263): A receiver applies a path's next write or reduction in sequence order and acknowledges it. -/
  | rxWriteApply (path : Nat)
  /-- PATH_ACK_RECEIVE (R366): A cumulative acknowledgement raises the send record's SEQB. -/
  | pathAckReceive (path : Nat) (n : Word)
  /-- PATH_CLOSED_RECEIVE (R365): A PATH_CLOSED marker closes the receive path after its writes and freezes mirrors. -/
  | pathClosedReceive (path : Nat) (n : Word)
  /-- PATH_DOWN_RECEIVE (R365): A PATH_DOWN marker sends the send path DOWN and revokes its transmit entries. -/
  | pathDownReceive (path : Nat) (n : Word)
  /-- PATH_ACK_TIMEOUT (R365): No acknowledgement arrives for PTMO and the send path goes DOWN. -/
  | pathAckTimeout (path : Nat)
  /-- PEER_UNREACHABLE (R365): The peer becomes unreachable on every link and the send path goes DOWN. -/
  | peerUnreachable (chip : Nat)
  /-- PORT_ENABLE (R446): Firmware enables an optical port, which starts training. -/
  | portEnable (port : Nat)
  /-- PORT_DISABLE (R446): Firmware disables a DOWN port, returning it to OFF. -/
  | portDisable (port : Nat)
  /-- LINK_TRAINED (R445): A link completes training and revision negotiation and comes UP or stays DOWN. -/
  | linkTrained (port lanes : Nat) (cap : Word)
  /-- FLIT_SEND (R450): A port starts a flit from a destination queue within its slot, guard and budget. -/
  | flitSend (port : Nat)
  /-- FLIT_RECEIVE (R441): A flit arrives, is checked by CRC and tag, acknowledged and passed on or discarded. -/
  | flitReceive (port : Nat) (flit : List Byte)
  /-- FLIT_REPLAY_TIMEOUT (R446): A missing acknowledgement for 2 µs resends every unacknowledged flit. -/
  | flitReplayTimeout (port : Nat)
  /-- LOSS_OF_LIGHT (R446): Loss of light on a laser module's wavelengths stops sending and enters RESTRIPE. -/
  | lossOfLight (port laser : Nat) (rx : Bool)
  /-- RESTRIPE_DONE (R446): The live-mask exchange ends and sending resumes on fewer wavelengths, or the port goes DOWN. -/
  | restripeDone (port fseq : Nat)
  /-- UALINK_WRITE_RECEIVE (R439): A UALink write carrying a flit image or acknowledgement arrives on a local link. -/
  | ualinkWriteReceive (link : Nat) (flit : List Byte)
  /-- UALINK_OTHER_REQUEST (R439): Any other UALink request is answered with a completion error. -/
  | ualinkOtherRequest (link tag : Nat)
  /-- SLOT_START (R447): A slot begins and, at a rotation start, a pending SWAP exchanges the slot banks. -/
  | slotStart
  /-- SLOT_END (R450): A slot ends and unacknowledged flits return to the head of their queues. -/
  | slotEnd
  /-- SLOTCTL_SWAP (R448): A write of SLOTCTL.SWAP schedules the shadow table for the next rotation. -/
  | slotctlSwap
  /-- SLOTCTL_EN (R448): A write of SLOTCTL.EN starts or stops optical data, returning unacknowledged flits on clearing. -/
  | slotctlEn (en : Bool)
  /-- PROBE_TIMEOUT (R282): A unit blocked on a full queue for 4,096 ck sends a probe token. -/
  | probeTimeout (u : Nat)
  /-- PROBE_TOKEN (R282): A probe token is passed on, dropped, or on return makes one emergency admission. -/
  | probeToken (u : Nat)
  /-- FIRMWARE_MESSAGE (R281): A command-link message is delivered in SEQ order. -/
  | firmwareMessage (link : Nat) (msg : List Byte)
  /-- PERMIT_RETURN (R281): A receiver returns a permit when it frees a message buffer. -/
  | permitReturn (link : Nat)
  /-- LFC_WATCHDOG (R459): An LFC watchdog expires and the LFC is frozen. -/
  | lfcWatchdog (k : Nat)
  /-- LFC_RESET (R281): The GSC resets an LFC, releasing it and restoring all permits. -/
  | lfcReset (k : Nat)
  /-- POWER_ON (R460): Power-on starts stage 0, which scrubs if pending, loads bad frames and verifies the image. -/
  | powerOn (manifest recovery : List Byte)
  /-- LRST_N (R462): A low level on LRST_N for 1 µs requests a lease reset. -/
  | lrstN
  /-- LEASE_RESET (R462): A signed SPDM LEASE_RESET vendor request requests a lease reset. -/
  | leaseReset (req : List Byte)
  /-- SCRUB_COMPLETE (R462): Scrub and read-back end; the record is signed and published and the recovery image boots. -/
  | scrubComplete (mismatch : List Nat) (recovery : List Byte)
  /-- NONCE (R467): A NONCE vendor request sets the 32-byte nonce. -/
  | nonce (v : BitVec 256)
  /-- TENANT_KEY (R461): A signed TENANT_KEY vendor request registers the tenant key. -/
  | tenantKey (req : List Byte)
  /-- GET_VERSION (R467): SPDM GET_VERSION reports versions 1.2 and 1.3. -/
  | getVersion
  /-- GET_CAPABILITIES (R467): SPDM GET_CAPABILITIES reports the supported capabilities. -/
  | getCapabilities
  /-- NEGOTIATE_ALGORITHMS (R467): SPDM NEGOTIATE_ALGORITHMS selects the supported algorithms or errors. -/
  | negotiateAlgorithms (offer : Word)
  /-- GET_DIGESTS (R467): SPDM GET_DIGESTS returns certificate digests. -/
  | getDigests
  /-- GET_CERTIFICATE (R467): SPDM GET_CERTIFICATE returns the slot 0 certificate chain. -/
  | getCertificate (certSlot off len : Nat)
  /-- CHALLENGE (R467): SPDM CHALLENGE returns a signed challenge response. -/
  | challenge (certSlot : Nat) (v : BitVec 256)
  /-- GET_MEASUREMENTS (R467): SPDM GET_MEASUREMENTS returns signed measurements, including the scrub record. -/
  | getMeasurements (idx : Nat) (v : BitVec 256)
  /-- KEY_EXCHANGE (R467): SPDM KEY_EXCHANGE starts a secure session. -/
  | keyExchange (req : List Byte)
  /-- FINISH (R467): SPDM FINISH completes session establishment. -/
  | finish (req : List Byte)
  /-- HEARTBEAT (R467): SPDM HEARTBEAT keeps a session alive. -/
  | heartbeat
  /-- END_SESSION (R467): SPDM END_SESSION ends a secure session. -/
  | endSession
  /-- CHUNK_SEND (R467): SPDM CHUNK_SEND carries one chunk of a large request. -/
  | chunkSend (seq : Nat) (last : Bool) (chunk : List Byte)
  /-- CHUNK_GET (R467): SPDM CHUNK_GET returns one chunk of a large response. -/
  | chunkGet (seq : Nat)
  /-- UNSUPPORTED_REQUEST (R467): A management request outside the supported set receives the standard's error. -/
  | unsupportedRequest (code : Nat)
  /-- ENTDAA (R467): I3C ENTDAA assigns the part a dynamic address. -/
  | entdaa (addr : BitVec 7)
  /-- SETDASA (R467): I3C SETDASA assigns a dynamic address from static address 0x5C. -/
  | setdasa (stat addr : BitVec 7)
  /-- SET_ENDPOINT_ID (R467): MCTP Set Endpoint ID assigns the part's EID. -/
  | setEndpointId (eid : Byte)
  /-- BFAPP_APPEND (R458): A BFAPP append adds a pending bad-frame entry and excludes the frame. -/
  | bfappAppend (v : Quad)
  /-- BFAPP_COMMIT (R458): A BFAPP commit clears PEND in every entry. -/
  | bfappCommit (v : Quad)
  /-- BFAPP_DISCARD (R458): A BFAPP discard drops every pending entry and its exclusion. -/
  | bfappDiscard (v : Quad)
  /-- BFAPP_NOP (R458): A BFAPP write with OP 3 does nothing. -/
  | bfappNop (v : Quad)
  /-- BFAPP_FLASH_DONE (R458): The flash write of a bad-frame command ends and BUSY clears. -/
  | bfappFlashDone
  /-- PTA_POOL_WRITE (R400): A write of POOL sets the token pool, leaving grants made standing. -/
  | ptaPoolWrite (v : Quad)
  /-- ECC_CORRECTED (R464): A corrected error is counted on its frame and past CETHR the frame is appended. -/
  | eccCorrected (frame : Nat)
  /-- UNCORRECTABLE (R465): An uncorrectable error freezes the consuming master and queues the frame. -/
  | uncorrectable (kind unit frame tier : Nat)
  /-- TJHOT_EXCEEDED (R468): A compute die passes TJHOT, the PTA stops granting and vector 5 is signalled. -/
  | tjhotExceeded (die temp : Nat)
  /-- THERMAL_TRIP (R468): A die reaches 110 °C and every processor is held in reset. -/
  | thermalTrip (die temp : Nat)
  /-- PMC_WRAP (R405): A performance counter wraps, sets OVF and optionally interrupts. -/
  | pmcWrap (k : Nat)
  /-- HOST_MEMORY_WRITE (R259): A host write into device memory is performed at its home with a completion time. An address
from 2^52 on is an offset in BAR4 (R453). -/
  | hostMemoryWrite (pa : Nat) (bs : List Byte)
  /-- HOST_MEMORY_READ (R452): A host read of device memory is served at its home. An address from 2^52 on is an offset in
BAR4 (R453). -/
  | hostMemoryRead (pa n : Nat)
  /-- REGISTER_WRITE (R474): A write of a control register with no row of its own sets its fields, leaving out-of-range ones unchanged. -/
  | registerWrite (bar off size : Nat) (v : Quad) (master : Nat)
  /-- LOSS_OF_POWER (R462): The part loses power in any state, discarding all volatile state while SCRUBPEND, fuses, the bad-frame list and SVN floors survive in flash. -/
  | lossOfPower
  /-- STOP_DESCRIPTOR_POST (R428): Firmware, through the driver, posts a STOP descriptor for a block of a context into its core's mailbox so that the block's groups execute EXIT. -/
  | stopDescriptorPost (slot c b : Nat)
deriving DecidableEq, Repr, Inhabited

end Sys2Proof
end

