-- ==== Sys2Proof/Machine/Form.lean ====
section
/-! DEFINITION. The encoding tables of Korzu as data: what each instruction puts into the fields D, A
and B of its word (R24, R25), which operand values each role admits (R26, R28, R29, R99 and the operand
tables of the chapters), and which literal words follow. Decoding, encoding and well-formedness all read
this one table. -/

namespace Sys2Proof.Machine

/-- The byte of an operand field value (R26). -/
def Opnd.code : Opnd → Nat
  | .v n => n
  | .s n => 0xC0 + n
  | .zero => 0xF0
  | .one => 0xF1
  | .fone => 0xF2
  | .tid => 0xF3
  | .grp => 0xF4
  | .ls => 0xF5
  | .tm => 0xF6
  | .mone => 0xF7
  | .rsv n => 0xF8 + n
  | .nul => 0xFE
  | .lit _ => 0xFF

/-- The operand of a field value; `w` is the literal word that 0xFF takes (R26, R28). -/
def Opnd.ofCode (c : Nat) (w : Word) : Opnd :=
  if c < 0xC0 then .v c
  else if c < 0xF0 then .s (c - 0xC0)
  else match c with
    | 0xF0 => .zero
    | 0xF1 => .one
    | 0xF2 => .fone
    | 0xF3 => .tid
    | 0xF4 => .grp
    | 0xF5 => .ls
    | 0xF6 => .tm
    | 0xF7 => .mone
    | 0xFE => .nul
    | 0xFF => .lit w
    | c => .rsv (c - 0xF8)

/-- An operand value names a register that exists, or one of the six reserved codes (R26, R51). -/
def Opnd.inRange : Opnd → Bool
  | .v n => decide (n < 192)
  | .s n => decide (n < 48)
  | .rsv n => decide (n < 6)
  | _ => true

/-- The roles of an operand field (R25), finer than the three of the manual: each names the set of
values that the operand tables of the chapters admit in that field. -/
inductive Role where
  /-- Destination: v, s or nul. -/
  | dany
  /-- Destination that is also read: v or s. -/
  | drd
  /-- Destination: v or nul. -/
  | dv
  /-- Destination: s or nul. -/
  | ds
  /-- Destination: s. -/
  | dsr
  /-- Destination: an s pair or nul. -/
  | dsp
  /-- Destination: a pair or nul. -/
  | d2
  /-- Destination: a quad or nul. -/
  | d4
  /-- Destination: a quad. -/
  | d4r
  /-- Destination of ATCAS: a pair or nul. -/
  | datc
  /-- Destination: sixteen registers (R154). -/
  | d16r
  /-- The block run of R154: 5 or 3 registers from a multiple of 4, or 2 from an even one. -/
  | rqf (k : Nat)
  /-- Source: sixteen registers (R154). -/
  | r16
  /-- An accumulator fragment (R165). -/
  | frag
  /-- The λ destination of AFIN: v or nul. -/
  | dvl
  /-- Destination: a v pair (R196). -/
  | dvp
  /-- An s block that starts at a multiple of 8. -/
  | blk8
  /-- An s block that starts at a multiple of 4. -/
  | blk4
  /-- An s pair. -/
  | sp2
  /-- A single s register. -/
  | sreg
  /-- The base field of a memory instruction: an s pair or ls (R222). -/
  | base
  /-- Any source (R26). -/
  | any
  /-- The join field of BRX: any byte but the values no source admits (R99, R103). -/
  | any8
  /-- A src field of R99. -/
  | src
  /-- The target pair of BRX: an s pair or a v pair (R103). -/
  | brx
  /-- An s register or a literal. -/
  | sl
  /-- An s register, a literal or one. -/
  | sl1
  /-- An s register, a literal, zero or one. -/
  | slz1
  /-- An s register, a literal or mone. -/
  | slm
  /-- An s register, a literal, zero or mone. -/
  | slzm
  /-- A table quad, v or s (R135). -/
  | q4
  /-- A store's data: one register or any source. -/
  | st1
  /-- A store's data: a pair, or zero (R230). -/
  | st2
  /-- A store's data: a quad, or zero (R230). -/
  | st4
  /-- The value source of AMAXR: v, s, a literal, or nul for the advance form (R157). -/
  | amx
  /-- The strip number of ASCORE: s, a literal or nul (R191). -/
  | strip
  /-- RTE's operand: zero or an s pair (R430). -/
  | zsp
  /-- ARST's operands: zero or a v register (R195). -/
  | zv
deriving DecidableEq, Repr, Inhabited

/-- How many registers an operand of a role spans (R29), for the allotment check of R26. -/
def Role.span : Role → Nat
  | .dsp | .d2 | .datc | .dvp | .sp2 | .st2 | .brx | .base | .zsp => 2
  | .d4 | .d4r | .q4 | .st4 | .blk4 => 4
  | .d16r | .r16 => 16
  | .frag => 64
  | .blk8 => 8
  | .rqf k => k
  | _ => 1

/-- A span of `k` registers starting at a multiple of `al`, inside one register range (R29). -/
def spanOk (k al : Nat) : Opnd → Bool
  | .v n => n % al == 0 && decide (n + k ≤ 192)
  | .s n => n % al == 0 && decide (n + k ≤ 48)
  | _ => false

def isV : Opnd → Bool
  | .v _ => true
  | _ => false

def isS : Opnd → Bool
  | .s _ => true
  | _ => false

def isLit : Opnd → Bool
  | .lit _ => true
  | _ => false

/-- A value that any source may hold (R26): ls, the reserved codes and nul are refused. -/
def srcOk : Opnd → Bool
  | .ls | .rsv _ | .nul => false
  | _ => true

/-- Does a role admit an operand value? (The allotment of R26 and the index range are checked apart.) A destination that must be
a v register may be nul, which discards (R26), in PSUM and PSUMX too (log entry 128, DEDUCED). -/
def Role.ok : Role → Opnd → Bool
  | .dany, o => isV o || isS o || o == .nul
  | .drd, o => isV o || isS o
  | .dv, o => isV o || o == .nul
  | .ds, o => isS o || o == .nul
  | .dsr, o => isS o
  | .dsp, o => (isS o && spanOk 2 2 o) || o == .nul
  | .d2, o => spanOk 2 2 o || o == .nul
  | .d4, o => spanOk 4 4 o || o == .nul
  | .d4r, o => spanOk 4 4 o
  | .datc, o => spanOk 2 2 o || o == .nul
  | .d16r, o => spanOk 16 16 o
  | .rqf k, o => spanOk k (if k = 2 then 2 else 4) o
  | .r16, o => spanOk 16 16 o
  | .frag, o => isV o && spanOk 64 16 o
  | .dvl, o => isV o || o == .nul
  | .dvp, o => isV o && spanOk 2 2 o
  | .blk8, o => isS o && spanOk 8 8 o
  | .blk4, o => isS o && spanOk 4 4 o
  | .sp2, o => isS o && spanOk 2 2 o
  | .sreg, o => isS o
  | .base, o => (isS o && spanOk 2 2 o) || o == .ls
  | .any, o => srcOk o
  | .any8, o => srcOk o
  | .src, o => srcOk o && !isV o && o != .tid
  | .brx, o => spanOk 2 2 o
  | .sl, o => isS o || isLit o
  | .sl1, o => isS o || isLit o || o == .one
  | .slz1, o => isS o || isLit o || o == .zero || o == .one
  | .slm, o => isS o || isLit o || o == .mone
  | .slzm, o => isS o || isLit o || o == .zero || o == .mone
  | .q4, o => spanOk 4 4 o
  | .st1, o => srcOk o
  | .st2, o => spanOk 2 2 o || o == .zero
  | .st4, o => spanOk 4 4 o || o == .zero
  | .amx, o => isV o || isS o || isLit o || o == .nul
  | .strip, o => isS o || isLit o || o == .nul
  | .zsp, o => (isS o && spanOk 2 2 o) || o == .zero
  | .zv, o => isV o || o == .zero

/-- One field of an instruction word (R25): an operand in a role, a selector, or unused (zero). -/
inductive Slot where
  | op (r : Role) (o : Opnd)
  | sel (n : Nat)
  | no
deriving DecidableEq, Repr, Inhabited

/-- The byte of a field. -/
def Slot.byte : Slot → Nat
  | .op _ o => Opnd.code o
  | .sel n => n
  | .no => 0

/-- The literal a field takes (R28). -/
def Slot.lits : Slot → List Word
  | .op _ (.lit w) => [w]
  | _ => []

/-- Is the field legal as far as the word alone says? -/
def Slot.ok : Slot → Bool
  | .op r o => Opnd.inRange o && Role.ok r o
  | .sel n => decide (n < 256)
  | .no => true

/-- The v registers of a field lie in the role's allotment (R26, R29). -/
def Slot.allotted (nvreg : Nat) : Slot → Bool
  | .op r (.v n) => decide (n + Role.span r ≤ nvreg)
  | _ => true

/-- The word of one instruction, as the encoding tables give it: opcode, the three fields, the literal
words of a no-return atomic that stand before B's own (R232), and the checks across fields. -/
structure Form where
  op : Nat
  d : Slot
  a : Slot
  b : Slot
  extra : List Word
  ok : Bool
deriving DecidableEq, Repr, Inhabited

/-- A no-return atomic (D = nul) takes its operands from literal words; a returning one has none (R232). -/
def noRet (d : Opnd) (ws : List Word) : List Word := if d = .nul then ws else []

/-- BRX: an s pair with B unused, or a v pair with a src other than zero (R99, R103). -/
def brxOk (a b : Opnd) : Bool :=
  match a with
  | .s _ => b == .v 0
  | _ => Role.ok .src b && b != .zero

/-- A returning atomic has no literal operand words: its unused arguments are zero (R232). -/
def retOk (d : Opnd) (ws : List Word) : Bool := d == .nul || ws.all (· == 0#32)

/-- The length of the block run of QFPK and QFUPK under a format selector: QF9, QF6, QF4 (R154). -/
def qfLen (f : BitVec 3) : Nat :=
  match f.toNat with
  | 4 => 5
  | 5 => 3
  | 6 => 2
  | _ => 0

/-- ARST: both operands zero, or both v registers (R195). -/
def arstOk (a b : Opnd) : Bool := isV a == isV b

/-- The encoding of every instruction; the steps of the part that are no instruction have no word. -/
def form : Instr → Option Form
  | .nop => some ⟨0x00, .no, .no, .no, [], true⟩
  | .bra a => some ⟨0x01, .no, .op .src a, .no, [], true⟩
  | .brc n p a b => some ⟨0x02, (.sel (8 * n.toNat + p.toNat)), .op .src a, .op .src b, [], true⟩
  | .brx a b => some ⟨0x03, .no, .op .brx a, .op .any8 b, [], brxOk a b⟩
  | .call a => some ⟨0x04, .no, .op .src a, .no, [], true⟩
  | .ret => some ⟨0x05, .no, .no, .no, [], true⟩
  | .sync => some ⟨0x06, .no, .no, .no, [], true⟩
  | .exit => some ⟨0x07, .no, .no, .no, [], true⟩
  | .yield => some ⟨0x08, .no, .no, .no, [], true⟩
  | .sleep a => some ⟨0x09, .no, .op .src a, .no, [], true⟩
  | .trap a => some ⟨0x0A, .no, .op .src a, .no, [], true⟩
  | .setm m a => some ⟨0x0B, (.sel (m.toNat)), .op .src a, .no, [], m != 0⟩
  | .getm d => some ⟨0x0C, .op .dany d, .no, .no, [], true⟩
  | .mfs d i => some ⟨0x0D, .op .dany d, (.sel (i.toNat)), .no, [], decide (i.toNat < 0x1A)⟩
  | .mts i b => some ⟨0x0E, .no, (.sel (i.toNat)), .op .src b, [], decide (i.toNat < 0x1A)⟩
  | .bar k b => some ⟨0x0F, .no, (.sel (k.toNat)), .op .src b, [], true⟩
  | .arrive d k b => some ⟨0x10, .op .ds d, (.sel (k.toNat)), .op .src b, [], true⟩
  | .await d k b => some ⟨0x11, .op .ds d, (.sel (k.toNat)), .op .src b, [], true⟩
  | .vote d k n p => some ⟨0x12, .op .dany d, (.sel (16 * k.toNat + 8 * n.toNat + p.toNat)), .no, [], true⟩
  | .ipf l a b => some ⟨0x13, (.sel (l.toNat)), .op .sp2 a, .op .src b, [], true⟩
  | .pin l a b => some ⟨0x14, (.sel (l.toNat)), .op .sp2 a, .op .src b, [], true⟩
  | .unpin l a b => some ⟨0x15, (.sel (l.toNat)), .op .sp2 a, .op .src b, [], true⟩
  | .add d a b => some ⟨0x20, .op .dany d, .op .any a, .op .any b, [], true⟩
  | .sub d a b => some ⟨0x21, .op .dany d, .op .any a, .op .any b, [], true⟩
  | .addc d a b => some ⟨0x22, .op .dany d, .op .any a, .op .any b, [], true⟩
  | .subb d a b => some ⟨0x23, .op .dany d, .op .any a, .op .any b, [], true⟩
  | .mul d a b => some ⟨0x24, .op .dany d, .op .any a, .op .any b, [], true⟩
  | .mulh d a b => some ⟨0x25, .op .dany d, .op .any a, .op .any b, [], true⟩
  | .mulhn d a b => some ⟨0x26, .op .dany d, .op .any a, .op .any b, [], true⟩
  | .mad d a b => some ⟨0x27, .op .drd d, .op .any a, .op .any b, [], true⟩
  | .div d a b => some ⟨0x28, .op .dany d, .op .any a, .op .any b, [], true⟩
  | .divn d a b => some ⟨0x29, .op .dany d, .op .any a, .op .any b, [], true⟩
  | .rem d a b => some ⟨0x2A, .op .dany d, .op .any a, .op .any b, [], true⟩
  | .remn d a b => some ⟨0x2B, .op .dany d, .op .any a, .op .any b, [], true⟩
  | .and d a b => some ⟨0x2C, .op .dany d, .op .any a, .op .any b, [], true⟩
  | .or d a b => some ⟨0x2D, .op .dany d, .op .any a, .op .any b, [], true⟩
  | .xor d a b => some ⟨0x2E, .op .dany d, .op .any a, .op .any b, [], true⟩
  | .andn d a b => some ⟨0x2F, .op .dany d, .op .any a, .op .any b, [], true⟩
  | .shl d a b => some ⟨0x30, .op .dany d, .op .any a, .op .any b, [], true⟩
  | .shr d a b => some ⟨0x31, .op .dany d, .op .any a, .op .any b, [], true⟩
  | .sar d a b => some ⟨0x32, .op .dany d, .op .any a, .op .any b, [], true⟩
  | .rot d a b => some ⟨0x33, .op .dany d, .op .any a, .op .any b, [], true⟩
  | .min d a b => some ⟨0x34, .op .dany d, .op .any a, .op .any b, [], true⟩
  | .max d a b => some ⟨0x35, .op .dany d, .op .any a, .op .any b, [], true⟩
  | .minn d a b => some ⟨0x36, .op .dany d, .op .any a, .op .any b, [], true⟩
  | .maxn d a b => some ⟨0x37, .op .dany d, .op .any a, .op .any b, [], true⟩
  | .abs d a => some ⟨0x38, .op .dany d, .op .any a, .no, [], true⟩
  | .clz d a => some ⟨0x39, .op .dany d, .op .any a, .no, [], true⟩
  | .popc d a => some ⟨0x3A, .op .dany d, .op .any a, .no, [], true⟩
  | .brev d a => some ⟨0x3B, .op .dany d, .op .any a, .no, [], true⟩
  | .bfe d a b => some ⟨0x3C, .op .dany d, .op .any a, .op .any b, [], true⟩
  | .bfi d a b => some ⟨0x3D, .op .drd d, .op .any a, .op .any b, [], true⟩
  | .sel d a b => some ⟨0x3E, .op .dany d, .op .any a, .op .any b, [], true⟩
  | .mov d a => some ⟨0x3F, .op .dany d, .op .any a, .no, [], true⟩
  | .cmp c p a b => some ⟨0x40, (.sel (32 * c.toNat + p.toNat)), .op .any a, .op .any b, [], decide (c.toNat < 6)⟩
  | .cmpn c p a b => some ⟨0x41, (.sel (32 * c.toNat + p.toNat)), .op .any a, .op .any b, [], decide (c.toNat < 6)⟩
  | .fcmp c p a b => some ⟨0x42, (.sel (32 * c.toNat + p.toNat)), .op .any a, .op .any b, [], true⟩
  | .pand p n q m r => some ⟨0x43, (.sel (p.toNat)), (.sel (8 * n.toNat + q.toNat)), (.sel (8 * m.toNat + r.toNat)), [], true⟩
  | .por p n q m r => some ⟨0x44, (.sel (p.toNat)), (.sel (8 * n.toNat + q.toNat)), (.sel (8 * m.toNat + r.toNat)), [], true⟩
  | .pxor p n q m r => some ⟨0x45, (.sel (p.toNat)), (.sel (8 * n.toNat + q.toNat)), (.sel (8 * m.toNat + r.toNat)), [], true⟩
  | .pset p a => some ⟨0x46, (.sel (p.toNat)), .op .any a, .no, [], true⟩
  | .pget d p => some ⟨0x47, .op .dany d, (.sel (p.toNat)), .no, [], true⟩
  | .shfl d a b => some ⟨0x48, .op .dany d, .op .any a, .op .any b, [], true⟩
  | .shup d a b => some ⟨0x49, .op .dv d, .op .any a, .op .slz1 b, [], true⟩
  | .shdn d a b => some ⟨0x4A, .op .dv d, .op .any a, .op .slz1 b, [], true⟩
  | .qswz d a b => some ⟨0x4B, .op .dv d, .op .any a, .op .sl b, [], true⟩
  | .qxh d a => some ⟨0x4C, .op .dv d, .op .any a, .no, [], true⟩
  | .qxv d a => some ⟨0x4D, .op .dv d, .op .any a, .no, [], true⟩
  | .qxd d a => some ⟨0x4E, .op .dv d, .op .any a, .no, [], true⟩
  | .nibl d a b => some ⟨0x4F, .op .dany d, .op .any a, .op .q4 b, [], true⟩
  | .nibh d a b => some ⟨0x50, .op .dany d, .op .any a, .op .q4 b, [], true⟩
  | .prmt d a b => some ⟨0x51, .op .drd d, .op .any a, .op .any b, [], true⟩
  | .radd d a => some ⟨0x52, .op .dany d, .op .any a, .no, [], true⟩
  | .rmax d a => some ⟨0x53, .op .dany d, .op .any a, .no, [], true⟩
  | .rmin d a => some ⟨0x54, .op .dany d, .op .any a, .no, [], true⟩
  | .fradd d a => some ⟨0x55, .op .dany d, .op .any a, .no, [], true⟩
  | .frmax d a => some ⟨0x56, .op .dany d, .op .any a, .no, [], true⟩
  | .psum d a => some ⟨0x57, .op .dv d, .op .any a, .no, [], true⟩
  | .psumx d a => some ⟨0x58, .op .dv d, .op .any a, .no, [], true⟩
  | .fadd d a b => some ⟨0x60, .op .dany d, .op .any a, .op .any b, [], true⟩
  | .fsub d a b => some ⟨0x61, .op .dany d, .op .any a, .op .any b, [], true⟩
  | .fmul d a b => some ⟨0x62, .op .dany d, .op .any a, .op .any b, [], true⟩
  | .fma d a b => some ⟨0x63, .op .drd d, .op .any a, .op .any b, [], true⟩
  | .fms d a b => some ⟨0x64, .op .drd d, .op .any a, .op .any b, [], true⟩
  | .fmin d a b => some ⟨0x65, .op .dany d, .op .any a, .op .any b, [], true⟩
  | .fmax d a b => some ⟨0x66, .op .dany d, .op .any a, .op .any b, [], true⟩
  | .fabs d a => some ⟨0x67, .op .dany d, .op .any a, .no, [], true⟩
  | .fneg d a => some ⟨0x68, .op .dany d, .op .any a, .no, [], true⟩
  | .frcp d a => some ⟨0x69, .op .dany d, .op .any a, .no, [], true⟩
  | .frsq d a => some ⟨0x6A, .op .dany d, .op .any a, .no, [], true⟩
  | .fsqrt d a => some ⟨0x6B, .op .dany d, .op .any a, .no, [], true⟩
  | .fexp2 d a => some ⟨0x6C, .op .dany d, .op .any a, .no, [], true⟩
  | .flog2 d a => some ⟨0x6D, .op .dany d, .op .any a, .no, [], true⟩
  | .fsin d a => some ⟨0x6E, .op .dany d, .op .any a, .no, [], true⟩
  | .fcos d a => some ⟨0x6F, .op .dany d, .op .any a, .no, [], true⟩
  | .ftanh d a => some ⟨0x70, .op .dany d, .op .any a, .no, [], true⟩
  | .fscal d a b => some ⟨0x71, .op .dany d, .op .any a, .op .any b, [], true⟩
  | .frnd d a => some ⟨0x72, .op .dany d, .op .any a, .no, [], true⟩
  | .fdot2 d a b => some ⟨0x73, .op .drd d, .op .any a, .op .any b, [], true⟩
  | .scaleq d a f => some ⟨0x74, .op .dany d, .op .any a, (.sel (f.toNat)), [], (f == 2 || f == 3 || f == 7)⟩
  | .f2i d a => some ⟨0x75, .op .dany d, .op .any a, .no, [], true⟩
  | .f2n d a => some ⟨0x76, .op .dany d, .op .any a, .no, [], true⟩
  | .i2f d a => some ⟨0x77, .op .dany d, .op .any a, .no, [], true⟩
  | .n2f d a => some ⟨0x78, .op .dany d, .op .any a, .no, [], true⟩
  | .f2h d a b => some ⟨0x79, .op .dany d, .op .any a, .op .any b, [], true⟩
  | .h2f d a e => some ⟨0x7A, .op .dany d, .op .any a, (.sel (e.toNat)), [], true⟩
  | .pk8 d a b => some ⟨0x7B, .op .drd d, .op .q4 a, .op .any b, [], true⟩
  | .upk8 d a b => some ⟨0x7C, .op .d4r d, .op .any a, .op .any b, [], true⟩
  | .qfpk d a f => some ⟨0x7D, .op (.rqf (qfLen f)) d, .op .r16 a, (.sel (f.toNat)), [], decide (qfLen f ≠ 0)⟩
  | .qfupk d a f => some ⟨0x7E, .op .d16r d, .op (.rqf (qfLen f)) a, (.sel (f.toNat)), [], decide (qfLen f ≠ 0)⟩
  | .amaxr d a => some ⟨0x7F, .op .amx d, .op .any a, .no, [], true⟩
  | .ldb d a b => some ⟨0x80, .op .dany d, .op .base a, .op .any b, [], true⟩
  | .ldbs d a b => some ⟨0x81, .op .dany d, .op .base a, .op .any b, [], true⟩
  | .ldh d a b => some ⟨0x82, .op .dany d, .op .base a, .op .any b, [], true⟩
  | .ldhs d a b => some ⟨0x83, .op .dany d, .op .base a, .op .any b, [], true⟩
  | .ldw d a b => some ⟨0x84, .op .dany d, .op .base a, .op .any b, [], true⟩
  | .ldd d a b => some ⟨0x85, .op .d2 d, .op .base a, .op .any b, [], true⟩
  | .ldq d a b => some ⟨0x86, .op .d4 d, .op .base a, .op .any b, [], true⟩
  | .stb x a b => some ⟨0x87, .op .st1 x, .op .base a, .op .any b, [], true⟩
  | .sth x a b => some ⟨0x88, .op .st1 x, .op .base a, .op .any b, [], true⟩
  | .stw x a b => some ⟨0x89, .op .st1 x, .op .base a, .op .any b, [], true⟩
  | .std x a b => some ⟨0x8A, .op .st2 x, .op .base a, .op .any b, [], true⟩
  | .stq x a b => some ⟨0x8B, .op .st4 x, .op .base a, .op .any b, [], true⟩
  | .prf l a b => some ⟨0x8C, (.sel (l.toNat)), .op .base a, .op .any b, [], true⟩
  | .pgreq d a b => some ⟨0x8D, .op .dany d, .op .base a, .op .any b, [], true⟩
  | .atadd d a b u => some ⟨0x8E, .op .dany d, .op .base a, .op .any b, (noRet d [u]), retOk d [u]⟩
  | .atmin d a b u => some ⟨0x8F, .op .dany d, .op .base a, .op .any b, (noRet d [u]), retOk d [u]⟩
  | .atmax d a b u => some ⟨0x90, .op .dany d, .op .base a, .op .any b, (noRet d [u]), retOk d [u]⟩
  | .atminn d a b u => some ⟨0x91, .op .dany d, .op .base a, .op .any b, (noRet d [u]), retOk d [u]⟩
  | .atmaxn d a b u => some ⟨0x92, .op .dany d, .op .base a, .op .any b, (noRet d [u]), retOk d [u]⟩
  | .atand d a b u => some ⟨0x93, .op .dany d, .op .base a, .op .any b, (noRet d [u]), retOk d [u]⟩
  | .ator d a b u => some ⟨0x94, .op .dany d, .op .base a, .op .any b, (noRet d [u]), retOk d [u]⟩
  | .atxor d a b u => some ⟨0x95, .op .dany d, .op .base a, .op .any b, (noRet d [u]), retOk d [u]⟩
  | .atxch d a b u => some ⟨0x96, .op .dany d, .op .base a, .op .any b, (noRet d [u]), retOk d [u]⟩
  | .atcas d a b u w => some ⟨0x97, .op .datc d, .op .base a, .op .any b, (noRet d [u, w]), retOk d [u, w]⟩
  | .atfadd d a b u => some ⟨0x98, .op .dany d, .op .base a, .op .any b, (noRet d [u]), retOk d [u]⟩
  | .atfmax d a b u => some ⟨0x99, .op .dany d, .op .base a, .op .any b, (noRet d [u]), retOk d [u]⟩
  | .frel s => some ⟨0x9A, (.sel (s.toNat)), .no, .no, [], true⟩
  | .facq => some ⟨0x9B, .no, .no, .no, [], true⟩
  | .fseq s => some ⟨0x9C, (.sel (s.toNat)), .no, .no, [], true⟩
  | .frc d => some ⟨0x9D, .op .ds d, .no, .no, [], true⟩
  | .wtime a => some ⟨0x9E, .no, .op .sp2 a, .no, [], true⟩
  | .flush i => some ⟨0x9F, (.sel (i.toNat)), .no, .no, [], true⟩
  | .mds j a => some ⟨0xA0, (.sel (j.toNat)), .op .blk8 a, .no, [], true⟩
  | .gang a => some ⟨0xA1, .no, .op .sl a, .no, [], true⟩
  | .mma f a j => some ⟨0xA2, .op .frag f, .op .any a, (.sel (j.toNat)), [], true⟩
  | .mmas f a j => some ⟨0xA3, .op .frag f, .op .any a, (.sel (j.toNat)), [], true⟩
  | .mzro f => some ⟨0xA4, .op .frag f, .no, .no, [], true⟩
  | .ascore d a r j => some ⟨0xA5, .op .strip d, .op .any a, (.sel (4 * r.toNat + j.toNat)), [], true⟩
  | .avacc f r j => some ⟨0xA6, .op .frag f, .no, (.sel (4 * r.toNat + j.toNat)), [], true⟩
  | .afin f a l r => some ⟨0xA7, .op .frag f, .op .dvl a, (.sel (16 * l.toNat + 4 * r.toNat)), [], true⟩
  | .arst r a b => some ⟨0xA8, (.sel (4 * r.toNat)), .op .zv a, .op .zv b, [], arstOk a b⟩
  | .arow d r => some ⟨0xA9, .op .dvp d, (.sel (4 * r.toNat)), .no, [], true⟩
  | .cpy t s q a b => some ⟨0xB0, (.sel (8 * t.toNat + 4 * s.toNat + q.toNat)), .op .blk8 a, .op .src b, [], true⟩
  | .cpy2 t s q a b => some ⟨0xB1, (.sel (8 * t.toNat + 4 * s.toNat + q.toNat)), .op .blk8 a, .op .src b, [], true⟩
  | .cpyg t s q a b => some ⟨0xB2, (.sel (8 * t.toNat + 4 * s.toNat + q.toNat)), .op .blk8 a, .op .sl b, [], true⟩
  | .cpyc t s q a b => some ⟨0xB3, (.sel (8 * t.toNat + 4 * s.toNat + q.toNat)), .op .blk8 a, .op .src b, [], true⟩
  | .cpyr r s q a b => some ⟨0xB4, (.sel (16 * r.toNat + 4 * s.toNat + q.toNat)), .op .blk8 a, .op .src b, [], true⟩
  | .cpyz t q a b => some ⟨0xB5, (.sel (8 * t.toNat + q.toNat)), .op .blk8 a, .op .src b, [], true⟩
  | .rngi r a b => some ⟨0xB6, (.sel (r.toNat)), .op .sreg a, .op .sl b, [], true⟩
  | .rngw d r => some ⟨0xB7, .op .ds d, (.sel (r.toNat)), .no, [], true⟩
  | .rngr r a => some ⟨0xB8, (.sel (r.toNat)), .op .sl1 a, .no, [], true⟩
  | .rngq d r b => some ⟨0xB9, .op .d4 d, (.sel (r.toNat)), .op .any b, [], true⟩
  | .qfnc m => some ⟨0xBA, (.sel (m.toNat)), .no, .no, [], m != 0⟩
  | .qwait d m => some ⟨0xBB, .op .ds d, (.sel (m.toNat)), .no, [], m != 0⟩
  | .lbcl d l => some ⟨0xBC, .op .ds d, (.sel (l.toNat)), .no, [], true⟩
  | .bankm m a => some ⟨0xBD, (.sel (m.toNat)), .op .sl a, .no, [], m != 3⟩
  | .evsig a b => some ⟨0xC0, .no, .op .sl a, .op .sl1 b, [], true⟩
  | .evwait d a b => some ⟨0xC1, .op .dsp d, .op .sl a, .op .sl b, [], true⟩
  | .evpoll d a => some ⟨0xC2, .op .dsr d, .op .sl a, .no, [], true⟩
  | .mbxrd d => some ⟨0xC3, .op .blk8 d, .no, .no, [], true⟩
  | .mbxdone a => some ⟨0xC4, .no, .op .sl a, .no, [], true⟩
  | .mbxq d => some ⟨0xC5, .op .dsr d, .no, .no, [], true⟩
  | .frq d a b => some ⟨0xC6, .op .sp2 d, .op .sl a, .op .slzm b, [], true⟩
  | .oppush a b => some ⟨0xC7, .no, .op .sl a, .op .sp2 b, [], true⟩
  | .rxadd x a b => some ⟨0xD0, .op .st1 x, .op .sp2 a, .op .any b, [], true⟩
  | .rxfadd x a b => some ⟨0xD1, .op .st1 x, .op .sp2 a, .op .any b, [], true⟩
  | .rxbadd x a b => some ⟨0xD2, .op .st1 x, .op .sp2 a, .op .any b, [], true⟩
  | .rxmax x a b => some ⟨0xD3, .op .st1 x, .op .sp2 a, .op .any b, [], true⟩
  | .wstat d a b => some ⟨0xD4, .op .sp2 d, .op .sl a, .op .slm b, [], true⟩
  | .kvapp a => some ⟨0xE0, .no, .op .blk8 a, .no, [], true⟩
  | .kvseal a => some ⟨0xE1, .no, .op .sp2 a, .no, [], true⟩
  | .kvpos d a b => some ⟨0xE2, .op .dany d, .op .sp2 a, .op .any b, [], true⟩
  | .kvevict a => some ⟨0xE3, .no, .op .blk8 a, .no, [], true⟩
  | .mfold a => some ⟨0xE4, .no, .op .blk8 a, .no, [], true⟩
  | .mdecay a => some ⟨0xE5, .no, .op .blk8 a, .no, [], true⟩
  | .rte a => some ⟨0xF0, .no, .op .zsp a, .no, [], true⟩
  | .grd d a b => some ⟨0xF1, .op .dsr d, .op .sl a, .op .sl b, [], true⟩
  | .gwr x a b => some ⟨0xF2, .op .slzm x, .op .sl a, .op .sl b, [], true⟩
  | .gres a => some ⟨0xF3, .no, .op .sl a, .no, [], true⟩
  | .gfrz u a => some ⟨0xF4, (.sel (u.toNat)), .op .sl a, .no, [], true⟩
  | .tlbi a => some ⟨0xF5, .no, .op .blk4 a, .no, [], true⟩
  | .wmapi a => some ⟨0xF6, .no, .op .blk8 a, .no, [], true⟩
  | .frsv a b => some ⟨0xF7, .no, .op .sl a, .op .sp2 b, [], true⟩
  | .frld d a => some ⟨0xF8, .op .ds d, .op .sp2 a, .no, [], true⟩
  | .ctxsv a b => some ⟨0xF9, .no, .op .sp2 a, .op .slm b, [], true⟩
  | .ctxld a b => some ⟨0xFA, .no, .op .sp2 a, .op .slm b, [], true⟩
  | .clauseStart => none
  | .fragmentMerge _ => none
  | .handlerStart _ _ => none
  | .fragmentWake _ _ => none
  | .sleepWake _ _ => none
  | .wtimeWake _ _ => none
  | .evwaitWake _ _ => none
  | .rngwWake _ _ => none
  | .mbxrdWake _ _ => none
  | .qwaitWake _ _ => none
  | .lbclWake _ _ => none
  | .frcWake _ _ => none
  | .fenceWake _ _ => none
  | .groupEnd _ => none
  | .loadComplete _ _ _ => none
  | .l1LeaseExpiry _ _ => none
  | .storeComplete _ _ => none
  | .atomicComplete _ _ => none
  | .homeRead _ _ _ => none
  | .homeWrite _ => none
  | .pageWalk _ _ _ => none
  | .invalidationComplete _ => none
  | .faultBatchTimeout => none
  | .faultBatchFull => none
  | .faultDelivery => none
  | .fqheadWrite _ => none
  | .vrheadWrite _ => none
  | .lerheadWrite _ => none
  | .migrate _ _ _ => none
  | .migrationResult _ => none
  | .dcdAddCapacity _ _ _ _ => none
  | .dcdReleaseOrderly _ => none
  | .dcdReleaseForced _ => none
  | .bankDrainComplete _ _ => none
  | .cinchRelease _ _ => none
  | .mxeQueuePerform _ => none
  | .matrixOpComplete _ _ _ => none
  | .attentionOpComplete _ _ _ => none
  | .streamerActivate _ _ => none
  | .streamerChunk _ _ _ => none
  | .streamerComplete _ _ _ => none
  | .queueFenceLeave _ _ => none
  | .streamTailWrite _ _ _ => none
  | .streamReconcile => none
  | .streamCtlEn _ _ => none
  | .streamCtlRst _ _ => none
  | .oprun _ _ => none
  | .opcopy _ _ => none
  | .opwait _ _ => none
  | .opsig _ _ => none
  | .opfence _ _ => none
  | .opjump _ _ => none
  | .opend _ _ => none
  | .oppin _ _ => none
  | .opamax _ _ => none
  | .decodeResume _ _ => none
  | .opsigSignal _ _ => none
  | .pointFire _ => none
  | .tokenGrant => none
  | .jobDispatch => none
  | .opcopyPointComplete _ _ => none
  | .eventInc _ => none
  | .eventMir _ => none
  | .eventSub _ => none
  | .ctxctlLaunch _ => none
  | .ctxctlPre _ => none
  | .forcedSaveDecision _ _ => none
  | .preemptDeadline _ => none
  | .preemptHardDeadline _ => none
  | .groupRollback _ => none
  | .contextSave _ => none
  | .ctxctlResume _ => none
  | .ctxctlKill _ => none
  | .invhiWrite _ _ => none
  | .qrelWrite _ _ => none
  | .kvAccept _ => none
  | .kvComplete _ => none
  | .reflectorForward _ => none
  | .sliceReport _ => none
  | .rxWriteApply _ => none
  | .pathAckReceive _ _ => none
  | .pathClosedReceive _ _ => none
  | .pathDownReceive _ _ => none
  | .pathAckTimeout _ => none
  | .peerUnreachable _ => none
  | .portEnable _ => none
  | .portDisable _ => none
  | .linkTrained _ _ _ => none
  | .flitSend _ => none
  | .flitReceive _ _ => none
  | .flitReplayTimeout _ => none
  | .lossOfLight _ _ _ => none
  | .restripeDone _ _ => none
  | .ualinkWriteReceive _ _ => none
  | .ualinkOtherRequest _ _ => none
  | .slotStart => none
  | .slotEnd => none
  | .slotctlSwap => none
  | .slotctlEn _ => none
  | .probeTimeout _ => none
  | .probeToken _ => none
  | .firmwareMessage _ _ => none
  | .permitReturn _ => none
  | .lfcWatchdog _ => none
  | .lfcReset _ => none
  | .powerOn _ _ => none
  | .lrstN => none
  | .leaseReset _ => none
  | .scrubComplete _ _ => none
  | .nonce _ => none
  | .tenantKey _ => none
  | .getVersion => none
  | .getCapabilities => none
  | .negotiateAlgorithms _ => none
  | .getDigests => none
  | .getCertificate _ _ _ => none
  | .challenge _ _ => none
  | .getMeasurements _ _ => none
  | .keyExchange _ => none
  | .finish _ => none
  | .heartbeat => none
  | .endSession => none
  | .chunkSend _ _ _ => none
  | .chunkGet _ => none
  | .unsupportedRequest _ => none
  | .entdaa _ => none
  | .setdasa _ _ => none
  | .setEndpointId _ => none
  | .bfappAppend _ => none
  | .bfappCommit _ => none
  | .bfappDiscard _ => none
  | .bfappNop _ => none
  | .bfappFlashDone => none
  | .ptaPoolWrite _ => none
  | .eccCorrected _ => none
  | .uncorrectable _ _ _ _ => none
  | .tjhotExceeded _ _ => none
  | .thermalTrip _ _ => none
  | .pmcWrap _ => none
  | .hostMemoryWrite _ _ => none
  | .hostMemoryRead _ _ => none
  | .registerWrite _ _ _ _ _ => none
  | .lossOfPower => none
  | .stopDescriptorPost _ _ _ => none

/-- The literal words of an instruction, in the order they follow its word (R28, R232). -/
def Form.lits (f : Form) : List Word := f.d.lits ++ f.a.lits ++ f.extra ++ f.b.lits

/-- The instruction word (R24). -/
def Form.word (f : Form) : Word := w32 (f.op * 2 ^ 24 + f.d.byte * 2 ^ 16 + f.a.byte * 2 ^ 8 + f.b.byte)

/-- Are all fields of the word legal (R25 to R29)? At most two literal words follow (R28). -/
def Form.legal (f : Form) : Bool :=
  f.d.ok && f.a.ok && f.b.ok && f.ok && decide (f.lits.length ≤ 2)

end Sys2Proof.Machine
end

