-- ==== Sys2Proof/Decode.lean ====
section
/-! DEFINITION. Decoding of instruction words (R24 to R29, R41, R42) and, after it, the encoder. -/

namespace Sys2Proof

open Sys2Proof.Machine

/-- Why a word is no instruction. -/
inductive DecodeError where
  /-- ILLEGAL_CLAUSE: a literal word would lie beyond the last word of the clause (R28). -/
  | illegalClause
  /-- ILLEGAL_OPCODE: the opcode is reserved (R42). -/
  | illegalOpcode
  /-- OPERAND: a field of the word is illegal (R25 to R29). -/
  | operand
deriving DecidableEq, Repr, Inhabited

/-- The fields of a word with their literal words handed out (R28). -/
structure Taken where
  d : Nat
  a : Nat
  b : Nat
  dₒ : Opnd
  ao : Opnd
  bo : Opnd
  x0 : Word
  x1 : Word
  /-- How many literal words the word takes. -/
  n : Nat
deriving DecidableEq, Repr, Inhabited

/-- The word at an index of what follows, 0 past the end. -/
def wordAt (r : List Word) (n : Nat) : Word := (r[n]?).getD 0#32

/-- Hands the literal words out in the order D, A, the operand words of a no-return atomic, B (R28,
R232). A field takes one if it is in a source role and holds 0xFF. -/
def take (dSrc aSrc bSrc : Bool) (extra : Nat) (w : Word) (r : List Word) : Taken :=
  let d := bits w.toNat 23 16
  let a := bits w.toNat 15 8
  let b := bits w.toNat 7 0
  let nd := b2n (dSrc && d == 0xFF)
  let na := b2n (aSrc && a == 0xFF)
  let nx := if d = 0xFE then extra else 0
  let nb := b2n (bSrc && b == 0xFF)
  { d := d, a := a, b := b
    dₒ := Opnd.ofCode d (if nd = 1 then wordAt r 0 else 0#32)
    ao := Opnd.ofCode a (if na = 1 then wordAt r nd else 0#32)
    bo := Opnd.ofCode b (if nb = 1 then wordAt r (nd + na + nx) else 0#32)
    x0 := if 0 < nx then wordAt r (nd + na) else 0#32
    x1 := if 1 < nx then wordAt r (nd + na + 1) else 0#32
    n := nd + na + nx + nb }

/-- A selector's bits of a field. -/
def cut (x lo : Nat) {k : Nat} : BitVec k := BitVec.ofNat k (x / 2 ^ lo)

/-- The A of a BRX names an s register, so that its B is unused and takes no literal word (R25, R28, R103). -/
def brxPair (w : Word) : Bool := decide (0xC0 ≤ bits w.toNat 15 8) && decide (bits w.toNat 15 8 < 0xF0)

/-- The instruction an opcode and its fields name, whether or not the fields are legal, and how many
literal words it takes; none for a reserved opcode (R42). -/
def decodeRaw (w : Word) (r : List Word) : Option (Instr × Nat) :=
  match bits w.toNat 31 24 with
  | 0x00 => some (.nop, 0)
  | 0x01 => let f := take false true false 0 w r; some (.bra f.ao, f.n)
  | 0x02 => let f := take false true true 0 w r; some (.brc (cut f.d 3) (cut f.d 0) f.ao f.bo, f.n)
  | 0x03 => let f := take false true (!brxPair w) 0 w r; some (.brx f.ao f.bo, f.n)
  | 0x04 => let f := take false true false 0 w r; some (.call f.ao, f.n)
  | 0x05 => some (.ret, 0)
  | 0x06 => some (.sync, 0)
  | 0x07 => some (.exit, 0)
  | 0x08 => some (.yield, 0)
  | 0x09 => let f := take false true false 0 w r; some (.sleep f.ao, f.n)
  | 0x0A => let f := take false true false 0 w r; some (.trap f.ao, f.n)
  | 0x0B => let f := take false true false 0 w r; some (.setm (cut f.d 0) f.ao, f.n)
  | 0x0C => let f := take false false false 0 w r; some (.getm f.dₒ, f.n)
  | 0x0D => let f := take false false false 0 w r; some (.mfs f.dₒ (cut f.a 0), f.n)
  | 0x0E => let f := take false false true 0 w r; some (.mts (cut f.a 0) f.bo, f.n)
  | 0x0F => let f := take false false true 0 w r; some (.bar (cut f.a 0) f.bo, f.n)
  | 0x10 => let f := take false false true 0 w r; some (.arrive f.dₒ (cut f.a 0) f.bo, f.n)
  | 0x11 => let f := take false false true 0 w r; some (.await f.dₒ (cut f.a 0) f.bo, f.n)
  | 0x12 => let f := take false false false 0 w r; some (.vote f.dₒ (cut f.a 4) (cut f.a 3) (cut f.a 0), f.n)
  | 0x13 => let f := take false true true 0 w r; some (.ipf (cut f.d 0) f.ao f.bo, f.n)
  | 0x14 => let f := take false true true 0 w r; some (.pin (cut f.d 0) f.ao f.bo, f.n)
  | 0x15 => let f := take false true true 0 w r; some (.unpin (cut f.d 0) f.ao f.bo, f.n)
  | 0x20 => let f := take false true true 0 w r; some (.add f.dₒ f.ao f.bo, f.n)
  | 0x21 => let f := take false true true 0 w r; some (.sub f.dₒ f.ao f.bo, f.n)
  | 0x22 => let f := take false true true 0 w r; some (.addc f.dₒ f.ao f.bo, f.n)
  | 0x23 => let f := take false true true 0 w r; some (.subb f.dₒ f.ao f.bo, f.n)
  | 0x24 => let f := take false true true 0 w r; some (.mul f.dₒ f.ao f.bo, f.n)
  | 0x25 => let f := take false true true 0 w r; some (.mulh f.dₒ f.ao f.bo, f.n)
  | 0x26 => let f := take false true true 0 w r; some (.mulhn f.dₒ f.ao f.bo, f.n)
  | 0x27 => let f := take false true true 0 w r; some (.mad f.dₒ f.ao f.bo, f.n)
  | 0x28 => let f := take false true true 0 w r; some (.div f.dₒ f.ao f.bo, f.n)
  | 0x29 => let f := take false true true 0 w r; some (.divn f.dₒ f.ao f.bo, f.n)
  | 0x2A => let f := take false true true 0 w r; some (.rem f.dₒ f.ao f.bo, f.n)
  | 0x2B => let f := take false true true 0 w r; some (.remn f.dₒ f.ao f.bo, f.n)
  | 0x2C => let f := take false true true 0 w r; some (.and f.dₒ f.ao f.bo, f.n)
  | 0x2D => let f := take false true true 0 w r; some (.or f.dₒ f.ao f.bo, f.n)
  | 0x2E => let f := take false true true 0 w r; some (.xor f.dₒ f.ao f.bo, f.n)
  | 0x2F => let f := take false true true 0 w r; some (.andn f.dₒ f.ao f.bo, f.n)
  | 0x30 => let f := take false true true 0 w r; some (.shl f.dₒ f.ao f.bo, f.n)
  | 0x31 => let f := take false true true 0 w r; some (.shr f.dₒ f.ao f.bo, f.n)
  | 0x32 => let f := take false true true 0 w r; some (.sar f.dₒ f.ao f.bo, f.n)
  | 0x33 => let f := take false true true 0 w r; some (.rot f.dₒ f.ao f.bo, f.n)
  | 0x34 => let f := take false true true 0 w r; some (.min f.dₒ f.ao f.bo, f.n)
  | 0x35 => let f := take false true true 0 w r; some (.max f.dₒ f.ao f.bo, f.n)
  | 0x36 => let f := take false true true 0 w r; some (.minn f.dₒ f.ao f.bo, f.n)
  | 0x37 => let f := take false true true 0 w r; some (.maxn f.dₒ f.ao f.bo, f.n)
  | 0x38 => let f := take false true false 0 w r; some (.abs f.dₒ f.ao, f.n)
  | 0x39 => let f := take false true false 0 w r; some (.clz f.dₒ f.ao, f.n)
  | 0x3A => let f := take false true false 0 w r; some (.popc f.dₒ f.ao, f.n)
  | 0x3B => let f := take false true false 0 w r; some (.brev f.dₒ f.ao, f.n)
  | 0x3C => let f := take false true true 0 w r; some (.bfe f.dₒ f.ao f.bo, f.n)
  | 0x3D => let f := take false true true 0 w r; some (.bfi f.dₒ f.ao f.bo, f.n)
  | 0x3E => let f := take false true true 0 w r; some (.sel f.dₒ f.ao f.bo, f.n)
  | 0x3F => let f := take false true false 0 w r; some (.mov f.dₒ f.ao, f.n)
  | 0x40 => let f := take false true true 0 w r; some (.cmp (cut f.d 5) (cut f.d 0) f.ao f.bo, f.n)
  | 0x41 => let f := take false true true 0 w r; some (.cmpn (cut f.d 5) (cut f.d 0) f.ao f.bo, f.n)
  | 0x42 => let f := take false true true 0 w r; some (.fcmp (cut f.d 5) (cut f.d 0) f.ao f.bo, f.n)
  | 0x43 => let f := take false false false 0 w r; some (.pand (cut f.d 0) (cut f.a 3) (cut f.a 0) (cut f.b 3) (cut f.b 0), f.n)
  | 0x44 => let f := take false false false 0 w r; some (.por (cut f.d 0) (cut f.a 3) (cut f.a 0) (cut f.b 3) (cut f.b 0), f.n)
  | 0x45 => let f := take false false false 0 w r; some (.pxor (cut f.d 0) (cut f.a 3) (cut f.a 0) (cut f.b 3) (cut f.b 0), f.n)
  | 0x46 => let f := take false true false 0 w r; some (.pset (cut f.d 0) f.ao, f.n)
  | 0x47 => let f := take false false false 0 w r; some (.pget f.dₒ (cut f.a 0), f.n)
  | 0x48 => let f := take false true true 0 w r; some (.shfl f.dₒ f.ao f.bo, f.n)
  | 0x49 => let f := take false true true 0 w r; some (.shup f.dₒ f.ao f.bo, f.n)
  | 0x4A => let f := take false true true 0 w r; some (.shdn f.dₒ f.ao f.bo, f.n)
  | 0x4B => let f := take false true true 0 w r; some (.qswz f.dₒ f.ao f.bo, f.n)
  | 0x4C => let f := take false true false 0 w r; some (.qxh f.dₒ f.ao, f.n)
  | 0x4D => let f := take false true false 0 w r; some (.qxv f.dₒ f.ao, f.n)
  | 0x4E => let f := take false true false 0 w r; some (.qxd f.dₒ f.ao, f.n)
  | 0x4F => let f := take false true true 0 w r; some (.nibl f.dₒ f.ao f.bo, f.n)
  | 0x50 => let f := take false true true 0 w r; some (.nibh f.dₒ f.ao f.bo, f.n)
  | 0x51 => let f := take false true true 0 w r; some (.prmt f.dₒ f.ao f.bo, f.n)
  | 0x52 => let f := take false true false 0 w r; some (.radd f.dₒ f.ao, f.n)
  | 0x53 => let f := take false true false 0 w r; some (.rmax f.dₒ f.ao, f.n)
  | 0x54 => let f := take false true false 0 w r; some (.rmin f.dₒ f.ao, f.n)
  | 0x55 => let f := take false true false 0 w r; some (.fradd f.dₒ f.ao, f.n)
  | 0x56 => let f := take false true false 0 w r; some (.frmax f.dₒ f.ao, f.n)
  | 0x57 => let f := take false true false 0 w r; some (.psum f.dₒ f.ao, f.n)
  | 0x58 => let f := take false true false 0 w r; some (.psumx f.dₒ f.ao, f.n)
  | 0x60 => let f := take false true true 0 w r; some (.fadd f.dₒ f.ao f.bo, f.n)
  | 0x61 => let f := take false true true 0 w r; some (.fsub f.dₒ f.ao f.bo, f.n)
  | 0x62 => let f := take false true true 0 w r; some (.fmul f.dₒ f.ao f.bo, f.n)
  | 0x63 => let f := take false true true 0 w r; some (.fma f.dₒ f.ao f.bo, f.n)
  | 0x64 => let f := take false true true 0 w r; some (.fms f.dₒ f.ao f.bo, f.n)
  | 0x65 => let f := take false true true 0 w r; some (.fmin f.dₒ f.ao f.bo, f.n)
  | 0x66 => let f := take false true true 0 w r; some (.fmax f.dₒ f.ao f.bo, f.n)
  | 0x67 => let f := take false true false 0 w r; some (.fabs f.dₒ f.ao, f.n)
  | 0x68 => let f := take false true false 0 w r; some (.fneg f.dₒ f.ao, f.n)
  | 0x69 => let f := take false true false 0 w r; some (.frcp f.dₒ f.ao, f.n)
  | 0x6A => let f := take false true false 0 w r; some (.frsq f.dₒ f.ao, f.n)
  | 0x6B => let f := take false true false 0 w r; some (.fsqrt f.dₒ f.ao, f.n)
  | 0x6C => let f := take false true false 0 w r; some (.fexp2 f.dₒ f.ao, f.n)
  | 0x6D => let f := take false true false 0 w r; some (.flog2 f.dₒ f.ao, f.n)
  | 0x6E => let f := take false true false 0 w r; some (.fsin f.dₒ f.ao, f.n)
  | 0x6F => let f := take false true false 0 w r; some (.fcos f.dₒ f.ao, f.n)
  | 0x70 => let f := take false true false 0 w r; some (.ftanh f.dₒ f.ao, f.n)
  | 0x71 => let f := take false true true 0 w r; some (.fscal f.dₒ f.ao f.bo, f.n)
  | 0x72 => let f := take false true false 0 w r; some (.frnd f.dₒ f.ao, f.n)
  | 0x73 => let f := take false true true 0 w r; some (.fdot2 f.dₒ f.ao f.bo, f.n)
  | 0x74 => let f := take false true false 0 w r; some (.scaleq f.dₒ f.ao (cut f.b 0), f.n)
  | 0x75 => let f := take false true false 0 w r; some (.f2i f.dₒ f.ao, f.n)
  | 0x76 => let f := take false true false 0 w r; some (.f2n f.dₒ f.ao, f.n)
  | 0x77 => let f := take false true false 0 w r; some (.i2f f.dₒ f.ao, f.n)
  | 0x78 => let f := take false true false 0 w r; some (.n2f f.dₒ f.ao, f.n)
  | 0x79 => let f := take false true true 0 w r; some (.f2h f.dₒ f.ao f.bo, f.n)
  | 0x7A => let f := take false true false 0 w r; some (.h2f f.dₒ f.ao (cut f.b 0), f.n)
  | 0x7B => let f := take false true true 0 w r; some (.pk8 f.dₒ f.ao f.bo, f.n)
  | 0x7C => let f := take false true true 0 w r; some (.upk8 f.dₒ f.ao f.bo, f.n)
  | 0x7D => let f := take false true false 0 w r; some (.qfpk f.dₒ f.ao (cut f.b 0), f.n)
  | 0x7E => let f := take false true false 0 w r; some (.qfupk f.dₒ f.ao (cut f.b 0), f.n)
  | 0x7F => let f := take true true false 0 w r; some (.amaxr f.dₒ f.ao, f.n)
  | 0x80 => let f := take false true true 0 w r; some (.ldb f.dₒ f.ao f.bo, f.n)
  | 0x81 => let f := take false true true 0 w r; some (.ldbs f.dₒ f.ao f.bo, f.n)
  | 0x82 => let f := take false true true 0 w r; some (.ldh f.dₒ f.ao f.bo, f.n)
  | 0x83 => let f := take false true true 0 w r; some (.ldhs f.dₒ f.ao f.bo, f.n)
  | 0x84 => let f := take false true true 0 w r; some (.ldw f.dₒ f.ao f.bo, f.n)
  | 0x85 => let f := take false true true 0 w r; some (.ldd f.dₒ f.ao f.bo, f.n)
  | 0x86 => let f := take false true true 0 w r; some (.ldq f.dₒ f.ao f.bo, f.n)
  | 0x87 => let f := take true true true 0 w r; some (.stb f.dₒ f.ao f.bo, f.n)
  | 0x88 => let f := take true true true 0 w r; some (.sth f.dₒ f.ao f.bo, f.n)
  | 0x89 => let f := take true true true 0 w r; some (.stw f.dₒ f.ao f.bo, f.n)
  | 0x8A => let f := take true true true 0 w r; some (.std f.dₒ f.ao f.bo, f.n)
  | 0x8B => let f := take true true true 0 w r; some (.stq f.dₒ f.ao f.bo, f.n)
  | 0x8C => let f := take false true true 0 w r; some (.prf (cut f.d 0) f.ao f.bo, f.n)
  | 0x8D => let f := take false true true 0 w r; some (.pgreq f.dₒ f.ao f.bo, f.n)
  | 0x8E => let f := take false true true 1 w r; some (.atadd f.dₒ f.ao f.bo f.x0, f.n)
  | 0x8F => let f := take false true true 1 w r; some (.atmin f.dₒ f.ao f.bo f.x0, f.n)
  | 0x90 => let f := take false true true 1 w r; some (.atmax f.dₒ f.ao f.bo f.x0, f.n)
  | 0x91 => let f := take false true true 1 w r; some (.atminn f.dₒ f.ao f.bo f.x0, f.n)
  | 0x92 => let f := take false true true 1 w r; some (.atmaxn f.dₒ f.ao f.bo f.x0, f.n)
  | 0x93 => let f := take false true true 1 w r; some (.atand f.dₒ f.ao f.bo f.x0, f.n)
  | 0x94 => let f := take false true true 1 w r; some (.ator f.dₒ f.ao f.bo f.x0, f.n)
  | 0x95 => let f := take false true true 1 w r; some (.atxor f.dₒ f.ao f.bo f.x0, f.n)
  | 0x96 => let f := take false true true 1 w r; some (.atxch f.dₒ f.ao f.bo f.x0, f.n)
  | 0x97 => let f := take false true true 2 w r; some (.atcas f.dₒ f.ao f.bo f.x0 f.x1, f.n)
  | 0x98 => let f := take false true true 1 w r; some (.atfadd f.dₒ f.ao f.bo f.x0, f.n)
  | 0x99 => let f := take false true true 1 w r; some (.atfmax f.dₒ f.ao f.bo f.x0, f.n)
  | 0x9A => let f := take false false false 0 w r; some (.frel (cut f.d 0), f.n)
  | 0x9B => some (.facq, 0)
  | 0x9C => let f := take false false false 0 w r; some (.fseq (cut f.d 0), f.n)
  | 0x9D => let f := take false false false 0 w r; some (.frc f.dₒ, f.n)
  | 0x9E => let f := take false true false 0 w r; some (.wtime f.ao, f.n)
  | 0x9F => let f := take false false false 0 w r; some (.flush (cut f.d 0), f.n)
  | 0xA0 => let f := take false true false 0 w r; some (.mds (cut f.d 0) f.ao, f.n)
  | 0xA1 => let f := take false true false 0 w r; some (.gang f.ao, f.n)
  | 0xA2 => let f := take false true false 0 w r; some (.mma f.dₒ f.ao (cut f.b 0), f.n)
  | 0xA3 => let f := take false true false 0 w r; some (.mmas f.dₒ f.ao (cut f.b 0), f.n)
  | 0xA4 => let f := take false false false 0 w r; some (.mzro f.dₒ, f.n)
  | 0xA5 => let f := take true true false 0 w r; some (.ascore f.dₒ f.ao (cut f.b 2) (cut f.b 0), f.n)
  | 0xA6 => let f := take false false false 0 w r; some (.avacc f.dₒ (cut f.b 2) (cut f.b 0), f.n)
  | 0xA7 => let f := take false false false 0 w r; some (.afin f.dₒ f.ao (cut f.b 4) (cut f.b 2), f.n)
  | 0xA8 => let f := take false true true 0 w r; some (.arst (cut f.d 2) f.ao f.bo, f.n)
  | 0xA9 => let f := take false false false 0 w r; some (.arow f.dₒ (cut f.a 2), f.n)
  | 0xB0 => let f := take false true true 0 w r; some (.cpy (cut f.d 3) (cut f.d 2) (cut f.d 0) f.ao f.bo, f.n)
  | 0xB1 => let f := take false true true 0 w r; some (.cpy2 (cut f.d 3) (cut f.d 2) (cut f.d 0) f.ao f.bo, f.n)
  | 0xB2 => let f := take false true true 0 w r; some (.cpyg (cut f.d 3) (cut f.d 2) (cut f.d 0) f.ao f.bo, f.n)
  | 0xB3 => let f := take false true true 0 w r; some (.cpyc (cut f.d 3) (cut f.d 2) (cut f.d 0) f.ao f.bo, f.n)
  | 0xB4 => let f := take false true true 0 w r; some (.cpyr (cut f.d 4) (cut f.d 2) (cut f.d 0) f.ao f.bo, f.n)
  | 0xB5 => let f := take false true true 0 w r; some (.cpyz (cut f.d 3) (cut f.d 0) f.ao f.bo, f.n)
  | 0xB6 => let f := take false true true 0 w r; some (.rngi (cut f.d 0) f.ao f.bo, f.n)
  | 0xB7 => let f := take false false false 0 w r; some (.rngw f.dₒ (cut f.a 0), f.n)
  | 0xB8 => let f := take false true false 0 w r; some (.rngr (cut f.d 0) f.ao, f.n)
  | 0xB9 => let f := take false false true 0 w r; some (.rngq f.dₒ (cut f.a 0) f.bo, f.n)
  | 0xBA => let f := take false false false 0 w r; some (.qfnc (cut f.d 0), f.n)
  | 0xBB => let f := take false false false 0 w r; some (.qwait f.dₒ (cut f.a 0), f.n)
  | 0xBC => let f := take false false false 0 w r; some (.lbcl f.dₒ (cut f.a 0), f.n)
  | 0xBD => let f := take false true false 0 w r; some (.bankm (cut f.d 0) f.ao, f.n)
  | 0xC0 => let f := take false true true 0 w r; some (.evsig f.ao f.bo, f.n)
  | 0xC1 => let f := take false true true 0 w r; some (.evwait f.dₒ f.ao f.bo, f.n)
  | 0xC2 => let f := take false true false 0 w r; some (.evpoll f.dₒ f.ao, f.n)
  | 0xC3 => let f := take false false false 0 w r; some (.mbxrd f.dₒ, f.n)
  | 0xC4 => let f := take false true false 0 w r; some (.mbxdone f.ao, f.n)
  | 0xC5 => let f := take false false false 0 w r; some (.mbxq f.dₒ, f.n)
  | 0xC6 => let f := take false true true 0 w r; some (.frq f.dₒ f.ao f.bo, f.n)
  | 0xC7 => let f := take false true true 0 w r; some (.oppush f.ao f.bo, f.n)
  | 0xD0 => let f := take true true true 0 w r; some (.rxadd f.dₒ f.ao f.bo, f.n)
  | 0xD1 => let f := take true true true 0 w r; some (.rxfadd f.dₒ f.ao f.bo, f.n)
  | 0xD2 => let f := take true true true 0 w r; some (.rxbadd f.dₒ f.ao f.bo, f.n)
  | 0xD3 => let f := take true true true 0 w r; some (.rxmax f.dₒ f.ao f.bo, f.n)
  | 0xD4 => let f := take false true true 0 w r; some (.wstat f.dₒ f.ao f.bo, f.n)
  | 0xE0 => let f := take false true false 0 w r; some (.kvapp f.ao, f.n)
  | 0xE1 => let f := take false true false 0 w r; some (.kvseal f.ao, f.n)
  | 0xE2 => let f := take false true true 0 w r; some (.kvpos f.dₒ f.ao f.bo, f.n)
  | 0xE3 => let f := take false true false 0 w r; some (.kvevict f.ao, f.n)
  | 0xE4 => let f := take false true false 0 w r; some (.mfold f.ao, f.n)
  | 0xE5 => let f := take false true false 0 w r; some (.mdecay f.ao, f.n)
  | 0xF0 => let f := take false true false 0 w r; some (.rte f.ao, f.n)
  | 0xF1 => let f := take false true true 0 w r; some (.grd f.dₒ f.ao f.bo, f.n)
  | 0xF2 => let f := take true true true 0 w r; some (.gwr f.dₒ f.ao f.bo, f.n)
  | 0xF3 => let f := take false true false 0 w r; some (.gres f.ao, f.n)
  | 0xF4 => let f := take false true false 0 w r; some (.gfrz (cut f.d 0) f.ao, f.n)
  | 0xF5 => let f := take false true false 0 w r; some (.tlbi f.ao, f.n)
  | 0xF6 => let f := take false true false 0 w r; some (.wmapi f.ao, f.n)
  | 0xF7 => let f := take false true true 0 w r; some (.frsv f.ao f.bo, f.n)
  | 0xF8 => let f := take false true false 0 w r; some (.frld f.dₒ f.ao, f.n)
  | 0xF9 => let f := take false true true 0 w r; some (.ctxsv f.ao f.bo, f.n)
  | 0xFA => let f := take false true true 0 w r; some (.ctxld f.ao f.bo, f.n)
  | _ => none

/-- Decodes the instruction that `w` begins, `r` being the words that follow it in its clause: the
instruction with the words after its literals, or the first cause of R41 that the word alone shows. Every source field of
0xFF consumes a word, so that a third one without a word left is ILLEGAL_CLAUSE (R28; log entry 127, DESIGN CHOICE). -/
def decode (w : Word) (r : List Word) : Except DecodeError (Instr × List Word) :=
  match decodeRaw w r with
  | none => .error .illegalOpcode
  | some (i, n) =>
    if r.length < n then .error .illegalClause
    else match form i with
      | none => .error .illegalOpcode
      | some f => if f.legal && f.word == w then .ok (i, r.drop n) else .error .operand

/-- The words of an instruction from the encoding tables (R24 to R29): its word and its literals. -/
def encode (i : Instr) : List Word :=
  match form i with
  | some f => f.word :: f.lits
  | none => []

/-- The 32-bit words of little-endian bytes (R24). -/
def wordsOf : List Byte → List Word
  | a :: b :: c :: d :: r => w32 (leNat [a, b, c, d]) :: wordsOf r
  | _ => []

/-- The instruction at the head of code bytes, with the bytes left; total on any bytes. -/
def decodeBytes (bs : List Byte) : Except DecodeError (Instr × List Word) :=
  match wordsOf bs with
  | w :: r => decode w r
  | [] => .error .illegalClause

/-- The instruction the decoder reads from a table row's word: bit 0 is the least significant bit of
the first word, stored little-endian, and every bit above is zero. A row without bits is a step of the
part and has no word. -/
def decodeTableWord (nbits w : Nat) : Option Instr :=
  if nbits = 0 then none
  else match decodeBytes (leBytes 12 (w % 2 ^ nbits)) with
    | .ok (i, _) => some i
    | .error _ => none

end Sys2Proof
end

