-- ==== Sys2Proof/Config.lean ====
section
/-! DEFINITION. What the manual leaves open: opaque constants without a body. No proof can see a
value of one, so a claim holds whatever the part does there. -/

namespace Sys2Proof.Config

/-- A free number for each moment at which the manual allows several outcomes (which victim way a
home chooses, how long a lease is, whether a stale translation is still cached): the step applies it
to the counter `State.fresh`. Log entry 3, DESIGN CHOICE. -/
opaque freeNat : Nat → Nat

/-- Free bytes for data the manual leaves open: what an undefined event counter holds (R310), the
bytes of a signature or certificate whose key material the manual does not give (R461, R463, R467).
Log entry 3, DESIGN CHOICE. -/
opaque freeByte : Nat → Byte

/-- Whether a signature or a tag over data verifies (R368, R443, R461, R462): the manual names the
algorithms and gives no key. The argument is the datum that is checked. Log entry 4, DESIGN CHOICE. -/
opaque verifies : List Byte → Bool

/-- The AES-256-GCM sealing of a payload under a key slot (R368), as an uninterpreted function of key, nonce,
additional data and payload: the sealed bytes with the tag. Log entry 4, DESIGN CHOICE. -/
opaque sealGcm : Nat → Nat → List Byte → List Byte → List Byte

/-- The payload that opening a sealed one under a key and nonce gives (R368). Log entry 4, DESIGN CHOICE. -/
opaque openGcm : Nat → Nat → List Byte → List Byte

/-- The fuse map, mask ROM and serial values of the identity record (R455): fixed per part and not
stated. Indexed by byte. Log entry 5, DESIGN CHOICE. -/
opaque fuse : Nat → Byte

/-- The SHA-384 of some bytes (R461, R467), as an uninterpreted function. Log entry 4, DESIGN CHOICE. -/
opaque sha384 : List Byte → List Byte

/-- The GMAC tag of some bytes under a hop key (R443), as an uninterpreted function. Log entry 4, DESIGN CHOICE. -/
opaque hopTag : Nat → List Byte → List Byte

/-- How many flits the reorder buffer of a receiver holds (R446): not stated. Log entry 146, DESIGN CHOICE. -/
opaque reorderFlits : Nat

end Sys2Proof.Config
end

