-- ==== Sys2Proof/Machine/Types.lean ====
section
/-! DEFINITION. The pieces of state of a core: reconvergence entries (R66), fragments (R68, R69, R75),
pending operations, groups (R51 to R75, R415) and blocks. Plain data throughout. -/

namespace Sys2Proof.Machine

/-- A reconvergence-stack entry (R66). KIND: 0 RECONV, 1 PATH, 2 RETURN, 3 reserved. -/
structure StkEntry where
  kind : Nat
  pc : Quad
  mask : Word
  mode : Word
deriving DecidableEq, Repr, Inhabited

/-- STATE of a fragment (R68). -/
inductive FragState where
  | free | ready | waiting | handler | frozen | merging
deriving DecidableEq, Repr, Inhabited

/-- What a fragment waits for. A waiting fragment holds no lane (R33, R226). -/
inductive Wait where
  /-- Not waiting. -/
  | no
  /-- SLEEP issued at a time for a number of gt (R111). -/
  | sleep (t0 : Nat) (n : Nat)
  /-- AWAIT on a barrier for a phase (R119). -/
  | await (d : Opnd) (k : Nat) (t : Nat)
  /-- AWAIT on a barrier whose condition an ARRIVE or BAR has satisfied (R119). -/
  | awaited (d : Opnd) (k : Nat)
  /-- EVWAIT on an event for a target (R321). -/
  | evwait (d : Opnd) (name target : Word)
  /-- RNGW on a ring, with its place in the order of waiters (R276, R296). -/
  | rngw (d : Opnd) (r n : Nat)
  /-- MBXRD, with its place in the order of waiters (R272, R322). -/
  | mbxrd (d : Opnd) (n : Nat)
  /-- QWAIT on a set of queues, for commands below a number (R301). -/
  | qwait (d : Opnd) (m n : Nat)
  /-- LBCL on a line buffer, for commands below a number (R292). -/
  | lbcl (d : Opnd) (l n : Nat)
  /-- FRC for the window stores before an operation number (R242). -/
  | frc (d : Opnd) (bound : Nat)
  /-- WTIME until a time (R243). -/
  | wtime (t : Quad)
  /-- FREL, FACQ or FSEQ: scope, whether it releases and acquires, the operations before it, and once its
  write-backs have been sent the requests before that (R240, R241). `after` says what the fence belongs to: 0 an instruction of
  its own, 1 an EVSIG, 2 an MBXDONE (R320, R323). -/
  | fence (scope : Nat) (rel acq : Bool) (bound : Nat) (wb : Option Nat) (after : Nat) (x y : Word)
  /-- A KV command that its Skiver has not accepted (R381). -/
  | kv
  /-- A HANDLER fragment whose fault record has not been accepted (R418). -/
  | record
  /-- Parked at a YLD header by a pre-emption request (R423). -/
  | parked
  /-- Arrived at the Cinch with a ganged instruction (R163). -/
  | cinch
  /-- A member of a rendezvous that failed: it traps with a cause and a fault address at the ganged instruction's address
  once no access of its group is performed in part (R166, R260). -/
  | gang (cause : Nat) (fadr pc : Quad)
  /-- GRES that waits until every operation of another group has completed (R432). -/
  | quiet (g : Nat)
deriving DecidableEq, Repr, Inhabited

/-- The trap registers of a fragment: TRAPC and indexes 0x10 to 0x19 (R73, R75). -/
structure TrapRegs where
  cause : Nat
  pc : Quad
  fadr : Quad
  frgmsk : Word
  fltmsk : Word
  oua : Quad
  rgnpc : Quad
deriving DecidableEq, Repr, Inhabited

/-- One fragment (R68) with its handler block (R69, R475). `hdr` is the header of the clause that holds
PC; `mid` says that PC stands at an instruction word inside a clause; `code` holds the clause's words
from PC on as they were fetched, after the header while the fragment still stands there (R33, step 4); `npc` is the address after the instruction in hand (the model's own). -/
structure Frag where
  st : FragState
  /-- The state a FROZEN fragment keeps (R433, R475). -/
  kept : FragState
  mode : Word
  mask : Word
  pc : Quad
  hdr : Word
  mid : Bool
  code : List Word
  npc : Quad
  wait : Wait
  /-- The private stack of a HANDLER fragment, newest first, at most 4 entries (R69). -/
  pstk : List StkEntry
  trap : TrapRegs
  /-- How often in a row the fragment was passed over (R414). -/
  passed : Nat
  /-- When the fragment last issued, as a number of issues (R414). -/
  issued : Nat
  /-- Since when an FRLD of the fragment waits for a slot, as a number; 0 when none does (R334, R336). -/
  asks : Nat
deriving DecidableEq, Repr, Inhabited

/-- One thread's part of a memory operation. -/
structure Acc where
  /-- The thread. -/
  t : Nat
  /-- Virtual address, or scratch offset. -/
  va : Nat
  /-- Physical address, or the byte's key in the local store. -/
  pa : Nat
  /-- Bytes. -/
  n : Nat
  /-- The data: of a store, or of a load once taken. -/
  bs : List Byte
  /-- The load's data has been taken, the store's bytes performed, the atomic performed. -/
  got : Bool
  /-- A load that NRZ excused: it reads zero and reports non-residency (R229). -/
  zero : Bool
  /-- PL of the leaf (R214). -/
  pl : Bool
  /-- Operands of an atomic. -/
  x : Word
  y : Word
  /-- A window access: index of its TXW entry (R361). -/
  win : Option Nat
  /-- Which registers the access has written: register i of the destination as bit i, the NRP predicate as bit 4 (R36). -/
  put : Nat
deriving DecidableEq, Repr, Inhabited

/-- The class of a pending operation. -/
inductive PendKind where
  | load | store | atomic
  /-- PGREQ (R238). -/
  | pgreq
  /-- SCALEQ (R156). -/
  | scaleq
  /-- AMAXR (R157): a record, or an advance. -/
  | amax
  /-- A window reduction (R372). -/
  | rx
  /-- FLUSH (R244). -/
  | flush
  /-- BANKM (R245). -/
  | bank
  /-- A matrix or attention operation (R176, R199). -/
  | matrix
  /-- A streamer or ring command (R274). -/
  | engine
  /-- RNGQ (R297), WSTAT (R373), FRQ (R340), KVPOS (R386): values ready to be written. -/
  | value
  /-- A Skiver command (R381). -/
  | kv
  /-- TLBI or a WMAPI command that waits (R434, R435). -/
  | inval
  /-- FRSV, FRLD, CTXSV, CTXLD record traffic (R436, R437). -/
  | record
  /-- OPPUSH: the pair waits for its shadow write's completion time (R325). -/
  | push
  /-- EVSIG or MBXDONE, while its fragment waits in its fence (R319, R320, R323). -/
  | signal
deriving DecidableEq, Repr, Inhabited

/-- An operation of a group that has issued and not completed (R34, R35, R64). -/
structure Pend where
  id : Nat
  /-- The completion flag it is attributed to (R34). -/
  flag : Option Nat
  kind : PendKind
  /-- Destination. -/
  dst : Opnd
  /-- Uniform class. -/
  uni : Bool
  /-- A scratch access (R225). -/
  scratch : Bool
  /-- Sign-extend (R228). -/
  sx : Bool
  /-- RD of the clause (R31). -/
  rd : Nat
  /-- The NRP predicate, when MODE.NRZ is 1 (R229). -/
  nrp : Option Nat
  /-- The threads active at issue, whose bits of it a uniform-class load writes (R30). -/
  act : Word
  /-- Which atomic or reduction (R233), or which format (R156). -/
  op : Nat
  /-- FTYPE sampled at issue (R234). -/
  ftype : Nat
  accs : List Acc
  /-- The operation's requests have left for the home. -/
  sent : Bool
  /-- The operation is done but for its completion. -/
  done : Bool
  /-- FLAGS bits that merge on completion (R62). -/
  fl : Nat
  /-- The completion time its report waits for (R258). -/
  time : Nat
  /-- The instruction's address (R476). -/
  pc : Quad
  /-- A WMAPI command that waits: index of its TXW entry (R369). -/
  win : Option Nat
  /-- Receiving chips not yet acknowledged, as (path, sequence) pairs (R242). -/
  acks : List (Nat × Nat)
deriving DecidableEq, Repr, Inhabited

/-- A group (level 3 of R12) and all its per-group storage. -/
structure Group where
  /-- Placed on a core (R411). -/
  present : Bool
  /-- The context slot it belongs to. -/
  ctx : Nat
  /-- Lane and position on it (R73, R411). -/
  lane : Nat
  pos : Nat
  /-- ROLE (R71). -/
  role : Word
  /-- v registers, thread t of vr at 32 r + t (R51). -/
  v : Store Word
  /-- s0 to s47 (R51). -/
  s : Store Word
  /-- p0 to p7 (R51). -/
  p : Store Word
  /-- FLAGS (R60). -/
  flags : Word
  /-- SRGEN (R82). -/
  srgen : Word
  /-- GANG (R70). -/
  gang : Word
  /-- The reconvergence stack's entries held in hardware, newest first, at most 16 (R66). -/
  stk : List StkEntry
  /-- How many older entries lie in the stack area (R66). -/
  spilled : Nat
  /-- The fragment table, entries 0 to 7 (R68). -/
  frags : Store Frag
  /-- RGNCNT and the region entry address (R72); RGNX, RGNMSK, RGNMODE (R415). -/
  rgncnt : Word
  rgnpc : Quad
  rgnx : Word
  rgnmsk : Word
  rgnmode : Word
  /-- The time latch, none before the first read of GTLO (R74). -/
  latch : Option Quad
  /-- md0 to md3, word w of slot j at 8 j + w (R160). -/
  md : Store Word
  /-- Pending operations, oldest first. -/
  pend : List Pend
  /-- The cause with which the group is frozen as a violating master (R419, R421). -/
  viol : Option Nat
  /-- No fragment is live and the group waits for its operations (R109). -/
  ending : Bool
  /-- It ends by YIELD (R110). -/
  yielded : Bool
  /-- Stopped by a forced save: none of its fragments issues and no wait ends (R423, R424). -/
  saved : Bool
  /-- It is rolled back to its region entry once its operations have completed (R424, R432). -/
  roll : Bool
  /-- Recreated from a record: it does not issue while token grants to restored points of its context are
  outstanding (R336). -/
  rest : Bool
  /-- The fragment whose instruction stalls on a full completion flag: no later one of the group issues (R35). -/
  stall : Option Nat
  /-- Traps taken by the group (the model's own), and for each thread its last: number × 256 + cause (R73). -/
  traps : Nat
  last : Store Nat
deriving DecidableEq, Repr, Inhabited

/-- A block barrier (R116). -/
structure Bar where
  expect : Nat
  count : Nat
  phase : Nat
deriving DecidableEq, Repr, Inhabited

/-- A local-store bank's state byte (R203); DRAIN is set while an exit action runs. -/
structure Bank where
  /-- The launch header gave the bank to a block (R411). -/
  owned : Bool
  mode : Nat
  blk : Nat
  drain : Bool
  /-- The BANKM operation that drains: group and operation number (R205). -/
  by_ : Nat × Nat
  /-- The exit action still has to begin, with the mode being left (R205, R206). -/
  left : Option Nat
  /-- Requests below this number include the write-backs of the exit action. -/
  bound : Nat
deriving DecidableEq, Repr, Inhabited

/-- The tag of an L1 line (R208). The 192-bit DIRTY and 4-bit SV are numbers; `line` is the line's key
(tier, frame and line index together). -/
structure L1Tag where
  v : Bool
  line : Nat
  lease : Nat
  sv : Nat
  dirty : Nat
  rrpv : Nat := 3
deriving DecidableEq, Repr, Inhabited

/-- A line's state at its home (R213, R214). -/
structure L2Line where
  /-- Held in the slice. -/
  held : Bool
  leasemax : Nat
  /-- Dirty sectors. -/
  dirty : Nat
  /-- The context slot that pins the line, plus one; 0 when unpinned. -/
  pin : Nat
  /-- The page through whose PL the line was pinned, plus one; 0 when an OPPIN pinned it (R214). -/
  pinPage : Nat
  /-- For a line of far memory: blocks, and the sectors that their writes touched since these were written back (R215,
  R240). -/
  farBy : List (Nat × Nat)
deriving DecidableEq, Repr, Inhabited

/-- What a request to a home does there (R248). -/
inductive HwKind where
  /-- A masked write: bytes at offsets of the line. -/
  | masked
  /-- An atomic: the thread accesses of the operation in ascending thread order. -/
  | atomic
  /-- AMAXR or SCALEQ on an amax entry (R91). -/
  | amax
deriving DecidableEq, Repr, Inhabited

/-- A write on its way to its home (R248, R261). -/
structure HomeReq where
  id : Nat
  /-- The issuing block (4 × core + block); none for an agent outside the cores. -/
  blk : Option Nat
  /-- The group and its operation that the request belongs to, if any. -/
  own : Option (Nat × Nat)
  kind : HwKind
  /-- The line (see `lineOf`). -/
  line : Nat
  /-- The line at which it is performed, once a migration has moved its line (R220). -/
  dest : Option Nat
  /-- Physical addresses and bytes of a masked write. -/
  bytes : List (Nat × Byte)
  /-- The accesses of an atomic, or of a window reduction, that lie in the line, in ascending thread
  order. -/
  accs : List Acc
  /-- FTYPE of an atomic (R234). -/
  ftype : Nat
  /-- A window write: TXW entry and the byte offset of the store in the window (R261). -/
  win : Option (Nat × Nat)
  /-- What else the request carries of a window reduction: opcode and operand (R372). -/
  op : Nat
  /-- Written back from an L1 (R210). -/
  wb : Bool
deriving DecidableEq, Repr, Inhabited

/-- One group's part of a matrix or attention operation: what it sampled at its arrival (R163, R169), and
then its results. -/
structure Member where
  g : Nat
  f : Nat
  pc : Quad
  gang : Word
  /-- Arrived from a HANDLER fragment (R180). -/
  hnd : Bool
  /-- Operations of the part before the arrival have smaller numbers (R178). -/
  num : Nat
  /-- The scratch bank list at the arrival (R204). -/
  banks : List Nat
  /-- Opcode, selector bits (R183), the descriptor slot's image and MODE. -/
  op : Nat
  sel : Nat
  img : Nat
  mode : Word
  /-- Base of the accumulator fragment (R172), and the other register written: λ of AFIN, D of AROW. -/
  frag : Option Nat
  out : Option Nat
  /-- The A operand of each thread; the l source of ARST. -/
  xs : List Word
  ys : List Word
  /-- ASCORE's strip offset (R192). -/
  strip : Option Nat
  /-- Vector registers that the scoreboard holds (R177, R199). -/
  regs : List Nat
  /-- The group's operation, once released. -/
  id : Nat
  /-- Results: thread t of register r at 32 r + t. -/
  res : Store Word
  fl : Nat
  /-- Completed for this member (R175). -/
  fin : Bool
deriving DecidableEq, Repr, Inhabited

/-- A rendezvous at the Cinch (R163). Those of a core beyond the sixteenth wait for an entry (R166). -/
structure Rdv where
  id : Nat
  /-- Block (4 × core + block) and GANG value. -/
  blk : Nat
  gang : Word
  arrs : List Member
deriving DecidableEq, Repr, Inhabited

/-- An operation in a core's engine queue (R176), with the scratch bank list that its last member's arrival sampled (R204). -/
structure MatOp where
  id : Nat
  core : Nat
  op : Nat
  mem : List Member
  perf : Bool
  banks : List Nat
  /-- What 16-byte scratch words held before stores that were performed since the release: word index in the local
  store, and its bytes (R179). -/
  olds : List (Nat × List Byte)
deriving DecidableEq, Repr, Inhabited

/-- A row-state slot (R187): word 0 of row r, M, at 3 r, L at 3 r + 1, ALPHA at 3 r + 2; probability j of
row r at 64 r + j, encoded in PF. -/
structure RowSlot where
  bound : Bool
  blk : Nat
  pf : Nat
  row : Store Word
  p : Store Word
deriving DecidableEq, Repr, Inhabited

/-- A streamer ring object (R275) with its FMASK (R294). -/
structure Ring where
  dmask : Nat
  rp : Nat
  ap : Nat
  fp : Nat
  wp : Nat
  valid : Bool
  nslot : Nat
  slotl : Nat
  base : Nat
  fmask : Nat
deriving DecidableEq, Repr, Inhabited

/-- A block of a core (level 5 of R12). -/
structure Block where
  present : Bool
  ctx : Nat
  /-- Latest completion time returned to the block (R239). -/
  lct : Nat
  /-- b0 to b7 (R116). -/
  bars : Store Bar
  /-- ring0 to ring15 (R275). -/
  rings : Store Ring
  /-- QSTAT0 to QSTAT3, words 0 and 1 at 2 k and 2 k + 1 (R300). -/
  qstat : Store Quad
  /-- The block has read its YIELD descriptor. -/
  yielded : Bool
  /-- Force-saved: frozen until the save is written (R426). -/
  saved : Bool
  /-- A forced save of the block was decided, or its deadline has passed (R423, R424). -/
  saving : Bool
  /-- Streamer queues of the block frozen as violating masters, as a mask (R300, R421). -/
  qfrz : Nat
  /-- A YIELD descriptor for the block is still to be posted (R273). -/
  due : Bool
deriving DecidableEq, Repr, Inhabited

end Sys2Proof.Machine
end

