-- ==== Sys2Proof/Machine/Chip.lean ====
section
/-! DEFINITION. The pieces of state outside a core's groups and blocks. -/

namespace Sys2Proof.Machine

/-- A context slot: its control registers (R406), the fields of the launch header the part keeps (R409)
and its pre-emption values (R76). -/
structure Ctx where
  ctxid : Nat
  cause : Nat
  /-- STATE: 0 OFF, 1 RUN, 2 DRAIN, 3 SAVED, 4 FAILED (R406). -/
  st : Nat
  ptroot : Quad
  lhdr : Quad
  cores : Quad
  evbase : Quad
  evlog : Nat
  deadln : Nat := 200000
  savebase : Quad
  savesz : Quad
  invlo : Quad
  /-- INVSTAT bit 1 (R406); bit 0 is whether a posted request of the page is outstanding. -/
  invref : Bool
  /-- PREQ (R76). -/
  preq : Nat
  /-- Time of the pre-emption request and the DEADLN that governs it (R76). -/
  preAt : Nat
  preFor : Nat
  /-- The 512-bit mask of cores read at launch (R406). -/
  mask : Nat
  /-- The launch header as read (R409), a 1,536-bit number. -/
  hdr : Nat
  /-- The dispatch serial the next dispatch takes (R469). -/
  serial : Nat
  /-- Physical addresses of the pages that hold the event table, as LAUNCH found them (R310). -/
  evpages : List Nat
  /-- FORCED points whose tokens a RESUME still waits for; the context's groups do not issue (R336). -/
  hold : Bool
  /-- A RESUME that waits for operator slots or line entries: VA of the next frontier record and how many
  remain (R427). -/
  resuming : Nat × Nat
  /-- Groups that ended by YIELD since the context last began to run: a RESUME creates them anew (R110). -/
  yielded : List Nat
deriving DecidableEq, Repr, Inhabited

/-- An entry of a translation cache (R350). Caches: 0 to 511 the cores' L1 TLBs, 512 to 543 the clusters'
L2 TLBs, 544 to 547 the compute dies' engine TLBs, 548 the OSD's. Kinds: 0 small leaf, 1 large leaf,
2 huge leaf, 3 pointer from level 0, 4 pointer from level 1. `base` is the page index without the bits
the entry covers. -/
structure TlbEnt where
  cache : Nat
  ctx : Nat
  kind : Nat
  base : Nat
  ent : Nat
deriving DecidableEq, Repr, Inhabited

/-- The contents of a fetch block as a code cache last took them (R40): `unit` is a core, or 512 plus a
cluster; `pa` is the block's physical address. -/
structure CodeVer where
  unit : Nat
  ctx : Nat
  pa : Nat
  bs : List Byte
deriving DecidableEq, Repr, Inhabited

/-- A pinned code-cache line (R122). -/
structure CodePin where
  unit : Nat
  ctx : Nat
  line : Nat
deriving DecidableEq, Repr, Inhabited

/-- A window write that its home has performed and that is not yet acknowledged by every receiver (R262,
R366): its key of R262, the TXW image it was performed under (R369), and its fate at each destination. -/
structure ReflWrite where
  id : Nat
  /-- Issuing group and operation (R242). -/
  g : Nat
  op : Nat
  /-- TXW entry and its image at the time of performance. -/
  ent : Nat
  img : Nat
  /-- Completion time, home slice and performance order (R262). -/
  time : Nat
  slice : Nat
  order : Nat
  /-- Offset within the window, and the bytes with their offsets. -/
  v : Nat
  bytes : List (Nat × Byte)
  /-- 0 a store; else the opcode of a reduction with its operand (R372). -/
  red : Nat
  x : Word
  /-- Destinations the write has not been forwarded to. -/
  todo : List Nat
  /-- Destinations it was forwarded to, with the sequence number, not acknowledged. -/
  sent : List (Nat × Nat)
  /-- It has been forwarded to some destination. -/
  fwd : Bool
  /-- Destinations whose path closed first, with the wait status of R242: 2 PEER_CLOSED, 3 PATH_DOWN. -/
  lost : List (Nat × Nat)
  /-- CTXID of the paths. -/
  ctx : Nat
  /-- The 16-byte message of an event-window write (R371); empty for a write of a window. -/
  msg : List Byte
deriving DecidableEq, Repr, Inhabited

/-- A migration in a tensor copy engine (R219, R220, R356). -/
structure Mig where
  /-- 0 none, 2 copying and retrying, 3 redirecting, 4 waiting for its invalidation, 5 ended but for its result. -/
  phase : Nat
  /-- The context slot whose OSD event the result is added to. -/
  slot : Nat
  stier : Nat
  sframe : Nat
  dtier : Nat
  dframe : Nat
  ptea : Nat
  event : Nat
  retry : Nat
  tries : Nat
  /-- The dirty filter and the redirected lines, 512 bits each. -/
  filter : Nat
  moved : Nat
  /-- Number of the invalidation it waits for. -/
  inval : Nat
  /-- 0 while it runs; then 1 DONE, 2 ABANDONED, 3 FAULT. -/
  result : Nat
  /-- Greatest completion time of its writes (R258). -/
  time : Nat
deriving DecidableEq, Repr, Inhabited

/-- An entry of a tensor copy engine's queue (R256): a migration command of a context slot (R219), or point `l` of the
operator in slot `slot` (R308). -/
structure TceCmd where
  mig : Bool
  slot : Nat
  l : Nat
  cmd : Nat
deriving DecidableEq, Repr, Inhabited

/-- A Dynamic Capacity extent (R217, R218). -/
structure Extent where
  /-- 0 none, 1 accepted, 2 force-released. -/
  st : Nat
  port : Nat
  base : Nat
  len : Nat
  tag : Nat
  /-- First tier-1 frame and number of frames. -/
  first : Nat
  n : Nat
  /-- An orderly release is under way (R218). -/
  going : Bool
deriving DecidableEq, Repr, Inhabited

/-- An entry of the bad-frame list (R358). -/
structure BadFrame where
  pend : Bool
  /-- A lease reset has passed since the entry was appended: unless committed, the following boot drops it (R359). -/
  old : Bool
  reason : Nat
  frame : Nat
deriving DecidableEq, Repr, Inhabited

/-- A fault record (R277): context id, page, and the bit of KINDS (R278). `own` is the group and fragment
or operation that waits for its acceptance. -/
structure FaultRec where
  ctx : Nat
  page : Nat
  kind : Nat
  own : Option (Nat × Nat)
deriving DecidableEq, Repr, Inhabited

/-- A record ring in memory with its registers and pending buffer (R279, R422, R451). -/
structure RecRing where
  base : Quad
  log : Nat
  tail : Word
  head : Word
  ovf : Nat
  buf : List (List Byte)
deriving DecidableEq, Repr, Inhabited

/-- The fault batches (R277, R278): the open batch with the time of its first record, the ranges still
to be delivered, and the records no batch has room for. -/
structure FaultQ where
  opened : List FaultRec
  since : Nat
  deliver : List (List Byte)
  /-- How many records the batch being delivered holds in the buffer. -/
  held : Nat
  waiting : List FaultRec
  tmr : Nat
  cnt : Nat
deriving DecidableEq, Repr, Inhabited

/-- An entry of the fault-address queue (R357). -/
structure FaqEnt where
  time : Nat
  count : Nat
  tier : Nat
  frame : Nat
deriving DecidableEq, Repr, Inhabited

/-- A path record (R364) with WCNT (R403); DIR 1 is a receive record. -/
structure Path where
  used : Bool
  ctx : Nat
  peer : Nat
  recv : Bool
  /-- STATE: 0 IDLE, 1 OPEN, 2 DOWN, 3 SHUT. -/
  st : Nat
  gen : Nat
  seqa : Word
  seqb : Word
  wcnt : Nat
  /-- A receive record that no path reset has given a generation yet: the first write sets GEN. -/
  virgin : Bool
  /-- When the oldest unacknowledged write was forwarded, or an acknowledgement last came (R365). -/
  since : Nat
  /-- Completion time of the last write applied (R263), and the last number acknowledged to the peer. -/
  atime : Nat
  acked : Word
  /-- A received close marker that still waits for its writes (R365). -/
  close : Option Word
deriving DecidableEq, Repr, Inhabited

/-- A flit's content (R441 to R443); CRC and FSEQ belong to a hop. The payload is 224 bytes. -/
structure Flit where
  src : Nat
  dst : Nat
  ctx : Nat
  kind : Nat
  gen : Nat
  sealed : Bool
  pseq : Word
  payload : List Byte
  tag : List Byte
deriving DecidableEq, Repr, Inhabited

/-- A key slot (R368); `owner` is the context slot that owns it plus one, 0 for none. -/
structure Key where
  key : Nat
  kid : Word
  owner : Nat
deriving DecidableEq, Repr, Inhabited

/-- An invalidation request on its way (R351, R352). -/
structure Inv where
  id : Nat
  /-- 0 RANGE, 1 CONTEXT, 2 ALL. -/
  kind : Nat
  ctx : Nat
  page : Nat
  count : Nat
  walk : Bool
  /-- The TLBI that posted it: group and operation. -/
  own : Option (Nat × Nat)
  /-- The context slot whose INVHI posted it, plus one. -/
  slot : Nat
  /-- It has reached every cache; operations numbered below `bound` must still be performed. -/
  reached : Bool
  bound : Nat
deriving DecidableEq, Repr, Inhabited

/-- A stream (R268). -/
structure Stream where
  /-- 0 OFF, 1 RUN, 2 HELD, 3 ERROR. -/
  st : Nat
  cause : Nat
  prio : Nat
  logsz : Nat := 4
  lseq : Word
  ti : Word
  hi : Word
  sbase : Quad
  shadow : Quad
  /-- How many operators the stream has decoded: the next one's number. -/
  dec : Nat
  /-- When the stream began to wait for a slot or line entries, as a number; 0 when it does not wait. -/
  waiting : Nat
  /-- Decoding holds: the instruction at HI waits for an event, for completions, or for TI (R305). -/
  held : Bool
deriving DecidableEq, Repr, Inhabited

/-- A line entry (R330). -/
structure Line where
  h : Nat
  done : Nat
  fired : Nat
deriving DecidableEq, Repr, Inhabited

/-- How far a fired point has come (R335). -/
inductive PtState where
  /-- Fired, its predecessor count not yet 0 or its job not yet dispatched. -/
  | fired
  /-- Its descriptor is posted in a mailbox. -/
  | posted
  /-- Its job is taken, or its copy runs on a tensor copy engine. -/
  | taken
  | forced
deriving DecidableEq, Repr, Inhabited

/-- A point that has fired and not retired (R314, R335): which waits are still unreached, the tokens'
state (0 not requested or none needed, 1 requested, 2 granted), and its job. -/
structure Point where
  l : Nat
  st : PtState
  wait0 : Bool
  wait1 : Bool
  tok : Nat
  jobid : Word
  /-- The core and block of its job; for an OPCOPY point that is taken, the engine. -/
  core : Nat
  blk : Nat
  /-- An OPCOPY point's copy has been performed, with its greatest completion time, or has faulted. -/
  perf : Bool
  flt : Bool
  time : Nat
deriving DecidableEq, Repr, Inhabited

/-- An operator slot (R305, R330, R341). -/
structure OpSlot where
  used : Bool
  ctx : Nat
  stream : Nat
  /-- Position in the stream's decode order, and in the chip's (R316). -/
  num : Nat
  age : Nat
  /-- The instruction (R304), its address (R337), and OPCOPY's descriptor (R308). -/
  ins : Nat
  opa : Quad
  copy : Nat
  lines : Store Line
  points : List Point
  drain : Bool
  bndfrz : Bool
  copyflt : Bool
  /-- Its stream has been reset since its decode (R329, R330). -/
  rst : Bool
deriving DecidableEq, Repr, Inhabited

/-- An operator that a save took out of its slot and that is not loaded again (R305, R336): context slot, stream, the operator
slot and the time in its record, and its number in the stream. -/
structure Away where
  ctx : Nat
  stream : Nat
  slot : Nat
  time : Nat
  num : Nat
deriving DecidableEq, Repr, Inhabited

/-- An OPSIG, OPPIN or OPAMAX that has been decoded and not completed (R305). -/
structure PendOp where
  ctx : Nat
  stream : Nat
  num : Nat
  ins : Nat
deriving DecidableEq, Repr, Inhabited

/-- A token request (R315): priority, operator slot, point, tokens; `forced` marks a restored point. -/
structure TokReq where
  prio : Nat
  slot : Nat
  l : Nat
  pwr : Nat
  forced : Bool
deriving DecidableEq, Repr, Inhabited

/-- A POSTED mailbox entry (R272, R318): KIND 0 RUN, 1 YIELD, 2 STOP; `blk` is the target of the last two. -/
structure Mail where
  kind : Nat
  blk : Nat
  ctx : Nat
  slot : Nat
  l : Nat
  words : List Word
deriving DecidableEq, Repr, Inhabited

/-- A streamer command, or a fence entry of a QFNC (R274, R299). -/
structure Cmd where
  id : Nat
  /-- Opcode: 0xB0 to 0xB5, or 0xBA for a fence entry. -/
  op : Nat
  g : Nat
  /-- The group's operation. -/
  pend : Nat
  /-- Field D of the instruction: queue, spaces, ring. -/
  sel : Nat
  regs : List Word
  /-- B: the event, or CPYG's table. -/
  ev : Word
  /-- Scratch and FIFO bank lists sampled at issue (R204). -/
  banks : List Nat
  fifo : List Nat
  active : Bool
  /-- Row and chunk to be moved next. -/
  row : Nat
  chunk : Nat
  /-- Every chunk has been moved. -/
  moved : Bool
  /-- The counted slot a CPYR claimed. -/
  slot : Option Nat
  /-- The ring's record as claimed. -/
  ring : Ring
  /-- Cause of the fault that ended it. -/
  fault : Option Nat
  fl : Nat
  /-- Greatest completion time of its writes (R258). -/
  time : Nat
  /-- A CPYG's index of the row in hand, read once for the row (R287). -/
  idx : Option Nat
  /-- What 16-byte words that it may read held before writes that were performed since it became ACTIVE (R257): local-store
  words by index, words of physical memory from 2^60 on. -/
  olds : List (Nat × List Byte)
deriving DecidableEq, Repr, Inhabited

/-- A write that a Skiver has decided on (R381), at the physical addresses of its bytes. -/
inductive KvWrite where
  | bytes (ps : List Nat) (bs : List Byte)
  /-- A record in an amax entry (R91). -/
  | record (ps : List Nat) (w : Word)
  /-- An addition to a mass counter, which saturates (R397). -/
  | add (ps : List Nat) (n : Nat)
  /-- What MFOLD adds to the counter of a column, summed when it is performed (R397, R399). -/
  | fold (ps : List Nat) (col : Nat)
  /-- A decay of a mass counter (R398). -/
  | shift (ps : List Nat) (n : Nat)
deriving DecidableEq, Repr, Inhabited

/-- A command of a Skiver (R381): the group and fragment that wait for its acceptance, the group's operation,
the registers and bank list sampled at issue. -/
structure KvCmd where
  id : Nat
  op : Nat
  g : Nat
  f : Nat
  pend : Nat
  regs : List Word
  banks : List Nat
  /-- Context slot. -/
  ctx : Nat
  /-- Accepted. -/
  acc : Bool
  fl : Nat
  /-- The writes have been performed; the completion waits for the time (R258). -/
  perf : Bool
  time : Nat
  /-- The writes decided at its acceptance. -/
  plan : List KvWrite
  /-- Where the descriptor lay at its acceptance (R381). -/
  home : Option Nat
  /-- What 16-byte scratch words held before stores performed since it was issued (R257). -/
  olds : List (Nat × List Byte)
deriving DecidableEq, Repr, Inhabited

/-- An optical port (R446). States: 0 OFF, 1 TRAIN, 2 UP, 3 RESTRIPE, 4 DOWN. -/
structure Port where
  /-- The state of the transmit direction and of the receive direction. -/
  st : Nat
  rst : Nat
  /-- Live wavelengths, transmit and receive, as masks (R444). -/
  txlive : Nat
  rxlive : Nat
  /-- Wavelengths that the loss of light took, transmit and receive. -/
  txlost : Nat
  rxlost : Nat
  /-- FSEQ of the next flit, and the newest accepted one (R446). -/
  fseq : Nat
  rseq : Nat
  /-- FSEQ values before the newest accepted one that have not been accepted, oldest first (R446). -/
  miss : List Nat
  /-- Unacknowledged flits with their FSEQ, oldest first; how many of the newest are to be sent again. -/
  replay : List (Nat × Flit)
  again : Nat
  /-- When the oldest unacknowledged flit was sent or the last acknowledgement came. -/
  since : Nat
  /-- The link control word to be sent: the cumulative FSEQ in bits [11:0], bit 31 a negative
  acknowledgement (log entry 27, DESIGN CHOICE). -/
  owed : Option Word
  /-- Beats sent since the port last entered UP (R444). -/
  beat : Nat
  /-- The transmitter is busy until this time, in units of 1/21 gt: a flit takes 24, 32 or 48 of them (R444). -/
  busy : Nat
  /-- The revision in use (R445), 0 for none. -/
  rev : Nat
deriving DecidableEq, Repr, Inhabited

/-- A direction of a firmware command link (R281). -/
structure FwLink where
  /-- Permits spent, 0 to 8. -/
  spent : Nat
  seq : Nat
  /-- Messages delivered and not freed. -/
  msgs : List (List Byte)
  /-- The sender has a message and no permit for it (R281, R282). -/
  want : Bool
deriving DecidableEq, Repr, Inhabited

/-- What the management port keeps of its transport and of the SPDM session (R467). -/
structure Mgmt where
  /-- The MCTP transmission unit, 64 to 256 bytes. -/
  unit : Nat
  /-- The key of the session, and how many of its sealed messages have come and gone. -/
  key : Nat
  came : Nat
  gone : Nat
deriving DecidableEq, Repr, Inhabited

/-- A performance counter (R405). -/
structure Pmc where
  count : Nat
  sel : Nat
deriving DecidableEq, Repr, Inhabited

/-- A request of the host link (R259): an access of device memory or of a control register, or one of the register writes that
have a row of their own. -/
inductive HostReq where
  | write (pa : Nat) (bs : List Byte)
  | read (pa n : Nat)
  | register (bar off size : Nat) (v : Quad)
  | tail (slot k : Nat) (v : Quad)
  | enable (slot k : Nat)
  | rst (slot k : Nat)
  | fqhead (v : Word)
  | vrhead (v : Word)
  | lerhead (v : Word)
  | pool (v : Quad)
  | launch (slot : Nat)
  | preempt (slot : Nat)
  | resume (slot : Nat)
  | kill (slot : Nat)
  | invhi (slot : Nat) (v : Quad)
  | qrel (slot : Nat) (v : Word)
deriving DecidableEq, Repr, Inhabited

/-- A probe token (R282): its origin, the unit it has reached, its hop count. -/
structure Probe where
  origin : Nat
  at_ : Nat
  hops : Nat
deriving DecidableEq, Repr, Inhabited

end Sys2Proof.Machine
end

