-- ==== Sys2Proof/Machine/State.lean ====
section
/-! DEFINITION. The state of the part as plain data, its faults and refusals, and the state after
reset. -/

namespace Sys2Proof.Machine

/-- One move of the part that an agenda names: a lane issues, a step of the part happens, or time
passes. The order in which the agents of the part move is data (log entry 1, DESIGN CHOICE). -/
inductive Turn where
  /-- The ALU of lane `l` of core `c` is free, and the lane issues from the fragment it chooses. -/
  | lane (c l : Nat)
  /-- A step of the part. -/
  | act (i : Instr)
  /-- A code cache of core `c` takes the fetch block at a virtual address of a context, as it stands (R40, R122). -/
  | prefetch (c slot va : Nat)
  /-- A translation cache drops the k-th entry of those held (R350). -/
  | forget (k : Nat)
  /-- The oldest request of the host link that waits is tried again (R259). -/
  | host
  /-- The program of a firmware processor, 0 the GSC or 1 + k LFC k, stores or loads `n` bytes between its SRAM at `a` and a
  virtual address of a context slot, the firmware context's (R459). -/
  | firmware (store : Bool) (proc slot va a n : Nat)
  /-- The bus owner negotiates the MCTP transmission unit (R467). -/
  | mctpUnit (n : Nat)
  /-- The global time advances by `n` gt. -/
  | time (n : Nat)
deriving DecidableEq, Repr, Inhabited

/-- Why the machine stops. -/
inductive Fault where
  /-- The part has no power and nothing outside it gives any (R462): raised by `step`. Safe: nothing
  happens in a part without power. -/
  | noPower
deriving DecidableEq, Repr, Inhabited

/-- Why an instruction has no meaning. -/
inductive Refusal where
  /-- The instruction has no meaning in this model yet; raised by its arm of `exec`. Safe. -/
  | notModelled (mnemonic : String)
deriving DecidableEq, Repr, Inhabited

/-- Everything the manual gives the part, and the model's own fields `fresh`, `agenda`, `curG`, `curF`
and `nextId`. -/
structure State where
  /-- The global time base in gt (R11). -/
  gt : Nat
  /-- The model's own: how many free values have been taken (log entry 3, DESIGN CHOICE). -/
  fresh : Nat
  /-- The model's own: the moves to come, in order (log entry 1, DESIGN CHOICE). -/
  agenda : List Turn
  /-- The model's own: the group and fragment an instruction acts on. -/
  curG : Nat
  curF : Nat
  /-- The model's own: the number of the next operation. -/
  nextId : Nat
  /-- Power is present (R462). -/
  power : Bool
  /-- CHIPID (R10). -/
  chip : Nat
  /-- Physical memory: HBM, far memory, host memory, by physical address (R344). -/
  mem : Store Byte
  /-- The local stores: byte `o` of bank `k` of core `c` at `bankKey c k + o` (R203). -/
  ls : Store Byte
  /-- Bank state bytes, bank k of core c at 32 c + k (R203). -/
  banks : Store Bank
  /-- L1 tags: set t of bank k of core c at 8192 c + 256 k + t (R208). -/
  l1 : Store L1Tag
  /-- Lines at their homes (R213). -/
  l2 : Store L2Line
  /-- EVMAX of each set: slice × 182 + set (R213). -/
  evmax : Store Nat
  /-- Writes on their way to a home, oldest first (R248). -/
  hw : List HomeReq
  /-- Requests that came over the host link and wait behind a posted write, oldest first, and the completion time of the
  last posted write (R259). -/
  hostq : List HostReq
  hostT : Nat
  /-- Groups: group g of block b of core c at 128 c + 32 b + g (R411). -/
  groups : Store Group
  /-- Causes of the violations of groups that were saved frozen: group g of context id c at 2^16 c + g (R437). -/
  viols : Store Nat
  /-- Blocks: block b of core c at 4 c + b. -/
  blocks : Store Block
  /-- The open rendezvous of the Cinches, oldest first (R163). -/
  rdvs : List Rdv
  /-- The engine queues, in order (R176). -/
  mxq : List MatOp
  /-- Row-state slots: slot k of core c at 4 c + k (R187). -/
  rows : Store RowSlot
  /-- The 64 context slots (R453). -/
  ctxs : Store Ctx
  /-- The translation caches (R350). -/
  tlb : List TlbEnt
  /-- Contents the code caches hold, and their pinned lines (R40, R122). -/
  code : List CodeVer
  pins : List CodePin
  /-- Extents of far memory, at most 4,096 (R217). -/
  exts : Store Extent
  /-- The bad-frame list (R358): it survives loss of power. -/
  bad : List BadFrame
  /-- The fault batches and the fault delivery ring (R277 to R279). -/
  fq : FaultQ
  fring : RecRing
  /-- The violation ring (R422) and the link event ring (R451). -/
  vring : RecRing
  lring : RecRing
  /-- The fault-address queue, 64 entries, and its counters (R357). -/
  faq : Store FaqEnt
  faqHead : Word
  faqTail : Word
  faqOvf : Nat
  /-- Pending bits of the 8 MSI-X vectors, and the words of the MSI-X table (R454, R456). -/
  msix : Nat
  msixTab : Store Word
  /-- TXW and RXW entries as 256-bit numbers (R360, R362). -/
  txw : Store Nat
  rxw : Store Nat
  /-- The migrations, by tensor copy engine, 0 to 31 (R356). -/
  migs : Store Mig
  /-- The commands that wait in a tensor copy engine's queue, oldest first (R256). -/
  tceq : Store (List TceCmd)
  /-- Window writes performed and not acknowledged (R262). -/
  refl : List ReflWrite
  /-- Until which time each slice has reported its window writes (R262). -/
  rep : Store Nat
  /-- The 4,096 path records (R364). -/
  paths : Store Path
  /-- Flits received and not applied, oldest first. -/
  rxq : List Flit
  /-- Multicast groups: group m of context slot c at 64 c + m, a mask of chips (R360). -/
  mcast : Store Nat
  /-- The key slots (R368). -/
  keys : Store Key
  /-- The subscription table: CTXID, index, chip (R371). -/
  subs : List (Nat × Nat × Nat)
  /-- Uncorrectable errors that the OSD is to meet in an event table: context slot, and the tier and the frame, or line, of the
  error (R310). -/
  evBad : List (Nat × Nat × Nat)
  /-- Subscriptions made here: CTXID, index, owning chip (R371, log entry 21, DEDUCED). -/
  mirrors : List (Nat × Nat × Nat)
  /-- Invalidations on their way (R352). -/
  invs : List Inv
  /-- Streams: stream k of context slot c at 64 c + k (R268). -/
  streams : Store Stream
  /-- The 64 operator slots (R305). -/
  ops : Store OpSlot
  /-- OPSIG and OPAMAX operators not completed. -/
  pops : List PendOp
  /-- Operators saved and not loaded again, which have not completed (R305, R336). -/
  away : List Away
  /-- Token requests in FIFO order, and the PTA's POOL and GRANT (R315, R400). -/
  tokq : List TokReq
  pool : Nat
  grant : Nat
  /-- Dispatches made at each priority since each stream was last served: 512 × priority share (R316). -/
  share : Store Nat
  /-- When the shadow words were last read (R271). -/
  recon : Nat
  /-- Mailboxes: the POSTED entries of each core, oldest first (R272). -/
  mbox : Store (List Mail)
  /-- The LFCs' placement tables as the cores excluded: slot k of cluster c at 64 c + k (R317). -/
  placeOff : Store Nat
  /-- Streamer queues: queue q of core c at 4 c + q (R274). -/
  strq : Store (List Cmd)
  /-- AMAX0 to AMAX3 of core c at 4 c + q (R291). -/
  lbmax : Store Word
  /-- The Skivers' queues, by die (R380). -/
  kvq : Store (List KvCmd)
  /-- The optical ports (R446), the local links that are up with their PREV (R439), the send queues of the bridge dies: the queue
  of die k to chip d at 1,024 k + d (R450). -/
  ports : Store Port
  /-- The hop key of each optical port, and of local link k at 64 + k, plus one; 0 before the GSC has installed one (R443). -/
  hopKeys : Store Nat
  locs : Store Nat
  optq : Store (List Flit)
  /-- Acknowledgements, markers and flits in transit that find no room in the optical send queues, oldest first (R450). -/
  optw : List Flit
  /-- SLOTCTL and EPOCH (R447); NSLOT as the field holds it, slots per rotation minus 1. -/
  slotlen : Nat
  guard : Nat
  nslot : Nat
  swap : Bool
  slotEn : Bool
  epoch : Nat
  /-- The slot in progress, counted from EPOCH, and the rotation that last began, or in which EN was set
  (R448, R449). -/
  slotCur : Option Nat
  rot : Option Nat
  /-- The two banks of slot entries: slot k of port p at 64 k + p (R449); the budget spent in the slot, by
  destination. -/
  slotAct : Store Nat
  slotShd : Store Nat
  spent : Store Nat
  /-- What the part has put on its outputs, oldest first: local link k as k, optical port p as 32 + p (the bytes of a flit, then
  the wavelength of each of its beats), host reads as 96, the management port as 97 and its in-band interrupts as 99, the owners of
  far memory as 98, a command link as 128 + link. -/
  out : List (Nat × List Byte)
  /-- Firmware links: to LFC k at 2 k, from it at 2 k + 1 (R281); frozen LFCs, by number. -/
  fw : Store FwLink
  lfcFrozen : List Nat
  /-- The private SRAM of the firmware processors: an address of the GSC as it is, of LFC k at 2^64 (k + 1) (R459). -/
  sram : Store Byte
  /-- Probe tokens, the queues whose reserve entry is in use, and the EMERG counters by class (R282). -/
  probes : List Probe
  /-- Since when a unit was found blocked on its full queue, plus one (R282). -/
  blocked : Store Nat
  reserve : List Nat
  emerg : Store Nat
  /-- Performance counters: k of cluster c at 16 c + k, k of bridge die b at 512 + 8 b + k (R405). -/
  pmc : Store Pmc
  /-- Registers of R457: PTMO, APBASE, CETHR, THERM 0 to 5, TJHOT, THSTAT. -/
  ptmo : Nat
  apbase : Nat
  cethr : Nat
  therm : Store Nat
  tjhot : Nat
  thstat : Nat
  /-- The processors are held in reset: by the LRC, by the thermal trip (R462, R468). -/
  lrcHold : Bool
  tripHold : Bool
  /-- Corrected errors by frame, tier-1 frames from 2^36 on (R464). -/
  ecc : Store Nat
  /-- Status of BFAPP on read (R458). -/
  bfstat : Nat
  /-- The flash flag SCRUBPEND and the SVN floors: they survive loss of power (R460, R462). -/
  scrubPend : Bool
  svn : Store Nat
  /-- The lease-reset controller: REQCNT, START, the nonce, the published record (R462, R463). -/
  reqcnt : Nat
  lrcStart : Nat
  nonce : Nat
  /-- The nonce of the reset under way (R462). -/
  lrcNonce : Nat
  scrubRec : List Byte
  /-- The owner's joint key hash is fused; the tenant key register (R461). -/
  tenantKey : List Byte
  /-- SHA-384 of the running GSC manifest and of the LFC image table (R467); the image that runs: 0 none, 1
  the manifest's, 2 the recovery image, 3 halted (R460). -/
  manHash : List Byte
  lfcHash : List Byte
  image : Nat
  /-- The LFC images of the running manifest have been loaded and verified, and the LFCs and the cores released (R460). -/
  lfcUp : Bool
  /-- The management port: I3C dynamic address, MCTP EID; the SPDM session (R467). -/
  i3c : Nat
  eid : Nat
  spdmVer : Bool
  spdmAlg : Bool
  session : Nat
  /-- What the management port keeps of its transport and of the session (R467). -/
  mgmt : Mgmt
  chunkIn : List Byte
  chunkNext : Nat
  chunkOut : List Byte
deriving DecidableEq, Repr, Inhabited

/-- A record ring at reset: no address, the smallest size, nothing in it (log entry 30, PRESUMED). -/
def RecRing.reset : RecRing := ⟨0#64, 6, 0#32, 0#32, 0, []⟩

/-- The part right after reset (R6, R401, R460): powered, the time base 0, every table at its reset value,
memory with nothing listed, and its processors held until stage 0 has run an image (log entry 31, DEDUCED). -/
def State.reset : State where
  gt := 0
  fresh := 0
  agenda := []
  curG := 0
  curF := 0
  nextId := 0
  power := true
  chip := 0
  mem := []
  ls := []
  banks := []
  l1 := []
  l2 := []
  evmax := []
  hw := []
  hostq := []
  hostT := 0
  groups := []
  viols := []
  blocks := []
  rdvs := []
  mxq := []
  rows := []
  ctxs := []
  tlb := []
  code := []
  pins := []
  exts := []
  bad := []
  fq := ⟨[], 0, [], 0, [], 20000, 256⟩
  fring := RecRing.reset
  vring := RecRing.reset
  lring := RecRing.reset
  faq := []
  faqHead := 0#32
  faqTail := 0#32
  faqOvf := 0
  msix := 0
  msixTab := []
  txw := []
  rxw := []
  migs := []
  tceq := []
  refl := []
  rep := []
  paths := []
  rxq := []
  mcast := []
  keys := []
  subs := []
  evBad := []
  mirrors := []
  invs := []
  streams := []
  ops := []
  pops := []
  away := []
  tokq := []
  pool := 4096
  grant := 0
  share := []
  recon := 0
  mbox := []
  placeOff := []
  strq := []
  lbmax := []
  kvq := []
  ports := []
  hopKeys := []
  locs := []
  optq := []
  optw := []
  slotlen := 10000
  guard := 500
  nslot := 0
  swap := false
  slotEn := false
  epoch := 0
  slotCur := none
  rot := none
  slotAct := []
  slotShd := []
  spent := []
  out := []
  fw := []
  lfcFrozen := []
  sram := []
  probes := []
  blocked := []
  reserve := []
  emerg := []
  pmc := []
  ptmo := 1000000
  apbase := 0
  cethr := 16
  therm := []
  tjhot := 380
  thstat := 0
  lrcHold := false
  tripHold := false
  ecc := []
  bfstat := 0
  scrubPend := false
  svn := []
  reqcnt := 0
  lrcStart := 0
  nonce := 0
  lrcNonce := 0
  scrubRec := []
  tenantKey := []
  manHash := []
  lfcHash := []
  image := 0
  lfcUp := false
  i3c := 0
  eid := 0
  spdmVer := false
  spdmAlg := false
  session := 0
  mgmt := ⟨64, 0, 0, 0⟩
  chunkIn := []
  chunkNext := 0
  chunkOut := []

end Sys2Proof.Machine
end

