-- ==== Sys2Proof/Machine/Xlate.lean ====
section
/-! DEFINITION. Address translation (R343 to R350): the walk through three tables, large and huge pages,
the translation caches, and which frames exist. Physical addresses are numbers of 52 bits (R344). -/

namespace Sys2Proof.Machine

/-- Bytes of a frame (R343). -/
def frameBytes : Nat := 98304

/-- The first virtual address beyond the range (R224). -/
def vaEnd : Nat := 2 ^ 36 * 98304

/-- The physical address of a byte: space in [51:50], frame and offset below (R344). -/
def paOf (space frame o : Nat) : Nat := space * 2 ^ 50 + frame * frameBytes + o

/-- The space and the frame number within it that TIER and FRAME select (R344). -/
def spaceOf (tier frame : Nat) : Nat × Nat :=
  if tier = 0 then (0, frame)
  else if frame / 2 ^ 35 % 2 = 0 then (1, frame % 2 ^ 35)
  else (2, frame % 2 ^ 35)

/-- The space of a physical address. -/
def paSpace (pa : Nat) : Nat := pa / 2 ^ 50 % 4

/-- The frame of a physical address within its space. -/
def paFrame (pa : Nat) : Nat := pa % 2 ^ 50 / frameBytes

/-- The line of a physical address: n of R212 with the space above it. -/
def lineOf (pa : Nat) : Nat := paSpace pa * 2 ^ 48 + pa % 2 ^ 50 / 192

/-- The physical address of a line's first byte. -/
def linePa (l : Nat) : Nat := l / 2 ^ 48 * 2 ^ 50 + l % 2 ^ 48 * 192

/-- The home slice of a line and its set there (R212). -/
def homeOf (l : Nat) : Nat × Nat :=
  let n := l % 2 ^ 48
  let t := l / 2 ^ 48
  let h := (bits n 11 0) ^^^ (bits n 23 12) ^^^ (bits n 35 24) ^^^ ((bits n 48 36) ^^^ (t * 2 ^ 12))
  (h % 384, n / 384 % 182)

/-- Is a frame in the bad-frame list's exclusion table (R358)? -/
def badFrame (s : State) (f : Nat) : Bool := s.bad.any fun b => b.frame == f

/-- What a tier-1 frame is: 0 in no extent, 1 in an accepted one, 2 in a force-released one (R348). -/
def farState (s : State) (f : Nat) : Nat :=
  s.exts.foldl (fun acc e =>
    if e.2.st ≠ 0 ∧ e.2.first ≤ f ∧ f < e.2.first + e.2.n then Nat.max acc e.2.st else acc) 0

/-- The fate of a frame in the walk (R348): 0 refused, 1 accepted, 2 force-released. -/
def frameFate (s : State) (space f : Nat) : Nat :=
  match space with
  | 0 => if f ≤ 8388599 && !badFrame s f then 1 else 0
  | 1 => farState s f
  | 2 => if f ≤ 11453246122 then 1 else 0
  | _ => 0

/-- The canonical form of memory: addresses strictly rise and no listed byte is 0, which an unlisted address reads as
(log entry 2, DESIGN CHOICE). -/
def Memory.wf (m : List Host.Cell) : Bool := Store.wf m

/-- A byte of physical memory. -/
def memByte (s : State) (pa : Nat) : Byte := Store.get s.mem pa

/-- Bytes of physical memory. -/
def memBytes (s : State) (pa n : Nat) : List Byte := Store.getList s.mem pa n

/-- Writes bytes of physical memory, as a home performs them. -/
def memPut (s : State) (pa : Nat) (bs : List Byte) : State := { s with mem := Store.setList s.mem pa bs }

/-- Little-endian number of physical memory. -/
def memNat (s : State) (pa n : Nat) : Nat := leNat (memBytes s pa n)

/-- The offset of a physical address in its line. -/
def lineOff (pa : Nat) : Nat := pa % 2 ^ 50 % 192

/-- The line at which requests for a line are performed: the new one, once a migration has redirected it
(R220). -/
def redirectLine (s : State) (line : Nat) : Nat :=
  match s.migs.find? fun e => (e.2.phase == 3 || e.2.phase == 4) &&
      bit e.2.moved (line % 512) && line / 512 == (spaceOf e.2.stier e.2.sframe).1 * 2 ^ 48 / 512 + (spaceOf e.2.stier e.2.sframe).2 with
  | some (_, m) => (spaceOf m.dtier m.dframe).1 * 2 ^ 48 + (spaceOf m.dtier m.dframe).2 * 512 + line % 512
  | none => line

/-- A byte as its home holds it (R220). -/
def homeByte (s : State) (pa : Nat) : Byte := memByte s (linePa (redirectLine s (lineOf pa)) + lineOff pa)

/-- A little-endian number of `n` bytes as their homes hold them. -/
def homeNat (s : State) (pa n : Nat) : Nat := leNat ((List.range n).map fun i => homeByte s (pa + i))

/-- Fields of a page-table entry (R347). -/
def pteFrame (e : Nat) : Nat := bits e 47 12
def pteSub (e : Nat) : Nat := bits e 10 9
def pteC (e : Nat) : Bool := bit e 8
def pteMig (e : Nat) : Bool := bit e 7
def pteTier (e : Nat) : Nat := bits e 6 6
def ptePl (e : Nat) : Bool := bit e 5
def pteLg (e : Nat) : Bool := bit e 4
def pteX (e : Nat) : Bool := bit e 3
def pteW (e : Nat) : Bool := bit e 2
def pteT (e : Nat) : Bool := bit e 1
def pteV (e : Nat) : Bool := bit e 0

/-- The physical address of the table that a pointer names (R345). -/
def tableOf (e : Nat) : Nat :=
  let (sp, f) := spaceOf (pteTier e) (pteFrame e)
  paOf sp f (32768 * pteSub e)

/-- The checks of R348 that the entry alone shows: reserved bits, T, SUB and LG at a level. -/
def pteShape (lvl e : Nat) : Bool :=
  bits e 63 48 == 0 && !bit e 11 &&
  !(!pteT e && lvl == 0) && !(pteT e && lvl == 2) &&
  !(pteT e && pteSub e == 3) && !(!pteT e && pteSub e != 0) &&
  !(pteLg e && lvl != 2) && !(lvl == 1 && !pteT e && pteFrame e % 4096 != 0)

/-- A leaf as it maps one page. -/
structure Leaf where
  space : Nat
  frame : Nat
  w : Bool
  x : Bool
  pl : Bool
  c : Bool
deriving DecidableEq, Repr, Inhabited

/-- Outcome of a translation (R355). -/
inductive Tr where
  | notResident
  | revoked
  | ok (l : Leaf)
deriving DecidableEq, Repr, Inhabited

/-- A frame checked under R348 and R218: refused, force-released, or what `ok` gives. -/
def checkFrame (s : State) (tier frame : Nat) : Nat :=
  let (sp, f) := spaceOf tier frame
  frameFate s sp f

/-- The leaf that an entry maps page `p` with: kind 0 small, 1 large, 2 huge (R348, R349). -/
def leafFor (s : State) (kind ent p : Nat) : Tr :=
  let frame :=
    match kind with
    | 0 => pteFrame ent
    | 1 => pteFrame ent / 32 * 32 + p % 32
    | _ => pteFrame ent + p % 4096
  let (sp, f) := spaceOf (pteTier ent) frame
  match frameFate s sp f with
  | 0 => .notResident
  | 2 => .revoked
  | _ => .ok ⟨sp, f, pteW ent, pteX ent, ptePl ent, pteC ent⟩

/-- A pointer entry checked under R348: 0 refused, 1 accepted, 2 on a force-released extent. -/
def pointerFate (s : State) (lvl ent : Nat) : Nat :=
  if !pteV ent || !pteShape lvl ent then 0 else checkFrame s (pteTier ent) (pteFrame ent)

/-- What a walk finds: an outcome for the page and the entries a cache may keep. -/
structure Walk where
  tr : Tr
  keep : List (Nat × Nat × Nat)
deriving DecidableEq, Repr, Inhabited

/-- Level 2 of the walk from a pointer; a result that is not a leaf is not kept (R346). -/
def walk2 (s : State) (ptr p : Nat) : Walk :=
  let ent := homeNat s (tableOf ptr + 8 * bits p 11 0) 8
  if !pteV ent || !pteShape 2 ent then ⟨.notResident, []⟩
  else
    let large := pteLg ent && pteFrame ent % 32 == p % 32
    match leafFor s 0 ent p with
    | .ok l => ⟨.ok l, [if large then (1, p / 32, ent) else (0, p, ent)]⟩
    | tr => ⟨tr, []⟩

/-- Level 1 of the walk from a pointer. -/
def walk1 (s : State) (ptr p : Nat) : Walk :=
  let ent := homeNat s (tableOf ptr + 8 * bits p 23 12) 8
  if !pteV ent || !pteShape 1 ent then ⟨.notResident, []⟩
  else if !pteT ent then
    match leafFor s 2 ent p with
    | .ok l => ⟨.ok l, [(2, p / 4096, ent)]⟩
    | tr => ⟨tr, []⟩
  else match pointerFate s 1 ent with
    | 0 => ⟨.notResident, []⟩
    | 2 => ⟨.revoked, []⟩
    | _ => let w := walk2 s ent p; ⟨w.tr, (4, p / 4096, ent) :: w.keep⟩

/-- The walk of R346 from a root. -/
def walk (s : State) (root p : Nat) : Walk :=
  if !pteT root then ⟨.notResident, []⟩
  else match pointerFate s 0 root with
    | 0 => ⟨.notResident, []⟩
    | 2 => ⟨.revoked, []⟩
    | _ =>
      let ent := homeNat s (tableOf root + 8 * bits p 35 24) 8
      match pointerFate s 0 ent with
      | 0 => ⟨.notResident, []⟩
      | 2 => ⟨.revoked, []⟩
      | _ => let w := walk1 s ent p; ⟨w.tr, (3, p / 2 ^ 24, ent) :: w.keep⟩

/-- Is PTROOT refused at LAUNCH (R345)? -/
def rootOk (s : State) (root : Nat) : Bool := pteT root && pointerFate s 0 root == 1

/-- The part of a page index an entry kind compares. -/
def tlbBase (kind p : Nat) : Nat :=
  match kind with
  | 0 => p
  | 1 => p / 32
  | 2 => p / 4096
  | 3 => p / 2 ^ 24
  | _ => p / 4096

/-- The CTXID of a context slot, with which the caches tag their entries (R350). -/
def ctxidOf (s : State) (slot : Nat) : Nat := (Store.get s.ctxs slot).ctxid

/-- The first cached leaf of a cache for a page of a context. -/
def tlbLeaf (s : State) (cache slot p : Nat) : Option TlbEnt :=
  s.tlb.find? fun e => e.cache == cache && e.ctx == ctxidOf s slot && decide (e.kind ≤ 2) && e.base == tlbBase e.kind p

/-- The first cached pointer of a cache for a page of a context. -/
def tlbPtr (s : State) (cache slot kind p : Nat) : Option TlbEnt :=
  s.tlb.find? fun e => e.cache == cache && e.ctx == ctxidOf s slot && e.kind == kind && e.base == tlbBase kind p

/-- Goes on from a pointer whose table frame passes the check of R348. -/
def follow (s : State) (lvl ptr : Nat) (next : Nat → Walk) : Walk :=
  match pointerFate s lvl ptr with
  | 0 => ⟨.notResident, []⟩
  | 2 => ⟨.revoked, []⟩
  | _ => next ptr

/-- A walk that may begin at a pointer of the cluster's walk cache (R350): PTROOT is checked as in every walk (R345), and
so is the frame of the table that the pointer names (R348). -/
def walkFrom (s : State) (cache ctx p : Nat) : Walk :=
  let root := (Store.get s.ctxs ctx).ptroot.toNat
  match tlbPtr s cache ctx 4 p, tlbPtr s cache ctx 3 p with
  | some e, _ =>
    if !pteT root then ⟨.notResident, []⟩ else follow s 0 root fun _ => follow s 1 e.ent fun ptr => walk2 s ptr p
  | none, some e =>
    if !pteT root then ⟨.notResident, []⟩ else follow s 0 root fun _ => follow s 0 e.ent fun ptr => walk1 s ptr p
  | none, none => walk s root p

/-- Translates a page for a context through a chain of caches, nearest first, and else by a walk (R350). -/
def translate (s : State) (caches : List Nat) (ctx p : Nat) : Tr :=
  match caches.findSome? (fun c => tlbLeaf s c ctx p) with
  | some e => leafFor s e.kind e.ent p
  | none => (walkFrom s ((caches.getLast?).getD 0) ctx p).tr

/-- The caches a core's accesses look up: its own, then its cluster's (R350). -/
def coreCaches (core : Nat) : List Nat := [core, 512 + core / 16]

/-- The cache of a die's tensor copy engines, and the OSD's: they hold leaves only (R350). -/
def dieCaches (die : Nat) : List Nat := [544 + die]
def osdCaches : List Nat := [548]

/-- The physical address of a virtual address in range, for any use that only needs a resident page. -/
def resolve (s : State) (caches : List Nat) (ctx va : Nat) : Option (Leaf × Nat) :=
  if vaEnd ≤ va then none
  else match translate s caches ctx (va / frameBytes) with
    | .ok l => some (l, paOf l.space l.frame (va % frameBytes))
    | _ => none

/-- Reads bytes of a context's memory at the homes, each byte's page looked up; none if one is not
resident. -/
def readVa (s : State) (caches : List Nat) (ctx va n : Nat) : Option (List Byte) :=
  (List.range n).mapM fun i => (resolve s caches ctx (va + i)).map fun r => homeByte s r.2


end Sys2Proof.Machine
end

