-- ==== Sys2Proof/Machine/Homes.lean ====
section
/-! DEFINITION. The homes (R212 to R214, R216, R248): where a line lives, what a slice holds and pins, leases and
completion times, and the writes that a home performs, through the redirects of a migration (R220, R356). -/

namespace Sys2Proof.Machine

/-! Free values (log entry 3, DESIGN CHOICE). -/

/-- The free number of this moment. -/
def freeHere (s : State) : Nat := Config.freeNat s.fresh

/-- Moves on to the next free number. -/
def spend (s : State) : State := { s with fresh := s.fresh + 1 }

/-- One of some candidates, when the manual allows any; a single one leaves nothing open. -/
def pickOf {α : Type} (s : State) : List α → Option α
  | [] => none
  | [a] => some a
  | a :: r => (a :: r)[freeHere s % (r.length + 1)]?

/-- The sectors of a line that bytes touch. -/
def sectorsOf (l : List Nat) : Nat := (distinct (l.map (· / 48))).foldl (fun m j => m ||| 2 ^ j) 0

/-! Interrupts and counters. -/

/-- Signals a vector (R456). -/
def interrupt (s : State) (v : Nat) : State := { s with msix := s.msix ||| 2 ^ v }

/-- A counter counts: it wraps to 0 and sets OVF, and with IRQ the wrap signals vector 3 (R405). -/
def pmcAdd (s : State) (k n : Nat) : State :=
  let x := Store.get s.pmc k
  let c := x.count + n
  if c < 2 ^ 48 then { s with pmc := Store.set s.pmc k { x with count := c } }
  else
    let s := { s with pmc := Store.set s.pmc k { x with count := c % 2 ^ 48, sel := x.sel ||| 2 ^ 30 } }
    if bit x.sel 29 then interrupt s 3 else s

/-- `n` occurrences of an event at some counters: those that are enabled and select it count (R405). -/
def pmcCount (s : State) (ks : List Nat) (code n : Nat) : State :=
  if s.pmc.isEmpty then s
  else ks.foldl (fun s k =>
    let x := Store.get s.pmc k
    if bit x.sel 31 && bits x.sel 15 0 == code then pmcAdd s k n else s) s

/-- The counters of a cluster and of a bridge die (R405). -/
def clusterPmcs (c : Nat) : List Nat := (List.range 16).map (16 * c + ·)
def bridgePmcs (b : Nat) : List Nat := (List.range 8).map (512 + 8 * b + ·)

/-- The counters that count an event of a request at a line's home: those of the cluster that makes it, and for an agent
outside the clusters those of the cluster that the home slice lies beside (R214, R405; log entry 134, DESIGN CHOICE). -/
def pmcsAt (cl : Option Nat) (slice : Nat) : List Nat := clusterPmcs (cl.getD (slice / 12))

/-! Frames in HBM (R216). -/

/-- The stack that holds a tier-0 frame, and the compute die that the stack is on. -/
def stackOf (f : Nat) : Nat := f % 12
def dieOf (stack : Nat) : Nat := stack / 3

/-- The pseudo-channel of the stack that holds line `l` of a tier-0 frame. -/
def channelOf (f l : Nat) : Nat := (f / 12 * 512 + l) % 160

/-! Slices. -/

def l2At (s : State) (line : Nat) : L2Line := Store.get s.l2 line
def updL2 (s : State) (line : Nat) (f : L2Line → L2Line) : State := { s with l2 := Store.upd s.l2 line f }

/-- The key of a line's set at its home. -/
def setOf (line : Nat) : Nat := (homeOf line).1 * 182 + (homeOf line).2

/-- The lines held in a set. -/
def linesIn (s : State) (set : Nat) : List (Nat × L2Line) :=
  s.l2.filter fun e => e.2.held && setOf e.1 == set

/-- Makes room for a line at its home (R213, R214): a victim is never pinned, and one whose lease has not
passed is taken only when every way is in that case, EVMAX rising to its LEASEMAX. A pinned way whose lease has passed does not
count against that: an unpinned one is taken all the same (log entry 155, DESIGN CHOICE). -/
def l2Hold (s : State) (line : Nat) : State :=
  if (l2At s line).held then s
  else
    let set := setOf line
    let ls := linesIn s set
    let s :=
      if ls.length < 15 then s
      else
        let free := ls.filter fun e => e.2.pin = 0
        let past := free.filter fun e => decide (e.2.leasemax ≤ s.gt)
        match pickOf s (if past.isEmpty then free else past) with
        | none => s
        | some v =>
          let s := if 1 < (if past.isEmpty then free else past).length then spend s else s
          let s := if decide (v.2.leasemax ≤ s.gt) then s
            else { s with evmax := Store.upd s.evmax set fun m => Nat.max m v.2.leasemax }
          { s with l2 := Store.del s.l2 v.1 }
    updL2 s line fun x => { x with held := true }

/-- Pins a line for a context slot unless its set is at the limit (R214); `page` is the page through whose
PL it is pinned, plus one. A refused pin is counted by the cluster counters (R405). A line that is pinned already keeps its first
pin alone (log entry 154, DESIGN CHOICE). -/
def l2Pin (s : State) (line slot page : Nat) : State × Bool :=
  let n := ((linesIn s (setOf line)).filter fun e => e.2.pin != 0).length
  if (l2At s line).pin != 0 then (s, true)
  else if n < 11 then (updL2 s line fun x => { x with pin := slot + 1, pinPage := page }, true)
  else (s, false)

/-- A request of a cluster meets a line: the home holds it, a miss being counted (R213, R405). -/
def l2Meet (s : State) (cl : Option Nat) (line : Nat) : State :=
  let s := match cl with
    | some c => if (l2At s line).held then s else pmcCount s (clusterPmcs c) 0x11 1
    | none => s
  l2Hold s line

/-- Pins a line that a request fills through a PL = 1 leaf; a refused pin is counted (R214, R405). -/
def pinPl (s : State) (cl : Option Nat) (line slot page : Nat) : State :=
  let (s, ok) := l2Pin s line slot (page + 1)
  if ok then s else pmcCount s (pmcsAt cl (homeOf line).1) 0x12 1

/-- The completion time of a write arriving now (R248). -/
def completion (s : State) (line : Nat) : Nat :=
  Nat.max s.gt (Nat.max (l2At s line).leasemax (Store.get s.evmax (setOf line))) + 1

/-- A lease length that the home chooses (R213). -/
def leaseLen (s : State) : Nat := 128 + freeHere s % 16257

/-- A load fill at the home: a lease is granted and LEASEMAX rises to its end (R213). -/
def grantLease (s : State) (line : Nat) : State × Nat :=
  let e := s.gt + leaseLen s
  (updL2 (spend s) line fun x => { x with leasemax := Nat.max x.leasemax e }, e)

/-- The home performs bytes of a masked write: the data, the dirty sectors (R213). -/
def homeBytes (s : State) (line : Nat) (bs : List (Nat × Byte)) : State :=
  let s := bs.foldl (fun s e => memPut s e.1 [e.2]) s
  updL2 s line fun x => { x with dirty := x.dirty ||| sectorsOf (bs.map fun e => lineOff e.1) }

/-! Writes at a home. -/

/-- A line lies in host memory, which no slice holds (R344). -/
def isHostLine (line : Nat) : Bool := decide (line / 2 ^ 48 = 2)

/-- Sets the dirty-filter bit of every migration whose source frame holds the line (R356). -/
def filterSet (s : State) (line : Nat) : State :=
  { s with migs := s.migs.map fun e =>
      let (sp, f) := spaceOf e.2.stier e.2.sframe
      if e.2.phase != 0 && line / 512 == sp * 2 ^ 48 / 512 + f then
        (e.1, { e.2 with filter := e.2.filter ||| 2 ^ (line % 512) }) else e }

/-- A home performs bytes that lie in one line: the state after, and the completion time (R213, R248). -/
def perform (s : State) (line : Nat) (bs : List (Nat × Byte)) : State × Nat :=
  let line' := redirectLine s line
  let bs' := bs.map fun e => (linePa line' + lineOff e.1, e.2)
  if isHostLine line' then (bs'.foldl (fun s e => memPut s e.1 [e.2]) s, completion s line')
  else
    let s := l2Hold s line'
    let t := completion s line'
    (filterSet (homeBytes s line' bs') line', t)

/-- Performs bytes of several lines, each line as one write; answers the greatest completion time. -/
def performAll (s : State) (bs : List (Nat × Byte)) : State × Nat :=
  (distinct (bs.map fun e => lineOf e.1)).foldl (fun acc l =>
    let (s, t) := perform acc.1 l (bs.filter fun e => lineOf e.1 == l)
    (s, Nat.max acc.2 t)) (s, 0)

/-- Bytes at consecutive addresses. -/
def bytesAt (pa : Nat) : List Byte → List (Nat × Byte)
  | [] => []
  | b :: r => (pa, b) :: bytesAt (pa + 1) r

/-- Pins the lines of a range of a context's memory whose leaves have PL = 1, as an access through them fills them (R214). -/
def pinRange (s : State) (cl : Option Nat) (caches : List Nat) (slot va n : Nat) : State :=
  (distinct ((List.range ((n + 191) / 192 + 1)).map fun i => Nat.min (va + 192 * i) (va + n - 1) / 192)).foldl (fun s i =>
    match resolve s caches slot (192 * i) with
    | some (l, pa) =>
      if l.pl && l.space != 2 && n != 0 then
        let line := redirectLine s (lineOf pa)
        pinPl (l2Meet s cl line) cl line slot (192 * i / frameBytes)
      else s
    | none => s) s

/-- Puts bytes at their homes, as a write of the part that no block waits for. -/
def homePut (s : State) (pa : Nat) (bs : List Byte) : State := (performAll s (bytesAt pa bs)).1

/-- The lines of places that a core's accesses reach at their homes meet the L2, where a miss is the cluster's (R213, R405); host
memory has none. -/
def meetCore (s : State) (core : Nat) (ps : List Nat) : State :=
  (distinct (ps.map fun p => redirectLine s (lineOf p))).foldl
    (fun s l => if isHostLine l then s else l2Meet s (some (core / 16)) l) s

/-- The same of a range of a context's memory. -/
def meetVa (s : State) (core ctx va n : Nat) : State :=
  meetCore s core ((List.range n).filterMap fun i => (resolve s (coreCaches core) ctx (va + i)).map (·.2))

/-- Writes bytes of a context's memory at the homes; a byte whose page is not resident is not written. -/
def writeVa (s : State) (caches : List Nat) (ctx va : Nat) : List Byte → State
  | [] => s
  | b :: r =>
    let s := match resolve s caches ctx va with
      | some (_, pa) => (perform s (lineOf pa) [(pa, b)]).1
      | none => s
    writeVa s caches ctx (va + 1) r

/-- The bits of a TXW or RXW entry (R360, R362). -/
def txwCtx (e : Nat) : Nat := bits e 255 240
def txwState (e : Nat) : Nat := bits e 239 238
def txwPage (e : Nat) : Nat := bits e 95 60
def txwNpage (e : Nat) : Nat := bits e 59 36

/-- The TXW entry of a context that admits a page: its index and image (R361). -/
def windowOf (s : State) (ctxid p : Nat) : Option (Nat × Nat) :=
  s.txw.find? fun e =>
    txwCtx e.2 == ctxid && (txwState e.2 == 1 || txwState e.2 == 2) &&
    decide (txwPage e.2 ≤ p) && decide (p < txwPage e.2 + txwNpage e.2)

end Sys2Proof.Machine
end

