-- ==== Sys2Proof/Machine/Faults.lean ====
section
/-! DEFINITION. The fault batches (R277, R278): records are accepted into the open batch while the buffer has room, and the
batch closes into ranges. -/

namespace Sys2Proof.Machine

/-- A range record (R278). -/
structure Range where
  ctx : Nat
  lo : Nat
  hi : Nat
  count : Nat
  kinds : Nat
deriving DecidableEq, Repr, Inhabited

/-- The KINDS bits of a record: one bit, or engine together with read (8) or write (9) (R278, R300). -/
def kindBits (k : Nat) : Nat := if k = 8 then 0x21 else if k = 9 then 0x22 else 2 ^ k

/-- Merges sorted records into ranges (R278). -/
def mergeRanges : List FaultRec → List Range
  | [] => []
  | r :: rest =>
    match mergeRanges rest with
    | x :: xs =>
      if x.ctx = r.ctx && x.lo ≤ r.page + 1 then
        { x with lo := r.page, count := x.count + 1, kinds := x.kinds ||| kindBits r.kind } :: xs
      else ⟨r.ctx, r.page, r.page, 1, kindBits r.kind⟩ :: x :: xs
    | [] => [⟨r.ctx, r.page, r.page, 1, kindBits r.kind⟩]

/-- The 32 bytes of a range record (R278). -/
def Range.bytes (x : Range) (t : Nat) : List Byte :=
  leBytes 32 (t % 2 ^ 64 + x.ctx % 2 ^ 16 * 2 ^ 72 + x.kinds % 256 * 2 ^ 88 + x.count % 2 ^ 32 * 2 ^ 96 +
    ((x.hi + 1) * frameBytes - 1) % 2 ^ 64 * 2 ^ 128 + x.lo * frameBytes % 2 ^ 64 * 2 ^ 192)

/-- Closes the open batch: its ranges are ready to be delivered (R278). -/
def closeBatch (s : State) : State :=
  let q := s.fq
  let sorted := sortBy (fun r => r.ctx * 2 ^ 40 + r.page) q.opened
  { s with fq := { q with
      opened := [], held := q.opened.length, deliver := (mergeRanges sorted).map fun x => x.bytes s.gt } }

/-- Has the open batch's timer run out, or does it hold FQCNT records (R277)? -/
def batchTimed (s : State) : Bool := !s.fq.opened.isEmpty && decide (s.fq.since + s.fq.tmr ≤ s.gt)
def batchFull (s : State) : Bool := decide (s.fq.cnt ≤ s.fq.opened.length) && !s.fq.opened.isEmpty

/-- A record enters the open batch, which closes when that makes FQCNT records, unless a batch is being delivered (R277). -/
def putRec (s : State) (r : FaultRec) : State :=
  let q := s.fq
  let s := { s with fq := { q with opened := q.opened ++ [r], since := if q.opened.isEmpty then s.gt else q.since } }
  if batchFull s && s.fq.deliver.isEmpty then closeBatch s else s

/-- Offers a fault record to the batch buffer of 512 (R277): it is accepted, or its source waits. -/
def faultRec (s : State) (r : FaultRec) : State :=
  let s := pmcCount s (bridgePmcs 0) 0x30 1
  if s.fq.opened.length + s.fq.held < 512 && s.fq.waiting.isEmpty then putRec s r
  else { s with fq := { s.fq with waiting := s.fq.waiting ++ [r] } }

/-- Records accepted as room appears, in the order in which their sources wait; a reserve entry gives room for one (R282). -/
def acceptWaiting (s : State) : Nat → State
  | 0 => s
  | n + 1 =>
    match s.fq.waiting with
    | r :: rest =>
      if s.fq.opened.length + s.fq.held < 512 + b2n (s.reserve.contains 2) then
        acceptWaiting (putRec { s with fq := { s.fq with waiting := rest } } r) n
      else s
    | [] => s

end Sys2Proof.Machine
end

