-- ==== Sys2Proof/Machine/Num.lean ====
section
/-! DEFINITION. The floating-point formats of R77 and their arithmetic: exact values, one rounding
(R80, R81), overflow and underflow (R83, R84), flags (R85), zero signs and extrema (R86). -/

namespace Sys2Proof.Machine

/-- FLAGS bits (R60), as the weights of a flag set. -/
def fNV : Nat := 1
def fDZ : Nat := 2
def fOF : Nat := 4
def fUF : Nat := 8
def fNX : Nat := 16
def fSAT : Nat := 32
def fKVSAT : Nat := 64
def fQCLAMP : Nat := 128

/-- A floating-point element format (R77). `top` is the encoding of the largest finite value, `nan` of
the canonical NaN; `soft` says that FTZ covers the format (R84). -/
structure Fmt where
  width : Nat
  fb : Nat
  bias : Nat
  top : Nat
  nan : Nat
  hasInf : Bool
  soft : Bool
deriving DecidableEq, Repr, Inhabited

def f32 : Fmt := ⟨32, 23, 127, 0x7F7FFFFF, 0x7FC00000, true, true⟩
def f16 : Fmt := ⟨16, 10, 15, 0x7BFF, 0x7E00, true, true⟩
def bf16 : Fmt := ⟨16, 7, 127, 0x7F7F, 0x7FC0, true, true⟩
def e4m3 : Fmt := ⟨8, 3, 7, 0x7E, 0x7F, false, false⟩
def e5m2 : Fmt := ⟨8, 2, 15, 0x7B, 0x7E, true, false⟩

/-- A magnitude known exactly, or between `m` and `m + 1` units of 2^e when `st` is set. -/
structure Ex where
  neg : Bool
  m : Nat
  e : Int
  st : Bool := false
deriving DecidableEq, Repr, Inhabited

/-- What an operation delivers before rounding: a NaN with its flags, an infinity with its flags, or a
finite value. -/
inductive Val where
  | nan (fl : Nat)
  | inf (neg : Bool) (fl : Nat)
  | fin (x : Ex)
deriving DecidableEq, Repr, Inhabited

/-- Number of bits of a magnitude. -/
def bitLen (n : Nat) : Nat := if n = 0 then 0 else n.log2 + 1

/-- 2 to a power that may be negative counts as 1 there; callers keep the power non-negative. -/
def pow2 (k : Int) : Nat := 2 ^ k.toNat

/-- Reads an element (R77, R78); with `ftz` a subnormal of a soft format is a zero of its sign (R84). -/
def Fmt.dec (f : Fmt) (ftz : Bool) (n : Nat) : Val :=
  let mag := n % 2 ^ (f.width - 1)
  let neg := bit n (f.width - 1)
  let ex := mag / 2 ^ f.fb
  let fr := mag % 2 ^ f.fb
  if f.top < mag then
    if f.hasInf && mag == f.top + 1 then .inf neg 0 else .nan 0
  else if ex = 0 then
    .fin ⟨neg, if ftz && f.soft then 0 else fr, 1 - (f.bias : Int) - f.fb, false⟩
  else .fin ⟨neg, 2 ^ f.fb + fr, (ex : Int) - f.bias - f.fb, false⟩

/-- The encoding of a magnitude with a sign. -/
def Fmt.sign (f : Fmt) (neg : Bool) (mag : Nat) : Nat := mag + b2n neg * 2 ^ (f.width - 1)

/-- The encoding of an infinity; E4M3 has none and answers NaN. -/
def Fmt.infEnc (f : Fmt) (neg : Bool) : Nat := if f.hasInf then f.sign neg (f.top + 1) else f.nan

/-- Rounds a magnitude to units of 2^q under a mode of R80; `v` is the generator's value under RSR
(R81). Answers the magnitude in units and whether it differs from the exact value. -/
def roundAt (mode v : Nat) (x : Ex) (q : Int) : Nat × Bool :=
  if q ≤ x.e then (x.m * pow2 (x.e - q), x.st)
  else
    let k := (q - x.e).toNat
    let lo := x.m / 2 ^ k
    let rem := x.m % 2 ^ k
    let half := 2 ^ (k - 1)
    let inexact := rem != 0 || x.st
    let up :=
      match mode with
      | 0 => decide (half < rem) || (rem == half && (x.st || lo % 2 == 1))
      | 1 => false
      | 2 => !x.neg && inexact
      | 3 => x.neg && inexact
      | 4 => decide (half ≤ rem)
      | _ => decide (2 ^ 16 ≤ rem * 2 ^ 16 / 2 ^ k + v)
    (lo + b2n up, inexact)

/-- The overflow result of R83. `sat` says that MODE.SAT acts here. -/
def Fmt.overflow (f : Fmt) (mode : Nat) (sat neg : Bool) : Nat × Nat :=
  if sat then (f.sign neg f.top, fOF + fNX + fSAT)
  else
    let toMax : Bool :=
      match mode with
      | 1 => true
      | 2 => neg
      | 3 => !neg
      | _ => false
    (if f.hasInf && toMax then f.sign neg f.top else f.infEnc neg, fOF + fNX)

/-- Rounds a finite exact value into a format: R80, R81, then R83 and R84. -/
def Fmt.round (f : Fmt) (mode : Nat) (sat ftz : Bool) (v : Nat) (x : Ex) : Nat × Nat :=
  if x.m = 0 && !x.st then (f.sign x.neg 0, 0)
  else
    let q := (bitLen x.m : Int) - 1 + x.e - f.fb
    let (r, ix) := roundAt mode v x q
    -- the encoding as an integer, were the exponent range unbounded
    let enc := (q + f.fb + f.bias - 1) * 2 ^ f.fb + r
    if (f.top : Int) < enc then f.overflow mode sat x.neg
    else if enc < 2 ^ f.fb then
      if ftz && f.soft then (f.sign x.neg 0, fUF + fNX)
      else
        let (r', ix') := roundAt mode v x (1 - (f.bias : Int) - f.fb)
        (f.sign x.neg r', if ix' then fUF + fNX else 0)
    else (f.sign x.neg enc.toNat, if ix then fNX else 0)

/-- Delivers a value in a format. An infinity into E4M3 follows R83: it is a NaN and NV, or the largest
finite value and SAT, a clamp that sets NX (R85). -/
def Fmt.finish (f : Fmt) (mode : Nat) (sat ftz : Bool) (v : Nat) : Val → Nat × Nat
  | .nan fl => (f.nan, fl)
  | .inf neg fl =>
    if f.hasInf then (f.infEnc neg, fl)
    else if sat then (f.sign neg f.top, fl ||| fSAT ||| fNX)
    else (f.nan, fl ||| fNV)
  | .fin x => f.round mode sat ftz v x

/-- An exact zero sum of operands of opposite sign (R86): +0, or −0 under RDN. -/
def zeroSign (mode : Nat) : Bool := mode == 3

/-- The signed integer mantissa of an exact value in units of 2^q, for q at or below its exponent. -/
def Ex.int (x : Ex) (q : Int) : Int :=
  let n : Int := (x.m * pow2 (x.e - q) : Nat)
  if x.neg then -n else n

/-- An exact value from a signed mantissa; a zero takes the sign given. -/
def Ex.ofInt (n : Int) (e : Int) (zneg : Bool) : Ex :=
  ⟨if n = 0 then zneg else decide (n < 0), n.natAbs, e, false⟩

/-- Exact sum of two finite values with the zero rule of R86. -/
def Ex.add (mode : Nat) (x y : Ex) : Ex :=
  if x.m = 0 && y.m = 0 then ⟨if x.neg == y.neg then x.neg else zeroSign mode, 0, 0, false⟩
  else if x.m = 0 then y
  else if y.m = 0 then x
  else
    let q := if x.e ≤ y.e then x.e else y.e
    Ex.ofInt (x.int q + y.int q) q (zeroSign mode)

/-- Exact product of two finite values. -/
def Ex.mul (x y : Ex) : Ex := ⟨x.neg != y.neg, x.m * y.m, x.e + y.e, false⟩

/-- A finite value times 2^n; an exponent beyond any format's reach is cut off, which rounds alike. -/
def Ex.scale (x : Ex) (n : Int) : Ex :=
  ⟨x.neg, x.m, x.e + (if n < -4096 then -4096 else if 4096 < n then 4096 else n), x.st⟩

/-- The sign of a value that is not NaN. -/
def Val.neg : Val → Bool
  | .nan _ => false
  | .inf n _ => n
  | .fin x => x.neg

def Val.isNan : Val → Bool
  | .nan _ => true
  | _ => false

def Val.isZero : Val → Bool
  | .fin x => x.m == 0 && !x.st
  | _ => false

/-- Sign inverted. -/
def Val.flip : Val → Val
  | .nan fl => .nan fl
  | .inf n fl => .inf (!n) fl
  | .fin x => .fin { x with neg := !x.neg }

/-- Sign cleared. -/
def Val.mag : Val → Val
  | .nan fl => .nan fl
  | .inf _ fl => .inf false fl
  | .fin x => .fin { x with neg := false }

/-- a + b before rounding (R85, R86). -/
def Val.add (mode : Nat) : Val → Val → Val
  | .nan f, .nan g => .nan (f ||| g)
  | .nan f, .inf _ g => .nan (f ||| g)
  | .inf _ f, .nan g => .nan (f ||| g)
  | .nan f, .fin _ => .nan f
  | .fin _, .nan f => .nan f
  | .inf n f, .inf m g => if n == m then .inf n (f ||| g) else .nan (f ||| g ||| fNV)
  | .inf n f, .fin _ => .inf n f
  | .fin _, .inf n f => .inf n f
  | .fin x, .fin y => .fin (x.add mode y)

/-- a × b before rounding (R85). -/
def Val.mul : Val → Val → Val
  | .nan f, _ => .nan f
  | _, .nan f => .nan f
  | .inf n f, .inf m g => .inf (n != m) (f ||| g)
  | .inf n f, .fin y => if y.m = 0 then .nan (f ||| fNV) else .inf (n != y.neg) f
  | .fin x, .inf n f => if x.m = 0 then .nan (f ||| fNV) else .inf (n != x.neg) f
  | .fin x, .fin y => .fin (x.mul y)

/-- Is a below b? Neither is NaN; −0 equals +0. -/
def Val.lt : Val → Val → Bool
  | .inf n _, .inf m _ => n && !m
  | .inf n _, .fin _ => n
  | .fin _, .inf n _ => !n
  | .fin x, .fin y =>
    let q := if x.e ≤ y.e then x.e else y.e
    decide (x.int q < y.int q)
  | _, _ => false

/-- Is a equal to b? Neither is NaN; −0 equals +0. -/
def Val.eqv (a b : Val) : Bool := !a.isNan && !b.isNan && !a.lt b && !b.lt a

/-- The larger operand under R86: −0 below +0, and a NaN yields to a number. -/
def Val.max (a b : Val) : Val :=
  if a.isNan then b else if b.isNan then a
  else if a.lt b then b else if b.lt a then a
  else if a.neg then b else a

/-- The smaller operand under R86. -/
def Val.min (a b : Val) : Val :=
  if a.isNan then b else if b.isNan then a
  else if a.lt b then a else if b.lt a then b
  else if a.neg then a else b

/-- A comparison under a condition code of R43 (R146). -/
def Val.cond (c : Nat) (a b : Val) : Bool :=
  let un := a.isNan || b.isNan
  match c with
  | 0 => a.eqv b
  | 1 => un || !a.eqv b
  | 2 => !un && a.lt b
  | 3 => !un && !b.lt a
  | 4 => !un && b.lt a
  | 5 => !un && !a.lt b
  | 6 => un
  | _ => !un

/-- Rounds a finite value to an integer under a mode (R80), and says whether it was inexact. -/
def Ex.toInt (mode v : Nat) (x : Ex) : Int × Bool :=
  let (n, ix) := roundAt mode v x 0
  (if x.neg then -(n : Int) else (n : Int), ix)

/-- Converts to an integer in [lo, hi] (R149): the value and its flags. -/
def Val.toRange (mode v : Nat) (sat : Bool) (lo hi : Int) : Val → Int × Nat
  | .nan fl => (0, fl ||| fNV)
  | .inf n fl => (if n then lo else hi, fl ||| (if sat then fSAT + fNX else fNV + fNX))
  | .fin x =>
    let (n, ix) := x.toInt mode v
    if n < lo then (lo, if sat then fSAT + fNX else fNV + fNX)
    else if hi < n then (hi, if sat then fSAT + fNX else fNV + fNX)
    else (n, if ix then fNX else 0)

/-- An integer as an exact value. -/
def Val.ofInt (n : Int) : Val := .fin (Ex.ofInt n 0 false)

/-- The exact value of an element read without any flush. -/
def Fmt.val (f : Fmt) (n : Nat) : Val := f.dec false n

/-- One F32 addition under RNE, as the matrix engine and the window reductions make it (R93). -/
def addF32 (a b : Nat) : Nat × Nat := f32.finish 0 false false 0 ((f32.val a).add 0 (f32.val b))

end Sys2Proof.Machine
end

