-- ==== Sys2Proof/Machine/QF.lean ====
section
/-! DEFINITION. The QF block family (R87 to R89), the scale exponent of delayed scaling (R92), and the
matrix element formats of R55 by their code. -/

namespace Sys2Proof.Machine

/-- Mantissa bits M of QF9, QF6 and QF4 (R87), by the format code of R55. -/
def qfM (code : Nat) : Nat :=
  match code with
  | 4 => 7
  | 5 => 4
  | _ => 2

/-- Bytes of a block (R88). -/
def qfBytes (code : Nat) : Nat :=
  match code with
  | 4 => 18
  | 5 => 12
  | _ => 8

/-- The unit of an element: 2^(E − 127 − μ − (M − 1)) (R87). -/
def qfUnit (code e mu : Nat) : Int := (e : Int) - 127 - mu - (qfM code - 1)

/-- The element field at index i of a block's bytes (R88). -/
def qfField (code : Nat) (bs : List Byte) (i : Nat) : Nat :=
  let w := qfM code + 1
  leNat (bs.drop 2) / 2 ^ (w * i) % 2 ^ w

/-- Element i of a block (R87). -/
def qfElem (code : Nat) (bs : List Byte) (i : Nat) : Val :=
  let e := (bs.headD 0#8).toNat
  let mu := b2n (bit (leNat ((bs.drop 1).take 1)) (i / 2))
  let fld := qfField code bs i
  if e = 0xFF then .nan 0
  else .fin ⟨bit fld (qfM code), fld % 2 ^ qfM code, qfUnit code e mu, false⟩

/-- The sixteen elements of a block. -/
def qfDecode (code : Nat) (bs : List Byte) : List Val := (List.range 16).map (qfElem code bs)

/-- Is a finite value's magnitude below 2^k? -/
def Val.below (k : Int) : Val → Bool
  | .fin x => x.m == 0 || decide ((bitLen x.m : Int) + x.e ≤ k)
  | _ => false

/-- The block exponent of step 2: max(0, floor(log2 A) + 127), 0 for an all-zero block, and never above 0xFE (R89). -/
def qfExp (xs : List Val) : Nat :=
  Nat.min 0xFE <| xs.foldl (fun acc x => match x with
    | .fin x => if x.m = 0 then acc else Nat.max acc ((bitLen x.m : Int) - 1 + x.e + 127).toNat
    | _ => acc) 0

/-- One element of step 4: the field, and the flags of steps 4 and 5. The magnitude is rounded, in the directed modes too
(R89, log entry 12, DEDUCED). One beyond the largest block exponent, which CPYC's scaling can give, is clamped
(log entry 141, DEDUCED). -/
def qfQuant (code mode v e mu : Nat) (x : Ex) : Nat × Nat :=
  let (m, ix) := roundAt mode v { x with neg := false } (qfUnit code e mu)
  let top := 2 ^ qfM code
  if top ≤ m then (b2n x.neg * top + (top - 1), fQCLAMP ||| fNX)
  else (b2n x.neg * top + m, if ix then fNX else 0)

/-- Is every value finite? -/
def allFinite (xs : List Val) : Bool := xs.all fun x => match x with
  | .fin _ => true
  | _ => false

/-- The micro-exponent bits of step 3 (R89). -/
def qfMu (e : Nat) (xs : List Val) : Nat :=
  (List.range 8).foldl (fun acc i =>
    let small := fun j => ((xs[j]?).getD (Val.nan 0)).below ((e : Int) - 128)
    acc + b2n (small (2 * i) && small (2 * i + 1)) * 2 ^ i) 0

/-- Quantises sixteen values to a block (R89): the block's bytes and the flags. `vs i` is the generator
value of element i under RSR. -/
def qfEncode (code mode : Nat) (vs : Nat → Nat) (xs : List Val) :
    List Byte × Nat :=
  let n := qfBytes code
  if !allFinite xs then (leBytes n 0xFF, fNV)
  else
    let e := qfExp xs
    let mu := qfMu e xs
    let w := qfM code + 1
    let (body, fl) := (List.range 16).foldl (fun (acc : Nat × Nat) i =>
      match (xs[i]? : Option Val) with
      | some (Val.fin x) =>
        let (fld, f) := qfQuant code mode (vs i) e (b2n (bit mu (i / 2))) x
        (acc.1 + fld * 2 ^ (w * i), acc.2 ||| f)
      | _ => acc) (0, 0)
    (leBytes 1 e ++ leBytes 1 mu ++ leBytes (n - 2) body, fl)

/-- The scale exponent of R92: the smallest e with a ≤ Fmax × 2^e, clamped to −127 … 127. -/
def scaleExp (fmax : Nat) : Val → Int
  | .nan _ => 127
  | .inf _ _ => 127
  | .fin x =>
    if x.m = 0 then -127
    else
      -- the least e with m·2^(x.e) ≤ fmax·2^e
      let d : Int := (bitLen x.m : Int) - bitLen fmax + x.e
      let le (e : Int) : Bool :=
        let q := if e ≤ x.e then e else x.e
        decide (x.m * pow2 (x.e - q) ≤ fmax * pow2 (e - q))
      let e := if le (d - 1) then d - 1 else if le d then d else d + 1
      if e < -127 then -127 else if 127 < e then 127 else e

/-- The largest finite magnitude of a scaled format (R92): E4M3, E5M2, I8. -/
def fmaxOf (code : Nat) : Nat :=
  match code with
  | 2 => 448
  | 3 => 57344
  | _ => 127

/-- An element of a matrix format of R55 that is not of the QF family, as an exact value. -/
def elemVal (code n : Nat) : Val :=
  match code with
  | 0 => bf16.val n
  | 1 => f16.val n
  | 2 => e4m3.val n
  | 3 => e5m2.val n
  | 7 => Val.ofInt (sgn 8 n)
  | 8 => Val.ofInt ((n % 256 : Nat) : Int)
  | _ => f32.val n

/-- Bits of an element of a matrix format of R55 that is not of the QF family. -/
def elemBits (code : Nat) : Nat :=
  match code with
  | 0 | 1 => 16
  | 9 => 32
  | _ => 8

/-- Is a format code one of the QF family? -/
def isQF (code : Nat) : Bool := code == 4 || code == 5 || code == 6

end Sys2Proof.Machine
end

