-- ==== Sys2Proof/Machine/Ops.lean ====
section
/-! DEFINITION. The named operations over groups, fragments, registers, the reconvergence stack, pending
operations and records; taking a trap (R418, R419) and returning from one (R430). -/

namespace Sys2Proof.Machine

/-- The outcome of an instruction or a step. -/
abbrev Res := Host.Outcome State Fault Refusal

/-! Keys and accessors. -/

/-- The core, the block (4 × core + block) and the index in its block of a group (R411). -/
def coreOf (g : Nat) : Nat := g / 128
def blkOf (g : Nat) : Nat := g / 32
def grpOf (g : Nat) : Nat := g % 32

def gAt (s : State) (g : Nat) : Group := Store.get s.groups g
def updG (s : State) (g : Nat) (f : Group → Group) : State := { s with groups := Store.upd s.groups g f }
def bAt (s : State) (b : Nat) : Block := Store.get s.blocks b
def updB (s : State) (b : Nat) (f : Block → Block) : State := { s with blocks := Store.upd s.blocks b f }
def ctxAt (s : State) (c : Nat) : Ctx := Store.get s.ctxs c
def updCtx (s : State) (c : Nat) (f : Ctx → Ctx) : State := { s with ctxs := Store.upd s.ctxs c f }

/-- Fragment `f` of group `g` (R68). -/
def fragAt (s : State) (g f : Nat) : Frag := Store.get (gAt s g).frags f
def updF (s : State) (g f : Nat) (h : Frag → Frag) : State :=
  updG s g fun x => { x with frags := Store.upd x.frags f h }

/-- The group and the fragment that an instruction acts on. -/
def cg (s : State) : Group := gAt s s.curG
def cf (s : State) : Frag := fragAt s s.curG s.curF
def updCG (s : State) (f : Group → Group) : State := updG s s.curG f
def updCF (s : State) (f : Frag → Frag) : State := updF s s.curG s.curF f

/-- The context slot of the acting group. -/
def cctx (s : State) : Ctx := ctxAt s (cg s).ctx
/-- The block of the acting group. -/
def cblk (s : State) : Nat := blkOf s.curG

/-- Fields of ROLE (R71). -/
def roleNvreg (r : Word) : Nat := bits r.toNat 15 8
def rolePrio (r : Word) : Nat := bits r.toNat 4 2
def roleNo (r : Word) : Nat := bits r.toNat 1 0

/-- Fields of MODE (R55). -/
def mGen (m : Word) : Bool := bit m.toNat 31
def mGinv (m : Word) : Bool := bit m.toNat 30
def mGpred (m : Word) : Nat := bits m.toNat 29 27
def mFtype (m : Word) : Nat := bits m.toNat 26 24
def mRound (m : Word) : Nat := bits m.toNat 23 21
def mIpack (m : Word) : Nat := bits m.toNat 20 19
def mSat (m : Word) : Bool := bit m.toNat 18
def mFtz (m : Word) : Bool := bit m.toNat 17
def mNrz (m : Word) : Bool := bit m.toNat 16
def mNrp (m : Word) : Nat := bits m.toNat 15 13
def mAfmt (m : Word) : Nat := bits m.toNat 12 9
def mBfmt (m : Word) : Nat := bits m.toNat 8 5
def mAccf (m : Word) : Nat := bits m.toNat 4 3

/-- A MODE value that R56 admits. -/
def modeOk (m : Word) : Bool :=
  decide (mFtype m ≤ 2) && decide (mRound m ≤ 5) && decide (mIpack m ≤ 2) && decide (mAfmt m ≤ 9) &&
  decide (mBfmt m ≤ 9) && decide (mAccf m ≤ 1) && bits m.toNat 2 0 == 0

/-- Fields of the launch header of a context (R409). -/
def hdrEntry (h r : Nat) : Nat := bits h (512 + 256 * r + 63) (512 + 256 * r)
def hdrNvreg (h r : Nat) : Nat := bits h (512 + 256 * r + 71) (512 + 256 * r + 64)
def hdrNgrp (h r : Nat) : Nat := bits h (512 + 256 * r + 77) (512 + 256 * r + 72)
def hdrPrio (h r : Nat) : Nat := bits h (512 + 256 * r + 82) (512 + 256 * r + 80)
def hdrPrv (h r : Nat) : Bool := bit h (512 + 256 * r + 83)
def hdrSplit (h b : Nat) : Nat := bits h (384 + 24 * b + 23) (384 + 24 * b)
def hdrAmax (h : Nat) : Nat := bits h 383 320
def hdrNhid (h : Nat) : Nat := bits h 271 256
def hdrHtab (h : Nat) : Nat := bits h 255 192
def hdrArea (h : Nat) : Nat := bits h 191 128
def hdrTrap (h : Nat) : Nat := bits h 127 64
def hdrSeed (h : Nat) : Nat := bits h 63 32
def hdrNblk (h : Nat) : Nat := bits h 21 20 + 1
def hdrLver (h : Nat) : Nat := bits h 19 16
def hdrMagic (h : Nat) : Nat := bits h 15 0

/-- Privileged code: any HANDLER fragment, and any fragment of a role whose PRV is 1 (R413). -/
def privileged (s : State) : Bool :=
  decide ((cf s).st = .handler) || hdrPrv (cctx s).hdr (roleNo (cg s).role)

/-- PREQ as the waits of a group see it: status DEADLINE does not reach a block that is being force-saved
(R76, R424). -/
def preqOf (s : State) (g : Nat) : Nat :=
  let q := (ctxAt s (gAt s g).ctx).preq
  if (bAt s (blkOf g)).saving then q % 2 else q

/-! Registers and predicates. -/

def rdV (g : Group) (r t : Nat) : Word := Store.get g.v (32 * r + t)
def wrV (g : Group) (r t : Nat) (w : Word) : Group := { g with v := Store.set g.v (32 * r + t) w }
def rdS (g : Group) (r : Nat) : Word := Store.get g.s r
def wrS (g : Group) (r : Nat) (w : Word) : Group := { g with s := Store.set g.s r w }
def rdP (g : Group) (p : Nat) : Word := Store.get g.p p
def wrP (g : Group) (p : Nat) (w : Word) : Group := { g with p := Store.set g.p p w }

/-- Bit t of a predicate. -/
def pbit (g : Group) (p t : Nat) : Bool := (rdP g p).getLsbD t

/-- A word with bit t replaced. -/
def setBit (w : Word) (t : Nat) (b : Bool) : Word :=
  if b then w ||| (1#32 <<< t) else w &&& ~~~(1#32 <<< t)

/-- A register pair as a 64-bit number, low word in the even register (R103, R223). -/
def rdPair (g : Group) (r : Nat) : Nat := (rdS g r).toNat + 2 ^ 32 * (rdS g (r + 1)).toNat

/-- Writes a number over consecutive s registers, low word first. -/
def wrSs (g : Group) (r : Nat) : List Word → Group
  | [] => g
  | w :: ws => wrSs (wrS g r w) (r + 1) ws

/-- Writes an operand that is an s register, a pair or a quad; nul discards (R26). -/
def wrDst (g : Group) (d : Opnd) (ws : List Word) : Group :=
  match d with
  | .s n => wrSs g n ws
  | _ => g

/-- ORs bits into FLAGS (R61). -/
def orFl (g : Group) (n : Nat) : Group := { g with flags := g.flags ||| w32 n }

/-- One step of the stochastic generator (R82). -/
def srStep (x : Word) : Word :=
  let x := x ^^^ (x <<< 13)
  let x := x ^^^ (x >>> 17)
  x ^^^ (x <<< 5)

/-- The 16-bit value of a generator state (R82). -/
def srVal (x : Word) : Nat := x.toNat / 2 ^ 16

/-! Threads. -/

/-- The active threads of the acting fragment. -/
def active (s : State) : Word := (cf s).mask

/-- The threads the guard selects (R57). -/
def guardMask (g : Group) (mode : Word) : Word :=
  if mGen mode then
    (if mGinv mode then ~~~(rdP g (mGpred mode)) else rdP g (mGpred mode))
  else 0xFFFFFFFF#32

/-- Active threads that the guard selects. -/
def selected (s : State) : Word := active s &&& guardMask (cg s) (cf s).mode

/-! The program counter. -/

/-- The address of the fetch block that holds an address. -/
def fblock (pc : Quad) : Quad := pc - w64 (pc.toNat % 64)

/-- A fragment after the instruction in hand: at the next word of the clause, or at the word after it, which
is the next header (R33). -/
def Frag.onward (f : Frag) : Frag :=
  let rest := f.code.drop ((f.npc - f.pc).toNat / 4)
  { f with pc := f.npc, code := rest, mid := !rest.isEmpty, asks := 0 }

/-- Execution goes on after the instruction in hand. -/
def advance (s : State) : State := updCF s Frag.onward

/-- Control moves to the header at an address (R39). -/
def jump (s : State) (pc : Quad) : State :=
  updCF s fun f => { f with pc := pc, mid := false, code := [] }

/-- Is an address a legal target (R39)? -/
def targetOk (pc : Quad) : Bool := pc.toNat % 64 == 0

/-! Records (R279, R422, R451). -/

/-- Entries between the counters of a ring. -/
def RecRing.used (r : RecRing) : Nat := (r.tail - r.head).toNat

/-- Is there room in the ring? -/
def RecRing.room (r : RecRing) : Bool := decide (r.used < 2 ^ r.log)

/-- Writes a record at the tail: its address and the ring after. -/
def RecRing.place (r : RecRing) : Nat × RecRing :=
  (r.base.toNat + 32 * (r.tail.toNat % 2 ^ r.log), { r with tail := r.tail + 1#32 })

/-- The rings by number: 0 fault delivery, 1 violations, 2 link events, as their vectors (R456). -/
def ringOf (s : State) (k : Nat) : RecRing :=
  match k with
  | 0 => s.fring
  | 1 => s.vring
  | _ => s.lring

def setRing (s : State) (k : Nat) (r : RecRing) : State :=
  match k with
  | 0 => { s with fring := r }
  | 1 => { s with vring := r }
  | _ => { s with lring := r }

/-- Writes one record into a ring with room and signals its vector. -/
def ringWrite (s : State) (k : Nat) (bs : List Byte) : State :=
  let (pa, r) := (ringOf s k).place
  interrupt (homePut (setRing s k r) pa bs) k

/-- Makes a record of ring 1 or 2: into the ring, else the pending buffer of 64, else dropped and
counted (R422, R451). -/
def ringPut (s : State) (k : Nat) (bs : List Byte) : State :=
  let r := ringOf s k
  if r.room && r.buf.isEmpty then ringWrite s k bs
  else if r.buf.length < 64 then setRing s k { r with buf := r.buf ++ [bs] }
  else setRing s k { r with ovf := Nat.min (r.ovf + 1) 0xFFFFFFFF }

/-- Writes waiting records while the ring has room (R422): at most `n`. -/
def ringFlush (s : State) (k : Nat) : Nat → State
  | 0 => s
  | n + 1 =>
    let r := ringOf s k
    match r.buf with
    | bs :: rest =>
      if r.room then ringFlush (ringWrite (setRing s k { r with buf := rest }) k bs) k n else s
    | [] => s

/-- A violation record (R422). -/
def violation (s : State) (kind cause ctxid : Nat) (addr detail mid : Nat) : State :=
  ringPut s 1 (leBytes 32 (mid % 2 ^ 32 + ctxid % 2 ^ 16 * 2 ^ 68 + kind % 16 * 2 ^ 84 + cause % 256 * 2 ^ 88
    + detail % 2 ^ 32 * 2 ^ 96 + addr % 2 ^ 64 * 2 ^ 128 + s.gt % 2 ^ 64 * 2 ^ 192))

/-- Does a record of this owner still wait for acceptance? -/
def recWaiting (s : State) (own : Nat × Nat) : Bool := s.fq.waiting.any fun r => r.own == some own

/-! Pending operations and completion flags (R34, R35, R64). -/

/-- SETA and SETB of a clause header (R31). -/
def hdrSeta (h : Word) : Nat := bits h.toNat 19 16
def hdrSetb (h : Word) : Nat := bits h.toNat 15 12
def hdrRd (h : Word) : Nat := bits h.toNat 5 4

/-- The flag an operation of class 1 or 2 is attributed to; class 0 has none (R34). -/
def flagFor (hdr : Word) (cls : Nat) : Option Nat :=
  let a := hdrSeta hdr
  let b := hdrSetb hdr
  let k := match cls with
    | 1 => a
    | 2 => if b = 15 then a else b
    | _ => 15
  if k < 12 then some k else none

/-- Operations pending on a flag (R64). -/
def flagCount (g : Group) (k : Nat) : Nat := (g.pend.filter fun p => p.flag == some k).length

/-- Would one more operation of a class pass the limit of R35? -/
def flagFull (s : State) (cls : Nat) : Bool :=
  match flagFor (cf s).hdr cls with
  | some k => decide (63 ≤ flagCount (cg s) k)
  | none => false

/-- The completion flags as a mask (R64). -/
def flagMask (g : Group) : Nat :=
  (List.range 12).foldl (fun m k => m + b2n (decide (0 < flagCount g k)) * 2 ^ k) 0

/-- Is an access one that R476 counts? -/
def PendKind.counted : PendKind → Bool
  | .load | .store | .atomic | .pgreq | .scaleq | .amax | .rx => true
  | _ => false

/-- A new operation of the acting group, numbered and attributed; answers its number. -/
def addPend (s : State) (cls : Nat) (p : Pend) : State × Nat :=
  let p' := { p with id := s.nextId, flag := flagFor (cf s).hdr cls, pc := (cf s).pc, rd := hdrRd (cf s).hdr }
  (updCG { s with nextId := s.nextId + 1 } fun g => { g with pend := g.pend ++ [p'] }, s.nextId)

/-- The pending operation of a number. -/
def findPend (g : Group) (id : Nat) : Option Pend := g.pend.find? fun p => p.id == id

/-- Changes one pending operation. -/
def updPend (s : State) (g id : Nat) (f : Pend → Pend) : State :=
  updG s g fun x => { x with pend := x.pend.map fun p => if p.id == id then f p else p }

/-- An operation completes: its flag count falls and its FLAGS bits merge (R35, R62). -/
def dropPend (s : State) (g id : Nat) : State :=
  updG s g fun x => match findPend x id with
    | some p => orFl { x with pend := x.pend.filter fun q => q.id != id } p.fl
    | none => x

/-- Has the group an operation not yet complete with a number below the bound? -/
def pendBefore (g : Group) (bound : Nat) (k : PendKind → Bool) : Bool :=
  g.pend.any fun p => decide (p.id < bound) && k p.kind

/-- Is an operation globally performed: its data taken, its bytes performed, or a PGREQ's records accepted (R260, R476)? -/
def performed (s : State) (g : Nat) (p : Pend) : Bool :=
  p.done || (if p.kind = .pgreq then !recWaiting s (g, 8 + p.id) else p.accs.all fun a => a.got || a.zero)

/-- The oldest memory access of a group that is not globally performed (R260, R476). -/
def oldest (s : State) (g : Nat) : Option Pend := (gAt s g).pend.find? fun p => p.kind.counted && !performed s g p

/-- The address that OUAPCL and OUAPCH report (R73, R260, R476); `last` is that of the access at hand, which is younger than
every pending one, or 0. -/
def oldestPc (s : State) (g : Nat) (last : Quad := 0#64) : Quad :=
  match oldest s g with
  | some p => p.pc
  | none => last

/-- Does a fragment wait in the fence of its EVSIG or MBXDONE, an operation that is pending (R319, R320, R323)? -/
def Frag.signals (f : Frag) : Bool := match f.wait with
  | .fence _ _ _ _ _ after _ _ => after != 0
  | _ => false

/-- Has a group no operation left? What a fragment of a stopped group would still signal is no longer one: its wait is
executed again (R423, R424). -/
def Group.quiet (x : Group) : Bool := x.pend.all fun p => decide (p.kind = .signal) && x.saved

/-- An instruction stalls on a full completion flag and holds back every later one of its group (R35). -/
def stallHere (s : State) : State := updCG s fun g => { g with stall := some s.curF }

/-! Regions (R415, R416). -/

/-- A closing instruction clears OK when it issues. -/
def closeRegion (s : State) : State := updCG s fun g => { g with rgnx := g.rgnx &&& 0x7FFFFFFF#32 }

def regionOk (g : Group) : Bool := bit g.rgnx.toNat 31

/-! Fragments. -/

/-- The indexes of the fragment table. -/
def slots8 : List Nat := [0, 1, 2, 3, 4, 5, 6, 7]

def isLive (f : Frag) : Bool := decide (f.st ≠ .free)

/-- Live fragments of a group. -/
def liveFrags (g : Group) : List Nat := slots8.filter fun i => isLive (Store.get g.frags i)

/-- The lowest FREE entry. -/
def freeFrag (g : Group) : Option Nat := slots8.find? fun i => !isLive (Store.get g.frags i)

/-- Freezes a fragment, keeping the state it left (R433). -/
def Frag.freeze (f : Frag) : Frag :=
  if f.st = .free || f.st = .frozen then f else { f with st := .frozen, kept := f.st, asks := 0 }

/-- Applies a change to every live fragment. -/
def mapFrags (g : Group) (h : Frag → Frag) : Group :=
  { g with frags := slots8.foldl (fun m i => if isLive (Store.get m i) then Store.upd m i h else m) g.frags }

/-- The MID of a group in a violation record (R422). -/
def groupMid (g : Nat) : Nat := coreOf g + g / 32 % 4 * 2 ^ 9 + grpOf g * 2 ^ 11

/-- Freezes a group as a violating master and writes the record (R419, R421, R422). -/
def freezeGroup (s : State) (g cause : Nat) (pc : Quad) (flt : Word) : State :=
  violation (updG s g fun x => mapFrags { x with viol := some cause } Frag.freeze)
    0 cause (ctxidOf s (gAt s g).ctx) pc.toNat flt.toNat (groupMid g)

/-! The reconvergence stack (R66, R67, R69). -/

/-- A stack entry as its 128-bit image (R66). -/
def StkEntry.image (e : StkEntry) : Nat :=
  e.kind % 4 + e.pc.toNat / 4 * 4 + e.mask.toNat * 2 ^ 64 + e.mode.toNat * 2 ^ 96

def StkEntry.ofImage (n : Nat) : StkEntry :=
  ⟨n % 4, w64 (n / 4 * 4), w32 (n / 2 ^ 64), w32 (n / 2 ^ 96)⟩

/-- STKDEP of a group (R73). -/
def depthOf (g : Group) : Nat := g.stk.length + g.spilled

/-- The stack area of a group (R66, R411). -/
def stackArea (s : State) (g : Nat) : Nat := hdrArea (ctxAt s (gAt s g).ctx).hdr + 512 * g

/-- The place of a spilled entry meets the L2 (R66, R405). -/
def meetStack (s : State) (g i : Nat) : State := meetVa s (coreOf g) (gAt s g).ctx (stackArea s g + 16 * i) 16

/-- Writes a spilled entry to the stack area as plain memory of the context; where the area is not
mapped, nothing is written (log entry 13, DESIGN CHOICE). -/
def spill (s : State) (g i : Nat) (e : StkEntry) : State :=
  writeVa (meetStack s g i) (coreCaches (coreOf g)) (gAt s g).ctx (stackArea s g + 16 * i) (leBytes 16 e.image)

/-- Reads a spilled entry back; where the area is not mapped the bytes are free (log entry 13, DESIGN CHOICE). -/
def unspill (s : State) (g i : Nat) : StkEntry :=
  match readVa s (coreCaches (coreOf g)) (gAt s g).ctx (stackArea s g + 16 * i) 16 with
  | some bs => StkEntry.ofImage (leNat bs)
  | none => StkEntry.ofImage (leNat ((List.range 16).map fun k => Config.freeByte (s.fresh + k)))

/-- Pushes onto the group's stack, the oldest hardware entry spilling (R66). -/
def pushG (s : State) (g : Nat) (e : StkEntry) : State :=
  let x := gAt s g
  if x.stk.length < 16 then updG s g fun x => { x with stk := e :: x.stk }
  else
    let old := (x.stk.getLast?).getD default
    updG (spill s g x.spilled old) g fun x => { x with stk := e :: x.stk.dropLast, spilled := x.spilled + 1 }

/-- Takes the top entry off the group's stack, the newest spilled entry coming back (R66). -/
def popG (s : State) (g : Nat) : State :=
  let x := gAt s g
  let rest := x.stk.tail
  let s := if 0 < x.spilled then
      updG (meetStack s g (x.spilled - 1)) g fun x => { x with
        stk := rest ++ [unspill s g (x.spilled - 1)], spilled := x.spilled - 1 }
    else updG s g fun x => { x with stk := rest }
  -- a pop below DEP closes the region (R416)
  if depthOf (gAt s g) < bits (gAt s g).rgnx.toNat 4 0 then
    updG s g fun x => { x with rgnx := x.rgnx &&& 0x7FFFFFFF#32 } else s

/-- The stack the acting fragment uses: its private stack in a HANDLER fragment (R104). -/
def topOf (s : State) : Option StkEntry :=
  if (cf s).st = .handler then (cf s).pstk.head? else (cg s).stk.head?

def depthHere (s : State) : Nat :=
  if (cf s).st = .handler then (cf s).pstk.length else depthOf (cg s)

def pushHere (s : State) (e : StkEntry) : State :=
  if (cf s).st = .handler then updCF s fun f => { f with pstk := e :: f.pstk } else pushG s s.curG e

def popHere (s : State) : State :=
  if (cf s).st = .handler then updCF s fun f => { f with pstk := f.pstk.tail } else popG s s.curG

/-- May `n` entries be pushed (R67, R69, R104)? -/
def roomFor (s : State) (n : Nat) : Bool :=
  if (cf s).st = .handler then decide (depthHere s + n ≤ 4) else decide (depthHere s + n ≤ 31)

/-! Taking a trap (R69, R75, R418, R419). -/

/-- Trap causes (R420). -/
def cILLEGAL_OPCODE : Nat := 0x01
def cILLEGAL_CLAUSE : Nat := 0x02
def cALIGN : Nat := 0x03
def cPRIV : Nat := 0x04
def cROLE : Nat := 0x05
def cOPERAND : Nat := 0x06
def cSTACK : Nat := 0x07
def cGANG : Nat := 0x08
def cPAGE : Nat := 0x10
def cPROTECTION : Nat := 0x11
def cADDRESS : Nat := 0x12
def cDATA_ALIGN : Nat := 0x13
def cSCRATCH_RANGE : Nat := 0x14
def cWINDOW_UNMAPPED : Nat := 0x15
def cWINDOW_REVOKED : Nat := 0x16
def cSOFTWARE : Nat := 0x20
def cDEADLINE : Nat := 0x21
def cUNCORRECTABLE : Nat := 0x30
def cFAR_REVOKED : Nat := 0x31
def cKV_NO_FREE_PAGE : Nat := 0x40
def cKV_FORMAT : Nat := 0x41
def cRX_REFUSED : Nat := 0x50
def cREG_REFUSED : Nat := 0x51

/-- The codes of the table of causes; no other code is reported (R420). -/
def causeCodes : List Nat :=
  [cILLEGAL_OPCODE, cILLEGAL_CLAUSE, cALIGN, cPRIV, cROLE, cOPERAND, cSTACK, cGANG, cPAGE, cPROTECTION, cADDRESS, cDATA_ALIGN,
   cSCRATCH_RANGE, cWINDOW_UNMAPPED, cWINDOW_REVOKED, cSOFTWARE, cDEADLINE, cUNCORRECTABLE, cFAR_REVOKED, cKV_NO_FREE_PAGE,
   cKV_FORMAT, cRX_REFUSED, cREG_REFUSED]

/-- One of the codes, by number. -/
def causeAt (n : Nat) : Nat := (causeCodes[n % causeCodes.length]?).getD cUNCORRECTABLE

/-- Does a trap by these threads of fragment `f` of group `g` take the whole fragment: all its threads
trap, or no entry is free (R69, log entry 14, DEDUCED)? -/
def trapsWholeOf (s : State) (g f : Nat) (flt : Word) : Bool :=
  flt == (fragAt s g f).mask || (freeFrag (gAt s g)).isNone

/-- The same of the acting fragment. -/
def trapsWhole (s : State) (flt : Word) : Bool := trapsWholeOf s s.curG s.curF flt

/-- The fragment a trap makes of a fragment: HANDLER, at TRAPENT, with an empty private stack and the
MODE of the fragment it leaves (R418). `recs` says that its fault record must be accepted first. A
FROZEN fragment stays frozen and keeps the new state. -/
def Frag.toHandler (f : Frag) (entry : Quad) (mask : Word) (regs : TrapRegs) (recs : Bool) : Frag :=
  { f with
    st := if f.st = .frozen then .frozen else .handler, kept := if f.st = .frozen then .handler else f.kept
    mask := mask, pc := entry, mid := false, code := [], pstk := [], trap := regs, asks := 0
    wait := if recs then .record else .no }

/-- Notes the cause as the last trap of some threads (R73). -/
def noteTrap (s : State) (g cause : Nat) (flt : Word) : State :=
  updG s g fun x => { x with
    traps := x.traps + 1
    last := (threads flt).foldl (fun m t => Store.set m t ((x.traps + 1) * 256 + cause % 256)) x.last }

/-- TRAPC: the cause of the last trap that a fragment's threads took (R73, R75). -/
def trapCause (x : Group) (f : Frag) : Nat :=
  if f.st = .handler then f.trap.cause % 256
  else (threads f.mask).foldl (fun m t => Nat.max m (Store.get x.last t)) 0 % 256

/-- The fault records of a group's access, one for each page and kind (R277). -/
def makeRecords (s : State) (g : Nat) (own : Option (Nat × Nat)) (recs : List (Nat × Nat)) : State :=
  recs.foldl (fun s r => faultRec s ⟨ctxidOf s (gAt s g).ctx, r.1, r.2, own⟩) s

/-- Enters the handler: the threads `flt` of fragment `f` of group `g` take a trap of a cause with a fault
address; `pc` is the trap PC, and `recs` are the pages and kinds of the fault records the cause makes
(R277, R418). `own` says that the threads trap on a memory access of their own, which is not performed and counts for OUAPC
(R75, R260, R476; log entry 142, DEDUCED). -/
def enterHandler (s : State) (g f : Nat) (cause : Nat) (flt : Word) (fadr : Quad) (pc : Quad)
    (recs : List (Nat × Nat)) (own : Bool := false) : State :=
  let x := fragAt s g f
  let whole := trapsWholeOf s g f flt
  let mask := if whole then x.mask else flt
  let regs : TrapRegs := ⟨cause, pc, fadr, mask, flt, oldestPc s g (if own then pc else 0#64), (gAt s g).rgnpc⟩
  let entry := w64 (hdrTrap (ctxAt s (gAt s g).ctx).hdr)
  let idx := if whole then f else (freeFrag (gAt s g)).getD f
  let h := x.toHandler entry mask regs (!recs.isEmpty)
  let s := if whole then s else updF s g f fun x => { x with mask := x.mask &&& ~~~flt }
  let s := noteTrap (updF s g idx fun _ => h) g cause flt
  makeRecords s g (some (g, idx)) recs

/-- Is a fragment a HANDLER, be it frozen? -/
def isHandler (f : Frag) : Bool := decide (f.st = .handler) || (decide (f.st = .frozen) && decide (f.kept = .handler))

/-- A trap of HANDLER fragment `f` freezes its group as a violating master (R419); an unfreeze resumes it at its trap PC
(R433). Its access makes its records (R277, R355). -/
def handlerTrap (s : State) (g f cause : Nat) (flt : Word) (pc : Quad) (recs : List (Nat × Nat)) : State :=
  let s := updF s g f fun x => { x with pc := pc, mid := true, code := [], wait := .no }
  makeRecords (freezeGroup s g cause pc flt) g none recs

/-- A trap of some fragment; one of a HANDLER fragment freezes the group (R419). -/
def trapTo (s : State) (g f : Nat) (cause : Nat) (flt : Word) (fadr : Quad) (pc : Quad) (recs : List (Nat × Nat)) : State :=
  if isHandler (fragAt s g f) then handlerTrap s g f cause flt pc recs
  else enterHandler s g f cause flt fadr pc recs

/-- Does an operation change memory, so that it is performed only after every earlier access of its group (R260)? -/
def PendKind.changes : PendKind → Bool
  | .store | .atomic | .amax | .rx => true
  | _ => false

/-- Is an access of a group that changes memory performed in part? What would report it in OUAPC waits (R260; log entry 140,
DEDUCED). -/
def inPart (s : State) (g : Nat) : Bool :=
  (gAt s g).pend.any fun p => p.kind.changes && p.accs.any (·.got) && !performed s g p

/-- A step of the part that takes a trap of a group has not happened yet while an access is performed in part (R260). -/
def unlessPart (s : State) (g : Nat) (t : State) : State :=
  if (gAt s g).traps != (gAt t g).traps && inPart s g then s else t

/-- Does a rendezvous list a group (R165)? -/
def Rdv.lists (r : Rdv) (g : Nat) : Bool := decide (blkOf g = r.blk) && r.gang.getLsbD (grpOf g)

/-- A member of a rendezvous traps at its ganged instruction (R166), at once or as soon as no access of its group is performed
in part (R260). -/
def memberTrap (s : State) (m : Member) (cause : Nat) (fadr : Quad) : State :=
  if inPart s m.g then updF s m.g m.f fun f => { f with wait := .gang cause fadr m.pc }
  else trapTo s m.g m.f cause (fragAt s m.g m.f).mask fadr m.pc []

/-- The member of a rendezvous takes GANG at its ganged instruction, FADRL holding its GANG (R166). -/
def gangTrap (s : State) (m : Member) : State := memberTrap s m cGANG (m.gang.zeroExtend 64)

/-- Every rendezvous that lists one of some groups fails, and each group arrived in it takes GANG (R165);
a group that this freezes is treated in its turn. -/
def rdvFail : Nat → List Nat → State → State
  | 0, _, s => s
  | _, [], s => s
  | n + 1, g :: rest, s =>
    let hit := (s.rdvs.filter fun r => r.lists g).flatMap (·.arrs)
    let s := { s with rdvs := s.rdvs.filter fun r => !r.lists g }
    rdvFail n (((hit.filter fun m => m.hnd && !inPart s m.g).map (·.g)) ++ rest) (hit.foldl gangTrap s)

/-- The rendezvous that list a group fail: it ended, was frozen, or took a trap at a ganged instruction
(R165). -/
def rdvDrop (s : State) (g : Nat) : State := rdvFail (8 * s.rdvs.length + 2) [g] s

/-- A trap of threads of the acting fragment; a violating group's rendezvous fail (R165, R419). -/
def raiseAt (s : State) (cause : Nat) (flt : Word) (fadr : Quad) (pc : Quad) (recs : List (Nat × Nat)) (own : Bool := false) :
    State :=
  if isHandler (cf s) then rdvDrop (handlerTrap s s.curG s.curF cause flt pc recs) s.curG
  else enterHandler s s.curG s.curF cause flt fadr pc recs own

/-- A trap of the instruction in hand. -/
def raise (s : State) (cause : Nat) (flt : Word) (fadr : Quad) : State :=
  raiseAt s cause flt fadr (cf s).pc []

/-- A trap of every active thread at the instruction in hand. -/
def raiseAll (s : State) (cause : Nat) (fadr : Quad) : State := raise s cause (active s) fadr

/-- A STACK trap; in a HANDLER fragment it freezes the group (R67, R69, R419). -/
def raiseStack (s : State) : State := raiseAll s cSTACK 0#64

/-- Some threads trap and the instruction goes on for the others, unless the whole fragment enters the
handler (R69), where no thread performs its access (R227; log entry 143, DEDUCED), or the group freezes (R419). -/
def raiseSome (s : State) (cause : Nat) (flt : Word) (fadr : Quad) (recs : List (Nat × Nat))
    (go : State → State) (own : Bool := false) : State :=
  if emptyMask flt then go s
  else if isHandler (cf s) || trapsWhole s flt then raiseAt s cause flt fadr (cf s).pc recs own
  else go (raiseAt s cause flt fadr (cf s).pc recs own)

/-- Return from a trap (R420, R430): the private stack is discarded and the fragment is READY. Without a
target it retries at the trap PC, which may stand inside a clause, or goes on at the fetch block after a
TRAP; with one it starts the clause there. -/
def returnFromTrap (s : State) (target : Option Quad) : State :=
  let f := cf s
  match target with
  | some t => updCF s fun f => { f with st := .ready, pstk := [], pc := t, mid := false, code := [] }
  | none =>
    if f.trap.cause = cSOFTWARE then
      updCF s fun f => { f with st := .ready, pstk := [], pc := fblock f.trap.pc + 64#64, mid := false, code := [] }
    else
      updCF s fun f => { f with st := .ready, pstk := [], pc := f.trap.pc, mid := true, code := [] }

/-- A fragment gives up its lane and waits; a HANDLER fragment stays HANDLER while it waits. -/
def waitFor (s : State) (w : Wait) : State :=
  updCF s fun f => { f with st := if f.st = .handler then .handler else .waiting, wait := w }

/-- A wait of fragment `f` of group `g` is over: it is READY again, or goes on as a HANDLER. -/
def wake (s : State) (g f : Nat) : State :=
  updF s g f fun x =>
    { x with st := if x.st = .waiting then .ready else x.st
             kept := if x.kept = .waiting then .ready else x.kept
             wait := .no }

/-- Writes the destination of a waiting fragment and goes on after the instruction (R36). -/
def wakeWith (s : State) (g f : Nat) (d : Opnd) (ws : List Word) : State :=
  let s := wake (updG s g fun x => wrDst x d ws) g f
  updF s g f Frag.onward

/-- Does something with another group and fragment as the acting ones. -/
def withCur (s : State) (g f : Nat) (h : State → State) : State :=
  let s' := h { s with curG := g, curF := f }
  { s' with curG := s.curG, curF := s.curF }

/-- An instruction that only goes on. -/
def done (s : State) : Res := .next (advance s)

end Sys2Proof.Machine
end

