-- ==== Sys2Proof/Machine/Operands.lean ====
section
/-! DEFINITION. Operand forms (R26, R27), element packing (R79, R124), and how a result is written in the
vector and the uniform class (R15, R30, R57, R123). -/

namespace Sys2Proof.Machine

/-- How an instruction reads the special operands one and fone (R26). -/
inductive SrcKind where
  /-- Elements under IPACK: one is replicated. -/
  | pack
  /-- A floating-point instruction: fone is replicated under FTYPE. -/
  | fp
  /-- Any other instruction. -/
  | plain
deriving DecidableEq, Repr, Inhabited

/-- Integer 1 in each element of a packing (R26). -/
def oneOf (ipack : Nat) : Word :=
  match ipack with
  | 1 => 0x00010001#32
  | 2 => 0x01010101#32
  | _ => 0x00000001#32

/-- 1.0 in each element of an FTYPE (R26). -/
def foneOf (ftype : Nat) : Word :=
  match ftype with
  | 1 => 0x3C003C00#32
  | 2 => 0x3F803F80#32
  | _ => 0x3F800000#32

/-- The value a source operand has for a thread (R26, R27). -/
def src (s : State) (k : SrcKind) (o : Opnd) (t : Nat) : Word :=
  match o with
  | .v n => rdV (cg s) n t
  | .s n => rdS (cg s) n
  | .zero => 0#32
  | .one => if k = .pack then oneOf (mIpack (cf s).mode) else 1#32
  | .fone => if k = .fp then foneOf (mFtype (cf s).mode) else 0x3F800000#32
  | .tid => w32 t
  | .grp => w32 (grpOf s.curG)
  | .tm => w32 s.gt
  | .mone => 0xFFFFFFFF#32
  | .lit w => w
  | .ls | .rsv _ | .nul => 0#32

/-- Is a destination that of a uniform-class instruction (R30)? -/
def uniform : Opnd → Bool
  | .s _ => true
  | _ => false

/-- What a leaf or a source thread of an instruction reads: a v source at that thread; in the uniform class `tid` is the
index of the lowest active thread (R27). -/
def leafSrc (s : State) (k : SrcKind) (d o : Opnd) (t : Nat) : Word :=
  src s k o (if uniform d && o == .tid then (lowest (active s)).getD 0 else t)

/-- Register `i` of the span a source operand names. -/
def srcAt (s : State) (o : Opnd) (i t : Nat) : Word :=
  match o with
  | .v n => rdV (cg s) (n + i) t
  | .s n => rdS (cg s) (n + i)
  | o => src s .plain o t

/-- A source of an instruction that executes once for the fragment (R99). -/
def usrc (s : State) (o : Opnd) : Word := src s .plain o 0

/-- A pair that an s operand names, as a 64-bit number; zero reads as 0. -/
def upair (s : State) (o : Opnd) : Nat :=
  match o with
  | .s n => rdPair (cg s) n
  | _ => 0

/-- The words of a block of s registers. -/
def ublock (s : State) (o : Opnd) (k : Nat) : List Word :=
  match o with
  | .s n => (List.range k).map fun i => rdS (cg s) (n + i)
  | _ => List.replicate k 0#32

/-- Element width of an IPACK code, and how many elements a register holds (R79). -/
def packWidth (ipack : Nat) : Nat :=
  match ipack with
  | 1 => 16
  | 2 => 8
  | _ => 32

/-- The elements of a word, least significant first. -/
def elems (w : Nat) (x : Word) : List Nat :=
  (List.range (32 / w)).map fun i => x.toNat / 2 ^ (w * i) % 2 ^ w

/-- A word from its elements. -/
def fromElems (w : Nat) : List Nat → Nat
  | [] => 0
  | e :: r => e % 2 ^ w + 2 ^ w * fromElems w r

/-- What an instruction accumulates over its threads: FLAGS bits and the generator (R61, R82). -/
structure Env where
  fl : Nat
  sr : Word
deriving DecidableEq, Repr, Inhabited

/-- Adds FLAGS bits. -/
def Env.flag (e : Env) (n : Nat) : Env := { e with fl := e.fl ||| n }

/-- The value a rounding takes from the generator: one step under RSR, nothing otherwise (R82). -/
def Env.draw (e : Env) (mode : Nat) : Nat × Env :=
  if mode = 5 then (srVal (srStep e.sr), { e with sr := srStep e.sr }) else (0, e)

/-- Computes one result per thread in ascending order, carrying the environment (R82). -/
def overThreads (f : Nat → Env → List Word × Env) : List Nat → Env → List (Nat × List Word) × Env
  | [], e => ([], e)
  | t :: r, e =>
    let (w, e) := f t e
    let (ws, e) := overThreads f r e
    ((t, w) :: ws, e)

/-- Writes consecutive v registers of one thread. -/
def wrVs (g : Group) (n t : Nat) : List Word → Group
  | [] => g
  | w :: r => wrVs (wrV g n t w) (n + 1) t r

/-- Writes the results of a vector-class instruction (R30); nul discards them. -/
def wrThreads (g : Group) (d : Opnd) (rs : List (Nat × List Word)) : Group :=
  match d with
  | .v n => rs.foldl (fun g r => wrVs g n r.1 r.2) g
  | _ => g

/-- Runs an instruction over the threads it executes for and writes its results: once for the
lowest-numbered active thread into an s destination (R15), else for each active thread that the guard
selects. Every source is read before any destination is written (R123). -/
def runOver (s : State) (d : Opnd) (f : Nat → Env → List Word × Env) : State :=
  match d with
  | .s n =>
    match lowest (active s) with
    | none => s
    | some t =>
      let (ws, e) := f t ⟨0, (cg s).srgen⟩
      updCG s fun g => orFl { wrSs g n ws with srgen := e.sr } e.fl
  | d =>
    let (rs, e) := overThreads f (threads (selected s)) ⟨0, (cg s).srgen⟩
    updCG s fun g => orFl { wrThreads g d rs with srgen := e.sr } e.fl

/-- An instruction with one result word per thread that takes no step of the generator: the word and
its FLAGS bits. -/
def perThread (s : State) (d : Opnd) (f : Nat → Word × Nat) : Res :=
  done (runOver s d fun t e => ([(f t).1], e.flag (f t).2))

/-- An instruction whose one result word per thread is computed with the environment. -/
def perThreadEnv (s : State) (d : Opnd) (f : Nat → Env → Word × Env) : Res :=
  done (runOver s d fun t e => let (w, e) := f t e; ([w], e))

/-- Computes element by element, carrying the environment (R82). -/
def overElems (f : Nat → Env → Nat × Env) : List Nat → Env → List Nat × Env
  | [], e => ([], e)
  | i :: r, e =>
    let (x, e) := f i e
    let (xs, e) := overElems f r e
    (x :: xs, e)

/-- Writes a predicate in each active thread that the guard selects (R54, R57). -/
def setPred (s : State) (p : Nat) (f : Nat → Bool) : State :=
  updCG s fun g => wrP g p ((threads (selected s)).foldl (fun w t => setBit w t (f t)) (rdP g p))

/-- A vector-class instruction that writes one predicate. -/
def perPred (s : State) (p : Nat) (f : Nat → Bool) : Res := done (setPred s p f)

end Sys2Proof.Machine
end

