-- ==== Sys2Proof/Machine/Flags.lean ====
section
/-! DEFINITION. The FLAGS bits of the integer instructions (R61, R125, R126): SAT for a clamped element,
DZ for a zero divisor. The floating-point bits are computed with the results in Num (R83 to R86). -/

namespace Sys2Proof.Machine

/-- The ends of a signed range of `w` bits (R79). -/
def sMax (w : Nat) : Int := 2 ^ (w - 1) - 1
def sMin (w : Nat) : Int := -(2 ^ (w - 1) : Int)

/-- An exact result narrowed to `w` bits: clamped to the signed range, with SAT, when MODE.SAT is 1 and
it lies outside; else wrapped (R79, R125). -/
def clampS (w : Nat) (sat : Bool) (x : Int) : Nat × Nat :=
  if sat && decide (x < sMin w) then (wrapN w (sMin w), fSAT)
  else if sat && decide (sMax w < x) then (wrapN w (sMax w), fSAT)
  else (wrapN w x, 0)

/-- The OR of flag sets. -/
def orFlags (l : List Nat) : Nat := l.foldl (· ||| ·) 0

end Sys2Proof.Machine
end

