-- ==== Sys2Proof/Machine/IntAlu.lean ====
section
/-! DEFINITION. The integer instructions (R125 to R129), compares (R130) and predicate logic (R131,
R132). -/

namespace Sys2Proof.Machine

/-- An element operation: width, MODE.SAT and the elements of A, B and the old D, as unsigned numbers;
answers the element and its FLAGS bits. -/
abbrev ElemOp := Nat → Bool → Nat → Nat → Nat → Nat × Nat

/-- Applies an element operation to whole words (R124). -/
def onElems (w : Nat) (sat : Bool) (f : ElemOp) (a b d : Word) : Word × Nat :=
  let rs := (List.range (32 / w)).map fun i =>
    f w sat (a.toNat / 2 ^ (w * i) % 2 ^ w) (b.toNat / 2 ^ (w * i) % 2 ^ w) (d.toNat / 2 ^ (w * i) % 2 ^ w)
  (w32 (fromElems w (rs.map (·.1))), orFlags (rs.map (·.2)))

/-- An integer instruction to which IPACK applies (R125). -/
def packed (s : State) (d a b : Opnd) (f : ElemOp) : Res :=
  let m := (cf s).mode
  perThread s d fun t =>
    onElems (packWidth (mIpack m)) (mSat m) f (src s .pack a t) (src s .pack b t) (srcAt s d 0 t)

/-- An integer instruction on one 32-bit element (R124). -/
def whole (s : State) (d a b : Opnd) (f : Word → Word → Word → Word) : Res :=
  perThread s d fun t => (f (src s .plain a t) (src s .plain b t) (srcAt s d 0 t), 0)

/-- A signed exact result, clamped under SAT. -/
def signedOp (f : Int → Int → Int → Int) : ElemOp := fun w sat a b d =>
  clampS w sat (f (sgn w a) (sgn w b) (sgn w d))

/-- A signed exact result that only wraps. -/
def signedWrap (f : Nat → Int → Int → Int) : ElemOp := fun w _ a b _ => (wrapN w (f w (sgn w a) (sgn w b)), 0)

/-- An unsigned result. -/
def unsignedOp (f : Nat → Nat → Nat → Nat) : ElemOp := fun w _ a b _ => (f w a b % 2 ^ w, 0)

/-- Quotient of signed division toward zero with the cases of R126. -/
def divOp : ElemOp := fun w sat a b _ =>
  if b = 0 then (if sgn w a < 0 then wrapN w (sMin w) else wrapN w (sMax w), fDZ)
  else clampS w sat (Int.tdiv (sgn w a) (sgn w b))

def divnOp : ElemOp := fun w _ a b _ => if b = 0 then (2 ^ w - 1, fDZ) else (a / b, 0)

def remOp : ElemOp := fun w _ a b _ =>
  if b = 0 then (a, fDZ) else (wrapN w (Int.tmod (sgn w a) (sgn w b)), 0)

def remnOp : ElemOp := fun _ _ a b _ => if b = 0 then (a, fDZ) else (a % b, 0)

/-- Shifts and rotates (R125): n is the element of B, unsigned. -/
def shlOp : ElemOp := fun w _ a n _ => (if w ≤ n then 0 else a * 2 ^ n % 2 ^ w, 0)
def shrOp : ElemOp := fun w _ a n _ => (if w ≤ n then 0 else a / 2 ^ n, 0)
def sarOp : ElemOp := fun w _ a n _ => (wrapN w (sgn w a / (2 ^ (if w ≤ n then w else n) : Int)), 0)
def rotOp : ElemOp := fun w _ a n _ =>
  let k := n % w
  (a * 2 ^ k % 2 ^ w + a / 2 ^ (w - k), 0)

/-- Leading zero bits of an element. -/
def clzOp : ElemOp := fun w _ a _ _ => (w - bitLen a, 0)

/-- Number of set bits. -/
def popOp : ElemOp := fun w _ a _ _ => (((List.range w).filter fun i => bit a i).length, 0)

/-- Bits of the element in reverse order. -/
def brevOp : ElemOp := fun w _ a _ _ =>
  ((List.range w).foldl (fun acc i => acc + b2n (bit a i) * 2 ^ (w - 1 - i)) 0, 0)

def execAdd (d a b : Opnd) (s : State) : Res := packed s d a b (signedOp fun a b _ => a + b)
def execSub (d a b : Opnd) (s : State) : Res := packed s d a b (signedOp fun a b _ => a - b)
def execMul (d a b : Opnd) (s : State) : Res := packed s d a b (signedOp fun a b _ => a * b)
def execMulh (d a b : Opnd) (s : State) : Res := packed s d a b (signedWrap fun w a b => a * b / (2 ^ w : Int))
def execMulhn (d a b : Opnd) (s : State) : Res := packed s d a b (unsignedOp fun w a b => a * b / 2 ^ w)
def execMad (d a b : Opnd) (s : State) : Res := packed s d a b (signedOp fun a b d => a * b + d)
def execDiv (d a b : Opnd) (s : State) : Res := packed s d a b divOp
def execDivn (d a b : Opnd) (s : State) : Res := packed s d a b divnOp
def execRem (d a b : Opnd) (s : State) : Res := packed s d a b remOp
def execRemn (d a b : Opnd) (s : State) : Res := packed s d a b remnOp
def execAnd (d a b : Opnd) (s : State) : Res := whole s d a b fun a b _ => a &&& b
def execOr (d a b : Opnd) (s : State) : Res := whole s d a b fun a b _ => a ||| b
def execXor (d a b : Opnd) (s : State) : Res := whole s d a b fun a b _ => a ^^^ b
def execAndn (d a b : Opnd) (s : State) : Res := whole s d a b fun a b _ => a &&& ~~~b
def execShl (d a b : Opnd) (s : State) : Res := packed s d a b shlOp
def execShr (d a b : Opnd) (s : State) : Res := packed s d a b shrOp
def execSar (d a b : Opnd) (s : State) : Res := packed s d a b sarOp
def execRot (d a b : Opnd) (s : State) : Res := packed s d a b rotOp
def execMin (d a b : Opnd) (s : State) : Res := packed s d a b (signedWrap fun _ a b => if a ≤ b then a else b)
def execMax (d a b : Opnd) (s : State) : Res := packed s d a b (signedWrap fun _ a b => if a ≤ b then b else a)
def execMinn (d a b : Opnd) (s : State) : Res := packed s d a b (unsignedOp fun _ a b => if a ≤ b then a else b)
def execMaxn (d a b : Opnd) (s : State) : Res := packed s d a b (unsignedOp fun _ a b => if a ≤ b then b else a)
def execAbs (d a : Opnd) (s : State) : Res := packed s d a .zero (signedOp fun a _ _ => (a.natAbs : Int))
def execClz (d a : Opnd) (s : State) : Res := packed s d a .zero clzOp
def execPopc (d a : Opnd) (s : State) : Res := packed s d a .zero popOp
def execBrev (d a : Opnd) (s : State) : Res := packed s d a .zero brevOp
def execMov (d a : Opnd) (s : State) : Res := whole s d a .zero fun a _ _ => a

/-- BFE (R128): position in [4:0], width in [13:8], sign extension in [15] of the control word. -/
def bfeWord (a c : Word) : Word :=
  let pos := bits c.toNat 4 0
  let wd := Nat.min (bits c.toNat 13 8) 32
  let n := Nat.min (pos + wd) 32 - pos
  let f := a.toNat / 2 ^ pos % 2 ^ n
  if n = 0 then 0#32
  else if bit c.toNat 15 then w32 (wrapN 32 (sgn n f)) else w32 f

/-- BFI (R128). -/
def bfiWord (a c d : Word) : Word :=
  let pos := bits c.toNat 4 0
  let wd := Nat.min (bits c.toNat 13 8) 32
  let m := w32 ((2 ^ wd - 1) * 2 ^ pos)
  (d &&& ~~~m) ||| (w32 (a.toNat * 2 ^ pos) &&& m)

def execBfe (d a b : Opnd) (s : State) : Res := whole s d a b fun a b _ => bfeWord a b
def execBfi (d a b : Opnd) (s : State) : Res := whole s d a b fun a b d => bfiWord a b d

/-- ADDC and SUBB (R127): p7 is the carry in, and it takes the carry out of each thread written, of
every active thread in the uniform class. -/
def carryOp (s : State) (d a b : Opnd) (f : Nat → Nat → Nat → Nat × Bool) : Res :=
  let g := cg s
  let r := fun t => f (src s .plain a t).toNat (src s .plain b t).toNat (b2n (pbit g 7 t))
  let s' := runOver s d fun t e => ([w32 (r t).1], e)
  let p7 := match d with
    | .s _ =>
      match lowest (active s) with
      | none => rdP g 7
      | some l => (threads (active s)).foldl (fun w t => setBit w t (r l).2) (rdP g 7)
    | _ => (threads (selected s)).foldl (fun w t => setBit w t (r t).2) (rdP g 7)
  done (updCG s' fun g => wrP g 7 p7)

def execAddc (d a b : Opnd) (s : State) : Res :=
  carryOp s d a b fun a b c => ((a + b + c) % 2 ^ 32, decide (2 ^ 32 ≤ a + b + c))
def execSubb (d a b : Opnd) (s : State) : Res :=
  carryOp s d a b fun a b c => ((a + 2 ^ 33 - b - c) % 2 ^ 32, decide (a < b + c))

/-- SEL (R129): the guard chooses, and every active thread is written. -/
def execSel (d a b : Opnd) (s : State) : Res :=
  let gm := guardMask (cg s) (cf s).mode
  let r := fun t => if gm.getLsbD t then src s .plain a t else src s .plain b t
  done <| match d with
    | .s n =>
      match lowest (active s) with
      | none => s
      | some t => updCG s fun g => wrS g n (r t)
    | d => updCG s fun g => wrThreads g d ((threads (active s)).map fun t => (t, [r t]))

/-- A condition of R43 on two integers. -/
def intCond (c : Nat) (a b : Int) : Bool :=
  match c with
  | 0 => decide (a = b)
  | 1 => decide (a ≠ b)
  | 2 => decide (a < b)
  | 3 => decide (a ≤ b)
  | 4 => decide (b < a)
  | _ => decide (b ≤ a)

def execCmp (c p : BitVec 3) (a b : Opnd) (s : State) : Res :=
  perPred s p.toNat fun t => intCond c.toNat (src s .plain a t).toInt (src s .plain b t).toInt
def execCmpn (c p : BitVec 3) (a b : Opnd) (s : State) : Res :=
  perPred s p.toNat fun t => intCond c.toNat (src s .plain a t).toNat (src s .plain b t).toNat

/-- Predicate logic (R131): both sources may be inverted and are read before the write. -/
def predOp (s : State) (p : BitVec 3) (n : BitVec 1) (q : BitVec 3) (m : BitVec 1) (r : BitVec 3)
    (f : Bool → Bool → Bool) : Res :=
  let g := cg s
  perPred s p.toNat fun t => f (pbit g q.toNat t != (n == 1#1)) (pbit g r.toNat t != (m == 1#1))

def execPand (p : BitVec 3) (n : BitVec 1) (q : BitVec 3) (m : BitVec 1) (r : BitVec 3) (s : State) : Res :=
  predOp s p n q m r fun x y => x && y
def execPor (p : BitVec 3) (n : BitVec 1) (q : BitVec 3) (m : BitVec 1) (r : BitVec 3) (s : State) : Res :=
  predOp s p n q m r fun x y => x || y
def execPxor (p : BitVec 3) (n : BitVec 1) (q : BitVec 3) (m : BitVec 1) (r : BitVec 3) (s : State) : Res :=
  predOp s p n q m r fun x y => x != y

/-- PSET: each selected thread takes its bit of A as it reads it (R132). -/
def execPset (p : BitVec 3) (a : Opnd) (s : State) : Res :=
  perPred s p.toNat fun t => (src s .plain a t).getLsbD t

/-- PGET: the whole predicate (R132). -/
def execPget (d : Opnd) (p : BitVec 3) (s : State) : Res :=
  let w := rdP (cg s) p.toNat
  perThread s d fun _ => (w, 0)

end Sys2Proof.Machine
end

