-- ==== Sys2Proof/Machine/Exchange.lean ====
section
/-! DEFINITION. Exchanges and lookups (R133 to R136), integer reductions and prefix sums (R95, R96, R137,
R138), and votes (R121). -/

namespace Sys2Proof.Machine

/-- An exchange: thread t receives A of the thread the rule names, 0 where it names none (R27, R133). -/
def exchange (s : State) (d a : Opnd) (from_ : Nat → Option Nat) : Res :=
  perThread s d fun t =>
    (match from_ t with
      | some j => leafSrc s .plain d a j
      | none => 0#32, 0)

def execShfl (d a b : Opnd) (s : State) : Res :=
  exchange s d a fun t => some (bits (src s .plain b t).toNat 4 0)
def execShup (d a b : Opnd) (s : State) : Res :=
  exchange s d a fun t => let n := (usrc s b).toNat; if t < n then none else some (t - n)
def execShdn (d a b : Opnd) (s : State) : Res :=
  exchange s d a fun t => let n := (usrc s b).toNat; if 31 < t + n then none else some (t + n)
def execQswz (d a b : Opnd) (s : State) : Res :=
  exchange s d a fun t => some (t / 4 * 4 + bits (usrc s b).toNat (2 * (t % 4) + 1) (2 * (t % 4)))
def execQxh (d a : Opnd) (s : State) : Res := exchange s d a fun t => some (t ^^^ 1)
def execQxv (d a : Opnd) (s : State) : Res := exchange s d a fun t => some (t ^^^ 2)
def execQxd (d a : Opnd) (s : State) : Res := exchange s d a fun t => some (t ^^^ 3)

/-- Byte i of a word. -/
def byteOf (w : Word) (i : Nat) : Nat := bits w.toNat (8 * i + 7) (8 * i)

/-- Looks up four bytes in the table quad B (R135); `lo` is the low bit of the nibble. -/
def nibble (s : State) (d a b : Opnd) (lo : Nat) : Res :=
  perThread s d fun t =>
    let x := src s .plain a t
    (w32 (fromElems 8 ((List.range 4).map fun i =>
      let k := bits (byteOf x i) (lo + 3) lo
      byteOf (srcAt s b (k / 4) t) (k % 4))), 0)

def execNibl (d a b : Opnd) (s : State) : Res := nibble s d a b 0
def execNibh (d a b : Opnd) (s : State) : Res := nibble s d a b 4

/-- PRMT's result word from A, the old D and the selector (R136). -/
def prmtWord (a d b : Word) : Word :=
  let step := match bits b.toNat 5 4 with
    | 0 => 1
    | 1 => 7
    | 2 => 0
    | _ => 2
  w32 (fromElems 8 ((List.range 4).map fun i =>
    if bit b.toNat (8 + i) then 0
    else
      let k := (bits b.toNat 2 0 + i * step) % 8
      if k < 4 then byteOf a k else byteOf d (k - 4)))

def execPrmt (d a b : Opnd) (s : State) : Res :=
  perThread s d fun t => (prmtWord (src s .plain a t) (srcAt s d 0 t) (src s .plain b t), 0)

/-- A value of the reduction tree: the elements of a node, absent where no leaf is (R95). -/
abbrev Node := Option (List Nat)

/-- Combines two children: an absent child yields the other unchanged (R95). -/
def combine (f : Nat → Nat → Nat × Nat) : Node × Nat → Node × Nat → Node × Nat
  | (none, p), (y, q) => (y, p ||| q)
  | (x, p), (none, q) => (x, p ||| q)
  | (some x, p), (some y, q) =>
    let rs := List.zipWith f x y
    (some (rs.map (·.1)), p ||| q ||| orFlags (rs.map (·.2)))

/-- The node of a level that covers leaves i·2^k to (i+1)·2^k − 1, with the flags of its nodes (R95). -/
def nodeAt (f : Nat → Nat → Nat × Nat) (leaf : Nat → Node) : Nat → Nat → Node × Nat
  | 0, i => (leaf i, 0)
  | k + 1, i => combine f (nodeAt f leaf k (2 * i)) (nodeAt f leaf k (2 * i + 1))

/-- The combination of leaves 0 to n − 1 from aligned blocks, largest first (R96). -/
def prefixOf (f : Nat → Nat → Nat × Nat) (leaf : Nat → Node) (n : Nat) : Node × Nat :=
  ([5, 4, 3, 2, 1, 0].foldl (fun (acc : (Node × Nat) × Nat) k =>
    if bit n k then (combine f acc.1 (nodeAt f leaf k (acc.2 / 2 ^ k)), acc.2 + 2 ^ k) else acc)
    (((none : Node), 0), 0)).1

/-- The leaves of a reduction: the selected threads, or every active thread in the uniform class (R27, R137). -/
def leafOf (s : State) (d a : Opnd) (w : Nat) (t : Nat) : Node :=
  let m := if uniform d then active s else selected s
  if m.getLsbD t then some (elems w (leafSrc s .pack d a t)) else none

/-- A reduction's delivery: the root, or the identity in every element (R95, R137). -/
def reduce (s : State) (d a : Opnd) (f : Nat → Nat → Nat → Nat × Nat) (ident : Nat → Nat) : Res :=
  let w := packWidth (mIpack (cf s).mode)
  let (root, fl) := nodeAt (f w) (leafOf s d a w) 5 0
  let v := w32 (fromElems w (root.getD (List.replicate (32 / w) (ident w))))
  perThread s d fun _ => (v, fl)

/-- Element addition of RADD and the prefix sums: wraps, or saturates under MODE.SAT (R137). -/
def addNode (s : State) (w x y : Nat) : Nat × Nat := clampS w (mSat (cf s).mode) (sgn w x + sgn w y)

def execRadd (d a : Opnd) (s : State) : Res := reduce s d a (addNode s) fun _ => 0
def execRmax (d a : Opnd) (s : State) : Res :=
  reduce s d a (fun w x y => (if sgn w x < sgn w y then y else x, 0)) fun w => wrapN w (sMin w)
def execRmin (d a : Opnd) (s : State) : Res :=
  reduce s d a (fun w x y => (if sgn w y < sgn w x then y else x, 0)) fun w => wrapN w (sMax w)

/-- A prefix sum; `k` is 1 for the inclusive form (R138). -/
def prefixSum (s : State) (d a : Opnd) (k : Nat) : Res :=
  let w := packWidth (mIpack (cf s).mode)
  perThread s d fun t =>
    let (v, fl) := prefixOf (addNode s w) (leafOf s d a w) (t + k)
    (w32 (fromElems w (v.getD [])), fl)

def execPsum (d a : Opnd) (s : State) : Res := prefixSum s d a 1
def execPsumx (d a : Opnd) (s : State) : Res := prefixSum s d a 0

/-- The value of a vote over some voters (R121). -/
def voteValue (kind : Nat) (voters : List Nat) (b : Nat → Bool) : Word :=
  match kind with
  | 0 => maskOf (voters.filter b)
  | 1 => w32 (b2n (voters.any b))
  | 2 => w32 (b2n (voters.all b))
  | _ => w32 (b2n (voters.all b || voters.all fun t => !b t))

/-- VOTE: the voters are the active threads, limited by the guard in the vector class (R121). -/
def execVote (d : Opnd) (k : BitVec 2) (n : BitVec 1) (p : BitVec 3) (s : State) : Res :=
  let g := cg s
  let voters := threads (if uniform d then active s else selected s)
  let v := voteValue k.toNat voters fun t => pbit g p.toNat t != (n == 1#1)
  perThread s d fun _ => (v, 0)

end Sys2Proof.Machine
end

