-- ==== Sys2Proof/Machine/Fun.lean ====
section
/-! DEFINITION. The transcendental functions (R97, R98): the exact value, known to 64 bits and a sticky
bit, from integer fixed-point series. A series is run at rising precision until the bits it must pin
are certain. -/

namespace Sys2Proof.Machine

/-- Σ ± t / d with t divided by k at each term: the arctangent and hyperbolic series of 1/n. -/
def series (alt : Bool) (k : Nat) : Nat → Nat → Nat → Bool → Int
  | 0, _, _, _ => 0
  | n + 1, t, d, s =>
    if t = 0 then 0
    else (if s then -((t / d : Nat) : Int) else ((t / d : Nat) : Int)) + series alt k n (t / k) (d + 2) (alt && !s)

/-- π in units of 2^−p, by 16 arctan 1/5 − 4 arctan 1/239. -/
def piFix (p : Nat) : Nat :=
  (16 * series true 25 p (2 ^ p / 5) 1 false - 4 * series true 57121 p (2 ^ p / 239) 1 false).toNat

/-- ln 2 in units of 2^−p, by 2 artanh 1/3. -/
def ln2Fix (p : Nat) : Nat := (2 * series false 9 p (2 ^ p / 3) 1 false).toNat

/-- Σ t, with t times r / i at each term: the exponential series. -/
def expSum (p r : Nat) : Nat → Nat → Nat → Nat
  | 0, _, _ => 0
  | n + 1, t, i => if t = 0 then 0 else t + expSum p r n (t * r / 2 ^ p / i) (i + 1)

/-- exp r for r in [0, 1) in units of 2^−p. -/
def expFix (p r : Nat) : Nat := expSum p r p (2 ^ p) 1

/-- Σ ± t, with t times r² / (i (i+1)): the sine and cosine series. -/
def trigSum (p r : Nat) : Nat → Nat → Nat → Bool → Int
  | 0, _, _, _ => 0
  | n + 1, t, i, s =>
    if t = 0 then 0
    else (if s then -(t : Int) else (t : Int)) + trigSum p r n (t * r / 2 ^ p * r / 2 ^ p / (i * (i + 1))) (i + 2) (!s)

def sinFix (p r : Nat) : Int := trigSum p r p r 2 false
def cosFix (p r : Nat) : Int := trigSum p r p (2 ^ p) 1 false

/-- Σ t / d with t times z²: twice this is ln((1+z)/(1−z)). -/
def athSum (p z : Nat) : Nat → Nat → Nat → Nat
  | 0, _, _ => 0
  | n + 1, t, d => if t = 0 then 0 else t / d + athSum p z n (t * z / 2 ^ p * z / 2 ^ p) (d + 2)

/-- ln y for y in [1, 2) in units of 2^−p. -/
def lnFix (p y : Nat) : Nat :=
  let z := (y - 2 ^ p) * 2 ^ p / (y + 2 ^ p)
  2 * athSum p z p z 1

/-- Integer square root, one bit at a time. -/
def isqrtGo (n : Nat) : Nat → Nat → Nat
  | 0, r => r
  | b + 1, r =>
    let c := r + 2 ^ b
    isqrtGo n b (if c * c ≤ n then c else r)

def isqrt (n : Nat) : Nat := isqrtGo n (bitLen n / 2 + 1) 0

/-- Pins the leading 64 bits of a value known to 2^16 units of 2^−p, if they are certain. -/
def pin (neg : Bool) (a : Nat) (p : Nat) (n : Int) : Option Ex :=
  let s := bitLen a - 64
  if (a - 2 ^ 16) / 2 ^ s = (a + 2 ^ 16) / 2 ^ s then some ⟨neg, a / 2 ^ s, (s : Int) - p + n, true⟩ else none

/-- Runs an approximation at precision 256, 512 and 1024 until its bits are certain. -/
def ziv (f : Nat → Option Ex) : Ex :=
  match f 256 with
  | some x => x
  | none => match f 512 with
    | some x => x
    | none => match f 1024 with
      | some x => x
      | none => ⟨false, 0, 0, true⟩

/-- A finite value in units of 2^−p, rounded down. -/
def Ex.fix (x : Ex) (p : Nat) : Int :=
  let n : Int := if 0 ≤ x.e + p then ((x.m * pow2 (x.e + p) : Nat) : Int) else ((x.m : Int) / (2 ^ (-(x.e + p)).toNat : Int))
  if x.neg then -n else n

/-- The exponent of the leading bit. -/
def Ex.lead (x : Ex) : Int := (bitLen x.m : Int) - 1 + x.e

/-- A value a little below a magnitude: what sin, tanh and cos of a tiny argument are. -/
def Ex.justBelow (x : Ex) : Ex := ⟨x.neg, x.m * 2 ^ 64 - 1, x.e - 64, true⟩

/-- 1 / x. -/
def Ex.recip (x : Ex) : Ex :=
  let k := bitLen x.m + 64
  ⟨x.neg, 2 ^ k / x.m, -x.e - k, 2 ^ k % x.m != 0⟩

/-- A magnitude with an even exponent. -/
def Ex.even (x : Ex) : Ex := if x.e % 2 = 0 then x else { x with m := 2 * x.m, e := x.e - 1 }

/-- The square root of a positive value. -/
def Ex.sqrt (x : Ex) : Ex :=
  let y := x.even
  let n := y.m * 2 ^ 128
  let r := isqrt n
  ⟨false, r, y.e / 2 - 64, r * r != n⟩

/-- The reciprocal square root of a positive value. -/
def Ex.rsqrt (x : Ex) : Ex :=
  let y := x.even
  let k := bitLen y.m + 64
  let r := isqrt (2 ^ (2 * k) / y.m)
  ⟨false, r, -(y.e / 2) - k, r * r * y.m != 2 ^ (2 * k)⟩

/-- 2^x. -/
def Ex.exp2 (x : Ex) : Ex :=
  if 12 < x.lead then (if x.neg then ⟨false, 2 ^ 64, -4096, true⟩ else ⟨false, 1, 4096, false⟩)
  else
    let n := x.fix 1024 / (2 ^ 1024 : Int)
    if x.fix 1024 % (2 ^ 1024 : Int) = 0 then ⟨false, 1, n, false⟩
    else ziv fun p => pin false (expFix p ((x.fix p % (2 ^ p : Int)).toNat * ln2Fix p / 2 ^ p)) p n

/-- log2 of a positive value. -/
def Ex.log2 (x : Ex) : Ex :=
  let n := x.lead
  if x.m = 2 ^ (bitLen x.m - 1) then Ex.ofInt n 0 false
  else ziv fun p =>
    let y := x.m * 2 ^ p / 2 ^ (bitLen x.m - 1)
    let l : Int := n * 2 ^ p + ((lnFix p y * 2 ^ p / ln2Fix p : Nat) : Int)
    pin (decide (l < 0)) l.natAbs p 0

/-- Sine of the reduced argument, shifted by `q` quarter turns. -/
def trig (q0 : Nat) (neg : Bool) (x : Ex) : Ex :=
  ziv fun p =>
    let w := p + 140
    let h := piFix w / 2
    let a := (Ex.fix { x with neg := false } w).toNat
    let r := (a % h) / 2 ^ 140
    let q := (a / h + q0) % 4
    let s := if q % 2 = 0 then sinFix p r else cosFix p r
    pin (neg != decide (2 ≤ q)) s.toNat p 0

/-- The sine of a non-zero value, in radians. -/
def Ex.sin (x : Ex) : Ex := if x.lead < -40 then x.justBelow else trig 0 x.neg x

/-- The cosine of a non-zero value. -/
def Ex.cos (x : Ex) : Ex := if x.lead < -40 then Ex.justBelow ⟨false, 1, 0, false⟩ else trig 1 false x

/-- The hyperbolic tangent of a non-zero value. -/
def Ex.tanh (x : Ex) : Ex :=
  if x.lead < -40 then x.justBelow
  else if 6 ≤ x.lead then Ex.justBelow ⟨x.neg, 1, 0, false⟩
  else ziv fun p =>
    let t := (Ex.fix { x with neg := false } p).toNat * 2
    let l := ln2Fix p
    let g := expFix p (t % l) * 2 ^ (t / l)
    pin x.neg ((g - 2 ^ p) * 2 ^ p / (g + 2 ^ p)) p 0

/-- The functions of R97. -/
inductive Fn where
  | rcp | rsq | sqrt | exp2 | log2 | sin | cos | tanh
deriving DecidableEq, Repr, Inhabited

/-- The value 1. -/
def Ex.unit (neg : Bool) : Val := .fin ⟨neg, 1, 0, false⟩

/-- The value 0 of a sign. -/
def Ex.nil (neg : Bool) : Val := .fin ⟨neg, 0, 0, false⟩

/-- A function's value before rounding, its special cases by the table of R98. -/
def Fn.eval (f : Fn) : Val → Val
  | .nan fl => .nan fl
  | .inf neg _ =>
    match f with
    | .rcp => Ex.nil neg
    | .rsq => if neg then .nan fNV else Ex.nil false
    | .sqrt => if neg then .nan fNV else .inf false 0
    | .exp2 => if neg then Ex.nil false else .inf false 0
    | .log2 => if neg then .nan fNV else .inf false 0
    | .sin => .nan fNV
    | .cos => .nan fNV
    | .tanh => Ex.unit neg
  | .fin x =>
    if x.m = 0 then
      match f with
      | .rcp | .rsq => .inf x.neg fDZ
      | .log2 => .inf true fDZ
      | .exp2 | .cos => Ex.unit false
      | .sqrt | .sin | .tanh => Ex.nil x.neg
    else
      match f with
      | .rcp => .fin x.recip
      | .rsq => if x.neg then .nan fNV else .fin x.rsqrt
      | .sqrt => if x.neg then .nan fNV else .fin x.sqrt
      | .exp2 => .fin x.exp2
      | .log2 => if x.neg then .nan fNV else .fin x.log2
      | .sin => .fin x.sin
      | .cos => .fin x.cos
      | .tanh => .fin x.tanh

end Sys2Proof.Machine
end

