-- ==== Sys2Proof/Machine/Float.lean ====
section
/-! DEFINITION. The floating-point and conversion instructions (R140 to R154, R158): each element is
decoded exactly, computed exactly, rounded once, and encoded. -/

namespace Sys2Proof.Machine

/-- The element format of an FTYPE code (R55). -/
def fmtOf (ftype : Nat) : Fmt :=
  match ftype with
  | 1 => f16
  | 2 => bf16
  | _ => f32

/-- What a floating-point instruction samples of MODE (R58, R140). -/
structure FMode where
  fmt : Fmt
  mode : Nat
  sat : Bool
  ftz : Bool
deriving DecidableEq, Repr, Inhabited

def fmode (s : State) : FMode :=
  let m := (cf s).mode
  ⟨fmtOf (mFtype m), mRound m, mSat m, mFtz m⟩

/-- Element i of a word. -/
def elem (w i : Nat) (x : Word) : Nat := x.toNat / 2 ^ (w * i) % 2 ^ w

/-- Element i of a word as an exact value, flushed under FTZ (R84). -/
def FMode.val (m : FMode) (x : Word) (i : Nat) : Val := m.fmt.dec m.ftz (elem m.fmt.width i x)

/-- An instruction that rounds each element once (R142): `f` computes the exact value. -/
def rounded (s : State) (d : Opnd) (f : FMode → Nat → Nat → Val) : Res :=
  let m := fmode s
  perThreadEnv s d fun t e =>
    let (rs, e) := overElems (fun i e =>
      let (v, e) := e.draw m.mode
      let (r, fl) := m.fmt.finish m.mode false m.ftz v (f m t i)
      (r, e.flag fl)) (List.range (32 / m.fmt.width)) e
    (w32 (fromElems m.fmt.width rs), e)

/-- An instruction that delivers each element without rounding (R143). -/
def unrounded (s : State) (d : Opnd) (f : FMode → Nat → Nat → Val) : Res :=
  let m := fmode s
  perThread s d fun t =>
    (w32 (fromElems m.fmt.width ((List.range (32 / m.fmt.width)).map fun i =>
      (m.fmt.finish 0 false false 0 (f m t i)).1)), 0)

/-- Element i of operand o for thread t. -/
def fsrc (s : State) (m : FMode) (o : Opnd) (t i : Nat) : Val := m.val (src s .fp o t) i

/-- Element i of the old destination. -/
def fold_ (s : State) (m : FMode) (o : Opnd) (t i : Nat) : Val := m.val (srcAt s o 0 t) i

def execFadd (d a b : Opnd) (s : State) : Res :=
  rounded s d fun m t i => (fsrc s m a t i).add m.mode (fsrc s m b t i)
def execFsub (d a b : Opnd) (s : State) : Res :=
  rounded s d fun m t i => (fsrc s m a t i).add m.mode (fsrc s m b t i).flip
def execFmul (d a b : Opnd) (s : State) : Res :=
  rounded s d fun m t i => (fsrc s m a t i).mul (fsrc s m b t i)
def execFma (d a b : Opnd) (s : State) : Res :=
  rounded s d fun m t i => ((fsrc s m a t i).mul (fsrc s m b t i)).add m.mode (fold_ s m d t i)
def execFms (d a b : Opnd) (s : State) : Res :=
  rounded s d fun m t i => ((fsrc s m a t i).mul (fsrc s m b t i)).add m.mode (fold_ s m d t i).flip

/-- a × 2^n; zeros, infinities and NaN are returned (R142). -/
def Val.scale (v : Val) (n : Int) : Val :=
  match v with
  | .fin x => .fin (x.scale n)
  | v => v

def execFscal (d a b : Opnd) (s : State) : Res :=
  rounded s d fun m t i =>
    (fsrc s m a t i).scale (sgn m.fmt.width (elem m.fmt.width i (src s .fp b t)))

/-- FRND: rounded to an integer in the same format, keeping the sign; only NX (R142). -/
def execFrnd (d a : Opnd) (s : State) : Res :=
  let m := fmode s
  perThreadEnv s d fun t e =>
    let (rs, e) := overElems (fun i e =>
      let (v, e) := e.draw m.mode
      match fsrc s m a t i with
      | .fin x =>
        let (n, ix) := roundAt m.mode v x 0
        ((m.fmt.finish 1 false false 0 (.fin ⟨x.neg, n, 0, false⟩)).1, e.flag (if ix then fNX else 0))
      | y => ((m.fmt.finish 1 false false 0 y).1, e)) (List.range (32 / m.fmt.width)) e
    (w32 (fromElems m.fmt.width rs), e)

def execFmin (d a b : Opnd) (s : State) : Res :=
  unrounded s d fun m t i => (fsrc s m a t i).min (fsrc s m b t i)
def execFmax (d a b : Opnd) (s : State) : Res :=
  unrounded s d fun m t i => (fsrc s m a t i).max (fsrc s m b t i)
def execFabs (d a : Opnd) (s : State) : Res := unrounded s d fun m t i => (fsrc s m a t i).mag
def execFneg (d a : Opnd) (s : State) : Res := unrounded s d fun m t i => (fsrc s m a t i).flip

/-- A transcendental of R97 over the elements of A (R145). -/
def fnOp (s : State) (d a : Opnd) (f : Fn) : Res := rounded s d fun m t i => f.eval (fsrc s m a t i)

def execFrcp (d a : Opnd) (s : State) : Res := fnOp s d a .rcp
def execFrsq (d a : Opnd) (s : State) : Res := fnOp s d a .rsq
def execFsqrt (d a : Opnd) (s : State) : Res := fnOp s d a .sqrt
def execFexp2 (d a : Opnd) (s : State) : Res := fnOp s d a .exp2
def execFlog2 (d a : Opnd) (s : State) : Res := fnOp s d a .log2
def execFsin (d a : Opnd) (s : State) : Res := fnOp s d a .sin
def execFcos (d a : Opnd) (s : State) : Res := fnOp s d a .cos
def execFtanh (d a : Opnd) (s : State) : Res := fnOp s d a .tanh

/-- Opposite infinities among some terms raise NV (R144). -/
def oppInf (l : List Val) : Nat :=
  let isInf (b : Bool) (v : Val) : Bool := match v with
    | .inf n _ => n == b
    | _ => false
  if l.any (isInf true) && l.any (isInf false) then fNV else 0

/-- An instruction of the packed types under F32 raises OPERAND and writes nothing (R144, R151); without a thread to execute
for it does nothing (R57, R158). -/
def unpacked (s : State) (d : Opnd) : Res :=
  .next (if (if uniform d then active s else selected s) = 0#32 then advance s else raiseAll s cOPERAND 0#64)

/-- FDOT2: a0 × b0 + a1 × b1 + d into F32, one rounding; OPERAND under F32 (R144). -/
def execFdot2 (d a b : Opnd) (s : State) : Res :=
  let m := fmode s
  if mFtype (cf s).mode = 0 then unpacked s d
  else perThreadEnv s d fun t e =>
    let (v, e) := e.draw m.mode
    let p0 := (fsrc s m a t 0).mul (fsrc s m b t 0)
    let p1 := (fsrc s m a t 1).mul (fsrc s m b t 1)
    let c := f32.dec m.ftz (srcAt s d 0 t).toNat
    let (r, fl) := f32.finish m.mode false m.ftz v ((p0.add m.mode p1).add m.mode c)
    (w32 r, e.flag (fl ||| oppInf [p0, p1, c]))

/-- FCMP: both elements under a packed FTYPE (R146). -/
def execFcmp (c p : BitVec 3) (a b : Opnd) (s : State) : Res :=
  let m := fmode s
  perPred s p.toNat fun t =>
    (List.range (32 / m.fmt.width)).all fun i => Val.cond c.toNat (fsrc s m a t i) (fsrc s m b t i)

/-- One FRADD node: each element position takes its step in turn (R95). -/
def faddNode (m : FMode) (x y : List Nat) (e : Env) : List Nat × Env :=
  overElems (fun i e =>
    let (v, e) := e.draw m.mode
    let get (l : List Nat) := m.fmt.dec m.ftz (l.getD i 0)
    let (r, fl) := m.fmt.finish m.mode false m.ftz v ((get x).add m.mode (get y))
    (r, e.flag fl)) (List.range (32 / m.fmt.width)) e

/-- One level of the tree, in ascending position (R95). -/
def faddLevel (m : FMode) : List Node → Env → List Node × Env
  | x :: y :: r, e =>
    let (n, e) := match x, y with
      | some x, some y => let (z, e) := faddNode m x y e; (some z, e)
      | none, y => (y, e)
      | x, none => (x, e)
    let (ns, e) := faddLevel m r e
    (n :: ns, e)
  | l, e => (l, e)

/-- An element as an instruction reads it: a NaN is the canonical one, a subnormal is flushed under FTZ (R78, R84; log entry
132, DEDUCED, for the leaves of a reduction). -/
def canon (m : FMode) (x : Nat) : Nat := (m.fmt.finish 0 false false 0 (m.fmt.dec m.ftz x)).1

/-- A leaf of FRADD or FRMAX: present for the selected threads, or every active thread in the uniform class (R27, R137,
R147). -/
def fleaf (s : State) (d a : Opnd) (m : FMode) (t : Nat) : Node :=
  let k := if uniform d then active s else selected s
  if k.getLsbD t then some ((elems m.fmt.width (leafSrc s .fp d a t)).map (canon m)) else none

/-- FRADD (R147): the tree level by level, the root delivered as RADD delivers it. -/
def execFradd (d a : Opnd) (s : State) : Res :=
  let m := fmode s
  let up (x : List Node × Env) : List Node × Env := faddLevel m x.1 x.2
  let (l, e) := up (up (up (up (up ((List.range 32).map (fleaf s d a m), ⟨0, (cg s).srgen⟩)))))
  let v := w32 (fromElems m.fmt.width ((l.headD none).getD []))
  perThread (updCG s fun g => orFl { g with srgen := e.sr } e.fl) d fun _ => (v, 0)

/-- FRMAX (R147). -/
def execFrmax (d a : Opnd) (s : State) : Res :=
  let m := fmode s
  let node (x y : Nat) : Nat × Nat :=
    ((m.fmt.finish 0 false false 0 ((m.fmt.dec m.ftz x).max (m.fmt.dec m.ftz y))).1, 0)
  let (root, _) := nodeAt node (fleaf s d a m) 5 0
  let v := w32 (fromElems m.fmt.width (root.getD (List.replicate (32 / m.fmt.width) (m.fmt.infEnc true))))
  perThread s d fun _ => (v, 0)

/-- A conversion to integers of the element width in a range (R149). -/
def toInts (s : State) (d a : Opnd) (lo hi : Nat → Int) : Res :=
  let m := fmode s
  let w := m.fmt.width
  perThreadEnv s d fun t e =>
    let (rs, e) := overElems (fun i e =>
      let (v, e) := e.draw m.mode
      let (n, fl) := (fsrc s m a t i).toRange m.mode v m.sat (lo w) (hi w)
      (wrapN w n, e.flag fl)) (List.range (32 / w)) e
    (w32 (fromElems w rs), e)

def execF2i (d a : Opnd) (s : State) : Res := toInts s d a sMin sMax
def execF2n (d a : Opnd) (s : State) : Res := toInts s d a (fun _ => 0) fun w => 2 ^ w - 1

/-- A conversion from integers, exact and then rounded once (R150). -/
def fromInts (s : State) (d a : Opnd) (f : Nat → Nat → Int) : Res :=
  let m := fmode s
  let w := m.fmt.width
  perThreadEnv s d fun t e =>
    let (rs, e) := overElems (fun i e =>
      let (v, e) := e.draw m.mode
      let (r, fl) := m.fmt.finish m.mode m.sat m.ftz v (Val.ofInt (f w (elem w i (src s .fp a t))))
      (r, e.flag fl)) (List.range (32 / w)) e
    (w32 (fromElems w rs), e)

def execI2f (d a : Opnd) (s : State) : Res := fromInts s d a sgn
def execN2f (d a : Opnd) (s : State) : Res := fromInts s d a fun _ n => n

/-- F2H: two F32 values into the packed type; OPERAND under F32 (R151). -/
def execF2h (d a b : Opnd) (s : State) : Res :=
  let m := fmode s
  if mFtype (cf s).mode = 0 then unpacked s d
  else perThreadEnv s d fun t e =>
    let (rs, e) := overElems (fun i e =>
      let (v, e) := e.draw m.mode
      let x := src s .fp (if i = 0 then a else b) t
      let (r, fl) := m.fmt.finish m.mode m.sat m.ftz v (f32.dec m.ftz x.toNat)
      (r, e.flag fl)) [0, 1] e
    (w32 (fromElems 16 rs), e)

/-- H2F: one element to F32, exactly; OPERAND under F32 (R151). -/
def execH2f (d a : Opnd) (x : BitVec 1) (s : State) : Res :=
  let m := fmode s
  if mFtype (cf s).mode = 0 then unpacked s d
  else perThread s d fun t => (w32 (f32.finish 0 false false 0 (fsrc s m a t x.toNat)).1, 0)

/-- Is a scale word legal (R152)? -/
def scaleOk (w : Word) : Bool :=
  let f := bits w.toNat 11 8
  (f == 2 || f == 3 || f == 7 || f == 8) && bits w.toNat 7 0 != 0x80

/-- The threads that read an illegal scale word: all active threads for one that every thread reads (R152). One that `tid`
gives, though it differs by thread, traps as an s register's does (log entry 129, DEDUCED). -/
def badScale (s : State) (d b : Opnd) : Word :=
  if uniform d then
    match lowest (active s) with
    | some t => if scaleOk (src s .fp b t) then 0#32 else active s
    | none => 0#32
  else if isV b then maskOf ((threads (selected s)).filter fun t => !scaleOk (src s .fp b t))
  else if (threads (selected s)).isEmpty || scaleOk (src s .fp b 0) then 0#32 else active s

/-- One element into an 8-bit format (R153). -/
def toByte (m : FMode) (code v : Nat) (x : Val) : Nat × Nat :=
  match code with
  | 2 => e4m3.finish m.mode m.sat false v x
  | 3 => e5m2.finish m.mode m.sat false v x
  | 7 => let (n, fl) := x.toRange m.mode v m.sat (-128) 127; (wrapN 8 n, fl)
  | _ => let (n, fl) := x.toRange m.mode v m.sat 0 255; (wrapN 8 n, fl)

/-- PK8 (R153). -/
def execPk8 (d a b : Opnd) (s : State) : Res :=
  let m := fmode s
  .next <| raiseSome s cOPERAND (badScale s d b) 0#64 [] fun s =>
    advance <| runOver s d fun t e =>
      let sc := src s .fp b t
      let ex := sgn 8 (bits sc.toNat 7 0)
      let (rs, e) := overElems (fun i e =>
        let (v, e) := e.draw m.mode
        let (r, fl) := toByte m (bits sc.toNat 11 8) v ((f32.dec m.ftz (srcAt s a i t).toNat).scale (-ex))
        (r, e.flag fl)) [0, 1, 2, 3] e
      ([w32 (fromElems 8 rs)], e)

/-- UPK8 (R153). -/
def execUpk8 (d a b : Opnd) (s : State) : Res :=
  let m := fmode s
  .next <| raiseSome s cOPERAND (badScale s d b) 0#64 [] fun s =>
    advance <| runOver s d fun t e =>
      let sc := src s .fp b t
      let ex := sgn 8 (bits sc.toNat 7 0)
      let x := src s .fp a t
      let rs := [0, 1, 2, 3].map fun i =>
        f32.finish 0 m.sat m.ftz 0 ((elemVal (bits sc.toNat 11 8) (byteOf x i)).scale ex)
      (rs.map (fun r => w32 r.1), e.flag (orFlags (rs.map (·.2))))

/-- Words of some bytes, the last padded with zero bytes. -/
def wordsUp (n : Nat) (bs : List Byte) : List Word :=
  (List.range n).map fun i => w32 (leNat ((bs.drop (4 * i)).take 4))

/-- Sixteen generator values, one per element (R82, R89). -/
def draws16 (mode : Nat) (e : Env) : List Nat × Env := overElems (fun _ e => e.draw mode) (List.range 16) e

/-- QFPK (R154, R89): sixteen registers into one block run. -/
def execQfpk (d a : Opnd) (f : BitVec 3) (s : State) : Res :=
  let m := fmode s
  done <| runOver s d fun t e =>
    let (vs, e) := draws16 m.mode e
    let xs := (List.range 16).map fun i => f32.dec m.ftz (srcAt s a i t).toNat
    let (bs, fl) := qfEncode f.toNat m.mode (fun i => vs.getD i 0) xs
    (wordsUp (qfLen f) bs, e.flag fl)

/-- QFUPK (R154, R87): one block run into sixteen registers, exactly. -/
def execQfupk (d a : Opnd) (f : BitVec 3) (s : State) : Res :=
  done <| runOver s d fun t e =>
    let bs := ((List.range (qfLen f)).map fun i => leBytes 4 (srcAt s a i t).toNat).flatten
    ((qfDecode f.toNat (bs.take (qfBytes f.toNat))).map fun v => w32 (f32.finish 0 false false 0 v).1, e)

end Sys2Proof.Machine
end

