-- ==== Sys2Proof/Machine/Mem.lean ====
section
/-! DEFINITION. Scratch (R203, R204), the L1 (R208 to R211), the homes (R212 to R214, R248) and the
checks of a thread's access (R224, R225, R246). -/

namespace Sys2Proof.Machine

/-! Banks and scratch. -/

/-- The key of a bank's first byte in the local store. -/
def bankKey (c k : Nat) : Nat := (32 * c + k) * 49152

/-- Bank k of core c. -/
def bankAt (s : State) (c k : Nat) : Bank := Store.get s.banks (32 * c + k)
def updBank (s : State) (c k : Nat) (f : Bank → Bank) : State := { s with banks := Store.upd s.banks (32 * c + k) f }

/-- The banks of a block (4 × core + block) in a mode, ascending (R204, R208). -/
def banksOf (s : State) (b mode : Nat) : List Nat :=
  (List.range 32).filter fun k =>
    let x := bankAt s (b / 4) k
    x.owned && x.blk == b % 4 && x.mode == mode

def scratchBanks (s : State) (b : Nat) : List Nat := banksOf s b 1
def fifoBanks (s : State) (b : Nat) : List Nat := banksOf s b 2
def cacheBanks (s : State) (b : Nat) : List Nat := banksOf s b 0

/-- The block's scratch size (R204). -/
def scratchSize (s : State) (b : Nat) : Nat := (scratchBanks s b).length * 49152

/-- The local-store key of an offset under a bank list (R204). -/
def offsetKey (c : Nat) (list : List Nat) (o : Nat) : Nat :=
  bankKey c ((list[o / 49152]?).getD 0) + o % 49152

/-- The key of a scratch offset under the block's present list. -/
def scratchKey (s : State) (b o : Nat) : Nat := offsetKey (b / 4) (scratchBanks s b) o

/-- Reads and writes of the local store by key. -/
def lsBytes (s : State) (k n : Nat) : List Byte := Store.getList s.ls k n
def lsPut (s : State) (k : Nat) (bs : List Byte) : State := { s with ls := Store.setList s.ls k bs }

/-- Does the drain of a bank hold back an operation of a number: one issued after the BANKM (R206)? -/
def Bank.holds (x : Bank) (id : Nat) : Bool := x.drain && decide (x.by_.2 < id)

/-- Is an operation of a number held back by the bank of a local-store key (R206)? -/
def draining (s : State) (key id : Nat) : Bool := (Store.get s.banks (key / 49152)).holds id

/-- The 16-byte words of some keys with what they hold now, added to those kept before. -/
def addOlds (olds now : List (Nat × List Byte)) : List (Nat × List Byte) :=
  now.foldl (fun l e => if l.contains e then l else l ++ [e]) olds

/-- Does a streamer command still read scratch: its source, or CPYG's table? -/
def Cmd.readsScratch (m : Cmd) : Bool := m.active && !m.moved && (bit m.sel 2 || m.op == 0xB2)

/-- Does a command of a Skiver still read scratch: it is not accepted, or an MFOLD that is not performed (R381, R399)? -/
def KvCmd.readsScratch (m : KvCmd) : Bool := !m.acc || (m.op == 0xE4 && !m.perf)

/-- May an engine's command read some words of the core's local store before they are written: an operation released and
not performed (R179), an ACTIVE streamer command or a command of a Skiver with its source in scratch (R257)? -/
def scratchReaders (s : State) (core : Nat) : Bool :=
  (s.mxq.any fun o => o.core == core && !o.perf && !o.banks.isEmpty) ||
  (s.strq.any fun q => q.1 / 4 == core && q.2.any Cmd.readsScratch) ||
  (s.kvq.any fun q => q.2.any fun m => coreOf m.g == core && m.readsScratch)

/-- The words of a list of kept ones with some bytes written over them: byte `i` of word `w` has key 16 w + i. -/
def patchOlds (bs : List (Nat × Byte)) (olds : List (Nat × List Byte)) : List (Nat × List Byte) :=
  olds.map fun e => (e.1, (List.range 16).map fun i =>
    match bs.find? fun b => b.1 == 16 * e.1 + i with
    | some b => b.2
    | none => (e.2[i]?).getD 0#8)

/-- Did a member of an operation issue an access, named by its group and number, before it arrived (R178)? -/
def MatOp.after (o : MatOp) (own : Option (Nat × Nat)) : Bool :=
  match own with
  | some (g, id) => o.mem.any fun m => m.g == g && decide (id < m.num)
  | none => false

/-- Bytes are about to be written in the local store of a core, by an access of a group or by an engine: the engine commands
that may still read them keep what their words held (R179, R257); an operation of whose member the access is an earlier one
sees them (R178). -/
def noteScratch (s : State) (core : Nat) (own : Option (Nat × Nat)) (bs : List (Nat × Byte)) : State :=
  if scratchReaders s core then
    let now := (distinct (bs.map (·.1 / 16))).map fun w => (w, lsBytes s (16 * w) 16)
    { s with
      mxq := s.mxq.map fun o =>
        if o.core != core || o.perf then o
        else { o with olds := if o.after own then patchOlds bs o.olds else addOlds o.olds now }
      strq := s.strq.map fun q => if q.1 / 4 == core then
          (q.1, q.2.map fun m => if m.readsScratch then { m with olds := addOlds m.olds now } else m) else q
      kvq := s.kvq.map fun q =>
        (q.1, q.2.map fun m => if coreOf m.g == core && m.readsScratch then { m with olds := addOlds m.olds now } else m) }
  else s

/-- A 16-byte word as read number `k` of an engine's command finds it: as it stands, or as it stood before a write
performed meanwhile (R179, R257); which, is free, with free numbers of its own for each word and read (log entry 3). -/
def oldOrNew (s : State) (olds : List (Nat × List Byte)) (k key : Nat) (now : List Byte) : List Byte :=
  let vs := now :: (olds.filter fun e => e.1 == key).map (·.2)
  (vs[Config.freeNat (2 ^ 128 * (s.fresh + 1) + 2 ^ 64 * k + key) % vs.length]?).getD now

/-! Redirects (R220). -/

/-- Where a byte lies at its home. -/
def homePa (s : State) (pa : Nat) : Nat := linePa (redirectLine s (lineOf pa)) + lineOff pa

/-- The line at which a request is performed, and a byte's place there. -/
def HomeReq.at_ (s : State) (r : HomeReq) : Nat := redirectLine s (r.dest.getD r.line)
def HomeReq.place (s : State) (r : HomeReq) (pa : Nat) : Nat := linePa (r.at_ s) + lineOff pa

/-- Are two lines one at their home? -/
def sameLine (s : State) (l m : Nat) : Bool := redirectLine s l == redirectLine s m

/-! The L1. -/

/-- The set of a line: bits [7:0] of its index in the frame (R208). -/
def l1Set (line : Nat) : Nat := line % 512 % 256

def l1Key (c k t : Nat) : Nat := 8192 * c + 256 * k + t
def l1At (s : State) (c k t : Nat) : L1Tag := Store.get s.l1 (l1Key c k t)
def setL1 (s : State) (c k t : Nat) (x : L1Tag) : State := { s with l1 := Store.set s.l1 (l1Key c k t) x }

/-- The ways of a block's L1 that hold lines: its CACHE banks (R208). -/
def l1Ways (s : State) (b : Nat) : List Nat := cacheBanks s b

/-- The banks that hold lines of a block's L1: its CACHE banks, and those that are being left (R205, R208). -/
def lineBanks (s : State) (b : Nat) : List Nat :=
  (List.range 32).filter fun k =>
    let x := bankAt s (b / 4) k
    x.owned && x.blk == b % 4 && (x.mode == 0 || x.left == some 0)

/-- Does a way hold a line, be it under the address that a migration has redirected (R220, R221)? -/
def holdsLine (s : State) (b line k : Nat) : Bool :=
  let x := l1At s (b / 4) k (l1Set line)
  x.v && sameLine s x.line line

/-- The way that holds a line. -/
def l1Way (s : State) (b line : Nat) : Option Nat := (lineBanks s b).find? (holdsLine s b line)

/-- Does a bank that is being left hold the line, so that operation `id`, issued after its BANKM, waits (R206)? -/
def l1Blocked (s : State) (b line id : Nat) : Bool :=
  (lineBanks s b).any fun k => (bankAt s (b / 4) k).left == some 0 && (bankAt s (b / 4) k).holds id && holdsLine s b line k

/-- The key of a line's data in a way. -/
def l1Data (b k line : Nat) : Nat := bankKey (b / 4) k + l1Set line * 192

/-- Does byte `o` of a line hit (R209)? -/
def byteHits (s : State) (t : L1Tag) (o : Nat) : Bool :=
  bit t.dirty o || (bit t.sv (o / 48) && decide (s.gt < t.lease))

/-- The bytes of an access, if every one hits in the block's L1 (R209). -/
def l1Load (s : State) (b pa n : Nat) : Option (List Byte) :=
  match l1Way s b (lineOf pa) with
  | none => none
  | some k =>
    let t := l1At s (b / 4) k (l1Set (lineOf pa))
    if (List.range n).all fun i => byteHits s t (lineOff pa + i) then
      some (lsBytes s (l1Data b k (lineOf pa) + lineOff pa) n) else none

/-- The bytes of an access as the home holds them, with the L1's dirty bytes over them (R209). -/
def mergeDirty (s : State) (b pa n : Nat) : List Byte :=
  match l1Way s b (lineOf pa) with
  | none => (List.range n).map fun i => homeByte s (pa + i)
  | some k =>
    let t := l1At s (b / 4) k (l1Set (lineOf pa))
    (List.range n).map fun i =>
      if bit t.dirty (lineOff pa + i) then Store.get s.ls (l1Data b k (lineOf pa) + lineOff pa + i)
      else homeByte s (pa + i)

/-- The dirty bytes of a way's line with their physical addresses (R210). -/
def dirtyBytes (s : State) (b k : Nat) (t : L1Tag) : List (Nat × Byte) :=
  ((List.range 192).filter fun o => bit t.dirty o).map fun o =>
    (linePa t.line + o, Store.get s.ls (l1Data b k t.line + o))

/-- Puts a request on its way to a home. -/
def sendHome (s : State) (r : HomeReq) : State :=
  { s with hw := s.hw ++ [{ r with id := s.nextId }], nextId := s.nextId + 1 }

/-- Writes a line's dirty bytes back as one masked write and clears DIRTY (R210). -/
def writeBack (s : State) (b k set : Nat) : State :=
  let t := l1At s (b / 4) k set
  if !t.v || t.dirty = 0 then s
  else
    let s := sendHome s { (default : HomeReq) with
      blk := some b, kind := .masked, line := t.line, bytes := dirtyBytes s b k t, wb := true }
    setL1 s (b / 4) k set { t with dirty := 0 }

/-- Writes back every dirty byte of a block's L1 (R210, R240, R244). -/
def writeBackAll (s : State) (b : Nat) : State :=
  (lineBanks s b).foldl (fun s k => (List.range 256).foldl (fun s t => writeBack s b k t) s) s

/-- A line leaves a block's L1, its dirty bytes written back (R210, R235, R249). -/
def l1Evict (s : State) (b line : Nat) : State :=
  match l1Way s b line with
  | some k => setL1 (writeBack s b k (l1Set line)) (b / 4) k (l1Set line) default
  | none => s

/-- Invalidates every line of a bank. -/
def dropBank (s : State) (c k : Nat) : State :=
  { s with l1 := Store.keep s.l1 fun i => i / 256 != 32 * c + k }

/-- Invalidates every line of a block's L1. -/
def dropL1 (s : State) (b : Nat) : State := (lineBanks s b).foldl (fun s k => dropBank s (b / 4) k) s

/-- The victim way of a set (R211): invalid, else clean with an expired lease, else RRPV 3; `up` is how
much every RRPV rises before one is 3. -/
def l1Victim (s : State) (b set : Nat) : Option (Nat × Nat) :=
  let ways := (l1Ways s b).filter fun k => !(bankAt s (b / 4) k).drain
  let at_ (k : Nat) := l1At s (b / 4) k set
  match ways.find? fun k => !(at_ k).v with
  | some k => some (k, 0)
  | none =>
    match ways.find? fun k => (at_ k).dirty = 0 && decide ((at_ k).lease ≤ s.gt) with
    | some k => some (k, 0)
    | none =>
      match [0, 1, 2, 3].find? fun up => ways.any fun k => (at_ k).rrpv + up == 3 with
      | some up => (ways.find? fun k => (at_ k).rrpv + up == 3).map fun k => (k, up)
      | none => none

/-- Has the L1 a way for a line: one that holds it, or one that does not drain (R206)? -/
def l1Takes (s : State) (b line : Nat) : Bool := (l1Way s b line).isSome || (l1Victim s b (l1Set line)).isSome

/-- Gives a line a way without a fill, its victim written back (R210, R211). A line that has a way keeps its RRPV (log entry 163,
DESIGN CHOICE). -/
def l1Alloc (s : State) (b line rrpv : Nat) : State × Option Nat :=
  match l1Way s b line with
  | some k => (s, some k)
  | none =>
    match l1Victim s b (l1Set line) with
    | none => (s, none)
    | some (k, up) =>
      let c := b / 4
      let t := l1Set line
      let s := if up = 0 then s else
        (l1Ways s b).foldl (fun s j => let x := l1At s c j t; setL1 s c j t { x with rrpv := x.rrpv + up }) s
      let s := writeBack s b k t
      (setL1 s c k t ⟨true, line, 0, 0, 0, rrpv⟩, some k)

/-- A store's bytes into the L1 (R210). -/
def l1Store (s : State) (b pa : Nat) (bs : List Byte) : State :=
  match l1Alloc s b (lineOf pa) 2 with
  | (s, none) => s
  | (s, some k) =>
    let c := b / 4
    let set := l1Set (lineOf pa)
    let t := l1At s c k set
    let o := lineOff pa
    let s := lsPut s (l1Data b k (lineOf pa) + o) bs
    setL1 s c k set { t with dirty := t.dirty ||| ((2 ^ bs.length - 1) * 2 ^ o) }

/-- A fill of the sectors a load needs (R209): SV set for them and cleared for the others, LEASE to the
new end, dirty bytes kept. A miss in a line that is present leaves RRPV (log entry 163, DESIGN CHOICE). -/
def l1Fill (s : State) (b line lease rrpv sectors : Nat) : State :=
  match l1Alloc s b line rrpv with
  | (s, none) => s
  | (s, some k) =>
    let c := b / 4
    let t := l1At s c k (l1Set line)
    let s := (List.range 192).foldl (fun s o =>
      if bit sectors (o / 48) && !bit t.dirty o then lsPut s (l1Data b k line + o) [homeByte s (linePa line + o)]
      else s) s
    setL1 s c k (l1Set line) { t with sv := sectors, lease := lease }

/-! Checks of one thread's access. -/

/-- What an instruction does with memory. -/
inductive AccKind where
  | read | write | atomic
  /-- A window reduction (R372). -/
  | reduce
deriving DecidableEq, Repr, Inhabited

/-- Whether an access passes, or the first cause of R246. -/
inductive Checked where
  /-- Allowed: physical address, PL of the leaf, and the TXW entry of a window access. -/
  | ok (pa : Nat) (pl : Bool) (win : Option Nat)
  /-- A load that NRZ excuses (R229). -/
  | zero
  /-- A trap: its cause, and whether it makes a fault record (R277). -/
  | trap (cause : Nat) (record : Bool)
deriving DecidableEq, Repr, Inhabited

/-- The KINDS bit of a fault record (R278). -/
def AccKind.bit : AccKind → Nat
  | .read => 0
  | .write => 1
  | .atomic => 2
  | .reduce => 6

/-- Checks after the page is found resident: PROTECTION, then the window causes (R246, R368, R370). -/
def checkLeaf (s : State) (k : AccKind) (l : Leaf) (p pa : Nat) : Checked :=
  let win := windowOf s (cctx s).ctxid p
  let wr := decide (k ≠ .read)
  match win with
  | none =>
    if wr && !l.w then .trap cPROTECTION true
    else if k = .atomic && l.space = 2 then .trap cPROTECTION true
    else if k = .reduce then .trap cWINDOW_UNMAPPED false
    else .ok pa l.pl none
  | some (i, e) =>
    if wr && !l.w then .trap cPROTECTION true
    else if k = .atomic then .trap cPROTECTION true
    else if wr && l.c && bits e 229 224 == 0 then .trap cPROTECTION true
    else if wr && txwState e == 2 then .trap cWINDOW_REVOKED false
    else .ok pa l.pl (if wr then some i else none)

/-- The checks of a global access of `n` bytes (R224, R227, R246). -/
def checkGlobal (s : State) (k : AccKind) (nrz : Bool) (va n : Nat) : Checked :=
  if vaEnd ≤ va then .trap cADDRESS false
  else if va % n ≠ 0 then .trap cDATA_ALIGN false
  else
    let p := va / frameBytes
    match translate s (coreCaches (coreOf s.curG)) (cg s).ctx p with
    | .notResident => if nrz && decide (k = .read) then .zero else .trap cPAGE true
    | .revoked => .trap cFAR_REVOKED true
    | .ok l => checkLeaf s k l p (paOf l.space l.frame (va % frameBytes))

/-- The checks of a scratch access under the present bank list (R225). -/
def checkScratch (s : State) (o n : Nat) : Checked :=
  if o % n ≠ 0 then .trap cDATA_ALIGN false
  else if scratchSize s (cblk s) < o + n then .trap cSCRATCH_RANGE false
  else .ok (scratchKey s (cblk s) o) false none

end Sys2Proof.Machine
end

