-- ==== Sys2Proof/Machine/Memory.lean ====
section
/-! DEFINITION. The memory instructions (R222 to R247): loads, stores, atomics, SCALEQ and AMAXR (R155 to
R157), prefetch, page requests, fences, WTIME and FLUSH; and the steps in which their accesses are
performed and complete (R209, R213, R231, R235, R248). -/

namespace Sys2Proof.Machine

/-- One thread's check: its access, or the cause, whether it makes a record, and the fault address. -/
inductive ThreadCheck where
  | ok (a : Acc)
  | trap (t cause : Nat) (record : Bool) (fadr page : Nat)
deriving DecidableEq, Repr, Inhabited

/-- Checks the access of a thread (R246). -/
def checkThread (s : State) (k : AccKind) (scratch nrz : Bool) (t va n : Nat) : ThreadCheck :=
  match if scratch then checkScratch s va n else checkGlobal s k nrz va n with
  | .ok pa pl win => .ok { (default : Acc) with t := t, va := va, pa := pa, n := n, pl := pl, win := win }
  | .zero => .ok { (default : Acc) with t := t, va := va, n := n, zero := true, got := true, bs := List.replicate n 0#8 }
  | .trap c rec => .trap t c rec va (va / frameBytes)

/-- The threads that trap. -/
def trapping (cs : List ThreadCheck) : List Nat := cs.filterMap fun c => match c with
  | .trap t _ _ _ _ => some t
  | .ok _ => none

/-- The accesses that pass. -/
def passing (cs : List ThreadCheck) : List Acc := cs.filterMap fun c => match c with
  | .ok a => some a
  | _ => none

/-- Cause and fault address of the lowest-numbered faulting thread (R246). -/
def firstTrap (cs : List ThreadCheck) : Nat × Nat :=
  (cs.findSome? fun c => match c with
    | .trap _ cause _ fadr _ => some (cause, fadr)
    | .ok _ => none).getD (0, 0)

/-- Fault records: one for each distinct page that raises PAGE, PROTECTION or FAR_REVOKED (R277). -/
def trapRecords (kind : Nat) (cs : List ThreadCheck) : List (Nat × Nat) :=
  (distinct (cs.filterMap fun c => match c with
    | .trap _ _ true _ p => some p
    | _ => none)).map fun p => (p, kind)

/-- The threads that a memory instruction executes for: the lowest-numbered active thread in the uniform
class, else the selected threads (R15, R57). -/
def accThreads (s : State) (uni : Bool) : List Nat :=
  if uni then (lowest (active s)).toList else threads (selected s)

/-- Issues a memory access: threads that fault split off (R227), the others' accesses become a pending
operation of a flag class, and the group goes on; it stalls where that would pass a full flag (R35). `shut` says that it
closes the region when it issues (R416). With no accessing thread nothing happens (R247). The access counts for OUAPC in
the trap of its faulting threads, theirs among it (R75, R260, R476; log entry 142, DEDUCED); where they take the whole fragment none is performed
(log entry 143, DEDUCED). A virtual address of 2^64 or more is reported modulo 2^64 (R246; log entry 164, DESIGN CHOICE). -/
def issueMem (s : State) (cls : Nat) (uni shut : Bool) (kind : Nat) (cs : List ThreadCheck) (mk : List Acc → Pend) : Res :=
  let as := passing cs
  if !as.isEmpty && flagFull s cls then .next (stallHere s)
  else
    let s := if shut then closeRegion s else s
    let bad := trapping cs
    let flt := if bad.isEmpty then 0#32 else if uni then active s else maskOf bad
    let (cause, fadr) := firstTrap cs
    let whole := !bad.isEmpty && (isHandler (cf s) || trapsWhole s flt)
    let s := if as.isEmpty || whole then s else (addPend s cls (mk as)).1
    .next (raiseSome s cause flt (w64 fadr) (trapRecords kind cs) advance (cause != cOPERAND))

/-- Is field A the scratch selector (R223)? -/
def isLs (a : Opnd) : Bool := a == .ls

/-- The address of a thread's access: base plus offset without wrap, or the scratch offset (R224, R225). -/
def addrOf (s : State) (a b : Opnd) (t : Nat) : Nat :=
  (if isLs a then 0 else upair s a) + (src s .plain b t).toNat

/-- A load of `n` bytes (R228). -/
def load (s : State) (n : Nat) (sx : Bool) (d a b : Opnd) : Res :=
  let uni := uniform d
  let m := (cf s).mode
  let cs := (accThreads s uni).map fun t => checkThread s .read (isLs a) (mNrz m) t (addrOf s a b t) n
  issueMem s 1 uni false AccKind.read.bit cs fun as =>
    { (default : Pend) with
      kind := .load, dst := d, uni := uni, scratch := isLs a, sx := sx, accs := as
      nrp := if mNrz m then some (mNrp m) else none, act := active s }

def execLdb (d a b : Opnd) (s : State) : Res := load s 1 false d a b
def execLdbs (d a b : Opnd) (s : State) : Res := load s 1 true d a b
def execLdh (d a b : Opnd) (s : State) : Res := load s 2 false d a b
def execLdhs (d a b : Opnd) (s : State) : Res := load s 2 true d a b
def execLdw (d a b : Opnd) (s : State) : Res := load s 4 false d a b
def execLdd (d a b : Opnd) (s : State) : Res := load s 8 false d a b
def execLdq (d a b : Opnd) (s : State) : Res := load s 16 false d a b

/-- The bytes a store takes from its data operand for a thread (R230). -/
def storeData (s : State) (x : Opnd) (n t : Nat) : List Byte :=
  ((List.range ((n + 3) / 4)).map fun i => leBytes 4 (srcAt s x i t).toNat).flatten.take n

/-- Is a store a window access of some thread (R361)? -/
def windowStore (s : State) (a b : Opnd) : Bool :=
  !isLs a && (threads (selected s)).any fun t =>
    (windowOf s (cctx s).ctxid (addrOf s a b t / frameBytes)).isSome

/-- A store of `n` bytes (R230); one that proves to be a window access closes the region, be it trapped (R416). -/
def store (s : State) (n : Nat) (x a b : Opnd) : Res :=
  let cs := (threads (selected s)).map fun t => checkThread s .write (isLs a) false t (addrOf s a b t) n
  issueMem s 2 false (windowStore s a b) AccKind.write.bit cs fun as =>
    { (default : Pend) with
      kind := .store, dst := .nul, scratch := isLs a
      accs := as.map fun c => { c with bs := storeData s x n c.t } }

def execStb (x a b : Opnd) (s : State) : Res := store s 1 x a b
def execSth (x a b : Opnd) (s : State) : Res := store s 2 x a b
def execStw (x a b : Opnd) (s : State) : Res := store s 4 x a b
def execStd (x a b : Opnd) (s : State) : Res := store s 8 x a b
def execStq (x a b : Opnd) (s : State) : Res := store s 16 x a b

/-- An atomic (R232, R235): it closes the region (R416). The operands come from D, or from the literals
of the no-return form. -/
def atomic (s : State) (op : Nat) (d a b : Opnd) (u w : Word) : Res :=
  let uni := uniform d
  let cs := (accThreads s uni).map fun t => checkThread s .atomic (isLs a) false t (addrOf s a b t) 4
  issueMem s (if d = .nul then 2 else 1) uni true AccKind.atomic.bit cs fun as =>
    { (default : Pend) with
      kind := .atomic, dst := d, uni := uni, scratch := isLs a, op := op, ftype := mFtype (cf s).mode
      accs := as.map fun c =>
        if d = .nul then { c with x := u, y := w } else { c with x := srcAt s d 0 c.t, y := srcAt s d 1 c.t } }

def execAtadd (d a b : Opnd) (u : Word) (s : State) : Res := atomic s 0x8E d a b u 0#32
def execAtmin (d a b : Opnd) (u : Word) (s : State) : Res := atomic s 0x8F d a b u 0#32
def execAtmax (d a b : Opnd) (u : Word) (s : State) : Res := atomic s 0x90 d a b u 0#32
def execAtminn (d a b : Opnd) (u : Word) (s : State) : Res := atomic s 0x91 d a b u 0#32
def execAtmaxn (d a b : Opnd) (u : Word) (s : State) : Res := atomic s 0x92 d a b u 0#32
def execAtand (d a b : Opnd) (u : Word) (s : State) : Res := atomic s 0x93 d a b u 0#32
def execAtor (d a b : Opnd) (u : Word) (s : State) : Res := atomic s 0x94 d a b u 0#32
def execAtxor (d a b : Opnd) (u : Word) (s : State) : Res := atomic s 0x95 d a b u 0#32
def execAtxch (d a b : Opnd) (u : Word) (s : State) : Res := atomic s 0x96 d a b u 0#32
def execAtcas (d a b : Opnd) (u w : Word) (s : State) : Res := atomic s 0x97 d a b u w
def execAtfadd (d a b : Opnd) (u : Word) (s : State) : Res := atomic s 0x98 d a b u 0#32
def execAtfmax (d a b : Opnd) (u : Word) (s : State) : Res := atomic s 0x99 d a b u 0#32

/-- Applies a function to the elements of two words in a format, with the flags. -/
def elemwise (f : Fmt) (h : Val → Val → Nat × Nat) (m x : Word) : Word × Nat :=
  let rs := (List.range (32 / f.width)).map fun i => h (f.val (elem f.width i m)) (f.val (elem f.width i x))
  (w32 (fromElems f.width (rs.map (·.1))), orFlags (rs.map (·.2)))

/-- The new value of an atomic and its FLAGS bits (R233, R234). -/
def atomicNew (op ftype : Nat) (m x y : Word) : Word × Nat :=
  match op with
  | 0x8E => (m + x, 0)
  | 0x8F => (if x.slt m then x else m, 0)
  | 0x90 => (if m.slt x then x else m, 0)
  | 0x91 => (if x.ult m then x else m, 0)
  | 0x92 => (if m.ult x then x else m, 0)
  | 0x93 => (m &&& x, 0)
  | 0x94 => (m ||| x, 0)
  | 0x95 => (m ^^^ x, 0)
  | 0x96 => (x, 0)
  | 0x97 => (if m = x then y else m, 0)
  | 0x98 =>
    let f := fmtOf ftype
    elemwise f (fun a b => f.finish 0 false false 0 (a.add 0 b)) m x
  | _ =>
    let f := fmtOf ftype
    elemwise f (fun a b => ((f.finish 0 false false 0 (a.max b)).1, 0)) m x

/-- The address of an amax entry (R155). -/
def amaxVa (s : State) (n : Nat) : Nat := hdrAmax (cctx s).hdr + 96 * n

/-- The check of a thread's amax access: an id of 4,096 or more raises OPERAND (R155). -/
def checkAmax (s : State) (t n : Nat) : ThreadCheck :=
  if 4096 ≤ n then .trap t cOPERAND false 0 0
  else checkThread s .atomic false false t (amaxVa s n) 96

/-- SCALEQ (R156). -/
def execScaleq (d a : Opnd) (f : BitVec 3) (s : State) : Res :=
  let uni := uniform d
  let cs := (accThreads s uni).map fun t => checkAmax s t (src s .fp a t).toNat
  issueMem s 1 uni false AccKind.atomic.bit cs fun as =>
    { (default : Pend) with kind := .scaleq, dst := d, uni := uni, op := f.toNat, accs := as }

/-- One access for each distinct amax entry that some threads name (entries of one table have distinct addresses), with the
largest magnitude of their values; an entry whose values are all NaN is left out (R157). -/
def amaxGroups (adv : Bool) (val : Nat → Word) (as : List Acc) : List Acc :=
  (distinct (as.map (·.va))).filterMap fun va =>
    match as.filter fun c => c.va == va with
    | [] => none
    | c :: r =>
      if adv then some { c with y := 1#32 }
      else
        let m := (c :: r).foldl (fun acc x => acc.max (f32.val (val x.t).toNat).mag) (Val.nan 0)
        if m.isNan then none else some { c with x := w32 (f32.finish 0 false false 0 m).1 }

/-- AMAXR (R157): NV is set at issue for a NaN value. The access of a thread with a NaN value is checked too (log entry 160, DESIGN
CHOICE). -/
def execAmaxr (x a : Opnd) (s : State) : Res :=
  let adv := decide (x = .nul)
  let val := fun t => src s .fp x t
  let cs := (threads (selected s)).map fun t => checkAmax s t (src s .fp a t).toNat
  let as := amaxGroups adv val (passing cs)
  if !as.isEmpty && flagFull s 2 then .next (stallHere s)
  else
    let nv := !adv && (passing cs).any fun c => (f32.val (val c.t).toNat).isNan
    let s := if nv then updCG s fun g => orFl g fNV else s
    let cs' := cs.filter (fun c => match c with
      | .trap .. => true
      | .ok _ => false) ++ as.map ThreadCheck.ok
    issueMem s 2 false false AccKind.atomic.bit cs' fun as =>
      { (default : Pend) with kind := .amax, dst := .nul, accs := as }

/-- SLOTi and HEAD of an amax entry (R90). -/
def amaxSlot (e i : Nat) : Nat := bits e (32 * i + 31) (32 * i)
def amaxHead (e : Nat) : Nat := bits e 515 512

/-- An amax entry with a slot replaced. -/
def amaxPut (e i v : Nat) : Nat := e - amaxSlot e i * 2 ^ (32 * i) + v * 2 ^ (32 * i)

/-- A record of a magnitude (R91). -/
def amaxRecord (e : Nat) (x : Word) : Nat :=
  let h := amaxHead e
  amaxPut e h (f32.finish 0 false false 0 ((f32.val (amaxSlot e h)).max (f32.val x.toNat).mag)).1

/-- An advance of the head (R91): reserved bits are written as zero (R90). -/
def amaxAdvance (e : Nat) : Nat :=
  let h := (amaxHead e + 1) % 16
  amaxPut (e % 2 ^ 512) h 0 + h * 2 ^ 512

/-- The scale exponent of an entry for a format (R92). -/
def amaxScale (e code : Nat) : Word :=
  let m := (List.range 16).foldl (fun acc i => acc.max (f32.val (amaxSlot e i))) (Ex.nil false)
  w32 (wrapN 32 (scaleExp (fmaxOf code) m))

/-- PGREQ (R238): the status of each thread's page, and one request record for each distinct page that
is not resident; a page of a force-released extent is resident (R348; log entry 38, DEDUCED). -/
def execPgreq (d a b : Opnd) (s : State) : Res :=
  let uni := uniform d
  let ts := accThreads s uni
  let stat := fun t =>
    let va := addrOf s a b t
    if isLs a then 0
    else if vaEnd ≤ va then 2
    else match translate s (coreCaches (coreOf s.curG)) (cg s).ctx (va / frameBytes) with
      | .notResident => 1
      | _ => 0
  if ts.isEmpty then done s
  else if flagFull s 1 then .next (stallHere s)
  else
    let as : List Acc := ts.map fun t => { (default : Acc) with t := t, n := 4, got := true, bs := leBytes 4 (stat t) }
    let (s', id) := addPend s 1 { (default : Pend) with kind := .pgreq, dst := d, uni := uni, accs := as }
    let pages := distinct ((ts.filter fun t => stat t == 1).map fun t => addrOf s a b t / frameBytes)
    .next (advance (pages.foldl (fun s p => faultRec s ⟨ctxidOf s (cg s).ctx, p, 4, some (s.curG, 8 + id)⟩) s'))

/-! Fences (R240, R241). -/

/-- Does an operation count as a load whose data FACQ waits for (R241)? -/
def PendKind.loads : PendKind → Bool
  | .load | .atomic | .scaleq => true
  | _ => false

/-- Requests of a block's L1 write-backs with a number below a bound. -/
def wbPending (s : State) (b bound : Nat) : Bool :=
  s.hw.any fun r => r.wb && r.blk == some b && decide (r.id < bound)

/-- Writes back the dirty sectors of far memory that a block's writes touched (R215, R240). -/
def farWriteBack (s : State) (b : Nat) : State :=
  { s with l2 := s.l2.map fun e =>
      let m := (e.2.farBy.filter fun x => x.1 == b).foldl (fun m x => m ||| x.2) 0
      if m = 0 then e
      else (e.1, { e.2 with dirty := e.2.dirty - (e.2.dirty &&& m), farBy := e.2.farBy.filter fun x => x.1 != b }) }

/-- Is a fence over whose write-backs are the requests below a number: each has returned, and the global time is beyond LCT?
At scope S the far sectors are then written back (R240). -/
def fenceClose (s : State) (b bound scope : Nat) : State × Bool :=
  if wbPending s b bound || decide (s.gt ≤ (bAt s b).lct) then (s, false)
  else (if scope = 3 then farWriteBack s b else s, true)

/-- One round of a fence that waits (R240, R241): the state with its write-backs sent, and whether the
fence is over. -/
def fenceRound (s : State) (g f : Nat) : State × Bool :=
  match (fragAt s g f).wait with
  | .fence scope rel acq bound wb after x y =>
    let b := blkOf g
    let early := (rel && pendBefore (gAt s g) bound PendKind.counted) ||
      (acq && pendBefore (gAt s g) bound PendKind.loads)
    if early then (s, false)
    else if !rel || scope < 2 then (s, true)
    else
      match wb with
      | none =>
        let s := writeBackAll s b
        fenceClose (updF s g f fun x_ => { x_ with wait := .fence scope rel acq bound (some s.nextId) after x y }) b s.nextId scope
      | some n => fenceClose s b n scope
  | _ => (s, false)

/-- Starts a fence, which may be over at once. -/
def fence (s : State) (scope : Nat) (rel acq : Bool) : Res :=
  let s := waitFor s (.fence scope rel acq s.nextId none 0 0#32 0#32)
  let (s, ok) := fenceRound s s.curG s.curF
  .next (if ok then wakeWith s s.curG s.curF .nul [] else s)

def execFrel (sc : BitVec 2) (s : State) : Res := fence s sc.toNat true false
def execFacq (s : State) : Res := fence s 0 false true
def execFseq (sc : BitVec 2) (s : State) : Res := fence s sc.toNat true true

/-- WTIME (R243). -/
def execWtime (a : Opnd) (s : State) : Res :=
  let t := w64 (upair s a)
  if t.toNat ≤ s.gt then done s else .next (waitFor s (.wtime t))

/-- FLUSH (R244). -/
def execFlush (i : BitVec 1) (s : State) : Res :=
  if flagFull s 2 then .next (stallHere s)
  else
    let b := cblk s
    let s := writeBackAll s b
    let s := if i = 1#1 then dropL1 s b else s
    .next (advance (addPend s 2 { (default : Pend) with kind := .flush, dst := .nul, op := s.nextId }).1)

/-! Performing accesses. -/

/-- Do two global accesses share a byte at their homes (R220)? -/
def overlaps (s : State) (a b : Acc) : Bool :=
  decide (homePa s a.pa < homePa s b.pa + b.n) && decide (homePa s b.pa < homePa s a.pa + a.n)

/-- An FACQ of the group keeps an operation back: it is later, and an earlier load has not returned its data (R241). -/
def acquireHolds (x : Group) (p : Pend) : Bool :=
  x.frags.any fun f => match f.2.wait with
    | .fence _ _ true bound _ _ _ _ => decide (bound ≤ p.id) && pendBefore x bound PendKind.loads
    | _ => false

/-- May an access of operation `p` be performed: no earlier operation of its group holds an access to the same byte that is
not performed, nor, in scratch, any access (R231); one that changes memory waits for every earlier access (R260), and a
load for an FACQ (R241). -/
def mayPerform (s : State) (g : Nat) (p : Pend) (a : Acc) : Bool :=
  let x := gAt s g
  !(p.kind.loads && acquireHolds x p) &&
  !x.pend.any fun q => decide (q.id < p.id) && !q.done &&
    ((q.kind.counted && ((p.kind.changes && !performed s g q) ||
        (q.scratch == p.scratch && q.accs.any fun c => !c.got && !c.zero && (p.scratch || overlaps s c a)))) ||
      (p.scratch && q.scratch && q.kind = .matrix && !q.sent))

/-- Is a request of this block to a line on its way (a load must see its own block's writes)? -/
def inFlight (s : State) (b line : Nat) : Bool := s.hw.any fun r => r.blk == some b && r.at_ s == redirectLine s line

/-- The words a load writes (R228). -/
def loadWords (n : Nat) (sx : Bool) (bs : List Byte) : List Word :=
  if n ≤ 2 then
    [if sx then w32 (wrapN 32 (sgn (8 * n) (leNat bs))) else w32 (leNat bs)]
  else (List.range (n / 4)).map fun i => w32 (leNat ((bs.drop (4 * i)).take 4))

/-- A predicate with the bits of some threads set or cleared. -/
def setBits (w m : Word) (b : Bool) : Word := if b then w ||| m else w &&& ~~~m

/-- Register `i` of a destination that spans several. -/
def regPlus (o : Opnd) (i : Nat) : Opnd :=
  match o with
  | .v n => .v (n + i)
  | .s n => .s (n + i)
  | o => o

/-- Bytes of a thread's result: a word of SCALEQ and AMAXR, else as many as its access has. -/
def resLen (p : Pend) (a : Acc) : Nat :=
  match p.kind with
  | .scaleq | .amax => 4
  | _ => a.n

/-- The registers that an access writes, and NRP as bit 4 (R36). -/
def needRegs (p : Pend) (a : Acc) : Nat := 2 ^ Nat.max 1 (resLen p a / 4) - 1 + 16

/-- Every register of a result. -/
def allRegs : Nat := 31

/-- Has an access written all its registers? -/
def accDone (p : Pend) (a : Acc) : Bool := a.put &&& needRegs p a == needRegs p a

/-- Writes some registers of one thread's result of an operation into its destination, and its residency into NRP: in the
uniform class for every active thread (R30, R229). -/
def deliver (g : Group) (p : Pend) (regs : Nat) (a : Acc) : Group :=
  let ws := loadWords (resLen p a) p.sx a.bs
  let g := (List.range ws.length).foldl (fun g i =>
    let w := ws.getD i 0#32
    if !bit regs i then g
    else if p.uni then wrDst g (regPlus p.dst i) [w] else wrThreads g (regPlus p.dst i) [(a.t, [w])]) g
  match p.nrp with
  | some k =>
    if bit regs 4 then wrP g k (if p.uni then setBits (rdP g k) p.act a.zero else setBit (rdP g k) a.t a.zero) else g
  | none => g

/-- Takes the data of a load's access where it hits: in scratch, or in the L1 (R209, R249). -/
def takeHit (s : State) (g : Nat) (p : Pend) (a : Acc) : Option (List Byte) :=
  if a.got then some a.bs
  else if !mayPerform s g p a then none
  else if p.scratch then (if draining s a.pa p.id then none else some (lsBytes s a.pa a.n))
  else if l1Blocked s (blkOf g) (lineOf a.pa) p.id then none
  else l1Load s (blkOf g) a.pa a.n

/-- A hit sets RRPV to 0, except under RD = 3 (R211). -/
def touchHit (s : State) (g : Nat) (p : Pend) (a : Acc) : State :=
  if p.scratch || a.got || p.rd = 3 then s
  else
    let b := blkOf g
    match l1Way s b (lineOf a.pa) with
    | some k =>
      let x := l1At s (b / 4) k (l1Set (lineOf a.pa))
      setL1 s (b / 4) k (l1Set (lineOf a.pa)) { x with rrpv := 0 }
    | none => s

/-- Some registers of one access of a load are written, if its data can be taken; each is written once (R36). -/
def loadOne (s : State) (g id regs : Nat) (a : Acc) : State :=
  match findPend (gAt s g) id with
  | none => s
  | some p =>
    match takeHit s g p a with
    | none => s
    | some bs =>
      let s := touchHit s g p a
      let s := updG s g fun x => deliver x p (regs &&& (a.put ^^^ allRegs)) { a with bs := bs }
      updPend s g id fun q => { q with accs := q.accs.map fun c =>
        if c.t == a.t then { c with got := true, bs := bs, put := a.put ||| (regs &&& allRegs) } else c }

/-- Some registers of some threads of an operation are written. -/
def loadSome (s : State) (g : Nat) (p : Pend) (thr : Word) (regs : Nat) : State :=
  (p.accs.filter fun a => (p.uni || thr.getLsbD a.t) && !accDone p a).foldl (fun s a => loadOne s g p.id regs a) s

/-- Completes an operation whose accesses have all been delivered. -/
def finishLoad (s : State) (g id : Nat) : State :=
  match findPend (gAt s g) id with
  | some p => if p.accs.all (accDone p) then dropPend s g id else s
  | none => s

/-- LOAD_COMPLETE: data returns into some registers of some threads of a load, or of an operation that reports values; when
all have returned the operation completes (R228, R36, R62). A PGREQ waits for its records (R238). -/
def execLoadComplete (g id : Nat) (thr : Word × Nat) (s : State) : Res :=
  match findPend (gAt s g) id with
  | none => .next s
  | some p =>
    let ready := match p.kind with
      | .load => true
      | .pgreq => !recWaiting s (g, 8 + id)
      | .value => p.done
      | _ => false
    .next (if ready then finishLoad (loadSome s g p thr.1 thr.2) g id else s)

/-- Does a load's miss allocate in the L1: not under RD = 3, without a way that takes the line, or in host memory
(R206, R208, R211, R344)? -/
def allocates (s : State) (g : Nat) (p : Pend) (line : Nat) : Bool :=
  p.rd != 3 && l1Takes s (blkOf g) line && line / 2 ^ 48 != 2

/-- The accesses of a load that miss in one line and may be performed (R209, R249). -/
def missesIn (s : State) (g : Nat) (p : Pend) (line : Nat) : List Acc :=
  p.accs.filter fun a =>
    !a.got && !p.scratch && lineOf a.pa == line && mayPerform s g p a && (l1Load s (blkOf g) a.pa a.n).isNone

/-- Requests of a block for a line meet its home: a miss is counted, the line is held there, and pinned where an access came
through a PL = 1 leaf of the context (R213, R214, R405). -/
def homeMeet (s : State) (b slot line : Nat) (as : List Acc) : State :=
  let line := redirectLine s line
  let cl := some (b / 64)
  if isHostLine line then s
  else
    let s := l2Meet s cl line
    match as.find? (·.pl) with
    | some a => pinPl s cl line slot (a.va / frameBytes)
    | none => s

/-- A line's sectors are fetched into a block's L1 under a new lease (R209, R213). -/
def homeFill (s : State) (b line rrpv sectors : Nat) : State :=
  let (s, e) := grantLease s (redirectLine s line)
  l1Fill s b line e rrpv sectors

/-- The RRPV that RD gives a fill (R211). -/
def fillRrpv (rd : Nat) : Nat := if rd = 0 then 0 else rd + 1

/-- HOME_READ: the home serves the accesses of a load that miss in one line (R209, R213, R249): the fill takes every sector
of the line that the load needs. A load that does not allocate takes its value without a lease (R472). -/
def execHomeRead (g id line : Nat) (s : State) : Res :=
  match findPend (gAt s g) id with
  | none => .next s
  | some p =>
    let b := blkOf g
    let as := missesIn s g p line
    if p.kind ≠ .load || as.isEmpty || inFlight s b line || l1Blocked s b line id then .next s
    else
      let s := homeMeet (pmcCount s (clusterPmcs (b / 64)) 0x10 1) b (gAt s g).ctx line as
      let got := as.map fun a => { a with got := true, bs := mergeDirty s b a.pa a.n }
      let need := (p.accs.filter fun a => !a.zero && lineOf a.pa == line).map fun a => lineOff a.pa
      let s := if allocates s g p line then homeFill s b line (fillRrpv p.rd) (sectorsOf need) else s
      .next (updPend s g id fun q =>
        { q with accs := q.accs.map fun a => (got.find? fun c => c.t == a.t).getD a })

/-- One line of a PRF: at level 1 into the L2, at level 0 whole into the L1, unless it is there, RD is 3, no way of the
block takes it, or a write of the block to the line is on its way (R237, R231). -/
def prefetchLine (s : State) (level rd b slot line : Nat) (as : List Acc) : State :=
  if isHostLine line then s
  else if level = 1 then homeMeet s b slot line as
  else if rd = 3 || !l1Takes s b line || l1Blocked s b line s.nextId || inFlight s b line || (l1Load s b (linePa line) 192).isSome then s
  else homeFill (homeMeet s b slot line as) b line (fillRrpv rd) 15

/-- PRF (R237): requests the lines of the accesses that would not fault, each once. An access has one byte, so that no address is
misaligned (log entry 156, DESIGN CHOICE). -/
def execPrf (l : BitVec 1) (a b : Opnd) (s : State) : Res :=
  if isLs a then done s
  else
    let as := passing ((threads (selected s)).map fun t => checkThread s .read false false t (addrOf s a b t) 1)
    done <| (distinct (as.map fun c => lineOf c.pa)).foldl (fun s line =>
      prefetchLine s l.toNat (hdrRd (cf s).hdr) (cblk s) (cg s).ctx line (as.filter fun c => lineOf c.pa == line)) s

/-- The line at which an access is performed (R220). -/
def Acc.line (s : State) (a : Acc) : Nat := redirectLine s (lineOf a.pa)

/-- The lines at which an operation's accesses are performed, in order of their first access. -/
def accLines (s : State) (as : List Acc) : List Nat := distinct (as.map (Acc.line s))

/-- The bytes of some stores in thread order, so that the highest-numbered thread's remain (R231). -/
def storeBytes (as : List Acc) : List (Nat × Byte) :=
  (as.map fun a => (List.range a.n).map fun i => (a.pa + i, (a.bs[i]?).getD 0#8)).flatten

/-- Does an access of a store go to the home: no L1, a window, or host memory (R230, R261, R344)? -/
def toHome (s : State) (g : Nat) (a : Acc) : Bool :=
  a.win.isSome || (l1Ways s (blkOf g)).isEmpty || paSpace a.pa == 2

/-- Performs accesses of a store in scratch, or in the L1. -/
def storeLocal (s : State) (g : Nat) (p : Pend) (as : List Acc) : State :=
  as.foldl (fun s a =>
    if p.scratch then lsPut (noteScratch s (coreOf g) (some (g, p.id)) (bytesAt a.pa a.bs)) a.pa a.bs
    else l1Store s (blkOf g) a.pa a.bs) s

/-- The lines of some accesses, and the line at which they are performed, leave the block's L1 (R210, R220, R249). -/
def evictAccs (s : State) (b line : Nat) (as : List Acc) : State :=
  (distinct (line :: as.map fun a => lineOf a.pa)).foldl (fun s l => l1Evict s b l) s

/-- The write to a home that an access belongs to: the line at which it is performed, and for a window access the TXW entry and
the address at which the line stands in the window (R220, R261, R361). -/
def Acc.write (s : State) (a : Acc) : Nat × Option (Nat × Nat) := (a.line s, a.win.map fun i => (i, a.va - lineOff a.pa))

/-- Sends accesses of a store to the homes, one masked write for each line, and for each line of a window (R230, R361, R471).
The line leaves the block's L1 so that no later load of the block finds older data there (R249, R261). Each byte at home is
that of the highest-numbered thread (R231). A window reduction is one empty write for each line (R372). -/
def storeSend (s : State) (g : Nat) (p : Pend) (as : List Acc) : State :=
  let red := decide (p.kind = .rx)
  let write := Acc.write s
  let at_ := homePa s
  let s := (distinct (as.map write)).foldl (fun s w =>
    let here := as.filter fun a => write a == w
    let above (a : Acc) (pa : Nat) : Bool := as.any fun c =>
      write c != w && decide (a.t < c.t) && decide (at_ c.pa ≤ at_ pa) && decide (at_ pa < at_ c.pa + c.n)
    let bytes := here.flatMap fun a => (storeBytes [a]).filter fun e => !above a e.1
    sendHome (if red then s else evictAccs s (blkOf g) w.1 here) { (default : HomeReq) with
      blk := some (blkOf g), own := some (g, p.id), kind := .masked, line := w.1
      bytes := if red then [] else bytes, win := w.2, op := if red then p.op else 0, accs := here }) s
  updPend s g p.id fun q => { q with sent := true }

/-- May every access of an operation be performed now? -/
def allMay (s : State) (g : Nat) (p : Pend) : Bool :=
  p.accs.all fun a => a.got || (mayPerform s g p a &&
    (if p.scratch then !draining s a.pa p.id else !l1Blocked s (blkOf g) (lineOf a.pa) p.id))

/-- A store is performed: in scratch or the L1 it completes; what goes to the homes leaves for them (R230), with every other
access to the same line. -/
def storeGo (s : State) (g : Nat) (p : Pend) : State :=
  let goes (a : Acc) : Bool := !p.scratch && p.accs.any fun c => toHome s g c && sameLine s (lineOf c.pa) (lineOf a.pa)
  let home := p.accs.filter goes
  let near := p.accs.filter fun a => !goes a
  if !p.scratch && near.any fun a => !l1Takes s (blkOf g) (lineOf a.pa) then s
  else
    let s := storeLocal s g p near
    if home.isEmpty then dropPend s g p.id
    else storeSend (updPend s g p.id fun q => { q with accs := q.accs.map fun a => if home.contains a then a else { a with got := true } })
      g p home

/-- STORE_COMPLETE: a store is performed in scratch or the L1 and completes, or leaves for its homes and
completes when each has performed it (R230); a FLUSH completes when its write-backs have returned (R244). -/
def execStoreComplete (g id : Nat) (s : State) : Res :=
  match findPend (gAt s g) id with
  | none => .next s
  | some p =>
    let ended := if p.accs.all (·.got) then dropPend s g id else s
    .next (match p.kind with
      | .store => if p.sent then ended else if allMay s g p then storeGo s g p else s
      | .flush => if wbPending s (blkOf g) p.op then s else dropPend s g id
      | .rx => if p.sent then ended else if allMay s g p then storeSend s g p p.accs else s
      | .amax => ended
      | .record => if p.time < s.gt then dropPend s g id else s
      | _ => s)

/-- One thread's atomic on a word: the new word, the FLAGS bits; the access keeps the old word. -/
def atomicOne (p : Pend) (old : Word) (a : Acc) : Acc × Word × Nat :=
  let (n, fl) := atomicNew p.op p.ftype old a.x a.y
  ({ a with got := true, bs := leBytes 4 old.toNat }, n, fl)

/-- Performs a scratch atomic at its banks, in ascending thread order (R235). -/
def atomicLocal (s : State) (g : Nat) (p : Pend) : State :=
  let (s, as, fl) := p.accs.foldl (fun (acc : State × List Acc × Nat) a =>
    let (s, as, fl) := acc
    let (a, n, f) := atomicOne p (w32 (leNat (lsBytes s a.pa 4))) a
    let bs := leBytes 4 n.toNat
    (lsPut (noteScratch s (coreOf g) (some (g, p.id)) (bytesAt a.pa bs)) a.pa bs, as ++ [a], fl ||| f)) (s, [], 0)
  updPend s g p.id fun q => { q with accs := as, fl := q.fl ||| fl, done := true }

/-- Sends a global atomic to the homes of its lines, after the issuing L1 has written each line back and
invalidated it (R210, R235). -/
def atomicSend (s : State) (g : Nat) (p : Pend) : State :=
  let b := blkOf g
  let line := Acc.line s
  let s := (accLines s p.accs).foldl (fun s l =>
    let here := p.accs.filter fun a => line a == l
    sendHome (evictAccs s b l here) { (default : HomeReq) with
      blk := some b, own := some (g, p.id), kind := if p.kind = .atomic then .atomic else .amax, line := l
      op := p.op, ftype := p.ftype, accs := here }) s
  updPend s g p.id fun q => { q with sent := true }

/-- ATOMIC_COMPLETE: an atomic, a SCALEQ or an AMAXR is performed in scratch or leaves for its homes; once it is performed a
returning one writes the old words of some threads, and completes when all are written (R235, R36, R62). -/
def execAtomicComplete (g : Nat) (id : Nat × Word) (s : State) : Res :=
  match findPend (gAt s g) id.1 with
  | none => .next s
  | some p =>
    if !(p.kind = .atomic || p.kind = .scaleq || p.kind = .amax) then .next s
    else if p.accs.all (·.got) then .next (finishLoad (loadSome s g p id.2 allRegs) g id.1)
    else if p.sent || !allMay s g p then .next s
    else if p.scratch then .next (atomicLocal s g p)
    else .next (atomicSend s g p)

/-- L1_LEASE_EXPIRY: the sectors of a line whose lease has passed hold no data (R209). -/
def execL1LeaseExpiry (c k : Nat) (s : State) : Res :=
  let x := Store.get s.l1 (8192 * c + k)
  .next (if x.lease ≤ s.gt then { s with l1 := Store.set s.l1 (8192 * c + k) { x with sv := 0 } } else s)

end Sys2Proof.Machine
end

