-- ==== Sys2Proof/Machine/Matrix.lean ====
section
/-! DEFINITION. The matrix engine (R159 to R181): descriptor slots, gangs, the Cinch, the engine queue,
MMA, MMAS and MZRO, and the steps in which operations are released, performed and completed. -/

namespace Sys2Proof.Machine

/-! Descriptor slots (R160, R161). -/

/-- Fields of a descriptor slot. -/
def mdAbase (m : Nat) : Nat := bits m 31 0
def mdAstride (m : Nat) : Nat := bits m 63 32
def mdBbase (m : Nat) : Nat := bits m 95 64
def mdBstride (m : Nat) : Nat := bits m 127 96
def mdK (m : Nat) : Nat := bits m 143 128
def mdRows (m : Nat) : Nat := bits m 150 144
def mdCols (m : Nat) : Nat := bits m 167 160
def mdSp (m : Nat) : Bool := bit m 168
def mdPfmt (m : Nat) : Nat := bits m 175 172
def mdAscale (m : Nat) : Int := sgn 8 (bits m 183 176)
def mdBscale (m : Nat) : Int := sgn 8 (bits m 191 184)

/-- The fields on which members must agree: all but ABASE and ASTRIDE (R164). -/
def mdShared (m : Nat) : Nat := m / 2 ^ 64

/-- The number that consecutive words make, the first least significant. -/
def ofWords : List Word → Nat
  | [] => 0
  | w :: r => w.toNat + 2 ^ 32 * ofWords r

/-- Slot j of a group as a 256-bit number. -/
def mdOf (g : Group) (j : Nat) : Nat := ofWords (Store.getList g.md (8 * j) 8)

/-- The checks of MDS (R161). -/
def mdOk (m : Nat) : Bool :=
  mdAbase m % 16 == 0 && mdAstride m % 16 == 0 && mdBbase m % 16 == 0 && mdBstride m % 16 == 0 &&
  mdK m % 16 == 0 && decide (16 ≤ mdK m) && decide (1 ≤ mdRows m) && decide (mdRows m ≤ 96) &&
  decide (1 ≤ mdCols m) && decide (mdCols m ≤ 128) && mdAscale m != -128 && mdBscale m != -128 &&
  bits m 171 169 == 0 && bits m 159 151 == 0

/-- MDS (R161). -/
def execMds (j : BitVec 2) (a : Opnd) (s : State) : Res :=
  let ws := ublock s a 8
  if mdOk (ofWords ws) then done (updCG s fun g => { g with md := Store.setList g.md (8 * j.toNat) ws })
  else .next (raiseAll s cOPERAND 0#64)

/-- A member mask that R162 accepts. -/
def gangOk (s : State) (m : Word) : Bool :=
  m == 0#32 ||
  (decide (2 ≤ popcount m) && decide (popcount m ≤ 6) && m.getLsbD (grpOf s.curG) &&
    (threads m).all fun i =>
      let g := gAt s (32 * blkOf s.curG + i)
      g.present && roleNo g.role == roleNo (cg s).role)

/-- GANG (R162). -/
def execGang (a : Opnd) (s : State) : Res :=
  let m := usrc s a
  if gangOk s m then done (updCG s fun g => { g with gang := m })
  else .next (raiseAll s cGANG (m.zeroExtend 64))

/-! Operands in scratch (R88, R169 to R171). -/

/-- Bytes of a row of `k` elements in a format. -/
def rowBytes (code k : Nat) : Nat := if isQF code then (k + 15) / 16 * qfBytes code else k * elemBits code / 8

/-- Element i of a row. -/
def rowElem (code : Nat) (bs : List Byte) (i : Nat) : Val :=
  if isQF code then qfElem code ((bs.drop (i / 16 * qfBytes code)).take (qfBytes code)) (i % 16)
  else
    let n := elemBits code / 8
    elemVal code (leNat ((bs.drop (n * i)).take n))

/-- Bytes of a core's scratch under a bank list. -/
def scrBytes (s : State) (core : Nat) (list : List Nat) (o n : Nat) : List Byte :=
  (List.range n).map fun i => Store.get s.ls (offsetKey core list (o + i))

/-- Scratch bytes as an operation reads them: each 16-byte word of read number `k` whole, old or new (R179). -/
def opBytes (s : State) (o : MatOp) (k off n : Nat) : List Byte :=
  if o.olds.isEmpty then scrBytes s o.core o.banks off n
  else (List.range n).map fun i =>
    let key := offsetKey o.core o.banks (off + i)
    ((oldOrNew s o.olds k (key / 16) (lsBytes s (key / 16 * 16) 16))[key % 16]?).getD 0#8

/-- Writes scratch bytes under a bank list. -/
def scrPut (s : State) (core : Nat) (list : List Nat) (o : Nat) : List Byte → State
  | [] => s
  | b :: r => scrPut (lsPut s (offsetKey core list o) [b]) core list (o + 1) r

/-- Element i of a row that an operation reads anew at every K step of sixteen positions (R179): read number `k`, which
the step extends. -/
def stepElem (s : State) (o : MatOp) (code k off n i : Nat) : Val :=
  rowElem code (opBytes s o (8192 * k + i / 16) off n) i

/-- A kept value of a sparse line (R171): its dense position and its value. -/
def keptAt (code : Nat) (line : List Byte) (j v : Nat) : Nat × Val :=
  let idx := leNat (line.take 32) / 2 ^ (2 * v) % 4
  let x := leNat ((line.drop (64 + v)).take 1)
  let val :=
    if code = 4 then
      let e := leNat ((line.drop (32 + 2 * (v / 8))).take 1)
      let mu := b2n (bit (leNat ((line.drop (33 + 2 * (v / 8))).take 1)) (v % 8 / 2))
      if e = 0xFF then Val.nan 0 else .fin ⟨bit x 7, x % 128, qfUnit 4 e mu, false⟩
    else elemVal code x
  (256 * j + 4 * (v / 2) + idx, val)

/-- The computed positions of a B column with their values (R170, R171). -/
def column (code k : Nat) (sparse : Bool) (bs : List Byte) : List (Nat × Val) :=
  if sparse then
    ((List.range ((k + 255) / 256)).flatMap fun j =>
      (List.range 128).map fun v => keptAt code ((bs.drop (192 * j)).take 192) j v).filter fun e => decide (e.1 < k)
  else (List.range k).map fun i => (i, rowElem code bs i)

/-- Bytes of a B column. -/
def colBytes (code k : Nat) (sparse : Bool) : Nat := if sparse then (k + 255) / 256 * 192 else rowBytes code k

/-! Accumulation (R93, R94). -/

/-- Flags that a product carries. -/
def Val.flags : Val → Nat
  | .nan f => f
  | .inf _ f => f
  | .fin _ => 0

/-- The exact sum of a group's products as a value before its rounding (R93). -/
def groupVal (ts : List Val) : Val :=
  let fl := ts.foldl (fun a t => a ||| t.flags) 0
  let pinf := ts.any fun t => match t with
    | .inf false _ => true
    | _ => false
  let ninf := ts.any fun t => match t with
    | .inf true _ => true
    | _ => false
  if ts.any Val.isNan then .nan (fl ||| (if pinf && ninf then fNV else 0))
  else if pinf && ninf then .nan (fl ||| fNV)
  else if pinf || ninf then .inf ninf fl
  else
    match ts.foldl (fun acc t => acc.add 0 (if t.isZero then Ex.nil false else t)) (Ex.nil false) with
    | .fin x => .fin (if x.m = 0 then ⟨false, 0, 0, false⟩ else x)
    | v => v

/-- The products of the group `G` of sixteen positions. -/
def groupTerms (G : Nat) (mul : Nat → Val → Val) (col : List (Nat × Val)) : List Val :=
  (col.filter fun e => e.1 / 16 == G).map fun e => mul e.1 e.2

/-- Adds the rounded group sums to an F32 accumulator in ascending order (R93): encoding and flags. -/
def accumF (n : Nat) (terms : Nat → List Val) (acc : Nat) : Nat × Nat :=
  (List.range n).foldl (fun (a : Nat × Nat) G =>
    let (r, f1) := f32.finish 0 false false 0 (groupVal (terms G))
    let (x, f2) := addF32 a.1 r
    (x, a.2 ||| f1 ||| f2)) (acc, 0)

/-- The exact integer of a value in I8 or N8. -/
def Val.int : Val → Int
  | .fin x => x.int (if x.e ≤ 0 then x.e else 0)
  | _ => 0

/-- Adds exact group sums to an I32 accumulator (R94): encoding and flags. -/
def accumI (n : Nat) (sat : Bool) (terms : Nat → List Int) (acc : Word) : Word × Nat :=
  (List.range n).foldl (fun (a : Word × Nat) G =>
    let x := a.1.toInt + (terms G).foldl (· + ·) 0
    if sat && x < -2147483648 then (0x80000000#32, a.2 ||| fSAT)
    else if sat && 2147483647 < x then (0x7FFFFFFF#32, a.2 ||| fSAT)
    else (w32 (wrapN 32 x), a.2)) (acc, 0)

/-- A value times 2^n. -/
def Val.scaled (v : Val) (n : Int) : Val := Val.scale v n

/-- A matrix format that R167 counts as floating point. -/
def isFloatFmt (code : Nat) : Bool := decide (code ≤ 9) && code != 7 && code != 8

/-- The MODE combinations of R167. -/
def comboOk (m : Word) : Bool :=
  (isFloatFmt (mAfmt m) && isFloatFmt (mBfmt m) && mAccf m == 0) ||
  ((mAfmt m == 7 || mAfmt m == 8) && (mBfmt m == 7 || mBfmt m == 8) && mAccf m == 1)

/-- The 8-bit class of R8: E4M3, E5M2, QF9, I8 and N8. -/
def eightBit (code : Nat) : Bool := code == 2 || code == 3 || code == 4 || code == 7 || code == 8

/-! Gangs (R70). -/

/-- Rank of a group in a gang, and the gang's size. -/
def rankIn (gang : Word) (i : Nat) : Nat := ((threads gang).filter (· < i)).length

/-- Groups as keys that a mask of a block names. -/
def Member.rank (m : Member) : Nat := rankIn m.gang (grpOf m.g)

/-- The rows of a member below a bound, as local rows. -/
def Member.rowsBelow (m : Member) (rows : Nat) : List Nat :=
  (List.range 16).filter fun p => decide (16 * m.rank + p < rows)

/-- Register and thread of element (ρ, c) of a tile, as a key (R172). -/
def tileKey (base p c : Nat) : Nat := 32 * (base + 4 * p + c % 4) + c / 4

/-- Word t of what a member sampled. -/
def atT (l : List Word) (t : Nat) : Nat := ((l[t]?).getD 0#32).toNat

/-! The scoreboard (R163 step 2, R177). -/

/-- Vector registers that the operations of a group hold, from its arrival on; those of an ARST until its release (R177,
R199). -/
def heldRegs (s : State) (g : Nat) : List Nat :=
  (s.rdvs.flatMap fun r => r.arrs.flatMap fun m => if m.g = g then m.regs else []) ++
  s.mxq.flatMap fun o => o.mem.flatMap fun m => if m.g = g && !m.fin && o.op != 0xA8 then m.regs else []

/-- Vector registers that a pending read or returning atomic will write. -/
def Pend.writes (p : Pend) : List Nat :=
  match p.kind with
  | .load | .atomic | .pgreq | .scaleq | .value =>
    match p.dst with
    | .v n => (List.range ((p.accs.foldl (fun m a => Nat.max m a.n) 4 + 3) / 4)).map (n + ·)
    | _ => []
  | _ => []

/-- Is a pending read going to write one of some registers? -/
def readPending (g : Group) (regs : List Nat) : Bool :=
  g.pend.any fun p => p.writes.any regs.contains

/-! The Cinch (R163 to R166). -/

/-- A member as it arrives. -/
def arrival (s : State) (op sel : Nat) (frag out : Option Nat) (regs : List Nat) (a : Opnd) : Member :=
  { (default : Member) with
    g := s.curG, f := s.curF, pc := (cf s).pc, gang := (cg s).gang, hnd := decide ((cf s).st = .handler)
    num := s.nextId, banks := scratchBanks s (cblk s), op := op, sel := sel, img := mdOf (cg s) (sel % 4), mode := (cf s).mode
    frag := frag, out := out, regs := regs, xs := (List.range 32).map fun t => src s .plain a t }

/-- The rendezvous that an arrival makes fail (R165, R180): those of its block that list it with another
GANG or with arrivals of the other kind of fragment; those with another GANG in which a group it lists
waits, and then the one it would join. -/
def clashes (s : State) (m : Member) : List Rdv :=
  let mine := s.rdvs.filter fun r => r.blk == blkOf m.g
  let hndOf (r : Rdv) := (r.arrs.any (·.hnd))
  let third := mine.filter fun r =>
    if r.gang = m.gang then hndOf r != m.hnd else r.lists m.g
  let fourth := mine.filter fun r => r.gang != m.gang && r.arrs.any fun x => m.gang.getLsbD (grpOf x.g)
  let join := if fourth.isEmpty then [] else mine.filter fun r => r.gang == m.gang
  third ++ fourth ++ join

/-- Some rendezvous fail, with what their frozen members bring down (R165). -/
def failRdvs (s : State) (rs : List Rdv) : State :=
  let ids := rs.map (·.id)
  let hit := (s.rdvs.filter fun r => ids.contains r.id).flatMap (·.arrs)
  let n := 8 * s.rdvs.length + 2
  let s := { s with rdvs := s.rdvs.filter fun r => !ids.contains r.id }
  rdvFail n ((hit.filter fun m => m.hnd && !inPart s m.g).map (·.g)) (hit.foldl gangTrap s)

/-- An arrival (R163 steps 3 and 4): the fragment waits at the Cinch, in the rendezvous of its GANG or in a
new one; or it takes GANG (R165). -/
def arrive (s : State) (m : Member) : State :=
  match clashes s m with
  | [] =>
    let s := waitFor s .cinch
    if s.rdvs.any fun r => r.blk == blkOf m.g && r.gang == m.gang then
      { s with
        rdvs := s.rdvs.map fun r => if r.blk == blkOf m.g && r.gang == m.gang then { r with arrs := r.arrs ++ [m] } else r
        nextId := s.nextId + 1 }
    else { s with rdvs := s.rdvs ++ [⟨s.nextId, blkOf m.g, m.gang, [m]⟩], nextId := s.nextId + 1 }
  | bad => rdvDrop (gangTrap (failRdvs s bad) m) m.g

/-- A trap at a ganged instruction: no arrival, and the rendezvous that list the group fail (R165). -/
def raiseGanged (s : State) (cause : Nat) (fadr : Quad) : Res :=
  .next (rdvDrop (raiseAll s cause fadr) s.curG)

/-- The checks of MMA and MMAS at issue (R163, R181). -/
def mmaOk (m : Nat) (mode : Word) (sparse : Bool) : Bool :=
  mdK m != 0 && comboOk mode && mdSp m == sparse &&
  (!sparse || (eightBit (mAfmt mode) && eightBit (mBfmt mode))) &&
  (mAccf mode == 0 || decide (0 ≤ mdAscale m + mdBscale m))

/-- The registers of a fragment (R172). -/
def fragRegs : Opnd → List Nat
  | .v n => (List.range 64).map (n + ·)
  | _ => []

def regNo : Opnd → Option Nat
  | .v n => some n
  | _ => none

/-- Arrives at the Cinch unless a pending read writes the named fragment (R163 steps 2 and 3). -/
def arriveWhen (s : State) (frag : Opnd) (m : Member) : Res :=
  if readPending (cg s) (fragRegs frag) then .next s else .next (arrive s m)

/-- MMA and MMAS (R163, R173): a GANG of 0 is raised before the other checks (log entry 131, DESIGN CHOICE). -/
def mma (s : State) (op : Nat) (f a : Opnd) (j : Nat) : Res :=
  let sparse := decide (op = 0xA3)
  if (cg s).gang = 0#32 then raiseGanged s cGANG 0#64
  else if !mmaOk (mdOf (cg s) j) (cf s).mode sparse then raiseGanged s cOPERAND 0#64
  else arriveWhen s f (arrival s op j (regNo f) none (fragRegs f) a)

def execMma (f a : Opnd) (j : BitVec 2) (s : State) : Res := mma s 0xA2 f a j.toNat
def execMmas (f a : Opnd) (j : BitVec 2) (s : State) : Res := mma s 0xA3 f a j.toNat

/-- Operations of a core that have not completed (R176). -/
def queueLen (s : State) (c : Nat) : Nat := (s.mxq.filter fun o => o.core == c).length

/-- MZRO (R174): a full queue or flag stalls the issue (R35, R176). -/
def execMzro (f : Opnd) (s : State) : Res :=
  if flagFull s 2 || decide (8 ≤ queueLen s (coreOf s.curG)) then .next (stallHere s)
  else
    let m := { arrival s 0xA4 0 (regNo f) none (fragRegs f) .nul with id := s.nextId }
    let (s, _) := addPend s 2 { (default : Pend) with kind := .matrix, dst := .nul, sent := true }
    .next (advance { s with
      mxq := s.mxq ++ [⟨s.nextId, coreOf s.curG, 0xA4, [m], false, [], []⟩], nextId := s.nextId + 1 })

/-! Release (R163 step 5, R164, R169). -/

/-- The lowest byte of some ranges of scratch that lies at or beyond its size (R166). -/
def offending (size : Nat) (rs : List (Nat × Nat)) : Option Nat :=
  rs.foldl (fun acc r =>
    if r.2 = 0 || r.1 + r.2 ≤ size then acc
    else
      let x := Nat.max r.1 size
      match acc with
      | some y => some (Nat.min x y)
      | none => some x) none

/-- The A rows that an operation reads (R169). -/
def aRanges (rows : Nat) (m : Member) : List (Nat × Nat) :=
  (m.rowsBelow rows).map fun p =>
    (mdAbase m.img + atT m.xs p * mdAstride m.img, rowBytes (mAfmt m.mode) (mdK m.img))

/-- The B columns that MMA or MMAS reads (R170). -/
def bRanges (m : Member) : List (Nat × Nat) :=
  (List.range (mdCols m.img)).map fun c =>
    (mdBbase m.img + c * mdBstride m.img, colBytes (mBfmt m.mode) (mdK m.img) (mdSp m.img))

/-- Do the members agree (R164, R183)? The slots may have different numbers in an MMA or MMAS. -/
def agree (withSlot : Bool) : List Member → Bool
  | [] => true
  | m :: r => r.all fun x =>
      x.op == m.op && (decide (m.op ≤ 0xA3) || x.sel == m.sel) && (!withSlot || mdShared x.img == mdShared m.img) &&
      mAfmt x.mode == mAfmt m.mode && mBfmt x.mode == mBfmt m.mode && mAccf x.mode == mAccf m.mode &&
      mSat x.mode == mSat m.mode

/-- Every member takes a trap, and the rendezvous is over (R166). -/
def failAll (s : State) (r : Rdv) (cause : Nat) (fadr : Quad) : State :=
  let n := 8 * s.rdvs.length + 2
  let s := { s with rdvs := s.rdvs.filter fun x => x.id != r.id }
  rdvFail n ((r.arrs.filter fun m => m.hnd && !inPart s m.g).map (·.g)) (r.arrs.foldl (fun s m => memberTrap s m cause fadr) s)

/-- Is a flag of every member open (R35, R163)? -/
def roomForAll (s : State) (r : Rdv) : Bool :=
  r.arrs.all fun m => match flagFor (fragAt s m.g m.f).hdr 2 with
    | some k => decide (flagCount (gAt s m.g) k < 63)
    | none => true

/-- Is every group of the rendezvous there (R163), and the rendezvous one of the sixteen open (R166)? -/
def complete (s : State) (c : Nat) (r : Rdv) : Bool :=
  r.arrs.length == popcount r.gang && r.blk / 4 == c &&
  (((s.rdvs.filter fun x => x.blk / 4 == c).take 16).any fun x => x.id == r.id)

/-- The scratch bank list of a rendezvous: what its last arrival sampled (R204; log entry 47, DEDUCED). -/
def Rdv.banks (r : Rdv) : List Nat := (r.arrs.getLast?.map (·.banks)).getD []

/-- The number of the last arrival of some members: operations before it have smaller numbers. -/
def lastNum (ms : List Member) : Nat := ms.foldl (fun n m => Nat.max n m.num) 0

/-- Releases a rendezvous: each member counts the operation and goes on, and the engine queues it. -/
def releaseRdv (s : State) (r : Rdv) : State :=
  let op := (r.arrs.head?.map (·.op)).getD 0
  let (s, ms) := r.arrs.foldl (fun (acc : State × List Member) m =>
    let s := acc.1
    let id := s.nextId
    let s := withCur s m.g m.f fun s =>
      advance (wake (addPend s 2 { (default : Pend) with kind := .matrix, dst := .nul, scratch := true }).1 m.g m.f)
    (s, acc.2 ++ [{ m with id := id }])) (s, [])
  { s with
    rdvs := s.rdvs.filter fun x => x.id != r.id
    mxq := s.mxq ++ [⟨s.nextId, r.blk / 4, op, sortBy (·.g) ms, false, r.banks, []⟩]
    nextId := s.nextId + 1 }

/-! Performing (R173, R176, R178). -/

/-- The value that a register of a group has for the engine: the last queued result, or the register. -/
def accValue (s : State) (g key : Nat) : Word :=
  let found := (s.mxq.flatMap (·.mem)).filter fun m => m.g == g && !m.fin && m.res.any fun e => e.1 == key
  match found.getLast? with
  | some m => Store.get m.res key
  | none => rdV (gAt s g) (key / 32) (key % 32)

/-- The elements of a row of `k` elements at a scratch offset as an operation reads them: read number `n` (R179). -/
def opRow (s : State) (o : MatOp) (code k n off : Nat) : List Val :=
  if o.olds.isEmpty then
    let bs := scrBytes s o.core o.banks off (rowBytes code k)
    (List.range k).map (rowElem code bs)
  else (List.range k).map fun i => stepElem s o code n off (rowBytes code k) i

/-- The computed positions of a B column with their values as an operation reads them: read number `n`, each K step of
sixteen positions anew (R170, R171, R179). -/
def opColumn (s : State) (o : MatOp) (code k : Nat) (sparse : Bool) (n off : Nat) : List (Nat × Val) :=
  let len := colBytes code k sparse
  if o.olds.isEmpty then column code k sparse (scrBytes s o.core o.banks off len)
  else (List.range ((k + 15) / 16)).flatMap fun G =>
    (column code k sparse (opBytes s o (8192 * n + G) off len)).filter fun e => e.1 / 16 == G

/-- The tile of a member of an MMA or MMAS (R173): results and flags. -/
def mmaTile (s : State) (o : MatOp) (m : Member) : Member :=
  let k := mdK m.img
  let af := mAfmt m.mode
  let bf := mBfmt m.mode
  let sp := mdSp m.img
  let scale := mdAscale m.img + mdBscale m.img
  let base := m.frag.getD 0
  let cols := (List.range (mdCols m.img)).map fun c =>
    (c, opColumn s o bf k sp (128 + c) (mdBbase m.img + c * mdBstride m.img))
  (m.rowsBelow (mdRows m.img)).foldl (fun m p =>
    let row := opRow s o af k (16 * m.rank + p) (mdAbase m.img + atT m.xs p * mdAstride m.img)
    cols.foldl (fun m e =>
      let key := tileKey base p e.1
      let old := accValue s m.g key
      let prod := fun i v => (((row[i]?).getD (Val.nan 0)).mul v).scaled scale
      let (x, fl) :=
        if mAccf m.mode = 0 then
          let (x, fl) := accumF (k / 16) (fun G => groupTerms G prod e.2) old.toNat
          (w32 x, fl)
        else accumI (k / 16) (mSat m.mode) (fun G => (groupTerms G prod e.2).map Val.int) old
      { m with res := Store.ins m.res key x, fl := m.fl ||| fl }) m) m

/-- The results of MZRO (R174). -/
def mzroTile (m : Member) : Member :=
  { m with res := (List.range 2048).map fun i => (32 * m.frag.getD 0 + i, 0#32) }

/-- Must an operation still wait: for earlier scratch accesses (R178) and loads (R257) of a member, or for a bank that an
earlier BANKM drains (R206)? -/
def engineHeld (s : State) (o : MatOp) : Bool :=
  (o.mem.any fun m => (gAt s m.g).pend.any fun p =>
    ((p.scratch && p.kind.counted) || p.kind.loads) && !p.done && decide (p.id < m.num) && p.accs.any fun a => !a.got) ||
  o.banks.any fun k => (bankAt s o.core k).holds (lastNum o.mem)

/-- Replaces an operation of the engine queue. -/
def putOp (s : State) (o : MatOp) : State :=
  { s with mxq := s.mxq.map fun x => if x.id == o.id then o else x }

/-- Marks the members' operations as performed, so that their later scratch accesses may follow. -/
def markRead (s : State) (o : MatOp) : State :=
  o.mem.foldl (fun s m => updPend s m.g m.id fun p => { p with sent := true }) s

/-- Completes an operation for a member (R175): results, FLAGS, flag count; the operation leaves the queue
with its last member. -/
def finishMember (s : State) (o : MatOp) (m : Member) : State :=
  let s :=
    if (findPend (gAt s m.g) m.id).isSome then
      let s := updG s m.g fun g => m.res.foldl (fun g e => wrV g (e.1 / 32) (e.1 % 32) e.2) g
      dropPend (updPend s m.g m.id fun p => { p with fl := p.fl ||| m.fl }) m.g m.id
    else s
  let o := { o with mem := o.mem.map fun (x : Member) => if x.g == m.g then { x with fin := true } else x }
  if o.mem.all (·.fin) then { s with mxq := s.mxq.filter fun x => x.id != o.id } else putOp s o

/-- An earlier operation of the queue that this group has not completed. -/
def earlierOf (s : State) (o : MatOp) (g : Nat) : Bool :=
  (s.mxq.takeWhile fun x => x.id != o.id).any fun x => x.core == o.core && x.mem.any fun m => m.g == g && !m.fin

/-- Completes a member of an operation, if it has been performed and the group's earlier ones are done. -/
def completeMember (s : State) (n g : Nat) (cls : MatOp → Bool) (last : MatOp → State → State) : State :=
  match s.mxq.find? fun o => o.id == n with
  | none => s
  | some o =>
    match o.mem.find? fun m => m.g == g && !m.fin with
    | none => s
    | some m =>
      if !o.perf || !cls o || earlierOf s o g then s
      else
        let s := finishMember s o m
        if s.mxq.any fun x => x.id == n then s else last o s

/-- MATRIX_OP_COMPLETE (R175). -/
def execMatrixOpComplete (c n g : Nat) (s : State) : Res :=
  .next (completeMember s n g (fun o => o.core == c && decide (o.op ≤ 0xA4)) fun _ s => pmcCount s (clusterPmcs (c / 16)) 0x20 1)

end Sys2Proof.Machine
end

