-- ==== Sys2Proof/Machine/Attention.lean ====
section
/-! DEFINITION. Attention in the matrix engine (R182 to R202): ASCORE, AVACC, AFIN, ARST and AROW, the
row-state slots, and the steps CINCH_RELEASE, MXE_QUEUE_PERFORM and ATTENTION_OP_COMPLETE. -/

namespace Sys2Proof.Machine

/-! The attention words (R184). -/

def mdScale (m : Nat) : Nat := bits m 255 224
def mdPgsc (m : Nat) : Bool := bit m 223
def mdCausal (m : Nat) : Bool := bit m 222
def mdLog2e (m : Nat) : Bool := bit m 221
def mdMeta (m : Nat) : Nat := bits m 208 192 * 16

/-- Row-state slot k of a core. -/
def rowSlot (s : State) (c k : Nat) : RowSlot := Store.get s.rows (4 * c + k)
def updRow (s : State) (c k : Nat) (f : RowSlot → RowSlot) : State := { s with rows := Store.upd s.rows (4 * c + k) f }

/-- M, L and ALPHA of a row, and its probabilities (R187). -/
def RowSlot.m (x : RowSlot) (r : Nat) : Word := Store.get x.row (3 * r)
def RowSlot.l (x : RowSlot) (r : Nat) : Word := Store.get x.row (3 * r + 1)
def RowSlot.alpha (x : RowSlot) (r : Nat) : Word := Store.get x.row (3 * r + 2)
def RowSlot.pAt (x : RowSlot) (r j : Nat) : Word := Store.get x.p (64 * r + j)

def RowSlot.setM (x : RowSlot) (r : Nat) (w : Word) : RowSlot := { x with row := Store.set x.row (3 * r) w }
def RowSlot.setL (x : RowSlot) (r : Nat) (w : Word) : RowSlot := { x with row := Store.set x.row (3 * r + 1) w }
def RowSlot.setAlpha (x : RowSlot) (r : Nat) (w : Word) : RowSlot := { x with row := Store.set x.row (3 * r + 2) w }
def RowSlot.setP (x : RowSlot) (r : Nat) (ws : List Word) : RowSlot := { x with p := Store.setList x.p (64 * r) ws }

/-- Unbinds a slot (R188). -/
def unbindRow (s : State) (c k : Nat) : State := updRow s c k fun x => { x with bound := false, blk := 0 }

/-- Frees every slot of a block: it ended or was saved (R188). -/
def unbindRows (s : State) (b : Nat) : State :=
  [0, 1, 2, 3].foldl (fun s k =>
    if (rowSlot s (b / 4) k).bound && (rowSlot s (b / 4) k).blk == b % 4 then unbindRow s (b / 4) k else s) s

/-- The row-state slot of an attention operation's selector. -/
def selRow (sel : Nat) : Nat := sel / 4 % 4

/-- The rows of a gang that an instruction acts on: min(ROWS, 16g) (R190). -/
def rowLimit (m : Member) : Nat := Nat.min (mdRows m.img) (16 * popcount m.gang)

/-! Arrivals: only GANG is checked at issue (R163). -/

/-- An attention instruction arrives; a closing one clears OK as it issues (R201, R416). -/
def attend (s : State) (closing : Bool) (frag : Opnd) (m : Member) : Res :=
  if (cg s).gang != 0#32 && readPending (cg s) (fragRegs frag) then .next s
  else
    let s := if closing then closeRegion s else s
    if (cg s).gang = 0#32 then raiseGanged s cGANG 0#64 else .next (arrive s m)

/-- ASCORE (R190). -/
def execAscore (d a : Opnd) (r j : BitVec 2) (s : State) : Res :=
  let m := arrival s 0xA5 (j.toNat + 4 * r.toNat) none none [] a
  attend s true .nul { m with strip := if d = .nul then none else some (usrc s d).toNat }

/-- AVACC (R193). -/
def execAvacc (f : Opnd) (r j : BitVec 2) (s : State) : Res :=
  attend s true f (arrival s 0xA6 (j.toNat + 4 * r.toNat) (regNo f) none (fragRegs f) .nul)

/-- AFIN (R194); with REL it closes the region (R201). -/
def execAfin (f a : Opnd) (l : BitVec 1) (r : BitVec 2) (s : State) : Res :=
  let regs := fragRegs f ++ (regNo a).toList
  attend s (l == 1#1) f (arrival s 0xA7 (4 * r.toNat + 16 * l.toNat) (regNo f) (regNo a) regs .nul)

/-- ARST (R195): in the restore form it samples M and L. -/
def execArst (r : BitVec 2) (a b : Opnd) (s : State) : Res :=
  let m := arrival s 0xA8 (4 * r.toNat) none none ((regNo a).toList ++ (regNo b).toList) a
  let full := decide (a ≠ .zero)
  attend s true .nul { m with
    xs := if full then m.xs else [], ys := if full then (List.range 32).map fun t => src s .plain b t else [] }

/-- AROW (R196). -/
def execArow (d : Opnd) (r : BitVec 2) (s : State) : Res :=
  let regs := match d with
    | .v n => [n, n + 1]
    | _ => []
  attend s false .nul (arrival s 0xA9 (4 * r.toNat) none (regNo d) regs .nul)

/-! Checks at release (R185, R186, R188). -/

/-- The legal values of R185 that the slot and MODE show. -/
def attnOk (m : Member) : Bool :=
  let d := m.img
  let common := bits d 220 209 == 0 && !mdSp d && decide (1 ≤ mdRows d) && decide (mdRows d ≤ 96) &&
    mAccf m.mode == 0 && isFloatFmt (mBfmt m.mode) && mdAscale d != -128 && mdBscale d != -128
  match m.op with
  | 0xA5 => common && isFloatFmt (mAfmt m.mode) && mdK d % 16 == 0 && decide (16 ≤ mdK d) && decide (mdK d ≤ 256) &&
      decide (1 ≤ mdCols d) && decide (mdCols d ≤ 64) && decide (mdPfmt d ≤ 3) && (m.strip.getD 0) % 16 == 0
  | 0xA6 => common && mdK d == 64 && decide (1 ≤ mdCols d) && decide (mdCols d ≤ 128)
  | _ => true

/-- Scratch that a member of an attention operation reads or writes (R169, R186). -/
def attnRanges (m : Member) : List (Nat × Nat) :=
  let d := m.img
  let rows := rowLimit m
  match m.op with
  | 0xA5 =>
    aRanges rows m ++
    ((List.range (mdCols d)).map fun j => (mdBbase d + j * mdBstride d, rowBytes (mBfmt m.mode) (mdK d))) ++
    [(mdMeta d, 576)] ++
    (match m.strip with
      | some o => (m.rowsBelow rows).map fun p => (o + 256 * (16 * m.rank + p), 256)
      | none => [])
  | 0xA6 =>
    ((List.range 64).map fun j => (mdBbase d + j * mdBstride d, rowBytes (mBfmt m.mode) (mdCols d))) ++
    (if mdPgsc d then [(mdMeta d, 576)] else [])
  | _ => []

/-- The scratch that an operation of some members reads or writes. -/
def memRanges (ms : List Member) : List (Nat × Nat) :=
  match ms with
  | [] => []
  | m :: _ => if m.op ≤ 0xA3 then bRanges m ++ ms.flatMap fun m => aRanges (mdRows m.img) m else ms.flatMap attnRanges

/-- Scratch offset of the page metadata's K or V scale exponent (R185). -/
def scaleOff (m : Member) : Nat := mdMeta m.img + if m.op = 0xA5 then 12 else 13

/-- The page metadata's K and V scale exponents (R185). -/
def pageScale (read : Nat → Nat → List Byte) (m : Member) : Int := sgn 8 (leNat (read (scaleOff m) 1))

/-- Has a member an earlier scratch store or atomic to the page's scale that is not performed (R178)? -/
def scaleDue (s : State) (r : Rdv) (m : Member) : Bool :=
  let k := offsetKey (r.blk / 4) r.banks (scaleOff m)
  r.arrs.any fun x => (gAt s x.g).pend.any fun p => p.scratch && p.kind.changes && !p.done && decide (p.id < x.num) &&
    p.accs.any fun a => !a.got && decide (a.pa ≤ k) && decide (k < a.pa + a.n)

/-- The scale exponent of B: BSCALE, or that of the page under PGSC (R185). -/
def bScale (s : State) (o : MatOp) (m : Member) : Int :=
  if mdPgsc m.img then pageScale (opBytes s o 1) m else mdBscale m.img

/-- What the Cinch finds at release. -/
inductive Verdict where
  | go
  /-- An ARST waits for a slot bound to another block (R188). -/
  | hold
  | trap (cause : Nat) (fadr : Nat)
deriving DecidableEq, Repr, Inhabited

/-- The checks of a complete rendezvous whose members agree (R169, R185, R186, R188). The page's scale is read once the
members' earlier stores to it have been performed (R178). An offending offset of 2^32 or more is
reported modulo 2^32, as FADRL holds it (R166; log entry 130, DESIGN CHOICE). OPERAND comes before SCRATCH_RANGE (log entry 149,
DESIGN CHOICE). -/
def verdict (s : State) (r : Rdv) : Verdict :=
  match r.arrs with
  | [] => .hold
  | m :: _ =>
    let c := r.blk / 4
    let size := r.banks.length * 49152
    let x := rowSlot s c (selRow m.sel)
    let mine := x.bound && x.blk == r.blk % 4
    let mat := decide (m.op ≤ 0xA3)
    let ranges := memRanges r.arrs
    if !mat && !(r.arrs.all attnOk) then .trap cOPERAND 0
    else if !mat && m.op != 0xA8 && !mine then .trap cOPERAND 0
    else match offending size ranges with
      | some o => .trap cSCRATCH_RANGE (o % 2 ^ 32)
      | none =>
        let paged := (m.op == 0xA5 || m.op == 0xA6) && mdPgsc m.img
        if paged && (scaleDue s r m || r.banks.any fun k => (bankAt s c k).holds (lastNum r.arrs)) then .hold
        else if paged && pageScale (scrBytes s c r.banks) m == -128 then .trap cOPERAND 0
        else if m.op == 0xA8 && x.bound && !mine then .hold
        else .go

/-- CINCH_RELEASE (R163 step 5): a complete rendezvous is checked; it fails, waits, or is released. -/
def execCinchRelease (c n : Nat) (s : State) : Res :=
  match s.rdvs.find? fun r => r.id == n with
  | none => .next s
  | some r =>
    if !complete s c r then .next s
    else
      let withSlot := match r.arrs with
        | m :: _ => decide (m.op < 0xA7)
        | [] => false
      if !agree withSlot r.arrs then .next (failRdvs s [r])
      else match verdict s r with
        | .trap cause fadr => .next (failAll s r cause (w64 fadr))
        | .hold => .next s
        | .go =>
          if !roomForAll s r || 8 ≤ queueLen s c then .next s
          else
            let op := (r.arrs.head?.map (·.op)).getD 0
            let k := selRow ((r.arrs.head?.map (·.sel)).getD 0)
            let s := if op = 0xA8 then updRow s c k fun x => { x with bound := true, blk := r.blk % 4 } else s
            .next (releaseRdv s r)

/-! The computations (R191 to R196). -/

/-- 1.0, −∞ and log2 e in F32. -/
def one32 : Word := 0x3F800000#32
def ninf32 : Word := 0xFF800000#32

/-- One rounding into F32 under RNE, with its flags. -/
def rnd32 (v : Val) : Nat × Nat := f32.finish 0 false false 0 v

/-- FEXP2 of an F32 encoding, correctly rounded (R97). -/
def exp2of (n : Nat) : Nat × Nat := rnd32 (Fn.eval .exp2 (f32.val n))

/-- The format of stored probabilities (R185). -/
def pFmt (pf : Nat) : Fmt :=
  match pf with
  | 0 => bf16
  | 1 => f16
  | 2 => e4m3
  | _ => e5m2

/-- What an ASCORE row computes from (R191). -/
structure ScoreCtx where
  c : Nat
  cols : Nat
  valid : Nat
  causal : Bool
  pf : Nat
deriving DecidableEq, Repr, Inhabited

/-- The score of one key: −∞ if masked (R191). -/
def score (x : ScoreCtx) (qpos : Nat) (row : List Val) (keys : List (Nat × List (Nat × Val))) (k : Nat)
    (scale : Int) (j : Nat) : Nat × Nat × Bool :=
  match keys[j]? with
  | some (pos, col) =>
    if bit x.valid j && (!x.causal || decide (pos ≤ qpos)) then
      let prod := fun i v => (((row[i]?).getD (Val.nan 0)).mul v).scaled scale
      let (d, f1) := accumF (k / 16) (fun G => groupTerms G prod col) 0
      let (r, f2) := rnd32 ((f32.val x.c).mul (f32.val d))
      (r, f1 ||| f2, true)
    else (ninf32.toNat, 0, false)
  | none => (ninf32.toNat, 0, false)

/-- One row of ASCORE: the new slot, and the flags (R191). -/
def scoreRow (x : RowSlot) (r pf : Nat) (ss : List (Nat × Nat × Bool)) : RowSlot × Nat :=
  let fl := orFlags (ss.map fun e => e.2.1)
  let m' := (rnd32 (ss.foldl (fun acc e => acc.max (f32.val e.1)) (f32.val (x.m r).toNat))).1
  if m' = ninf32.toNat then ((x.setAlpha r one32).setP r (List.replicate 64 0#32), fl)
  else
    let neg := (f32.val m').flip
    let (d, f1) := rnd32 ((f32.val (x.m r).toNat).add 0 neg)
    let (al, f2) := exp2of d
    let ps := ss.map fun e =>
      let (d, f1) := rnd32 ((f32.val e.1).add 0 neg)
      let (y, f2) := exp2of d
      let (p, f3) := (pFmt pf).finish 0 false false 0 (f32.val y)
      (p, if e.2.2 then f1 ||| f2 ||| f3 else 0)
    let vals := ps.map fun e => (pFmt pf).val e.1
    let (rs, f3) := accumF 4 (fun G => (vals.drop (16 * G)).take 16) 0
    let (l, f4) := rnd32 (((f32.val (x.l r).toNat).mul (f32.val al)).add 0 (f32.val rs))
    ((((x.setAlpha r (w32 al)).setP r (ps.map fun e => w32 e.1)).setL r (w32 l)).setM r (w32 m'),
      fl ||| f1 ||| f2 ||| orFlags (ps.map (·.2)) ||| f3 ||| f4)

/-- The score constant c of R191 with its flags. -/
def scoreConst (d : Nat) : Nat × Nat :=
  if mdLog2e d then rnd32 ((f32.val (mdScale d)).mul (f32.val 0x3FB8AA3B)) else (mdScale d, 0)

/-- The keys of a page: position and elements of each slot below COLS (R185). -/
def pageKeys (s : State) (o : MatOp) (m : Member) : List (Nat × List (Nat × Val)) :=
  let d := m.img
  (List.range (mdCols d)).map fun j =>
    (leNat (opBytes s o 1 (mdMeta d + 64 + 4 * j) 4),
     opColumn s o (mBfmt m.mode) (mdK d) false (128 + j) (mdBbase d + j * mdBstride d))

/-- ASCORE for one member: the slot, the scores of its rows, and the flags (R190, R191). -/
def scoreMember (s : State) (o : MatOp) (m : Member) (x : RowSlot) : RowSlot × List (Nat × List Nat) × Nat :=
  let d := m.img
  let (c, fc) := scoreConst d
  let sc : ScoreCtx := ⟨c, mdCols d, leNat (opBytes s o 1 (mdMeta d) 8), mdCausal d, mdPfmt d⟩
  let keys := pageKeys s o m
  let scale := mdAscale d + bScale s o m
  (m.rowsBelow (rowLimit m)).foldl (fun acc p =>
    let (x, out, fl) := acc
    let r := 16 * m.rank + p
    let row := opRow s o (mAfmt m.mode) (mdK d) r (mdAbase d + atT m.xs p * mdAstride d)
    let ss := (List.range 64).map (score sc (atT m.xs (16 + p)) row keys (mdK d) scale)
    let (x, f) := scoreRow x r (mdPfmt d) ss
    (x, out ++ [(r, ss.map (·.1))], fl ||| f ||| fc)) (x, [], 0)

/-- ASCORE (R191, R192): the row state, the other rows' ALPHA and P, the strips. -/
def performScore (s : State) (o : MatOp) : State :=
  let m0 := (o.mem.head?).getD default
  let k := selRow m0.sel
  let lim := rowLimit m0
  let (x, outs, ms) := o.mem.foldl (fun (acc : RowSlot × List (Member × List (Nat × List Nat)) × List Member) m =>
    let (x, outs, ms) := acc
    let (x, out, fl) := scoreMember s o m x
    (x, outs ++ [(m, out)], ms ++ [{ m with fl := fl }])) (rowSlot s o.core k, [], [])
  let x := ((List.range 96).filter fun r => decide (lim ≤ r)).foldl (fun x r =>
    (RowSlot.setAlpha x r one32).setP r (List.replicate 64 0#32)) x
  let s := updRow s o.core k fun _ => { x with pf := mdPfmt m0.img }
  let keys := outs.flatMap fun e => match e.1.strip with
    | some off => e.2.flatMap fun row => (List.range 16).map fun i => (offsetKey o.core o.banks (off + 256 * row.1 + 16 * i), 0#8)
    | none => []
  let s := { noteScratch s o.core none keys with mxq := s.mxq }
  let s := outs.foldl (fun s e => match e.1.strip with
    | some off => e.2.foldl (fun s row =>
        scrPut s o.core o.banks (off + 256 * row.1) (row.2.flatMap fun n => leBytes 4 n)) s
    | none => s) s
  putOp s { o with mem := ms, perf := true }

/-- AVACC for one member: P is decoded under the PF that the slot has as the operation is performed (R193, R198). -/
def vaccMember (s : State) (o : MatOp) (x : RowSlot) (m : Member) : Member :=
  let d := m.img
  let scale := bScale s o m
  let bf := mBfmt m.mode
  let vrows := (List.range 64).map fun j =>
    opBytes s o (8192 * (128 + j) + j / 16) (mdBbase d + j * mdBstride d) (rowBytes bf (mdCols d))
  (m.rowsBelow (rowLimit m)).foldl (fun m p =>
    let r := 16 * m.rank + p
    (List.range (mdCols d)).foldl (fun m c =>
      let key := tileKey (m.frag.getD 0) p c
      let col := (List.range 64).map fun j => (j, rowElem bf ((vrows[j]?).getD []) c)
      let prod := fun j v => (((pFmt x.pf).val (x.pAt r j).toNat).mul v).scaled scale
      let (a0, f0) := rnd32 ((f32.val (accValue s m.g key).toNat).mul (f32.val (x.alpha r).toNat))
      let (y, f1) := accumF 4 (fun G => groupTerms G prod col) a0
      { m with res := Store.ins m.res key (w32 y), fl := m.fl ||| f0 ||| f1 }) m) m

/-- a / b before rounding (R85). A non-zero number divided by zero is an infinity with DZ, which AFIN meets where L is -0 (R194;
log entry 150, DESIGN CHOICE). -/
def Val.div (a b : Val) : Val :=
  match a, b with
  | .nan f, _ => .nan f
  | _, .nan f => .nan f
  | .inf _ _, .inf _ _ => .nan fNV
  | .inf n _, .fin y => .inf (n != y.neg) 0
  | .fin x, .inf n _ => .fin ⟨x.neg != n, 0, 0, false⟩
  | .fin x, .fin y =>
    if y.m = 0 then (if x.m = 0 then .nan fNV else .inf (x.neg != y.neg) fDZ)
    else
      let k := bitLen y.m + 64
      .fin ⟨x.neg != y.neg, x.m * 2 ^ k / y.m, x.e - y.e - k, x.m * 2 ^ k % y.m != 0⟩

/-- AFIN for one member (R194). -/
def finMember (s : State) (x : RowSlot) (m : Member) : Member :=
  let base := m.frag.getD 0
  (List.range 16).foldl (fun m p =>
    let r := 16 * m.rank + p
    let zero := decide (x.l r = 0#32)
    let lam := if zero then (ninf32.toNat, 0)
      else rnd32 ((f32.val (x.m r).toNat).add 0
        (f32.val (rnd32 (Fn.eval .log2 (f32.val (x.l r).toNat))).1))
    let m := (List.range 128).foldl (fun (m : Member) c =>
      let key := tileKey base p c
      let (y, f) := if zero then (0, 0)
        else rnd32 ((f32.val (accValue s m.g key).toNat).div (f32.val (x.l r).toNat))
      { m with res := Store.ins m.res key (w32 y), fl := m.fl ||| f }) m
    match m.out with
    | some v => { m with res := Store.ins m.res (32 * v + p) (w32 lam.1), fl := m.fl ||| lam.2 }
    | none => { m with fl := m.fl ||| lam.2 }) m

/-- ARST (R195). -/
def restRow (x : RowSlot) (ms : List Member) : RowSlot :=
  let x := (List.range 96).foldl (fun x r =>
    (((RowSlot.setM x r ninf32).setL r 0#32).setAlpha r one32).setP r (List.replicate 64 0#32)) { x with pf := 0 }
  ms.foldl (fun x m =>
    if m.xs.isEmpty then x
    else (List.range 16).foldl (fun x p =>
      (RowSlot.setM x (16 * m.rank + p) (w32 (atT m.xs p))).setL (16 * m.rank + p) (w32 (atT m.ys p))) x) x

/-- AROW for one member (R196). -/
def rowMember (x : RowSlot) (m : Member) : Member :=
  let v := m.out.getD 0
  (List.range 16).foldl (fun m p =>
    let r := 16 * m.rank + p
    { m with res := Store.ins (Store.ins m.res (32 * v + p) (x.m r)) (32 * (v + 1) + p) (x.l r) }) m

/-- Performs an operation of the engine queue, on the row-state slot as it stands then (R176, R197, R198). -/
def performOp (s : State) (o : MatOp) : State :=
  let k := selRow ((o.mem.head?.map (·.sel)).getD 0)
  let x := rowSlot s o.core k
  let put (ms : List Member) := putOp s { o with mem := ms, perf := true }
  match o.op with
  | 0xA2 | 0xA3 => put (o.mem.map (mmaTile s o))
  | 0xA4 => put (o.mem.map mzroTile)
  | 0xA5 => performScore s o
  | 0xA6 => put (o.mem.map (vaccMember s o x))
  | 0xA7 => put (o.mem.map (finMember s x))
  | 0xA8 => updRow (put o.mem) o.core k fun x => restRow x o.mem
  | _ => put (o.mem.map (rowMember x))

/-- MXE_QUEUE_PERFORM (R176): the first operation of the queue not yet performed. -/
def execMxeQueuePerform (c : Nat) (s : State) : Res :=
  match s.mxq.find? fun o => o.core == c && !o.perf with
  | none => .next s
  | some o => .next (if engineHeld s o then s else markRead (performOp (if o.olds.isEmpty then s else spend s) o) o)

/-- ATTENTION_OP_COMPLETE (R199): an AFIN with REL frees its slot with its last member (R188). -/
def execAttentionOpComplete (c n g : Nat) (s : State) : Res :=
  .next (completeMember s n g (fun o => o.core == c && decide (0xA5 ≤ o.op)) fun o s =>
    let s := pmcCount s (clusterPmcs (c / 16)) 0x20 1
    match o.mem with
    | m :: _ => if o.op = 0xA7 && bit m.sel 4 then unbindRow s c (selRow m.sel) else s
    | [] => s)

end Sys2Proof.Machine
end

