-- ==== Sys2Proof/Machine/Home.lean ====
section
/-! DEFINITION. What the homes do (R213, R248), where accesses of the host act (R452), the page walk (R346), invalidations
(R352), the fault batches (R277 to R279), migration (R220, R356) and far-memory extents (R217, R218). -/

namespace Sys2Proof.Machine

/-- Does a byte lie in the event table of a context, in the pages that its launch found (R309, R310)? -/
def inEventTable (c : Ctx) (pa : Nat) : Bool :=
  let lo := c.evbase.toNat
  (List.range c.evpages.length).any fun i =>
    let p := (c.evpages[i]?).getD 0
    let va := (lo / frameBytes + i) * frameBytes + (pa - p)
    decide (p ≤ pa) && decide (pa < p + frameBytes) && decide (lo ≤ va) && decide (va < lo + 8 * 2 ^ c.evlog)

/-- Software wrote into the event table of a context that runs: what its entries then hold is open (R310),
so the entries written, at the places that `to_` gives their bytes, take free values (log entry 3, DESIGN CHOICE). -/
def openEvents (s : State) (to_ : Nat → Nat) (pas : List Nat) : State :=
  let hit := pas.filter fun pa => s.ctxs.any fun c => (c.2.st == 1 || c.2.st == 2) && inEventTable c.2 pa
  (distinct (hit.map (· / 8))).foldl (fun s e =>
    spend (memPut s (to_ (8 * e)) (leBytes 8 (freeHere s)))) s

/-- Marks the accesses of an operation that a request carries: those of `as` take its values. -/
def markAccs (s : State) (r : HomeReq) (as : List Acc) (fl t : Nat) : State :=
  match r.own with
  | none => s
  | some (g, id) => updPend s g id fun p =>
      { p with accs := p.accs.map fun a =>
                 if r.accs.any fun c => c.t == a.t then (as.find? fun c => c.t == a.t).getD { a with got := true } else a
               fl := p.fl ||| fl, time := Nat.max p.time t }

/-- The threads' atomics of a request in ascending order: the new memory, the old words, the flags. -/
def atomicsAt (s : State) (r : HomeReq) : State × List Acc × Nat :=
  r.accs.foldl (fun acc a =>
    let (s, as, fl) := acc
    let pa := r.place s a.pa
    let old := w32 (memNat s pa 4)
    let (n, f) := atomicNew r.op r.ftype old a.x a.y
    (memPut s pa (leBytes 4 n.toNat), as ++ [{ a with got := true, bs := leBytes 4 old.toNat }], fl ||| f)) (s, [], 0)

/-- The AMAXR and SCALEQ accesses of a request (R91, R156). -/
def amaxAt (s : State) (r : HomeReq) (scale : Bool) : State × List Acc :=
  r.accs.foldl (fun acc a =>
    let (s, as) := acc
    let pa := r.place s a.pa
    let e := memNat s pa 96
    if scale then (s, as ++ [{ a with got := true, bs := leBytes 4 (amaxScale e r.op).toNat }])
    else
      let n := if a.y = 1#32 then amaxAdvance e else amaxRecord e a.x
      (memPut s pa (leBytes 96 n), as ++ [{ a with got := true }])) (s, [])

/-- An earlier request of the same block to the same line is still on its way. -/
def homeBlocked (s : State) (r : HomeReq) : Bool :=
  s.hw.any fun q => decide (q.id < r.id) && q.at_ s == r.at_ s && q.blk == r.blk

/-- LCT of a block rises to a returned completion time (R239). -/
def raiseLct (s : State) (blk : Option Nat) (t : Nat) : State :=
  match blk with
  | some b => updB s b fun x => { x with lct := Nat.max x.lct t }
  | none => s

/-- The chips of a TXW entry's destination set (R360). -/
def txwDests (s : State) (slot e : Nat) : List Nat :=
  if bit e 189 then
    let m := Store.get s.mcast (64 * slot + bits e 101 96)
    (List.range 1024).filter fun c => bit m c
  else distinct ((List.range (Nat.min (bits e 188 185) 8)).map fun i => bits e (96 + 10 * i + 9) (96 + 10 * i))

/-- The send or receive record of a context and peer (R364). -/
def pathOf (s : State) (ctxid peer : Nat) (recv : Bool) : Option Nat :=
  (s.paths.find? fun e => e.2.used && e.2.ctx == ctxid && e.2.peer == peer && e.2.recv == recv).map (·.1)

def pathAt (s : State) (k : Nat) : Path := Store.get s.paths k
def updPath (s : State) (k : Nat) (f : Path → Path) : State := { s with paths := Store.upd s.paths k f }

/-- The fate a closed path gives a write toward a chip (R242): none while it can be sent. -/
def pathFate (s : State) (ctxid peer : Nat) : Option Nat :=
  match pathOf s ctxid peer false with
  | none => some 3
  | some k => match (pathAt s k).st with
    | 2 => some 3
    | 3 => some 2
    | _ => none

/-- Hands a write to the reflector (R262); a destination whose path is down or shut takes it no more
(R365). -/
def reflect (s : State) (w : ReflWrite) (dests : List Nat) : State :=
  let lost := dests.filterMap fun d => (pathFate s w.ctx d).map fun c => (d, c)
  let todo := dests.filter fun d => (pathFate s w.ctx d).isNone
  { s with refl := s.refl ++ [{ w with id := s.nextId, order := s.nextId, todo := todo, lost := lost }], nextId := s.nextId + 1 }

/-- Path writes handed to the reflector and not forwarded to a chip. -/
def egressOf (s : State) (ctxid peer : Nat) : Nat :=
  (s.refl.filter fun w => w.ctx == ctxid && w.todo.contains peer).length

/-- Writes of 192 bytes that a send path holds for certain: the 1,536 bytes of R280, and as many of a reserve entry in use
(R282). -/
def egressOwn (s : State) (path : Nat) : Nat := 8 + 8 * b2n (s.reserve.contains (8 * path + 3))

/-- May the path queues of these destinations take `n` more writes each: what a path holds beyond its own share, and
every share itself, lie in a buffer of 12 MiB, 65,536 writes (R280)? A closed path holds none. -/
def egressRoom (s : State) (ctxid : Nat) (dests : List Nat) (n : Nat) : Bool :=
  let ps := s.paths.filter fun p => p.2.used && !p.2.recv
  let after (p : Nat × Path) : Nat := egressOf s p.2.ctx p.2.peer + if p.2.ctx == ctxid && dests.contains p.2.peer then n else 0
  (ps.all fun p => !(p.2.ctx == ctxid && dests.contains p.2.peer && p.2.st < 2) || decide (after p ≤ egressOwn s p.1)) ||
    decide (ps.foldl (fun t p => t + (after p - egressOwn s p.1)) 0 + 8 * ps.length ≤ 65536)

/-- What becomes of a window write at its performance (R361, R369): the live entry's image and its
destinations, if it is forwarded; the offset within the window. -/
def windowFate (s : State) (r : HomeReq) : Option (Nat × Nat × List Nat × Nat) :=
  match r.win, r.own with
  | some (i, va), some (g, _) =>
    let e := Store.get s.txw i
    let slot := (gAt s g).ctx
    if txwState e = 1 && txwCtx e = ctxidOf s slot && txwPage e * frameBytes ≤ va
        && va < (txwPage e + txwNpage e) * frameBytes then
      some (i, e, txwDests s slot e, va - txwPage e * frameBytes)
    else none
  | _, _ => none

/-- Is a window write held by a full path queue (R280)? -/
def windowHeld (s : State) (r : HomeReq) : Bool :=
  match windowFate s r with
  | some (_, e, ds, _) => !egressRoom s (txwCtx e) ds (if r.op = 0 then 1 else r.accs.length)
  | none => false

/-- Hands a performed window write, or the reductions of a request, to the reflector (R262, R372). -/
def handOver (s : State) (r : HomeReq) (fate : Option (Nat × Nat × List Nat × Nat)) (t : Nat) : State :=
  match fate, r.own with
  | some (i, e, ds, v), some (g, op) =>
    let base : ReflWrite := { (default : ReflWrite) with
      g := g, op := op, ent := i, img := e, time := t, slice := (homeOf (r.at_ s)).1, v := v, ctx := txwCtx e }
    if r.op = 0 then reflect s { base with bytes := (storeBytes r.accs).map fun b => (lineOff b.1, b.2) } ds
    else r.accs.foldl (fun s a => reflect s { base with red := r.op, x := a.x, bytes := [(lineOff a.pa, 0#8)] } ds) s
  | _, _ => s

/-- A block's write touches sectors of a line of far memory (R215, R240). -/
def farNote (s : State) (blk : Option Nat) (line m : Nat) : State :=
  match blk with
  | some b =>
    if line / 2 ^ 48 = 1 then
      updL2 s line fun x => { x with farBy := if x.farBy.contains (b, m) then x.farBy else x.farBy ++ [(b, m)] }
    else s
  | none => s

/-- Words of physical memory are about to be written by a block: its ACTIVE streamer commands may still read what they
held (R257). -/
def noteGlobal (s : State) (blk : Option Nat) (pas : List Nat) : State :=
  let reads (m : Cmd) : Bool := m.active && !m.moved && !bit m.sel 2 && some (blkOf m.g) == blk
  if s.strq.any fun q => q.2.any reads then
    let now := (distinct (pas.map (· / 16))).map fun w => (2 ^ 60 + w, memBytes s (16 * w) 16)
    { s with strq := s.strq.map fun q =>
        (q.1, q.2.map fun m => if reads m then { m with olds := addOlds m.olds now } else m) }
  else s

/-- A request meets its line at the home (R213, R214, R405). -/
def reqMeet (s : State) (r : HomeReq) : State :=
  match r.blk with
  | some b => homeMeet s b (match r.own with
      | some (g, _) => (gAt s g).ctx
      | none => 0) (r.dest.getD r.line) r.accs
  | none => s

/-- The home performs a request's change of some bytes of its line, as `go` makes it: a write, with the sectors it touches
(R213, R215, R248). Answers the completion time. -/
def changeLine (s : State) (r : HomeReq) (pas : List Nat) : State × Nat :=
  let line := r.at_ s
  let m := sectorsOf (pas.map lineOff)
  let (s, t) := perform (noteGlobal s r.blk (pas.map (r.place s))) (r.dest.getD r.line) []
  (farNote (if isHostLine line then s else updL2 s line fun x => { x with dirty := x.dirty ||| m }) r.blk line m, t)

/-- Performs one request (R248); SCALEQ counts as an atomic (R155). A write-back carries no leaf and pins no line (R214; log entry 136, DEDUCED). -/
def homePerform (s : State) (r : HomeReq) : State :=
  let s := reqMeet { s with hw := s.hw.filter fun q => q.id != r.id } r
  match r.kind with
  | .masked =>
    let fate := windowFate s r
    let pas := r.bytes.map (·.1)
    let (s, t) :=
      if r.op = 0 then
        let (s, t) := changeLine s r pas
        (openEvents (r.bytes.foldl (fun s b => memPut s (r.place s b.1) [b.2]) s) (r.place s) pas, t)
      else (s, completion s (r.at_ s))
    raiseLct (handOver (markAccs s r [] 0 t) r fate t) r.blk t
  | .atomic =>
    let (s, t) := changeLine s r (r.accs.map (·.pa))
    let (s, as, fl) := atomicsAt s r
    raiseLct (markAccs (openEvents s (r.place s) (r.accs.map (·.pa))) r as fl t) r.blk t
  | .amax =>
    let scale : Bool := match r.own with
      | some (g, id) => (findPend (gAt s g) id).any fun (p : Pend) => decide (p.kind = .scaleq)
      | none => false
    let pas := r.accs.flatMap fun (a : Acc) => (List.range 96).map (a.pa + ·)
    let (s, t) := changeLine s r (if scale then [] else pas)
    let (s, as) := amaxAt s r scale
    raiseLct (markAccs s r as 0 t) r.blk t

/-- HOME_WRITE (R248): the home performs a request and assigns its completion time. -/
def execHomeWrite (id : Nat) (s : State) : Res :=
  match s.hw.find? fun r => r.id == id with
  | none => .next s
  | some r => .next (if homeBlocked s r || windowHeld s r then s else homePerform s r)

/-! Accesses of the host. -/

/-- Do bytes lie in HBM frames that exist: those that the part exposes to the host (R452)? -/
def hostRange (s : State) (pa n : Nat) : Bool :=
  decide (pa + n ≤ 2 ^ 50) &&
  (List.range ((pa + n) / frameBytes + 1 - pa / frameBytes)).all fun i =>
    decide (pa + n ≤ (pa / frameBytes + i) * frameBytes) || frameFate s 0 (pa / frameBytes + i) == 1

/-- Where an access of the host acts: at its own address, or, from 2^52 on, through BAR4 at APBASE, in aligned 16-byte
accesses only (R453, R457; log entry 118, DESIGN CHOICE, for the 2^52). -/
def hostPlace (s : State) (pa n : Nat) : Option Nat :=
  let to_ := if pa < 2 ^ 52 then pa else s.apbase * 2 ^ 36 + (pa - 2 ^ 52)
  if (decide (pa < 2 ^ 52) || (n == 16 && pa % 16 == 0 && decide (pa - 2 ^ 52 < 2 ^ 36))) && hostRange s to_ n then some to_
  else none

/-! Translation caches. -/

/-- How many entries of a kind a cache has room for: leaves of a core, of a cluster, of an engine; a cluster's pointers
(R350). -/
def cacheRoom (cache kind : Nat) : Nat :=
  if 3 ≤ kind then (if 512 ≤ cache && cache < 544 then 256 else 0)
  else if cache < 512 then 64 else if cache < 544 then 4096 else 512

/-- A cache takes an entry, in place of one that it chooses when it is full (R350). -/
def cacheEntry (s : State) (x : TlbEnt) : State :=
  let held := s.tlb.filter fun e => e.cache == x.cache && decide (3 ≤ e.kind) == decide (3 ≤ x.kind)
  if s.tlb.contains x || cacheRoom x.cache x.kind = 0 then s
  else if held.length < cacheRoom x.cache x.kind then { s with tlb := s.tlb ++ [x] }
  else match pickOf s held with
    | some v => spend { s with tlb := s.tlb.filter (· != v) ++ [x] }
    | none => s

/-- PAGE_WALK (R346, R350): a cache takes the entries that a walk for a page of a context slot finds; the
pointers go to the cluster's walk cache. -/
def execPageWalk (cache slot page : Nat) (s : State) : Res :=
  let at_ (kind : Nat) : Nat := if 3 ≤ kind && cache < 512 then 512 + cache / 16 else cache
  .next (if 2 ^ 36 ≤ page then s else
    (walkFrom s cache slot page).keep.foldl (fun s e => cacheEntry s ⟨at_ e.1, ctxidOf s slot, e.1, e.2.1, e.2.2⟩) s)

/-- A translation cache drops an entry of its own accord (R350). -/
def forgetEntry (s : State) (k : Nat) : State := { s with tlb := s.tlb.eraseIdx k }

/-- Does an entry lie in what an invalidation drops (R351)? -/
def Inv.drops (i : Inv) (e : TlbEnt) : Bool :=
  let overlap (lo n : Nat) : Bool := decide (0 < i.count) && decide (lo < i.page + i.count) && decide (i.page < lo + n)
  match i.kind with
  | 0 =>
    e.ctx == i.ctx && (match e.kind with
      | 0 => overlap e.base 1
      | 1 => overlap (32 * e.base) 32
      | 2 => overlap (4096 * e.base) 4096
      | 3 => i.walk && overlap (2 ^ 24 * e.base) (2 ^ 24)
      | _ => i.walk && overlap (4096 * e.base) 4096)
  | 1 => e.ctx == i.ctx
  | _ => true

/-- Is there an access, translated before the invalidation reached the caches, not yet performed (R352)? -/
def invPending (s : State) (i : Inv) : Bool :=
  (s.groups.any fun g => (i.kind == 2 || ctxidOf s g.2.ctx == i.ctx) &&
    g.2.pend.any fun p => decide (p.id < i.bound) && p.kind.counted && !p.scratch &&
      (p.accs.any (fun a => !a.got) || (p.kind == .pgreq && recWaiting s (g.1, 8 + p.id)))) ||
  s.kvq.any fun q => q.2.any fun m =>
    m.acc && !m.perf && decide (m.id < i.bound) && (i.kind == 2 || ctxidOf s m.ctx == i.ctx)

/-- Pins made through a PL bit that the tables no longer set are removed (R214). -/
def unpinCleared (s : State) (i : Inv) : State :=
  { s with l2 := s.l2.map fun e =>
      let slot := e.2.pin - 1
      let page := e.2.pinPage - 1
      let inRange := i.kind != 0 || (decide (i.page ≤ page) && decide (page < i.page + i.count))
      if e.2.pin != 0 && e.2.pinPage != 0 && (i.kind == 2 || ctxidOf s slot == i.ctx) && inRange then
        match (walk s (ctxAt s slot).ptroot.toNat page).tr with
        | .ok l => if l.pl && lineOf (paOf l.space l.frame 0) / 512 == e.1 / 512 then e
            else (e.1, { e.2 with pin := 0, pinPage := 0 })
        | _ => (e.1, { e.2 with pin := 0, pinPage := 0 })
      else e }

/-- Posts an invalidation; answers its number. -/
def postInv (s : State) (i : Inv) : State × Nat :=
  ({ s with invs := s.invs ++ [{ i with id := s.nextId }], nextId := s.nextId + 1 }, s.nextId)

/-- The request of R351 as posted, or none if it is refused. -/
def invOf (w : Nat) : Option Inv :=
  if bits w 127 115 != 0 || bits w 63 36 != 0 || bits w 113 112 == 3 then none
  else some { (default : Inv) with
    kind := bits w 113 112, ctx := bits w 111 96, page := bits w 35 0, count := bits w 95 64, walk := bit w 114 }

/-- INVALIDATION_COMPLETE (R352): the request reaches every cache; it completes when every access made with
a dropped entry has been performed. -/
def execInvalidationComplete (id : Nat) (s : State) : Res :=
  match s.invs.find? fun i => i.id == id with
  | none => .next s
  | some i =>
    let i' := if i.reached then i else { i with reached := true, bound := s.nextId }
    let s := if i.reached then s else { s with tlb := s.tlb.filter fun e => !i.drops e }
    if invPending s i' then .next { s with invs := s.invs.map fun x => if x.id == id then i' else x }
    else
      let s := unpinCleared { s with invs := s.invs.filter fun x => x.id != id } i'
      .next (match i.own with
        | some (g, op) => dropPend s g op
        | none => s)

/-! Fault batches (R277 to R279). -/

/-- FAULT_BATCH_TIMEOUT and FAULT_BATCH_FULL (R277): one batch at a time is delivered; the second is due where FQCNT was
lowered below the records of the open batch. -/
def execFaultBatchTimeout (s : State) : Res :=
  .next (if batchTimed s && s.fq.deliver.isEmpty then closeBatch s else s)
def execFaultBatchFull (s : State) : Res :=
  .next (if batchFull s && s.fq.deliver.isEmpty then closeBatch s else s)

/-- Writes ranges while the delivery ring has room. -/
def deliverRanges (s : State) : Nat → State
  | 0 => s
  | n + 1 =>
    match s.fq.deliver with
    | bs :: rest =>
      if s.fring.room then
        let (pa, r) := s.fring.place
        deliverRanges (homePut { s with fring := r, fq := { s.fq with deliver := rest } } pa bs) n
      else s
    | [] => s

/-- FAULT_DELIVERY (R279): ranges go into the ring as room allows; the last one signals vector 0, and the
records' room is free again. An open batch that is due then closes at once (R277). -/
def execFaultDelivery (s : State) : Res :=
  if s.fq.deliver.isEmpty then .next s
  else
    let s := deliverRanges s s.fq.deliver.length
    if !s.fq.deliver.isEmpty then .next s
    else
      let s := interrupt { s with fq := { s.fq with held := 0 } } 0
      let s := if batchTimed s || batchFull s then closeBatch s else s
      .next (acceptWaiting s s.fq.waiting.length)

/-- FQHEAD_WRITE (R279), VRHEAD_WRITE (R422) and LERHEAD_WRITE (R451): the driver frees entries. -/
def fqhead (v : Word) (s : State) : Res :=
  .next { s with fring := { s.fring with head := v } }
def vrhead (v : Word) (s : State) : Res :=
  let s := { s with vring := { s.vring with head := v } }
  .next (ringFlush s 1 s.vring.buf.length)
def lerhead (v : Word) (s : State) : Res :=
  let s := { s with lring := { s.lring with head := v } }
  .next (ringFlush s 2 s.lring.buf.length)

/-! Migration (R219, R220). -/

def migAt (s : State) (k : Nat) : Mig := Store.get s.migs k
def updMig (s : State) (k : Nat) (f : Mig → Mig) : State := { s with migs := Store.upd s.migs k f }

/-- The bytes of a line of a frame. -/
def frameLine (tier frame l : Nat) : Nat :=
  let (sp, f) := spaceOf tier frame
  sp * 2 ^ 48 + f * 512 + l

/-- A migration's write at a home: its completion time counts for the end of the migration (R258). -/
def migWrite (s : State) (k : Nat) (bs : List (Nat × Byte)) : State :=
  let (s, t) := performAll s bs
  updMig s k fun m => { m with time := Nat.max m.time t }

/-- Copies lines of the source frame to the destination at the homes. -/
def copyLines (s : State) (k : Nat) (ls : List Nat) : State :=
  let m := migAt s k
  ls.foldl (fun s l =>
    let src := frameLine m.stier m.sframe l
    migWrite s k (bytesAt (linePa (frameLine m.dtier m.dframe l)) (memBytes s (linePa src) 192))) s

/-- The lines of a filter. -/
def linesOf (f : Nat) : List Nat := (List.range 512).filter fun l => bit f l

/-- The page-table entry of a migration, and a new value of it at its home. -/
def migPte (s : State) (k : Nat) : Nat := homeNat s ((migAt s k).ptea % 2 ^ 52) 8
def putPte (s : State) (k e : Nat) : State := migWrite s k (bytesAt ((migAt s k).ptea % 2 ^ 52) (leBytes 8 e))

/-- An entry with MIG set or cleared (R347). -/
def withMig (e : Nat) (b : Bool) : Nat := e - b2n (bit e 7) * 2 ^ 7 + b2n b * 2 ^ 7

/-- The entry once its page lies in a migration's destination: FRAME, and TIER with it (R220; log entry 119, DEDUCED), and MIG
change (R347). -/
def movedPte (m : Mig) (e : Nat) : Nat :=
  e % 2 ^ 6 + m.dtier * 2 ^ 6 + e / 2 ^ 8 % 2 ^ 4 * 2 ^ 8 + m.dframe % 2 ^ 36 * 2 ^ 12 + e / 2 ^ 48 * 2 ^ 48

/-- Are both frames of a migration usable (R220)? -/
def migFrames (s : State) (m : Mig) : Bool :=
  checkFrame s m.stier m.sframe == 1 && checkFrame s m.dtier m.dframe == 1

/-- Ends a migration with a result (R220): 1 DONE, 2 ABANDONED, 3 FAULT. -/
def migEnd (s : State) (k r : Nat) : State := updMig s k fun m => { m with phase := 5, result := r }

/-- Ends a migration that leaves the source in use: MIG is cleared (R220). -/
def migStop (s : State) (k r : Nat) : State := migEnd (putPte s k (withMig (migPte s k) false)) k r

/-- The command that an engine's queue holds next (R256). -/
def tceHead (s : State) (k : Nat) : Option TceCmd := (Store.get s.tceq k).head?
def tceNext (s : State) (k : Nat) : State := { s with tceq := Store.upd s.tceq k List.tail }

/-- Is a tensor copy engine free to begin the command at the head of its queue? -/
def tceIdle (s : State) (k : Nat) : Bool := (migAt s k).phase == 0

/-- A migration begins: the source is copied, unless the command or a frame is bad or the entry already has MIG set (R219,
R220, R356). A command with a non-zero reserved bit ends with FAULT (R5, R219; log entry 153, DESIGN CHOICE). -/
def migStart (s : State) (k slot w : Nat) : State :=
  let m : Mig := { (default : Mig) with
    phase := 2, slot := slot, stier := bits w 78 78, sframe := bits w 115 79, dtier := bits w 153 153
    dframe := bits w 152 116, ptea := bits w 223 160, event := bits w 255 224, retry := bits w 159 156 }
  let s := updMig s k fun _ => m
  if bits w 77 0 != 0 || bits w 155 154 != 0 || bit (migPte s k) 7 || !migFrames s m then migEnd s k 3
  else copyLines (putPte s k (withMig (migPte s k) true)) k (List.range 512)

/-- An idle engine begins the migration at the head of its queue. -/
def tceStart (s : State) (k : Nat) : State :=
  match tceHead s k with
  | some c => if c.mig && tceIdle s k then migStart (tceNext s k) k c.slot c.cmd else s
  | none => s

/-- MIGRATE (R219): a command is posted to a tensor copy engine, which performs its commands in order (R256). -/
def execMigrate (tce slot : Nat) (cmd : BitVec 256) (s : State) : Res :=
  if 32 ≤ tce then .next s
  else .next (tceStart { s with tceq := Store.upd s.tceq tce fun q => q ++ [⟨true, slot, 0, cmd.toNat⟩] } tce)

/-- One round of the copying (R220): the lines written since are copied again, up to RETRY times. -/
def migRound (s : State) (k : Nat) : State :=
  let m := migAt s k
  if !migFrames s m then migStop s k 3
  else if m.filter = 0 then updMig s k fun m => { m with phase := 3 }
  else if m.tries = m.retry then migStop s k 2
  else copyLines (updMig s k fun x => { x with filter := 0, tries := x.tries + 1 }) k (linesOf m.filter)

/-- Redirects every line (R220): a line dirtied since is copied, LEASEMAX goes to the destination. -/
def redirectAll (s : State) (k : Nat) : State :=
  let m := migAt s k
  let s := copyLines s k (linesOf m.filter)
  let s := (List.range 512).foldl (fun s l =>
    let src := frameLine m.stier m.sframe l
    let lm := Nat.max (l2At s src).leasemax (Store.get s.evmax (setOf src))
    if lm = 0 then s else updL2 s (frameLine m.dtier m.dframe l) fun x => { x with leasemax := Nat.max x.leasemax lm }) s
  updMig s k fun m => { m with moved := 2 ^ 512 - 1, filter := 0 }

/-- Do the redirects of a migration still serve a line of an L1: one of the old frame with dirty bytes, whose write-back they
forward (R353), or with sectors under a lease that has not passed (R221; log entry 53, DEDUCED)? -/
def redirectNeeded (s : State) (m : Mig) : Bool :=
  s.l1.any fun e => e.2.v && e.2.line / 512 == frameLine m.stier m.sframe 0 / 512 &&
    (e.2.dirty != 0 || (e.2.sv != 0 && decide (s.gt < e.2.lease)))

/-- The redirects of a migration end (R220): requests still on their way keep the lines they were redirected to. -/
def endRedirects (s : State) (k : Nat) : State :=
  let keep (r : HomeReq) : HomeReq := if r.at_ s = r.dest.getD r.line then r else { r with dest := some (r.at_ s) }
  migEnd { s with hw := s.hw.map keep } k 1

/-! Far memory (R217, R218). -/

/-- Tier-1 frames held by extents. -/
def farUsed (s : State) (f : Nat) : Bool := s.exts.any fun e => decide (e.2.first ≤ f) && decide (f < e.2.first + e.2.n) && e.2.st != 0

/-- The lowest tier-1 number from which `n` frames are free (R217): 0, or the end of an extent. A smaller hole below is passed
over (log entry 161, DESIGN CHOICE). -/
def farFirst (s : State) (n : Nat) : Option Nat :=
  let cands := sortBy id (0 :: s.exts.map fun e => e.2.first + e.2.n)
  cands.find? fun f => s.exts.all fun e =>
    e.2.st == 0 || decide (f + n ≤ e.2.first) || decide (e.2.first + e.2.n ≤ f)

/-- A message to the fabric manager about an extent (R217, R218): 0 accepted, with the bytes that yield no frame, 1 rejected,
2 released (log entry 135, DESIGN CHOICE, for its form). -/
def dcdSay (s : State) (kind port base len rest tag : Nat) : State :=
  { s with out := s.out ++ [(98, leBytes 8 (kind + port * 2 ^ 8) ++ leBytes 8 base ++ leBytes 8 len ++ leBytes 8 rest ++ leBytes 16 tag)] }

/-- DCD_ADD_CAPACITY (R217): an extent at one of the two far ports (R2) is accepted as whole frames from its base, or
rejected. A force-released extent keeps its numbers and counts towards both limits (log entry 162, DESIGN CHOICE). -/
def execDcdAddCapacity (port base len tag : Nat) (s : State) : Res :=
  let n := len / frameBytes
  let total := s.exts.foldl (fun t e => t + e.2.n) 0
  if 2 ≤ port then .next s
  else match (List.range 4096).find? fun k => (Store.get s.exts k).st == 0, farFirst s n with
    | some k, some f =>
      if 89478485 < total + n then .next (dcdSay s 1 port base len 0 tag)
      else .next (dcdSay { s with exts := Store.set s.exts k ⟨1, port, base, len, tag, f, n, false⟩ } 0 port base len (len % frameBytes) tag)
    | _, _ => .next (dcdSay s 1 port base len 0 tag)

/-- The dirty sectors of an extent's lines at the homes. -/
def extLines (s : State) (e : Extent) : List (Nat × L2Line) :=
  s.l2.filter fun l => l.1 / 2 ^ 48 == 1 && decide (e.first ≤ l.1 % 2 ^ 48 / 512) && decide (l.1 % 2 ^ 48 / 512 < e.first + e.n)

/-- Lines leave their slices, EVMAX rising to their leases (R213). -/
def dropLines (s : State) (ls : List (Nat × L2Line)) : State :=
  ls.foldl (fun s l => { s with
    evmax := Store.upd s.evmax (setOf l.1) fun m => Nat.max m l.2.leasemax, l2 := Store.del s.l2 l.1 }) s

/-- DCD_RELEASE_ORDERLY (R218): dirty sectors are written back; when the device has completed and none is dirty, the frames
go and the part says so. -/
def execDcdReleaseOrderly (ext : Nat) (s : State) : Res :=
  let e := Store.get s.exts ext
  let ls := extLines s e
  if e.st ≠ 1 then .next s
  else if !e.going || ls.any (fun l => l.2.dirty != 0) then
    let ks := ls.map (·.1)
    .next { s with
      l2 := s.l2.map fun l => if ks.contains l.1 then (l.1, { l.2 with dirty := 0, farBy := [] }) else l
      exts := Store.upd s.exts ext fun x => { x with going := true } }
  else .next (dcdSay { dropLines s ls with exts := Store.set s.exts ext default } 2 e.port e.base e.len 0 e.tag)

/-- Is a line of memory in an extent? -/
def inExtent (e : Extent) (pa : Nat) : Bool :=
  paSpace pa == 1 && decide (e.first ≤ paFrame pa) && decide (paFrame pa < e.first + e.n)

/-- DCD_RELEASE_FORCED (R218): dirty sectors are discarded, a DATA_LOST record names the frames, and every
cached translation of them is dropped; later accesses fault with FAR_REVOKED. -/
def execDcdReleaseForced (ext : Nat) (s : State) : Res :=
  let e := Store.get s.exts ext
  if e.st ≠ 1 then .next s
  else
    -- the bytes that only the L2 held are lost: what the device holds there is open
    let lost := (extLines s e).filter fun l => l.2.dirty != 0
    let s := lost.foldl (fun s l =>
      (List.range 4).foldl (fun s j => if bit l.2.dirty j then
        spend (memPut s (linePa l.1 + 48 * j) ((List.range 48).map fun i => Config.freeByte (s.fresh + i))) else s) s) s
    let s := dropLines s (extLines s e)
    let inExt (t : TlbEnt) : Bool := pteTier t.ent == 1 &&
      (let n := if t.kind = 1 then 32 else if t.kind = 2 then 4096 else 1
       decide (e.first < pteFrame t.ent / n * n + n) && decide (pteFrame t.ent / n * n < e.first + e.n))
    .next { s with
      tlb := s.tlb.filter fun t => !inExt t
      exts := Store.upd s.exts ext fun x => { x with st := 2 }
      out := s.out ++ [(98, leBytes 8 e.first ++ leBytes 8 e.n)] }

end Sys2Proof.Machine
end

