-- ==== Sys2Proof/Machine/OpIns.lean ====
section
/-! DEFINITION. The fields of an operator instruction (R304), of its copy descriptor (R308), and the tables
that the operator scheduler keeps: slots, points and token requests (R314, R315). -/

namespace Sys2Proof.Machine

/-- Fields of a 64-byte operator instruction, read as a number (R304). -/
def opOpc (i : Nat) : Nat := bits i 7 0
def opVer (i : Nat) : Nat := bits i 11 8
def opPri (i : Nat) : Nat := bits i 14 12
def opNdim (i : Nat) : Nat := bits i 16 15
def opNdep (i : Nat) : Nat := bits i 19 17
def opPwr (i : Nat) : Nat := bits i 27 20
def opSigpt (i : Nat) : Bool := bit i 28
def opSigend (i : Nat) : Bool := bit i 29
def opWpt (i : Nat) : Bool := bit i 30
def opRel (i : Nat) : Bool := bit i 31
def opAff (i : Nat) : Nat := bits i 39 36
def opHid (i : Nat) : Nat := bits i 55 40
def opExtRaw (i k : Nat) : Nat := bits i (56 + 16 * k + 15) (56 + 16 * k)
def opDep (i k : Nat) : Nat := bits i (104 + 25 * k + 24) (104 + 25 * k)
def opWait0 (i : Nat) : Word := w32 (bits i 239 208)
def opWt0 (i : Nat) : Word := w32 (bits i 271 240)
def opWait1 (i : Nat) : Word := w32 (bits i 303 272)
def opWt1 (i : Nat) : Word := w32 (bits i 335 304)
def opSig (i : Nat) : Word := w32 (bits i 367 336)
def opInc (i : Nat) : Word := w32 (bits i 383 368)
def opBnd (i : Nat) : Word := w32 (bits i 415 384)
def opBndbase (i : Nat) : Word := w32 (bits i 447 416)
def opArg (i : Nat) : Nat := bits i 511 448

/-- An extent: 1 beyond NDIM (R306). -/
def opExt (i k : Nat) : Nat := if opNdim i ≤ k then 1 else opExtRaw i k

/-- Lines of an operator (R327). -/
def opLines (i : Nat) : Nat := opExt i 2 * opExt i 1

/-- The components d0, d1, d2 of a dependence vector and its BMODE (R304). -/
def depC (d k : Nat) : Int := sgn 8 (bits d (8 * k + 7) (8 * k))
def depExt (d : Nat) : Bool := bit d 24

/-- The dependence vectors in use. -/
def opDeps (i : Nat) : List Nat := (List.range (Nat.min (opNdep i) 4)).map (opDep i)

/-- Event name fields: index 0 is none (R304). -/
def isNone (n : Word) : Bool := n.toNat % 2 ^ 22 == 0

def opAt (s : State) (n : Nat) : OpSlot := Store.get s.ops n
def updOp (s : State) (n : Nat) (f : OpSlot → OpSlot) : State := { s with ops := Store.upd s.ops n f }

/-- The stream that decoded a slot's operator, and an operator's dispatch priority (R307). -/
def streamAt (s : State) (slot k : Nat) : Stream := Store.get s.streams (64 * slot + k)
def updStream (s : State) (slot k : Nat) (f : Stream → Stream) : State :=
  { s with streams := Store.upd s.streams (64 * slot + k) f }
def opPrio (s : State) (x : OpSlot) : Nat := Nat.min (opPri x.ins) (streamAt s x.ctx x.stream).prio

/-- The threshold of a point's wait (R314). -/
def ptThr (i : Nat) (t : Word) (l : Nat) : Word := if opWpt i then t + w32 l else t

/-- Changes one point of a slot. -/
def updPoint (s : State) (n l : Nat) (f : Point → Point) : State :=
  updOp s n fun x => { x with points := x.points.map fun p => if p.l == l then f p else p }

/-- Requests the tokens of every point whose other conditions have fallen to 0 (R314, R315). -/
def askTokens (s : State) : State :=
  s.ops.foldl (fun s e =>
    if e.2.used && opPwr e.2.ins != 0 then
      e.2.points.foldl (fun s p =>
        if p.st == .fired && !p.wait0 && !p.wait1 && p.tok == 0 then
          updPoint { s with tokq := s.tokq ++ [⟨opPrio s e.2, e.1, p.l, opPwr e.2.ins, false⟩] } e.1 p.l fun p => { p with tok := 1 }
        else s) s
    else s) s

/-- A change of an entry's counter reaches the points that wait on it (R314). -/
def evNotify (s : State) (slot idx : Nat) (ctr : Word) : State :=
  let hit (n : Word) : Bool := n.toNat % 2 ^ 22 == idx
  let fall (x : OpSlot) (p : Point) : Point :=
    { p with
      wait0 := p.wait0 && !(hit (opWait0 x.ins) && decide (0 ≤ serial ctr (ptThr x.ins (opWt0 x.ins) p.l)))
      wait1 := p.wait1 && !(hit (opWait1 x.ins) && decide (0 ≤ serial ctr (ptThr x.ins (opWt1 x.ins) p.l))) }
  let one (e : Nat × OpSlot) : Nat × OpSlot :=
    if e.2.used && e.2.ctx == slot then (e.1, { e.2 with points := e.2.points.map (fall e.2) }) else e
  askTokens { s with ops := s.ops.map one }

end Sys2Proof.Machine
end

