-- ==== Sys2Proof/Machine/Events.lean ====
section
/-! DEFINITION. The event table (R309 to R313), event messages (R371), EVSIG, EVWAIT and EVPOLL (R320, R321)
and the end of a migration (R220). -/

namespace Sys2Proof.Machine

/-- The chip and the index of an event name (R309). -/
def evChip (n : Word) : Nat := n.toNat / 2 ^ 22
def evIdx (n : Word) : Nat := n.toNat % 2 ^ 22

/-- Is an index in the table of a context and not 0 (R309, R320)? -/
def evIndexOk (c : Ctx) (idx : Nat) : Bool := decide (0 < idx) && decide (idx < 2 ^ c.evlog)

/-- The virtual address of an entry (R309). -/
def evVa (s : State) (slot idx : Nat) : Nat := (ctxAt s slot).evbase.toNat + 8 * idx

/-- Fields of an entry (R310). -/
def evCtr (e : Nat) : Word := w32 (bits e 31 0)
def evMirror (e : Nat) : Bool := bit e 56
def evSubs (e : Nat) : Bool := bit e 59
def evDown (e : Nat) : Bool := bit e 60
def evClosed (e : Nat) : Bool := bit e 61
def evFrozen (e : Nat) : Bool := evDown e || evClosed e

/-- An entry with its counter replaced. -/
def evSetCtr (e : Nat) (v : Word) : Nat := e / 2 ^ 32 * 2 ^ 32 + v.toNat

/-- An entry with a bit set or cleared. -/
def evSetBit (e i : Nat) (b : Bool) : Nat := e - b2n (bit e i) * 2 ^ i + b2n b * 2 ^ i

/-- A threshold is reached (R311). -/
def evReached (e : Nat) (t : Word) : Bool := decide (0 ≤ serial (evCtr e) t)

/-- An access to the event table: the entry with its physical address, or the cause it would raise (R310). -/
inductive EvAcc where
  | ok (pa e : Nat)
  | bad (cause : Nat)
deriving DecidableEq, Repr, Inhabited

/-- Looks an entry up through the OSD's translation cache (R310). -/
def evAccess (s : State) (slot idx : Nat) (wr : Bool) : EvAcc :=
  let va := evVa s slot idx
  if vaEnd ≤ va then .bad cADDRESS
  else match translate s osdCaches slot (va / frameBytes) with
    | .notResident => .bad cPAGE
    | .revoked => .bad cFAR_REVOKED
    | .ok l =>
      let pa := paOf l.space l.frame (va % frameBytes)
      if wr && !l.w then .bad cPROTECTION
      else .ok pa (leNat ((List.range 8).map fun i => homeByte s (pa + i)))

/-- Writes an entry back. -/
def evWrite (s : State) (pa e : Nat) : State := (performAll s (bytesAt pa (leBytes 8 e))).1

/-- Does a line of physical memory lie where an error was met: in a frame of a tier, or, for tier 3, is it the line of the L2
that holds the error? -/
def lineInError (s : State) (tier frame line : Nat) : Bool :=
  let l := redirectLine s line
  if tier = 3 then l == frame else decide (tier ≤ 1) && paSpace (linePa l) == tier && paFrame (linePa l) == frame

/-- Looks an entry up for the OSD itself, whose access meets an uncorrectable error that lies there (R310); an error that is in
neither a frame nor a line of the L2 lies anywhere in the table (log entry 168, DEDUCED). -/
def osdAccess (s : State) (slot idx : Nat) (wr : Bool) : EvAcc :=
  match evAccess s slot idx wr with
  | .ok pa e =>
    if s.evBad.any fun m => m.1 == slot && (m.2.1 == 2 || decide (3 < m.2.1) || lineInError s m.2.1 m.2.2 (lineOf pa)) then .bad cUNCORRECTABLE
    else .ok pa e
  | .bad c => .bad c

/-- A failed access of the OSD is dropped, and the error it met is no longer to be met: every stream of the context in RUN or
HELD goes to ERROR with cause FETCH (R310). -/
def eventFail (s : State) (slot : Nat) : State :=
  { s with
    evBad := s.evBad.filter fun m => m.1 != slot
    streams := s.streams.map fun e =>
      if e.1 / 64 == slot && (e.2.st == 1 || e.2.st == 2) then (e.1, { e.2 with st := 3, cause := 3 }) else e }

/-- A 16-byte event message (R371): index, value, and 1 INC, 2 MIR or 3 SUB (log entry 20, DESIGN CHOICE). -/
def eventMsg (kind idx : Nat) (v : Word) : List Byte := leBytes 4 idx ++ leBytes 4 v.toNat ++ leBytes 8 kind

/-- Stands for "no group" in a write that no FRC counts. -/
def noGroup : Nat := 2 ^ 32

/-- Hands an event message for a chip to the reflector (R262, R371). -/
def sendMsg (s : State) (slot dest g op : Nat) (msg : List Byte) : State :=
  reflect s { (default : ReflWrite) with
    g := g, op := op, time := s.gt, slice := 384, ctx := ctxidOf s slot, msg := msg } [dest]

/-- The subscribers of an index of a context (R371). -/
def subscribersOf (s : State) (slot idx : Nat) : List Nat :=
  s.subs.filterMap fun r => if r.1 == ctxidOf s slot && r.2.1 == idx then some r.2.2 else none

/-- Waits of points that are registered on an entry's waiter list (R314). -/
def waitsOn (s : State) (slot idx : Nat) : Nat :=
  let on (w : Bool) (n : Word) : Nat := b2n (w && n.toNat % 2 ^ 22 == idx)
  s.ops.foldl (fun k e =>
    if e.2.used && e.2.ctx == slot then
      e.2.points.foldl (fun k p =>
        if p.st == .fired then k + on p.wait0 (opWait0 e.2.ins) + on p.wait1 (opWait1 e.2.ins) else k) k
    else k) 0

/-- Waits on an entry registered or ended: WLINK changes (R312), or the access fails (R310); of a list that is not empty it is free (log entries 3 and
138, DESIGN CHOICE). -/
def evRelink (s : State) (slot idx : Nat) : State :=
  match osdAccess s slot idx true with
  | .ok pa e =>
    let link := if waitsOn s slot idx = 0 then 0 else freeHere s % 2 ^ 24
    if waitsOn s slot idx = 0 && bits e 55 32 == 0 then s
    else evWrite (spend s) pa (e - bits e 55 32 * 2 ^ 32 + link * 2 ^ 32)
  | .bad _ => eventFail s slot

/-- A change of an entry's counter reaches the waits on it, and those that end leave its list (R312, R314). -/
def evTell (s : State) (slot idx : Nat) (v : Word) : State :=
  let t := evNotify s slot idx v
  if waitsOn t slot idx = waitsOn s slot idx then t else evRelink t slot idx

/-- An entry's counter takes a new value at its owner, which reflects it to the subscribers (R313). -/
def evSetOwned (s : State) (slot idx pa e : Nat) (v : Word) : State :=
  let s := evTell (evWrite s pa (evSetCtr e v)) slot idx v
  if evSubs e then (subscribersOf s slot idx).foldl (fun s c => sendMsg s slot c noGroup 0 (eventMsg 2 idx v)) s
  else s

/-- Adds to an entry: an increment of 0 changes nothing (R312, R320). -/
def evAdd (s : State) (slot idx pa e : Nat) (inc : Word) : State :=
  if inc = 0#32 then s else evSetOwned s slot idx pa e (evCtr e + inc)

/-- May the mirrors of an owned entry be told of `n` changes: each subscriber's path takes the messages (R267, R280)? -/
def subsRoom (s : State) (slot idx e n : Nat) : Bool :=
  !evSubs e || egressRoom s (ctxidOf s slot) (subscribersOf s slot idx) n

/-- Can an event take `n` additions of an engine or of the OSD now: messages to another chip, or to the mirrors of an own
event, wait for room on their paths (R267, R280)? -/
def signalRoom (s : State) (slot : Nat) (name inc : Word) (n : Nat) : Bool :=
  inc == 0#32 || !evIndexOk (ctxAt s slot) (evIdx name) ||
  (if evChip name = s.chip then
    match osdAccess s slot (evIdx name) true with
    | .ok _ e => evMirror e || subsRoom s slot (evIdx name) e n
    | .bad _ => true
  else egressRoom s (ctxidOf s slot) [evChip name] n)

/-- An engine or the OSD adds to an event as EVSIG does (R288, R312, R323), for operation `id` of group `g`, whose FRC counts a
message to another chip; a name without an entry to add to adds nothing (log entry 70, DEDUCED). -/
def engineSignal (s : State) (slot g id : Nat) (name inc : Word) : State :=
  if inc = 0#32 || !evIndexOk (ctxAt s slot) (evIdx name) then s
  else if evChip name = s.chip then
    match osdAccess s slot (evIdx name) true with
    | .ok pa e => if evMirror e then s else evAdd s slot (evIdx name) pa e inc
    | .bad _ => eventFail s slot
  else sendMsg s slot (evChip name) g id (eventMsg 1 (evIdx name) inc)

/-- The fault records of a failed access of an instruction (R277, R278). -/
def evRecords (cause va kind : Nat) : List (Nat × Nat) :=
  if cause = cPAGE || cause = cPROTECTION || cause = cFAR_REVOKED then [(va / frameBytes, kind)] else []

/-- A trap of the instruction in hand because an access to the event table failed (R310). -/
def evTrap (s : State) (slot idx cause kind : Nat) : State :=
  raiseAt s cause (active s) (w64 (evVa s slot idx)) (cf s).pc (evRecords cause (evVa s slot idx) kind)

/-- EVSIG once its fence is over (R320, steps 3 and 4): operation `id` is complete and the fragment `f` of group `g` goes
on, or traps; a message waits for room in the path's queue. -/
def evsigFinish (s : State) (g f id : Nat) (name inc : Word) : State :=
  let slot := (gAt s g).ctx
  let idx := evIdx name
  if evChip name = s.chip then
    let t := dropPend s g id
    match evAccess s slot idx true with
    | .bad c => withCur (wake t g f) g f fun s => evTrap s slot idx c 1
    | .ok pa e =>
      if evMirror e then withCur (wake t g f) g f fun s => raiseAll s cOPERAND 0#64
      else if inc != 0#32 && !subsRoom s slot idx e 1 then s
      else wakeWith (evAdd t slot idx pa e inc) g f .nul []
  else if inc = 0#32 then wakeWith (dropPend s g id) g f .nul []
  else if !egressRoom s (ctxidOf s slot) [evChip name] 1 then s
  else
    let s := sendMsg (dropPend s g id) slot (evChip name) g s.nextId (eventMsg 1 idx inc)
    wakeWith { s with nextId := s.nextId + 1 } g f .nul []

/-- The operation of an EVSIG or MBXDONE, pending on its flag until its fence is over and its effect is made (R319). -/
def signalPend : Pend := { (default : Pend) with kind := .signal, dst := .nul }

/-- EVSIG (R320): it closes the region when it issues (R416) and waits as FREL.c does. -/
def execEvsig (a b : Opnd) (s : State) : Res :=
  let name := usrc s a
  let inc := usrc s b
  if flagFull s 2 then .next (stallHere s)
  else
    let s := closeRegion s
    if 2 ^ 31 ≤ inc.toNat || !evIndexOk (cctx s) (evIdx name) then .next (raiseAll s cOPERAND 0#64)
    else
      let (s, id) := addPend s 2 signalPend
      let s := waitFor s (.fence 2 true false id none 1 name inc)
      let (s, ok) := fenceRound s s.curG s.curF
      .next (if ok then evsigFinish s s.curG s.curF id name inc else s)

/-- Which entry EVWAIT and EVPOLL read: the own entry, or a mirror of another chip's event; none raises
OPERAND (R321). -/
def evLocal (s : State) (name : Word) : Option EvAcc :=
  if !evIndexOk (cctx s) (evIdx name) then none
  else match evAccess s (cg s).ctx (evIdx name) false with
    | .ok pa e => if evChip name = s.chip || evMirror e then some (.ok pa e) else none
    | .bad c => some (.bad c)

/-- The status with which a wait on an entry ends now, if it does (R242, R313, R321): of several the highest,
but a threshold that is reached is OK however the mirror is frozen. -/
def evStatus (e : Nat) (t : Word) (preq : Nat) : Option Nat :=
  if bit preq 1 && (evReached e t || !evFrozen e) then some 1
  else if evReached e t then some 0
  else if evDown e then some 3
  else if evClosed e then some 2
  else none

/-- EVWAIT (R321). -/
def execEvwait (d a b : Opnd) (s : State) : Res :=
  let name := usrc s a
  let t := usrc s b
  match evLocal s name with
  | none => .next (raiseAll s cOPERAND 0#64)
  | some (.bad c) => .next (evTrap s (cg s).ctx (evIdx name) c 0)
  | some (.ok _ e) =>
    if evReached e t then done (updCG s fun g => wrDst g d [0#32, evCtr e])
    else match evStatus e t (preqOf s s.curG) with
      | some st => done (updCG s fun g => wrDst g d [w32 st, evCtr e])
      | none => .next (waitFor s (.evwait d name t))

/-- EVWAIT_WAKE (R321): the wait ends, or a failed access to the entry traps (R310). -/
def execEvwaitWake (g f : Nat) (s : State) : Res :=
  match (fragAt s g f).wait with
  | .evwait d name t =>
    if (gAt s g).saved then .next s
    else match evAccess s (gAt s g).ctx (evIdx name) false with
    | .bad c => .next (unlessPart s g (withCur (wake s g f) g f fun s => evTrap s (cg s).ctx (evIdx name) c 0))
    | .ok _ e =>
      .next (match evStatus e t (preqOf s g) with
        | some st => wakeWith s g f d [w32 st, evCtr e]
        | none => s)
  | _ => .next s

/-- A value that is ready for a destination and is written when the flag clears (R34, R36). -/
def valuePend (d : Opnd) (bs : List Byte) : Pend :=
  { (default : Pend) with
    kind := .value, dst := d, uni := true, done := true
    accs := [{ (default : Acc) with n := bs.length, got := true, bs := bs }] }

/-- EVPOLL (R321). -/
def execEvpoll (d a : Opnd) (s : State) : Res :=
  let name := usrc s a
  if flagFull s 1 then .next (stallHere s)
  else match evLocal s name with
    | none => .next (raiseAll s cOPERAND 0#64)
    | some (.bad c) => .next (evTrap s (cg s).ctx (evIdx name) c 0)
    | some (.ok _ e) => done (addPend s 1 (valuePend d (leBytes 4 (evCtr e).toNat))).1

/-- MIGRATION_RESULT (R220): the next stage of a tensor copy engine's migration, or of its queue. Once the filter is empty
the lines are redirected if both frames are still usable, the entry names the destination and an invalidation goes out; once that completes and no L1
needs the redirects they end.
The result is added to the event (R312) when the global time exceeds the completion time of every write (R258). -/
def execMigrationResult (tce : Nat) (s : State) : Res :=
  let m := migAt s tce
  .next (match m.phase with
  | 0 => tceStart s tce
  | 2 => migRound s tce
  | 3 =>
    if !migFrames s m then migStop s tce 3
    else
    let s := redirectAll s tce
    let (s, id) := postInv (putPte s tce (movedPte m (migPte s tce))) { (default : Inv) with kind := 2 }
    updMig s tce fun m => { m with phase := 4, inval := id }
  | 4 => if (s.invs.any fun i => i.id == m.inval) || redirectNeeded s m then s else endRedirects s tce
  | 5 =>
    if m.time < s.gt && signalRoom s m.slot (w32 m.event) (w32 m.result) 1 then
      engineSignal { s with migs := Store.set s.migs tce default } m.slot noGroup 0 (w32 m.event) (w32 m.result)
    else s
  | _ => s)

end Sys2Proof.Machine
end

