-- ==== Sys2Proof/Machine/Route.lean ====
section
/-! DEFINITION. Flits (R440 to R443), the routes of R439 and R450, and putting a flit on its way. -/

namespace Sys2Proof.Machine

/-- Exactly `n` bytes: cut, or filled with zeros. -/
def fit (n : Nat) (bs : List Byte) : List Byte := (bs ++ List.replicate n 0#8).take n

/-- One bit of the CRC-32 of IEEE 802.3, reflected. -/
def crcBit (c : Word) : Word := if c.getLsbD 0 then (c >>> 1) ^^^ 0xEDB88320#32 else c >>> 1

/-- One byte of the CRC. -/
def crcByte (c : Word) (b : Byte) : Word :=
  crcBit (crcBit (crcBit (crcBit (crcBit (crcBit (crcBit (crcBit (c ^^^ b.zeroExtend 32))))))))

/-- CRC-32 (IEEE 802.3) of some bytes (R441). -/
def crc32 (bs : List Byte) : Word := ~~~(bs.foldl crcByte 0xFFFFFFFF#32)

/-- Header bits [95:0] of a flit (R441), with its hop sequence number. -/
def Flit.head (f : Flit) (fseq : Nat) : Nat :=
  f.pseq.toNat + fseq % 4096 * 2 ^ 32 + b2n f.sealed * 2 ^ 47 + f.gen % 256 * 2 ^ 48 + f.kind % 16 * 2 ^ 56 +
  f.ctx % 2 ^ 16 * 2 ^ 60 + f.dst % 1024 * 2 ^ 76 + f.src % 1024 * 2 ^ 86

/-- The header with CRC and FSEQ zero, which the tags cover (R443). -/
def Flit.zeroed (f : Flit) : List Byte := leBytes 16 (f.head 0)

/-- The 256 bytes of a flit as a hop sends it: CRC and FSEQ of the hop; the tag of a clear flit under the
hop's key, of a sealed one end to end (R440 to R443). -/
def Flit.image (f : Flit) (key fseq : Nat) : List Byte :=
  let h := leBytes 12 (f.head fseq)
  let p := fit 224 f.payload
  let tag := if f.sealed then f.tag else Config.hopTag key (f.zeroed ++ p)
  h ++ leBytes 4 (crc32 (h ++ p)).toNat ++ p ++ fit 16 tag

/-- The flit that 256 bytes hold. -/
def Flit.ofBytes (bs : List Byte) : Flit :=
  let h := leNat (bs.take 12)
  { src := bits h 95 86, dst := bits h 85 76, ctx := bits h 75 60, kind := bits h 59 56, gen := bits h 55 48
    sealed := bit h 47, pseq := w32 (bits h 31 0), payload := (bs.drop 16).take 224, tag := (bs.drop 240).take 16 }

/-- FSEQ of an image, and whether its CRC holds and its KIND is not reserved (R441). -/
def imageFseq (bs : List Byte) : Nat := bits (leNat (bs.take 12)) 43 32
def imageOk (bs : List Byte) : Bool :=
  bs.length == 256 && crc32 (bs.take 12 ++ (bs.drop 16).take 224) == w32 (leNat ((bs.drop 12).take 4)) &&
  decide (bits (leNat (bs.take 12)) 59 56 ≤ 7)

/-- Fields of a slot entry (R449). -/
def slotV (e : Nat) : Bool := bit e 31
def slotPeer (e : Nat) : Nat := bits e 25 16
def slotBudget (e : Nat) : Nat := bits e 15 0

/-- Does some slot of the rotation reach a chip from a port of a bridge die (R449, R450)? -/
def dieReaches (s : State) (die d : Nat) : Bool :=
  s.slotAct.any fun e => decide (e.1 / 64 ≤ s.nslot) && e.1 % 64 / 32 == die && slotV e.2 && slotPeer e.2 == d

/-- Does some slot of the rotation reach a chip (R450)? -/
def slotReaches (s : State) (d : Nat) : Bool := dieReaches s 0 d || dieReaches s 1 d

/-- The queue that takes flits for a chip of another group (R450). -/
def queueFor (s : State) (d : Nat) : Option Nat :=
  if slotReaches s d then some d
  else ((List.range 32).map fun m => d / 32 * 32 + m).find? fun c => slotReaches s c

/-- The local link to a chip of the own group (R439). -/
def linkTo (s : State) (d : Nat) : Nat := (d % 32 + 63 - s.chip % 32) % 32

/-- Is a local link up? -/
def linkUp (s : State) (k : Nat) : Bool := Store.get s.locs k != 0

/-- The hop key of an optical port, and of local link k at 64 + k (R443). -/
def hopKey (s : State) (h : Nat) : Nat := Store.get s.hopKeys h

/-- Flits that a bridge die holds, in its send queues or unacknowledged, which return to them (R450): 8 MiB are 32,768. -/
def optHeld (s : State) (die : Nat) : Nat :=
  s.optq.foldl (fun n e => if e.1 / 1024 = die then n + e.2.length else n) 0 +
  s.ports.foldl (fun n e => if e.1 / 32 = die then n + e.2.replay.length else n) 0

/-- The bridge die that takes a flit for a chip that a slot reaches: the first one that reaches it and has room (R450; log
entry 62, DESIGN CHOICE). -/
def optDie (s : State) (d : Nat) : Option Nat :=
  [0, 1].find? fun die => dieReaches s die d && decide (optHeld s die < 32768)

/-- Where the queue of a bridge die to a chip stands. -/
def optKey (die d : Nat) : Nat := 1024 * die + d

/-- Can a flit for a chip be put on its way? In a lease reset the transmitters are quiet (R462). -/
def canEmit (s : State) (d : Nat) : Bool :=
  if d = s.chip then true
  else if d / 32 = s.chip / 32 then linkUp s (linkTo s d) && !s.lrcHold
  else (queueFor s d).any fun q => (optDie s q).isSome

/-- A flit goes ahead of data when its KIND is 4 to 6 (R450). -/
def Flit.urgent (f : Flit) : Bool := decide (4 ≤ f.kind) && decide (f.kind ≤ 6)

/-- Enters a flit into a queue, an urgent one before the first that is not. -/
def enqueue (q : List Flit) (f : Flit) : List Flit :=
  if f.urgent then q.takeWhile Flit.urgent ++ f :: q.dropWhile Flit.urgent else q ++ [f]

/-- A flit of no payload: an acknowledgement or a marker (R442). -/
def control (s : State) (kind dst ctx gen : Nat) (n : Word) : Flit :=
  { src := s.chip, dst := dst, ctx := ctx, kind := kind, gen := gen, sealed := false, pseq := n
    payload := [], tag := [] }

/-- A path acknowledgement on a local link: a write of 8 bytes, whose address names the chip that it comes from where that is
not the sender (R439; log entry 22, DESIGN CHOICE). -/
def ackWrite (s : State) (f : Flit) : List Byte :=
  leBytes 4 f.pseq.toNat ++ leBytes 2 f.ctx ++ leBytes 2 f.gen ++ if f.src = s.chip then [] else leBytes 2 f.src

/-- Is a flit a marker by which this chip closes a path (R365)? -/
def closes (s : State) (f : Flit) : Bool := f.kind == 5 && f.src == s.chip

/-- Puts a flit for another chip on a local link or into an optical send queue, where it waits for room (R439, R450). A flit
that no link can take is lost, and in a lease reset every flit but a closing marker (R365, R462). -/
def emitOut (s : State) (f : Flit) : State :=
  if s.lrcHold && !closes s f then s
  else if f.dst / 32 = s.chip / 32 then
    let k := linkTo s f.dst
    if !linkUp s k then s
    else { s with out := s.out ++ [(k, if f.kind = 4 then ackWrite s f else f.image (hopKey s (64 + k)) 0)] }
  else match queueFor s f.dst with
    | none => s
    | some q => match optDie s q with
      | some die => { s with optq := Store.upd s.optq (optKey die q) fun l => enqueue l f }
      | none => { s with optw := s.optw ++ [f] }

/-- What waits for room in the optical send queues enters them as far as there is some, in its order (R450). -/
def optAdmit (s : State) : State := s.optw.foldl emitOut { s with optw := [] }

/-- A flit of KIND 4 to 6 reaches this chip: one whose path has no record is dropped. -/
def arriveControl (s : State) (f : Flit) : State :=
  if (pathOf s f.ctx f.src (f.kind == 5)).isSome then { s with rxq := s.rxq ++ [f] } else s

/-- A flit reaches this chip. A write without a receive record is refused: no entry allows the sender (R363,
R422); the peer is told, and the record's MID is 0 (log entry 29, DEDUCED). -/
def takeFlit (s : State) (f : Flit) : State :=
  if f.urgent then arriveControl s f
  else if (pathOf s f.ctx f.src true).isSome then { s with rxq := s.rxq ++ [f] }
  else
    let s := violation s 2 cRX_REFUSED f.ctx 0
      (f.src + (if f.kind = 3 then 0 else leNat (f.payload.take 8) / 2 ^ 6 % 2 ^ 10) * 2 ^ 10 + 2 ^ 20) 0
    let d := control s 6 f.src f.ctx f.gen 0#32
    if f.src = s.chip then arriveControl s d else emitOut s d

/-- Puts a flit on its way: on the self path (R367), else on a link. -/
def emit (s : State) (f : Flit) : State := if f.dst = s.chip then takeFlit s f else emitOut s f

/-- The payload record of a write (R442). -/
def payloadOf (off rwin op : Nat) (bytes : List (Nat × Byte)) : List Byte :=
  let mask := bytes.foldl (fun m b => m ||| 2 ^ b.1) 0
  leBytes 8 (op % 8 * 2 ^ 3 + rwin % 2 ^ 10 * 2 ^ 6 + off * 2 ^ 16) ++ leBytes 24 mask ++
    (List.range 192).map fun i => ((bytes.reverse.find? fun b => b.1 == i).map (·.2)).getD 0#8

/-- Fields of a payload record. -/
def recOff (p : List Byte) : Nat := leNat (p.take 8) / 2 ^ 16
def recRwin (p : List Byte) : Nat := bits (leNat (p.take 8)) 15 6
def recOp (p : List Byte) : Nat := bits (leNat (p.take 8)) 5 3
def recMask (p : List Byte) : Nat := leNat ((p.drop 8).take 24)
def recByte (p : List Byte) (i : Nat) : Byte := (p[32 + i]?).getD 0#8

/-- The nonce of a sealed write (R368). -/
def nonceOf (src dst gen wcnt : Nat) : Nat :=
  src % 1024 * 2 ^ 86 + dst % 1024 * 2 ^ 76 + gen % 256 * 2 ^ 68 + wcnt % 2 ^ 64

end Sys2Proof.Machine
end

