-- ==== Sys2Proof/Machine/Window.lean ====
section
/-! DEFINITION. The window tables (R360 to R373): WMAPI, the window reductions, WSTAT and FRC, and the steps
of the reflector, of the paths and of the event window. -/

namespace Sys2Proof.Machine

/-! Entries. -/

/-- STATE codes of an entry. -/
def entLive (e : Nat) : Bool := txwState e == 1
def entHeld (e : Nat) : Bool := txwState e == 1 || txwState e == 2

/-- An entry with another STATE. -/
def entSet (e st : Nat) : Nat := e - bits e 239 238 * 2 ^ 238 + st * 2 ^ 238

/-- Fields of a TXW entry (R360). -/
def txwGen (e : Nat) : Nat := bits e 237 230
def txwKey (e : Nat) : Nat := bits e 229 224
def txwRwin (e : Nat) : Nat := bits e 223 214
def txwRoff (e : Nat) : Nat := bits e 213 190

/-- Fields of an RXW entry (R362). -/
def rxwKey (e : Nat) : Nat := bits e 237 232
def rxwWid (e : Nat) : Nat := bits e 231 222

/-- The chips that an RXW entry allows to send (R362). -/
def rxwAllows (e c : Nat) : Bool :=
  bit e 221 || (List.range (Nat.min (bits e 220 217) 8)).any fun i => bits e (96 + 10 * i + 9) (96 + 10 * i) == c

/-- The chips that an RXW entry names (R364). -/
def rxwSenders (e : Nat) : List Nat := (List.range 1024).filter fun c => rxwAllows e c

/-! Path records (R364, R365). -/

/-- The (peer, receive) pairs that a context's live entries name. -/
def pathsNamed (s : State) (slot : Nat) : List (Nat × Bool) :=
  let c := ctxidOf s slot
  let tx := s.txw.flatMap fun e => if entLive e.2 && txwCtx e.2 == c then (txwDests s slot e.2).map fun d => (d, false) else []
  let rx := s.rxw.flatMap fun e => if entLive e.2 && txwCtx e.2 == c then (rxwSenders e.2).map fun d => (d, true) else []
  tx ++ rx

/-- The pairs that have no record yet. -/
def pathsMissing (s : State) (slot : Nat) : List (Nat × Bool) :=
  (pathsNamed s slot).foldl (fun acc p =>
    if acc.contains p || (pathOf s (ctxidOf s slot) p.1 p.2).isSome then acc else acc ++ [p]) []

/-- The lowest unused record. -/
def freePath (s : State) : Option Nat := (List.range 4096).find? fun k => !(pathAt s k).used

/-- How many records are unused. -/
def freePaths (s : State) : Nat := 4096 - (s.paths.filter fun e => e.2.used).length

/-- Creates IDLE records for the entries of a context (R364). -/
def makePaths (s : State) (slot : Nat) : State :=
  (pathsMissing s slot).foldl (fun s p => match freePath s with
    | some k => { s with paths := Store.set s.paths k { (default : Path) with
        used := true, ctx := ctxidOf s slot, peer := p.1, recv := p.2, virgin := p.2 } }
    | none => s) s

/-- The context slot in which a context id runs. -/
def slotOfCtx (s : State) (ctxid : Nat) : Option Nat :=
  (s.ctxs.find? fun e => e.2.ctxid == ctxid && e.2.st != 0).map (·.1)

/-- Freezes the mirrors of a peer's events: bit 60 DOWN, bit 61 CLOSED (R313). -/
def freezeMirrors (s : State) (ctxid peer b : Nat) : State :=
  match slotOfCtx s ctxid with
  | none => s
  | some slot =>
    (s.mirrors.filter fun m => m.1 == ctxid && m.2.2 == peer).foldl (fun s m =>
      match osdAccess s slot m.2.1 true with
      | .ok pa e => if evFrozen e || !evMirror e then s else evWrite s pa (evSetBit e b true)
      | .bad _ => eventFail s slot) s

/-- Is a write still to be acknowledged anywhere? -/
def ReflWrite.open_ (w : ReflWrite) : Bool := !w.todo.isEmpty || !w.sent.isEmpty

/-- Writes with nothing left to tell anyone leave the reflector. -/
def dropAcked (s : State) : State :=
  { s with refl := s.refl.filter fun w => w.open_ || !w.lost.isEmpty }

/-- Does a WMAPI on an entry still wait for a write that kept the old entry (R369)? -/
def wmapiWaits (s : State) (ent bound : Nat) : Bool :=
  s.refl.any fun w => w.msg.isEmpty && w.ent == ent && decide (w.id < bound) && w.open_

/-- Completes the WMAPIs that wait no more (R369). -/
def settleWmapi (s : State) : State :=
  { s with groups := s.groups.map fun e =>
      (e.1, { e.2 with pend := e.2.pend.filter fun p =>
        !(p.kind == .inval && (match p.win with
          | some i => !wmapiWaits s i p.op
          | none => false)) }) }

/-- A send path goes DOWN (2) or SHUT (3): its writes are discarded and its transmit entries revoked (R365). -/
def closeSend (s : State) (k st : Nat) : State :=
  let p := pathAt s k
  let code := if st = 3 then 2 else 3
  let s := updPath s k fun p => { p with st := st }
  let hit (w : ReflWrite) : Bool :=
    w.ctx == p.ctx && (w.todo.contains p.peer || w.sent.any fun e => e.1 == p.peer)
  let lose (w : ReflWrite) : ReflWrite :=
    if hit w then
      { w with todo := w.todo.filter (· != p.peer), sent := w.sent.filter (fun e => e.1 != p.peer)
               lost := w.lost ++ [(p.peer, code)] }
    else w
  let s := { s with refl := s.refl.map lose }
  let slot := (slotOfCtx s p.ctx).getD 0
  let revoke (e : Nat × Nat) : Nat × Nat :=
    if entLive e.2 && txwCtx e.2 == p.ctx && (txwDests s slot e.2).contains p.peer then (e.1, entSet e.2 2) else e
  let s := { s with txw := s.txw.map revoke }
  let s := settleWmapi s
  if st = 2 then freezeMirrors s p.ctx p.peer 60 else s

/-- A receive path goes DOWN after a refusal: the peer is told, its mirrors take DOWN (R365). -/
def downReceive (s : State) (k : Nat) : State :=
  let p := pathAt s k
  let s := emit s (control s 6 p.peer p.ctx p.gen p.seqa)
  freezeMirrors (updPath s k fun p => { p with st := 2 }) p.ctx p.peer 60

/-- A path reset (R365): writes lost on the old path are forgotten (log entry 23, DEDUCED). -/
def resetPath (s : State) (k : Nat) : State :=
  let p := pathAt s k
  let s := updPath s k fun p => { p with
    st := 0, seqa := 0#32, seqb := 0#32, wcnt := 0, gen := (p.gen + 1) % 256, virgin := false, close := none
    acked := 0#32, atime := 0 }
  if p.recv then s
  else
    let forget (w : ReflWrite) : ReflWrite :=
      if w.ctx == p.ctx then { w with lost := w.lost.filter fun e => e.1 != p.peer } else w
    dropAcked { s with refl := s.refl.map forget }

/-! WMAPI (R435). -/

/-- Do two page ranges meet? -/
def pagesMeet (a n b m : Nat) : Bool := decide (a < b + m) && decide (b < a + n)

/-- Does a TXW image break a range of R360 or overlap another entry of the context? -/
def txwBad (s : State) (ctxid k e : Nat) : Bool :=
  bits e 184 176 != 0 || bits e 35 0 != 0 || txwNpage e == 0 ||
  (!bit e 189 && (bits e 188 185 == 0 || decide (8 < bits e 188 185))) ||
  s.txw.any fun x => x.1 != k && entHeld x.2 && txwCtx x.2 == ctxid &&
    pagesMeet (txwPage x.2) (txwNpage x.2) (txwPage e) (txwNpage e)

/-- Does an RXW image break a range of R362 or repeat a WID of the context? -/
def rxwBad (s : State) (ctxid k e : Nat) : Bool :=
  bits e 216 176 != 0 || bits e 35 0 != 0 ||
  (!bit e 221 && (bits e 220 217 == 0 || decide (8 < bits e 220 217))) ||
  (rxwWid e == 0 && (txwPage e != 0 || txwNpage e != 0)) || (rxwWid e != 0 && txwNpage e == 0) ||
  s.rxw.any fun x => x.1 != k && entHeld x.2 && txwCtx x.2 == ctxid && rxwWid x.2 == rxwWid e

/-- An entry of another context? -/
def foreign (ctxid e : Nat) : Bool := entHeld e && txwCtx e != ctxid

/-- An image as WMAPI writes it: CTX and STATE are the part's (R435). -/
def entImage (ctxid w : Nat) : Nat := w % 2 ^ 238 + 2 ^ 238 + ctxid % 2 ^ 16 * 2 ^ 240

/-- What a command does: none when it is refused. A path reset takes its peer from A+1, whatever A [9:0] holds (log entry 144,
DESIGN CHOICE). -/
def wmapiApply (s : State) (slot a w : Nat) : Option State :=
  let c := ctxidOf s slot
  let k := a % 2 ^ 10
  let a1 := bits w 63 32
  let rest := w / 2 ^ 64
  let make (s : State) : Option State :=
    if freePaths s < (pathsMissing s slot).length then none else some (makePaths s slot)
  match a / 2 ^ 28 with
  | 0 =>
    let e := entImage c (w / 2 ^ 32 * 2 ^ 32)
    if bits a 27 10 != 0 || foreign c (Store.get s.txw k) || txwBad s c k e then none
    else make { s with txw := Store.set s.txw k e }
  | 3 =>
    let e := entImage c (w / 2 ^ 32 * 2 ^ 32)
    if bits a 27 10 != 0 || foreign c (Store.get s.rxw k) || rxwBad s c k e then none
    else make { s with rxw := Store.set s.rxw k e }
  | 1 =>
    let e := Store.get s.txw k
    if bits a 27 10 != 0 || w / 2 ^ 32 != 0 || foreign c e then none
    else some { s with txw := Store.set s.txw k (if entLive e then entSet e 2 else e) }
  | 4 =>
    let e := Store.get s.rxw k
    if bits a 27 10 != 0 || w / 2 ^ 32 != 0 || foreign c e then none
    else some { s with rxw := Store.set s.rxw k (if entLive e then entSet e 2 else e) }
  | 2 =>
    if bits a 27 10 != 0 || w / 2 ^ 32 != 0 || foreign c (Store.get s.txw k) then none
    else some { s with txw := Store.set s.txw k 0 }
  | 5 =>
    if bits a 27 10 != 0 || w / 2 ^ 32 != 0 || foreign c (Store.get s.rxw k) then none
    else some { s with rxw := Store.set s.rxw k 0 }
  | 6 =>
    let m := Store.get s.mcast (64 * slot + a % 64)
    let chip := a1 % 1024
    if bits a 27 6 != 0 || bits a1 30 10 != 0 || rest != 0 then none
    else if bit a1 31 then
      if !bit m chip && decide (64 ≤ ((List.range 1024).filter fun i => bit m i).length) then none
      else make { s with mcast := Store.set s.mcast (64 * slot + a % 64) (m ||| 2 ^ chip) }
    else some { s with mcast := Store.set s.mcast (64 * slot + a % 64) (evSetBit m chip false) }
  | 7 =>
    if bits a 27 10 != 0 || a1 / 2 ^ 11 != 0 || rest != 0 then none
    else match pathOf s c (a1 % 1024) (bit a1 10) with
      | some k => if (pathAt s k).st = 2 || (pathAt s k).st = 3 then some (resetPath s k) else none
      | none => none
  | 8 =>
    let name := w32 a1
    let idx := evIdx name
    if bits a 27 0 != 0 || rest != 0 || !evIndexOk (ctxAt s slot) idx then none
    else match osdAccess s slot idx true with
      | .bad _ => some (eventFail s slot)
      | .ok pa e =>
        let s := evWrite s pa (evSetBit e 56 true)
        let m := (c, idx, evChip name)
        let s := { s with mirrors := if s.mirrors.contains m then s.mirrors else s.mirrors ++ [m] }
        some (sendMsg s slot (evChip name) noGroup 0 (eventMsg 3 idx 1#32))
  | 9 =>
    let name := w32 a1
    let idx := evIdx name
    if bits a 27 0 != 0 || rest != 0 || !evIndexOk (ctxAt s slot) idx then none
    else match osdAccess s slot idx true with
      | .bad _ => some (eventFail s slot)
      | .ok pa e =>
        let s := evWrite s pa (evSetBit e 56 false)
        let s := { s with mirrors := s.mirrors.filter (· != (c, idx, evChip name)) }
        some (sendMsg s slot (evChip name) noGroup 0 (eventMsg 3 idx 0#32))
  | _ => none

/-- The number that consecutive s registers hold, the first lowest. -/
def wordsNat : List Word → Nat
  | [] => 0
  | w :: r => w.toNat + 2 ^ 32 * wordsNat r

/-- Waits a subscription for room on the owner's path (R267, R280)? -/
def wmapiHeld (s : State) (a w : Nat) : Bool :=
  (a / 2 ^ 28 == 8 || a / 2 ^ 28 == 9) && !egressRoom s (cctx s).ctxid [evChip (w32 (bits w 63 32))] 1

/-- WMAPI (R435): it closes the region when it issues (R416). A command on a TXW entry completes under
R369. -/
def execWmapi (a : Opnd) (s : State) : Res :=
  let w := wordsNat (ublock s a 8)
  let a0 := w % 2 ^ 32
  let s0 := s
  if flagFull s 2 then .next (stallHere s)
  else
    let s := closeRegion s
    match wmapiApply s (cg s).ctx a0 w with
    | none => .next (raiseAll s cOPERAND (w64 a0))
    | some s' =>
      let k := a0 % 2 ^ 10
      if wmapiHeld s0 a0 w then .next s0
      else if a0 / 2 ^ 28 ≤ 2 && wmapiWaits s' k s'.nextId then
        done (addPend s' 2 { (default : Pend) with kind := .inval, dst := .nul, win := some k, op := s'.nextId }).1
      else done s'

/-! Reductions (R372). -/

/-- A window reduction: its access is checked like an access of a store, and it closes the region. -/
def reduction (s : State) (op : Nat) (x a b : Opnd) : Res :=
  let cs := (threads (selected s)).map fun t => checkThread s .reduce false false t (addrOf s a b t) 4
  issueMem s 2 false true AccKind.reduce.bit cs fun as =>
    { (default : Pend) with kind := .rx, dst := .nul, op := op, accs := as.map fun c => { c with x := src s .plain x c.t } }

def execRxadd (x a b : Opnd) (s : State) : Res := reduction s 0xD0 x a b
def execRxfadd (x a b : Opnd) (s : State) : Res := reduction s 0xD1 x a b
def execRxbadd (x a b : Opnd) (s : State) : Res := reduction s 0xD2 x a b
def execRxmax (x a b : Opnd) (s : State) : Res := reduction s 0xD3 x a b

/-! WSTAT and FRC. -/

/-- Writes of an entry forwarded and not acknowledged by every destination (R373). -/
def entUnacked (s : State) (k : Nat) : Nat :=
  (s.refl.filter fun w => w.msg.isEmpty && w.ent == k && w.fwd && (w.open_ || !w.lost.isEmpty)).length

/-- The two words of WSTAT, or none for OPERAND (R373). -/
def wstatOf (s : State) (k : Nat) (b : Word) : Option (List Word) :=
  let slot := (cg s).ctx
  let e := Store.get s.txw k
  if 1023 < k then none
  else if txwState e = 0 || txwCtx e ≠ ctxidOf s slot then some [0#32, 0#32]
  else
    let ds := txwDests s slot e
    let sts := ds.filterMap fun d => (pathOf s (txwCtx e) d false).map fun p => (pathAt s p).st
    if b = 0xFFFFFFFF#32 then
      some [w32 (txwState e + b2n (bit e 189) * 2 ^ 2 + bits e 188 185 * 2 ^ 3 + txwGen e * 2 ^ 8 +
              b2n (sts.contains 2) * 2 ^ 16 + b2n (sts.contains 3) * 2 ^ 17),
            w32 (Nat.min (entUnacked s k) 0xFFFFFFFF)]
    else if !ds.contains b.toNat then none
    else match pathOf s (txwCtx e) b.toNat false with
      | some p => some [w32 ((pathAt s p).st + (pathAt s p).gen * 2 ^ 8), (pathAt s p).seqb]
      | none => some [0#32, 0#32]

/-- WSTAT (R373). -/
def execWstat (d a b : Opnd) (s : State) : Res :=
  if flagFull s 1 then .next (stallHere s)
  else match wstatOf s (usrc s a).toNat (usrc s b) with
    | none => .next (raiseAll s cOPERAND 0#64)
    | some ws => done (addPend s 1 (valuePend d (ws.flatMap fun w => leBytes 4 w.toNat))).1

/-- Window writes of a group before a bound that are not acknowledged everywhere (R242, R366). -/
def frcOpen (s : State) (g bound : Nat) : Bool :=
  (gAt s g).pend.any (fun p => decide (p.id < bound) && (p.kind = .rx || (p.kind = .store && p.accs.any (·.win.isSome)))) ||
  s.refl.any fun w => w.g == g && decide (w.op < bound) && w.open_

/-- The highest code that closed paths give (R242). -/
def frcLost (s : State) (g bound : Nat) : Nat :=
  s.refl.foldl (fun m w => if w.g == g && decide (w.op < bound) then w.lost.foldl (fun m e => Nat.max m e.2) m else m) 0

/-- The status with which an FRC ends now, if it does; `now` is true at its issue, when a wait that has
nothing to wait for ends OK (R242). -/
def frcStatus (s : State) (g bound : Nat) (now : Bool) : Option Nat :=
  let lost := frcLost s g bound
  let dl := bit (preqOf s g) 1
  if lost ≠ 0 then some lost
  else if frcOpen s g bound then (if dl then some 1 else none)
  else if dl && !now then some 1 else some 0

/-- FRC (R242). -/
def execFrc (d : Opnd) (s : State) : Res :=
  match frcStatus s s.curG s.nextId true with
  | some c => done (updCG s fun g => wrDst g d [w32 c])
  | none => .next (waitFor s (.frc d s.nextId))

/-- FRC_WAKE (R242). -/
def execFrcWake (g f : Nat) (s : State) : Res :=
  match (fragAt s g f).wait with
  | .frc d bound =>
    .next (if (gAt s g).saved then s else match frcStatus s g bound false with
      | some c => wakeWith s g f d [w32 c]
      | none => s)
  | _ => .next s

/-! The reflector (R262). -/

/-- The write of a path with the smallest key. -/
def nextWrite (s : State) (ctx peer : Nat) : Option ReflWrite :=
  (s.refl.filter fun w => w.ctx == ctx && w.todo.contains peer).foldl (fun best w =>
    match best with
    | none => some w
    | some b =>
      if w.time < b.time || (w.time == b.time && (w.slice < b.slice || (w.slice == b.slice && decide (w.order < b.order))))
      then some w else some b) none

/-- Has every slice reported that it holds no write with a smaller key (R262)? -/
def allReported (s : State) (t : Nat) : Bool := (List.range 384).all fun k => decide (t ≤ Store.get s.rep k)

/-- Writes of a path forwarded and not acknowledged (R403). -/
def pathUnacked (s : State) (ctx peer : Nat) : Nat :=
  (s.refl.filter fun w => w.ctx == ctx && w.sent.any fun e => e.1 == peer).length

/-- The flit that forwards a write on a path with a sequence number (R441 to R443, R368). -/
def flitOf (s : State) (p : Path) (w : ReflWrite) (seq : Nat) : Flit :=
  let e := w.img
  let gen := if w.msg.isEmpty then txwGen e else p.gen
  let base : Flit := { src := s.chip, dst := p.peer, ctx := p.ctx, gen := gen, pseq := w32 seq, sealed := false
                       kind := if !w.msg.isEmpty then 3 else if w.red = 0 then 1 else 2, payload := [], tag := [] }
  if !w.msg.isEmpty then { base with payload := fit 224 (List.replicate 32 0#8 ++ w.msg) }
  else
    let op := if w.red = 0 then 0 else w.red - 0xCF
    let bs := if w.red = 0 then w.bytes
      else w.bytes.flatMap fun b => (List.range 4).map fun i => (b.1 + i, ((leBytes 4 w.x.toNat)[i]?).getD 0#8)
    let plain := payloadOf (txwRoff e * frameBytes + w.v) (txwRwin e) op bs
    if txwKey e = 0 then { base with payload := plain }
    else
      let out := fit 240 (Config.sealGcm (Store.get s.keys (txwKey e)).key (nonceOf s.chip p.peer gen seq)
        { base with sealed := true }.zeroed plain)
      { base with sealed := true, payload := out.take 224, tag := out.drop 224 }

/-- REFLECTOR_FORWARD (R262): the next write of a send path goes out with the path's next number. -/
def execReflectorForward (path : Nat) (s : State) : Res :=
  let p := pathAt s path
  match nextWrite s p.ctx p.peer with
  | none => .next s
  | some w =>
    if !p.used || p.recv || 2 ≤ p.st || !allReported s w.time || !canEmit s p.peer
        || 2 ^ 20 ≤ pathUnacked s p.ctx p.peer then .next s
    else
      let gen := if p.st = 0 && w.msg.isEmpty then txwGen w.img else p.gen
      let seq := p.wcnt + 1
      let idle := pathUnacked s p.ctx p.peer == 0
      let fl := flitOf s { p with gen := gen } w seq
      let s := updPath s path fun p => { p with
        st := 1, gen := gen, seqa := w32 seq, wcnt := seq % 2 ^ 64, since := if idle then s.gt else p.since }
      let go (x : ReflWrite) : ReflWrite :=
        if x.id == w.id then
          { x with todo := x.todo.filter (· != p.peer), sent := x.sent ++ [(p.peer, seq % 2 ^ 32)], fwd := true } else x
      let s := { s with refl := s.refl.map go }
      .next (emit s fl)

/-- SLICE_REPORT (R262): a slice reports that a write it performs from now on has a later completion time. -/
def execSliceReport (slice : Nat) (s : State) : Res :=
  .next (if slice < 384 then { s with rep := Store.set s.rep slice s.gt } else s)

/-! Acknowledgements and markers (R365, R366). -/

/-- PATH_ACK_RECEIVE (R366): a send record's SEQB rises to a cumulative value. -/
def ackPath (s : State) (k : Nat) (n : Word) : State :=
  let p := pathAt s k
  if !p.used || p.recv || p.st ≠ 1 || serial n p.seqb ≤ 0 then s
  else
    let s := updPath s k fun p => { p with seqb := n, since := s.gt }
    let acked (w : ReflWrite) : ReflWrite :=
      if w.ctx == p.ctx then { w with sent := w.sent.filter fun e => e.1 != p.peer || decide (0 < serial (w32 e.2) n) } else w
    let s := { s with refl := s.refl.map acked }
    settleWmapi (dropAcked s)

/-- Takes a received flit of a kind from a peer out of the queue. -/
def takeControl (s : State) (p : Path) (kind : Nat) (n : Word) : State :=
  let hit (f : Flit) : Bool := f.kind == kind && f.src == p.peer && f.ctx == p.ctx && f.pseq == n
  { s with rxq := s.rxq.takeWhile (fun f => !hit f) ++ (s.rxq.dropWhile fun f => !hit f).drop 1 }

def execPathAckReceive (path : Nat) (n : Word) (s : State) : Res :=
  .next (ackPath (takeControl s (pathAt s path) 4 n) path n)

/-- PATH_DOWN_RECEIVE (R365): an OPEN send path goes DOWN. -/
def execPathDownReceive (path : Nat) (n : Word) (s : State) : Res :=
  let p := pathAt s path
  let s := takeControl s p 6 n
  .next (if p.used && !p.recv && p.st = 1 then closeSend s path 2 else s)

/-- PATH_ACK_TIMEOUT (R365). -/
def execPathAckTimeout (path : Nat) (s : State) : Res :=
  let p := pathAt s path
  .next (if p.used && !p.recv && p.st = 1 && decide (0 < pathUnacked s p.ctx p.peer) && decide (p.since + s.ptmo ≤ s.gt)
    then closeSend s path 2 else s)

/-- PEER_UNREACHABLE (R365): every OPEN send path to the chip goes DOWN. -/
def execPeerUnreachable (chip : Nat) (s : State) : Res :=
  .next (s.paths.foldl (fun s e =>
    if e.2.used && !e.2.recv && e.2.st == 1 && e.2.peer == chip then closeSend s e.1 2 else s) s)

/-! The receiver (R263, R363). -/

/-- Flits of a receive path that can never be applied leave: of another generation, applied already, or on a
closed path (R363, R365, R450). -/
def cleanRx (s : State) (k : Nat) : State :=
  let p := pathAt s k
  let dead (f : Flit) : Bool :=
    decide (1 ≤ f.kind) && decide (f.kind ≤ 3) && f.src == p.peer && f.ctx == p.ctx &&
      (decide (2 ≤ p.st) || (!p.virgin && f.gen != p.gen) || decide (serial f.pseq p.seqa ≤ 0))
  { s with rxq := s.rxq.filter fun f => !dead f }

/-- The next flit of a receive path in sequence order (R263). -/
def nextFlit (s : State) (k : Nat) : Option Flit :=
  let p := pathAt s k
  s.rxq.find? fun f => decide (1 ≤ f.kind) && decide (f.kind ≤ 3) && f.src == p.peer && f.ctx == p.ctx &&
    f.pseq == p.seqa + 1#32

/-- May the path go on: its last write has been performed and the time exceeds its completion time (R263)? -/
def rxDue (s : State) (k : Nat) : Bool := decide ((pathAt s k).atime < s.gt)

/-- Sends the acknowledgement that is due (R263, R366). -/
def rxAck (s : State) (k : Nat) : State :=
  let p := pathAt s k
  if p.acked = p.seqa || p.st ≠ 1 then s
  else emit (updPath s k fun p => { p with acked := p.seqa }) (control s 4 p.peer p.ctx p.gen p.seqa)

/-- Closes a receive path whose marker's writes have all been applied (R365). -/
def rxClose (s : State) (k : Nat) : State :=
  let p := pathAt s k
  match p.close with
  | some n =>
    if serial n p.seqa ≤ 0 && p.st ≤ 1 then
      freezeMirrors (cleanRx (updPath s k fun p => { p with st := 3, seqb := n, close := none }) k) p.ctx p.peer 61
    else s
  | none => s

/-- The write of a flit is taken off the queue and counted as applied at a completion time. -/
def rxTaken (s : State) (k : Nat) (f : Flit) (t : Nat) : State :=
  updPath { s with rxq := s.rxq.filter (· != f) } k fun p => { p with
    st := 1, gen := if p.virgin then f.gen else p.gen, virgin := false, seqa := f.pseq, wcnt := (p.wcnt + 1) % 2 ^ 64, atime := t }

/-- A refusal (R363, R365, R422). -/
def rxRefuse (s : State) (k : Nat) (f : Flit) (va rwin reason : Nat) : State :=
  let s := violation s 2 cRX_REFUSED (pathAt s k).ctx va (f.src + rwin * 2 ^ 10 + reason * 2 ^ 20) k
  let s := updPath s k fun p => { p with gen := if p.virgin then f.gen else p.gen, virgin := false }
  cleanRx (downReceive s k) k

/-- What the check of a sealed flit's tag depends on: the key, the nonce, the header as additional data, the payload and the
tag (R368, R443). -/
def sealedData (s : State) (key n : Nat) (f : Flit) : List Byte :=
  leBytes 32 (Store.get s.keys key).key ++ leBytes 12 (nonceOf f.src f.dst f.gen n) ++ f.zeroed ++ f.payload ++ f.tag

/-- A flit's payload in clear under an entry's key; `n` is the path's 64-bit count of the write, which the receiver counts
too (R368). -/
def opened (s : State) (e : Nat) (f : Flit) (n : Nat) : List Byte :=
  fit 224 (Config.openGcm (Store.get s.keys (rxwKey e)).key (nonceOf f.src f.dst f.gen n) f.payload)

/-- The entry that admits a flit, and its payload in clear; else the reason (R363, R368): for a sealed flit it
is the entry under whose key the tag verifies and whose WID the opened payload names (log entry 24, DEDUCED). -/
def rxEntry (s : State) (k : Nat) (f : Flit) : (Nat × List Byte) ⊕ Nat :=
  let p := pathAt s k
  let cand := s.rxw.filter fun e => entLive e.2 && txwCtx e.2 == p.ctx && rxwAllows e.2 f.src
  if f.sealed then
    match cand.find? fun e => rxwKey e.2 != 0 && Config.verifies (sealedData s (rxwKey e.2) (p.wcnt + 1) f) &&
        recRwin (opened s e.2 f (p.wcnt + 1)) == rxwWid e.2 with
    | some e => .inl (e.2, opened s e.2 f (p.wcnt + 1))
    | none => .inr 5
  else match cand.find? fun e => rxwWid e.2 == (if f.kind = 3 then 0 else recRwin f.payload) with
    | some e => .inl (e.2, fit 224 f.payload)
    | none => .inr 1

/-- A reduction's new word (R372). -/
def reduceWord (op : Nat) (m x : Word) : Word :=
  match op with
  | 1 => m + x
  | 2 => (atomicNew 0x98 0 m x 0#32).1
  | 3 => (atomicNew 0x98 2 m x 0#32).1
  | _ => if m.slt x then x else m

/-- The cache of the RFL (R363). -/
def rflCaches : List Nat := [549]

/-- The bytes a record writes at a line (R442): a reduction's words are computed from what the home holds. -/
def recBytes (s : State) (p : List Byte) (pa : Nat) : List (Nat × Byte) :=
  let sel := (List.range 192).filter fun i => bit (recMask p) i
  if recOp p = 0 then sel.map fun i => (pa + i, recByte p i)
  else (distinct (sel.map (· / 4))).flatMap fun j =>
    let m := w32 (leNat ((List.range 4).map fun i => homeByte s (pa + 4 * j + i)))
    let x := w32 (leNat ((List.range 4).map fun i => recByte p (4 * j + i)))
    bytesAt (pa + 4 * j) (leBytes 4 (reduceWord (recOp p) m x).toNat)

/-- Applies a write or a reduction (R363). -/
def rxApply (s : State) (k : Nat) (f : Flit) : State :=
  match rxEntry s k f with
  | .inr r => rxRefuse s k f 0 (if f.sealed then 0 else recRwin f.payload) r
  | .inl (e, p) =>
    let va := txwPage e * frameBytes + recOff p
    if txwNpage e * frameBytes ≤ recOff p then rxRefuse s k f va (recRwin p) 2
    else match slotOfCtx s (pathAt s k).ctx with
      | none => rxRefuse s k f va (recRwin p) 3
      | some slot =>
        match resolve s rflCaches slot va with
        | none => rxRefuse s k f va (recRwin p) 3
        | some (l, pa) =>
          if !l.w then rxRefuse s k f va (recRwin p) 3
          else if l.c && !f.sealed then rxRefuse s k f va (recRwin p) 4
          else
            let bs := recBytes s p pa
            let (s, t) := perform s (lineOf pa) bs
            rxTaken (openEvents s (homePa s) (bs.map (·.1))) k f t

/-- RX_WRITE_APPLY (R263): the acknowledgement that is due is sent, a close marker whose writes are applied
closes the path, and the next write or reduction is applied. -/
def execRxWriteApply (path : Nat) (s : State) : Res :=
  let p := pathAt s path
  if !p.used || !p.recv then .next s
  else
    let s := cleanRx s path
    if !rxDue s path then .next s
    else
      let s := rxClose (rxAck s path) path
      match nextFlit s path with
      | some f => .next (if f.kind ≤ 2 && (pathAt s path).st ≤ 1 then rxApply s path f else s)
      | none => .next s

/-- PATH_CLOSED_RECEIVE (R365): the path closes once the writes up to S are applied. -/
def execPathClosedReceive (path : Nat) (n : Word) (s : State) : Res :=
  let p := pathAt s path
  let s := takeControl s p 5 n
  if !p.used || !p.recv || 2 ≤ p.st then .next s
  else
    let s := updPath s path fun p => { p with close := some n }
    .next (if rxDue s path then rxClose s path else s)

/-! The event window (R371). -/

/-- An event message of a kind that is next on a receive path: index and value. -/
def nextMsg (s : State) (k kind : Nat) : Option (Flit × Nat × Word) :=
  match nextFlit s k with
  | some f =>
    let m := (f.payload.drop 32).take 16
    if f.kind = 3 && leNat (m.drop 8) = kind then some (f, leNat (m.take 4), w32 (leNat ((m.drop 4).take 4))) else none
  | none => none

/-- Takes the next message of a kind: refused without an event window, beyond the table, or where `ok` says
so of the entry; it waits for the `room` that the messages it causes need (R267, R280); applied by `act` (R371). -/
def eventStep (s : State) (path kind : Nat) (ok : Nat → Bool) (room : Nat → Nat → Nat → Word → Bool) (act : State → Nat → Nat → Nat → Nat → Word → State) : Res :=
  let p := pathAt s path
  if !p.used || !p.recv then .next s
  else
    let s := cleanRx s path
    if !rxDue s path then .next s
    else
      let s := rxClose (rxAck s path) path
      match nextMsg s path kind with
      | none => .next s
      | some (f, idx, v) =>
        if 2 ≤ (pathAt s path).st then .next s
        else match rxEntry s path f, slotOfCtx s p.ctx with
          | .inr r, _ => .next (rxRefuse s path f 0 0 r)
          | .inl _, none => .next (rxRefuse s path f 0 0 6)
          | .inl _, some slot =>
            if !evIndexOk (ctxAt s slot) idx then .next (rxRefuse s path f 0 0 6)
            else match osdAccess s slot idx true with
              | .bad _ => .next (eventFail (rxTaken s path f s.gt) slot)
              | .ok pa e =>
                if !ok e then .next (rxRefuse s path f 0 0 6)
                else if !room slot idx e v then .next s
                else .next (act (rxTaken s path f s.gt) slot idx pa e v)

/-- EVENT_INC (R371): not to a mirror. -/
def execEventInc (path : Nat) (s : State) : Res :=
  eventStep s path 1 (fun e => !evMirror e) (fun slot idx e v => v == 0#32 || subsRoom s slot idx e 1) fun s slot idx pa e v => evAdd s slot idx pa e v

/-- EVENT_MIR (R313): only to a mirror; a frozen one takes no update. -/
def execEventMir (path : Nat) (s : State) : Res :=
  eventStep s path 2 evMirror (fun _ _ _ _ => true) fun s slot idx pa e v =>
    if !evFrozen e && decide (0 < serial v (evCtr e)) then evTell (evWrite s pa (evSetCtr e v)) slot idx v else s

/-- EVENT_SUB (R371): adds or removes the sender; a full table refuses with a record (R422). -/
def execEventSub (path : Nat) (s : State) : Res :=
  let peer := (pathAt s path).peer
  let room (slot _ _ : Nat) (v : Word) : Bool := v == 0#32 || egressRoom s (ctxidOf s slot) [peer] 1
  eventStep s path 3 (fun _ => true) room fun s slot idx pa e v =>
    let r := (ctxidOf s slot, idx, peer)
    if v = 0#32 then
      let s := { s with subs := s.subs.filter (· != r) }
      evWrite s pa (evSetBit e 59 (!(subscribersOf s slot idx).isEmpty))
    else if !s.subs.contains r && decide (16384 ≤ s.subs.length) then
      violation s 2 cRX_REFUSED (ctxidOf s slot) 0 (peer + 7 * 2 ^ 20) path
    else
      let s := { s with subs := if s.subs.contains r then s.subs else s.subs ++ [r] }
      let s := evWrite s pa (evSetBit e 59 true)
      sendMsg s slot peer noGroup 0 (eventMsg 2 idx (evCtr e))

end Sys2Proof.Machine
end

