-- ==== Sys2Proof/Machine/Streamer.lean ====
section
/-! DEFINITION. The streamers: copy commands, rings, queue fences and line-buffer maxima (R274 to R276, R283
to R303), and what the engines share: checked ranges, conversion and completion (R258, R287, R290). -/

namespace Sys2Proof.Machine

/-! Ranges and conversion. -/

/-- The physical addresses of a global range, or the cause and pages of the first fault found: a write also
needs W and lies in no transmit window (R287, R300). -/
def globalRange (s : State) (caches : List Nat) (slot va n : Nat) (wr : Bool) : (List Nat) ⊕ (Nat × Nat × List Nat) :=
  let pages := distinct ((List.range n).map fun i => (va + i) / frameBytes)
  if vaEnd < va + n then .inr (cADDRESS, Nat.max va vaEnd, [])
  else
    let fate (p : Nat) : Option Nat :=
      match translate s caches slot p with
      | .notResident => some cPAGE
      | .revoked => some cFAR_REVOKED
      | .ok l =>
        if wr && !l.w then some cPROTECTION
        else if wr && (windowOf s (ctxidOf s slot) p).isSome then some cPROTECTION else none
    match pages.findSome? fun p => (fate p).map fun c => (c, p) with
    | some (c, p) => .inr (c, Nat.max va (p * frameBytes), pages.filter fun p => (fate p).isSome)
    | none => .inl ((List.range n).map fun i =>
        match translate s caches slot ((va + i) / frameBytes) with
        | .ok l => paOf l.space l.frame ((va + i) % frameBytes)
        | _ => 0)

/-- Local-store keys of a scratch range under a bank list, or SCRATCH_RANGE (R204). -/
def scratchRange (c : Nat) (list : List Nat) (o n : Nat) : (List Nat) ⊕ (Nat × Nat × List Nat) :=
  if list.length * 49152 < o + n then .inr (cSCRATCH_RANGE, Nat.max o (list.length * 49152), [])
  else .inl ((List.range n).map fun i => offsetKey c list (o + i))

/-- The fields of a CVT word (R290). -/
def cvtS (w : Nat) : Nat := bits w 3 0
def cvtD (w : Nat) : Nat := bits w 7 4
def cvtE (w : Nat) : Int := sgn 8 (bits w 15 8)
def cvtSat (w : Nat) : Bool := bit w 16
def cvtRound (w : Nat) : Nat := bits w 19 17
def cvtAmx (w : Nat) : Bool := bit w 20

/-- A CVT word that R290 admits. -/
def cvtOk (w : Nat) : Bool :=
  bits w 31 21 == 0 && decide (cvtRound w ≤ 4) && bits w 15 8 != 0x80 && decide (cvtD w ≤ 9) &&
  (cvtS w == 0 || cvtS w == 1 || cvtS w == 9)

/-- Bytes of a source element. -/
def cvtSize (w : Nat) : Nat := elemBits (cvtS w) / 8

/-- Destination bytes of `n` elements (R290). -/
def cvtBytes (w n : Nat) : Nat := if isQF (cvtD w) then n / 16 * qfBytes (cvtD w) else n * (elemBits (cvtD w) / 8)

/-- The source elements of some bytes. -/
def cvtElems (w : Nat) (bs : List Byte) : List Val :=
  let k := cvtSize w
  (List.range (bs.length / k)).map fun i => elemVal (cvtS w) (leNat ((bs.drop (k * i)).take k))

/-- One element into a format that is not of the QF family (R290, R153). -/
def cvtOne (w : Nat) (y : Val) : List Byte × Nat :=
  let m : FMode := ⟨f32, cvtRound w, cvtSat w, false⟩
  let wide (f : Fmt) : List Byte × Nat := let r := f.finish m.mode m.sat false 0 y; (leBytes (f.width / 8) r.1, r.2)
  match cvtD w with
  | 0 => wide bf16
  | 1 => wide f16
  | 9 => wide f32
  | c => let r := toByte m c 0 y; (leBytes 1 r.1, r.2)

/-- Blocks of sixteen. -/
def blocks16 (l : List Val) : List (List Val) := (List.range (l.length / 16)).map fun i => (l.drop (16 * i)).take 16

/-- Converts source bytes (R290): the destination bytes and the FLAGS bits. -/
def convert (w : Nat) (bs : List Byte) : List Byte × Nat :=
  let ys := (cvtElems w bs).map fun x => x.scale (-(cvtE w))
  let rs := if isQF (cvtD w) then (blocks16 ys).map (qfEncode (cvtD w) (cvtRound w) (fun _ => 0)) else ys.map (cvtOne w)
  (rs.flatMap (·.1), orFlags (rs.map (·.2)))

/-- The largest magnitude of the source elements that are not NaN, as an F32 (R291). -/
def cvtAmax (w : Nat) (bs : List Byte) : Word :=
  w32 (f32.finish 0 false false 0 ((cvtElems w bs).foldl (fun m x => if x.isNan then m else m.max x.mag) (Ex.nil false))).1

/-! Queues and commands. -/

def strQueue (s : State) (c q : Nat) : List Cmd := Store.get s.strq (4 * c + q)
def updQueue (s : State) (c q : Nat) (f : List Cmd → List Cmd) : State := { s with strq := Store.upd s.strq (4 * c + q) f }
def updCmd (s : State) (c q n : Nat) (f : Cmd → Cmd) : State :=
  updQueue s c q fun l => l.map fun m => if m.id == n then f m else m

/-- Places of a queue: 32, and its reserve entry while that is in use (R274, R282). -/
def queueRoom (s : State) (c q : Nat) : Bool :=
  decide ((strQueue s c q).length < 32 + b2n (s.reserve.contains (8 * (4 * c + q) + 1)))

/-- QSTAT word 0 of a block and queue, and its fields (R300). -/
def qstat (s : State) (b q : Nat) : Nat := (Store.get (bAt s b).qstat (2 * q)).toNat
def qHalt (n : Nat) : Bool := bit n 0
def qCause (n : Nat) : Nat := bits n 15 8
def qCnt (n : Nat) : Nat := bits n 23 16
def setQstat (s : State) (b k : Nat) (n : Nat) : State := updB s b fun x => { x with qstat := Store.set x.qstat k (w64 n) }

/-- Counts cancellations (R300). -/
def qCancel (s : State) (b q n : Nat) : State :=
  let x := qstat s b q
  setQstat s b (2 * q) (x - qCnt x * 2 ^ 16 + Nat.min (qCnt x + n) 255 * 2 ^ 16)

/-- The fields of a command (R283, R285). -/
def Cmd.src (m : Cmd) : Nat := (m.regs.getD 0 0#32).toNat + 2 ^ 32 * (m.regs.getD 1 0#32).toNat
def Cmd.dst (m : Cmd) : Nat := (m.regs.getD 2 0#32).toNat + 2 ^ 32 * (m.regs.getD 3 0#32).toNat
def Cmd.len (m : Cmd) : Nat := (m.regs.getD 4 0#32).toNat
def Cmd.cvt (m : Cmd) : Nat := (m.regs.getD 5 0#32).toNat
def Cmd.strided (m : Cmd) : Bool := m.op == 0xB1 || m.op == 0xB2
def Cmd.rows (m : Cmd) : Nat := if m.strided then (m.regs.getD 5 0#32).toNat % 2 ^ 16 else 1
def Cmd.sstr (m : Cmd) : Nat := if m.strided then (m.regs.getD 6 0#32).toNat else 0
def Cmd.dstr (m : Cmd) : Nat := if m.strided then (m.regs.getD 7 0#32).toNat else 0
def Cmd.srcScr (m : Cmd) : Bool := bit m.sel 2
def Cmd.dstScr (m : Cmd) : Bool := bit m.sel 3
def Cmd.ringNo (m : Cmd) : Nat := m.sel / 16 % 16
def Cmd.usesSrc (m : Cmd) : Bool := m.op != 0xB5
def Cmd.usesDst (m : Cmd) : Bool := m.op != 0xB4
def Cmd.isCopy (m : Cmd) : Bool := decide (m.op ≤ 0xB5)
/-- Source and destination bytes of a row. -/
def Cmd.srcLen (m : Cmd) : Nat := if m.op = 0xB3 then m.len * cvtSize m.cvt else m.len
def Cmd.dstLen (m : Cmd) : Nat := if m.op = 0xB3 then cvtBytes m.cvt m.len else m.len

/-- The block of a command. -/
def Cmd.blk (m : Cmd) : Nat := blkOf m.g

/-- The ring record of a block. -/
def ringRec (s : State) (b k : Nat) : Ring := Store.get (bAt s b).rings k
def updRing (s : State) (b k : Nat) (f : Ring → Ring) : State := updB s b fun x => { x with rings := Store.upd x.rings k f }

/-- Slot bytes of a ring. -/
def Ring.slotBytes (r : Ring) : Nat := 192 * r.slotl

/-- Step 1 of R286. -/
def copyBad (m : Cmd) (r : Ring) : Bool :=
  (m.usesSrc && ((m.srcScr && m.src / 2 ^ 32 != 0) || m.src % 16 != 0)) ||
  (m.usesDst && ((m.dstScr && m.dst / 2 ^ 32 != 0) || m.dst % 16 != 0)) ||
  m.len % 16 != 0 || m.len == 0 ||
  (m.strided && (m.rows == 0 || m.sstr % 16 != 0 || m.dstr % 16 != 0)) ||
  (m.op == 0xB3 && !cvtOk m.cvt) ||
  (m.op == 0xB4 && r.valid && decide (r.slotBytes < m.len)) ||
  (m.op == 0xB2 && m.ev.toNat % 4 != 0)

/-- The ranges that a command names at issue: in scratch, start, bytes (R286). -/
def copyRanges (m : Cmd) : List (Bool × Nat × Nat) :=
  let rows := List.range m.rows
  (if !m.usesSrc then []
    else if m.op = 0xB2 then [(m.srcScr, m.src, 1)]
    else rows.map fun i => (m.srcScr, m.src + i * m.sstr, m.srcLen)) ++
  (if !m.usesDst then [] else rows.map fun i => (m.dstScr, m.dst + i * m.dstr, m.dstLen)) ++
  (if m.op = 0xB2 then [(true, m.ev.toNat, 4 * m.rows)] else [])

/-- Steps 2 and 3 of R286: the cause and fault address. Of several ranges that reach past the virtual range the first counts, source
rows before destination rows (log entry 166, DESIGN CHOICE); a scratch offset is not cut to 32 bits (log entry 130, DESIGN
CHOICE). -/
def copyOut (m : Cmd) (size : Nat) : Option (Nat × Nat) :=
  let rs := copyRanges m
  match rs.find? fun r => !r.1 && decide (vaEnd < r.2.1 + r.2.2) with
  | some r => some (cADDRESS, Nat.max r.2.1 vaEnd)
  | none =>
    match rs.filter fun r => r.1 && decide (size < r.2.1 + r.2.2) with
    | [] => none
    | r :: l => some (cSCRATCH_RANGE, l.foldl (fun n x => Nat.min n (Nat.max x.2.1 size)) (Nat.max r.2.1 size))

/-- A copy command (R286): checked; it stalls while its flag or its queue is full; cancelled while the block's HALT is set
(R300); else at the tail of its queue. It closes the region (R284). The high word of an offending scratch offset stands in FADRH
(log entry 130, DESIGN CHOICE). -/
def copy (s : State) (op sel : Nat) (a b : Opnd) : Res :=
  let c := coreOf s.curG
  let q := sel % 4
  let blk := cblk s
  let m : Cmd := { (default : Cmd) with
    op := op, g := s.curG, sel := sel, regs := ublock s a 8, ev := usrc s b
    banks := scratchBanks s blk, fifo := fifoBanks s blk }
  if copyBad m (ringRec s blk m.ringNo) then .next (raiseAll (closeRegion s) cOPERAND 0#64)
  else match copyOut m (scratchSize s blk) with
    | some (cause, fadr) => .next (raiseAll (closeRegion s) cause (w64 fadr))
    | none =>
      if flagFull s 2 || !queueRoom s c q then .next (stallHere s)
      else
        let s := closeRegion s
        if qHalt (qstat s blk q) then done (qCancel s blk q 1)
        else
          let (s, id) := addPend s 2 { (default : Pend) with kind := .engine, dst := .nul }
          done (updQueue s c q fun l => l ++ [{ m with id := id, pend := id }])

/-- Field D of a copy command. -/
def copySel (t s q r : Nat) : Nat := q + 4 * s + 8 * t + 16 * r

def execCpy (t x : BitVec 1) (q : BitVec 2) (a b : Opnd) (s : State) : Res :=
  copy s 0xB0 (copySel t.toNat x.toNat q.toNat 0) a b
def execCpy2 (t x : BitVec 1) (q : BitVec 2) (a b : Opnd) (s : State) : Res :=
  copy s 0xB1 (copySel t.toNat x.toNat q.toNat 0) a b
def execCpyg (t x : BitVec 1) (q : BitVec 2) (a b : Opnd) (s : State) : Res :=
  copy s 0xB2 (copySel t.toNat x.toNat q.toNat 0) a b
def execCpyc (t x : BitVec 1) (q : BitVec 2) (a b : Opnd) (s : State) : Res :=
  copy s 0xB3 (copySel t.toNat x.toNat q.toNat 0) a b
def execCpyr (r : BitVec 4) (x : BitVec 1) (q : BitVec 2) (a b : Opnd) (s : State) : Res :=
  copy s 0xB4 (copySel 0 x.toNat q.toNat r.toNat) a b
def execCpyz (t : BitVec 1) (q : BitVec 2) (a b : Opnd) (s : State) : Res :=
  copy s 0xB5 (copySel t.toNat 0 q.toNat 0) a b

/-! Rings (R293 to R298). -/

/-- The bytes of FIFO storage that a ring covers. -/
def Ring.size (r : Ring) : Nat := r.slotBytes * r.nslot

/-- RNGI (R293): every refusal of the rule holds for NSLOT = 0 too (log entry 137, DEDUCED); FMASK is cleared (R294). -/
def execRngi (r : BitVec 4) (a b : Opnd) (s : State) : Res :=
  let s := closeRegion s
  let blk := cblk s
  let old := ringRec s blk r.toNat
  let g := (usrc s b).toNat
  let base := (usrc s a).toNat
  let new : Ring := { (default : Ring) with valid := true, nslot := g % 256, slotl := g / 256 % 256, base := base }
  let meets := new.nslot != 0 && (bAt s blk).rings.any fun e => e.1 != r.toNat && e.2.valid &&
    decide (e.2.base < base + new.size) && decide (base < e.2.base + e.2.size)
  if g / 2 ^ 16 ≠ 0 || (old.valid && old.wp != old.rp) || base % 192 ≠ 0 || new.slotl = 0 || 64 < new.nslot ||
      (fifoBanks s blk).length * 49152 < base + new.size || meets then
    .next (raiseAll s cOPERAND 0#64)
  else done (updRing s blk r.toNat fun x => if new.nslot = 0 then { x with valid := false, fmask := 0 } else new)

/-- Takes the next full slot of a ring: the ring after, and the word of R296. -/
def ringTake (r : Ring) : Ring × Word :=
  ({ r with ap := (r.ap + 1) % 2 ^ 16 },
    w32 (r.slotBytes * (r.ap % r.nslot) + b2n (bit r.fmask (r.ap % r.nslot)) * 2 ^ 31))

/-- Does an earlier waiter of the block stand before a number at a ring (R276)? -/
def ringQueued (s : State) (b k n : Nat) : Bool :=
  s.groups.any fun g => blkOf g.1 == b && g.2.frags.any fun f =>
    match f.2.wait with
    | .rngw _ r m => r == k && decide (m < n)
    | _ => false

/-- RNGW (R296). -/
def execRngw (d : Opnd) (r : BitVec 4) (s : State) : Res :=
  let s := closeRegion s
  let b := cblk s
  let x := ringRec s b r.toNat
  if !x.valid then .next (raiseAll s cOPERAND 0#64)
  else if x.ap = x.fp || ringQueued s b r.toNat s.nextId then
    .next { waitFor s (.rngw d r.toNat s.nextId) with nextId := s.nextId + 1 }
  else
    let (x, w) := ringTake x
    done (updCG (updRing s b r.toNat fun _ => x) fun g => wrDst g d [w])

/-- RNGW_WAKE (R296). -/
def execRngwWake (g f : Nat) (s : State) : Res :=
  match (fragAt s g f).wait with
  | .rngw d k n =>
    let b := blkOf g
    let x := ringRec s b k
    if (gAt s g).saved then .next s
    else if !x.valid then .next (unlessPart s g (withCur (wake s g f) g f fun s => raiseAll s cOPERAND 0#64))
    else if x.ap = x.fp || ringQueued s b k n then .next s
    else
      let (x, w) := ringTake x
      .next (wakeWith (updRing s b k fun _ => x) g f d [w])
  | _ => .next s

/-- RNGR (R298): it waits for the group's earlier RNGQs. -/
def execRngr (r : BitVec 4) (a : Opnd) (s : State) : Res :=
  let b := cblk s
  let x := ringRec s b r.toNat
  let n := (usrc s a).toNat
  if (cg s).pend.any fun p => p.kind = .value && p.op == 0xB9 then .next s
  else
    let s := closeRegion s
    if !x.valid || n = 0 || (x.ap + 2 ^ 16 - x.rp) % 2 ^ 16 < n then .next (raiseAll s cOPERAND 0#64)
    else done (updRing s b r.toNat fun x => { x with rp := (x.rp + n) % 2 ^ 16 })

/-- The access of a thread of RNGQ at an offset of a ring's storage (R297). -/
def rngqThread (s : State) (blk : Nat) (x : Ring) (t o : Nat) : ThreadCheck :=
  if !x.valid then .trap t cOPERAND false 0 0
  else if o % 16 ≠ 0 then .trap t cDATA_ALIGN false o 0
  else if x.size ≤ o then .trap t cSCRATCH_RANGE false o 0
  else
    let k := offsetKey (blk / 4) (fifoBanks s blk) (x.base + o)
    .ok { (default : Acc) with t := t, pa := k, n := 16, got := true, bs := lsBytes s k 16 }

/-- RNGQ (R297): it waits while a bank that it reads drains (R206). -/
def execRngq (d : Opnd) (r : BitVec 4) (b : Opnd) (s : State) : Res :=
  let blk := cblk s
  let uni := uniform d
  let cs := (accThreads s uni).map fun t => rngqThread s blk (ringRec s blk r.toNat) t (src s .plain b t).toNat
  if (passing cs).any fun a => draining s a.pa s.nextId then .next s
  else issueMem s 1 uni false 0 cs fun as =>
    { (default : Pend) with kind := .value, dst := d, uni := uni, op := 0xB9, done := true, accs := as }

/-! Fences and waits (R292, R299, R301). -/

/-- The queues of a mask. -/
def queuesOf (m : Nat) : List Nat := [0, 1, 2, 3].filter fun q => bit m q

/-- QFNC (R299): it stalls while a named queue is full. -/
def execQfnc (m : BitVec 4) (s : State) : Res :=
  let c := coreOf s.curG
  let qs := queuesOf m.toNat
  if flagFull s 2 || qs.any (fun q => !queueRoom s c q) then .next (stallHere s)
  else
    let (s, id) := addPend (closeRegion s) 2 { (default : Pend) with kind := .engine, dst := .nul }
    let e : Cmd := { (default : Cmd) with id := id, pend := id, op := 0xBA, g := s.curG }
    done (qs.foldl (fun s q => updQueue s c q fun l => l ++ [e]) s)

/-- Has a group's copy command below a number in one of some queues not left its queue? -/
def copiesLeft (s : State) (g : Nat) (qs : List Nat) (bound : Nat) (k : Cmd → Bool) : Bool :=
  qs.any fun q => (strQueue s (coreOf g) q).any fun m => m.g == g && decide (m.id < bound) && m.isCopy && k m

/-- QWAIT's last step (R301): the word, and HALT and CNT cleared. -/
def qwaitTake (s : State) (b m : Nat) : State × Word :=
  let qs := queuesOf m
  let halts := qs.filter fun q => qHalt (qstat s b q)
  let w := halts.foldl (fun n q => n + 2 ^ q) 0 + (match halts with
    | q :: _ => qCause (qstat s b q) * 2 ^ 8
    | [] => 0)
  (qs.foldl (fun s q =>
    let x := qstat s b q
    setQstat s b (2 * q) (x - b2n (qHalt x) - qCnt x * 2 ^ 16)) s, w32 w)

/-- QWAIT (R301). -/
def execQwait (d : Opnd) (m : BitVec 4) (s : State) : Res :=
  let s := closeRegion s
  if copiesLeft s s.curG (queuesOf m.toNat) s.nextId (fun _ => true) then .next (waitFor s (.qwait d m.toNat s.nextId))
  else
    let (s, w) := qwaitTake s (cblk s) m.toNat
    done (updCG s fun g => wrDst g d [w])

/-- QWAIT_WAKE (R301). -/
def execQwaitWake (g f : Nat) (s : State) : Res :=
  match (fragAt s g f).wait with
  | .qwait d m n =>
    if (gAt s g).saved || copiesLeft s g (queuesOf m) n (fun _ => true) then .next s
    else
      let (s, w) := qwaitTake s (blkOf g) m
      .next (wakeWith s g f d [w])
  | _ => .next s

/-- Takes AMAX of a queue (R292). -/
def amaxTake (s : State) (c l : Nat) : State × Word :=
  ({ s with lbmax := Store.set s.lbmax (4 * c + l) 0#32 }, Store.get s.lbmax (4 * c + l))

/-- LBCL (R292). -/
def execLbcl (d : Opnd) (l : BitVec 2) (s : State) : Res :=
  let s := closeRegion s
  if copiesLeft s s.curG [l.toNat] s.nextId (fun m => m.op == 0xB3) then .next (waitFor s (.lbcl d l.toNat s.nextId))
  else
    let (s, w) := amaxTake s (coreOf s.curG) l.toNat
    done (updCG s fun g => wrDst g d [w])

/-- LBCL_WAKE (R292). -/
def execLbclWake (g f : Nat) (s : State) : Res :=
  match (fragAt s g f).wait with
  | .lbcl d l n =>
    if (gAt s g).saved || copiesLeft s g [l] n (fun m => m.op == 0xB3) then .next s
    else
      let (s, w) := amaxTake s (coreOf g) l
      .next (wakeWith s g f d [w])
  | _ => .next s

/-! Performing commands (R274, R287, R295, R300). -/

/-- A command faults (R300): QSTAT takes the fault if HALT is 0, and later queued commands of the block in the
queue end cancelled. -/
def cmdFault (s : State) (c q : Nat) (m : Cmd) (cause : Nat) : State :=
  let b := m.blk
  let x := qstat s b q
  let s := if qHalt x then s else
    setQstat (setQstat s b (2 * q) (1 + cause * 2 ^ 8 + qCnt x * 2 ^ 16 + m.chunk * 6144 % 2 ^ 32 * 2 ^ 32)) b (2 * q + 1) m.row
  let later := (strQueue s c q).filter fun k => k.isCopy && k.blk == b && !k.active && k.id != m.id
  let s := later.foldl (fun s k => dropPend s k.g k.pend) s
  let s := updQueue s c q fun l => (l.filter fun k => !(later.any fun x => x.id == k.id)).map fun k =>
    if k.id == m.id then { k with active := true, fault := some cause, moved := true } else k
  qCancel s b q later.length

/-- Tries to claim a slot for a CPYR that is ACTIVE (R295). -/
def cmdClaim (s : State) (c q : Nat) (m : Cmd) : State :=
  let b := m.blk
  let r := ringRec s b m.ringNo
  if !r.valid || r.slotBytes < m.len then cmdFault s c q m cOPERAND
  else if (r.wp + 2 ^ 16 - r.rp) % 2 ^ 16 = r.nslot then s
  else
    let s := updRing s b m.ringNo fun r => { r with
      wp := (r.wp + 1) % 2 ^ 16, fmask := r.fmask - b2n (bit r.fmask (r.wp % r.nslot)) * 2 ^ (r.wp % r.nslot) }
    updCmd s c q m.id fun k => { k with slot := some r.wp, ring := r }

/-- Waits a CPYR for its slot? -/
def Cmd.unclaimed (m : Cmd) : Bool := m.op == 0xB4 && m.active && m.slot.isNone && m.fault.isNone

/-- The next command of a queue that may become ACTIVE: in queue order, not behind a fence or a CPYR that waits for its slot
(R295), at most two ACTIVE (R274, R299), its block's queue not frozen (R421). -/
def nextCmd (s : State) (c q : Nat) : Option Cmd :=
  let l := strQueue s c q
  if l.any (fun m => (m.op == 0xBA && m.active) || m.unclaimed) || 2 ≤ (l.filter (·.active)).length then none
  else match l.find? fun m => !m.active with
    | some m => if bit (bAt s m.blk).qfrz q then none else some m
    | none => none

/-- STREAMER_ACTIVATE (R274, R295): CPYRs that wait for a slot claim it (R276), or the next command becomes ACTIVE. -/
def execStreamerActivate (c q : Nat) (s : State) : Res :=
  let claimed := ((strQueue s c q).filter Cmd.unclaimed).foldl (fun s m => cmdClaim s c q m) s
  if claimed ≠ s then .next claimed
  else match nextCmd s c q with
    | none => .next s
    | some m =>
      let s := updCmd s c q m.id fun k => { k with active := true }
      .next (if m.op = 0xB4 then cmdClaim s c q { m with active := true } else s)

/-- The bytes at some places as read number `k` of a command finds them: aligned words of 16 bytes of the local store or of
memory, each whole, old or new (R251, R255, R257). -/
def Cmd.peek (s : State) (m : Cmd) (k : Nat) (loc : Bool) (ps : List Nat) : List Byte :=
  if m.olds.isEmpty then ps.map fun p => if loc then Store.get s.ls p else homeByte s p
  else ps.map fun p =>
    if loc then ((oldOrNew s m.olds k (p / 16) (lsBytes s (p / 16 * 16) 16))[p % 16]?).getD 0#8
    else
      let h := homePa s p
      ((oldOrNew s m.olds k (2 ^ 60 + h / 16) (memBytes s (h / 16 * 16) 16))[h % 16]?).getD 0#8

/-- A CPYG's index of the row in hand, from its table in scratch: read once for the row (R287). -/
def Cmd.index (s : State) (m : Cmd) : Nat :=
  match m.idx with
  | some i => i
  | none =>
    let k := offsetKey (coreOf m.g) m.banks (m.ev.toNat + 4 * m.row)
    leNat (m.peek s 1 true ((List.range 4).map (k + ·)))

/-- Source row of a command (R289). -/
def Cmd.rowSrc (s : State) (m : Cmd) : Nat :=
  m.src + (if m.op = 0xB2 then m.index s else m.row) * m.sstr

/-- Offsets and lengths of a chunk: source bytes from 6,144 k; the destination's by its own element size. -/
def Cmd.chunkSrc (m : Cmd) : Nat × Nat := (6144 * m.chunk, Nat.min 6144 (m.srcLen - 6144 * m.chunk))
def Cmd.chunkDst (m : Cmd) : Nat × Nat :=
  let (o, n) := m.chunkSrc
  if m.op = 0xB3 then (cvtBytes m.cvt (o / cvtSize m.cvt), cvtBytes m.cvt (n / cvtSize m.cvt)) else (o, n)

/-- Places of a chunk's source: in scratch or by physical address. -/
def cmdSource (s : State) (m : Cmd) : (List Nat) ⊕ (Nat × Nat × List Nat) :=
  let c := coreOf m.g
  let (o, n) := m.chunkSrc
  if !m.usesSrc then .inl []
  else if m.srcScr then scratchRange c m.banks (m.rowSrc s + o) n
  else globalRange s (coreCaches c) (gAt s m.g).ctx (m.rowSrc s + o) n false

/-- Places of a chunk's destination; a CPYR's lie in its ring's FIFO banks. -/
def cmdDest (s : State) (m : Cmd) : (List Nat) ⊕ (Nat × Nat × List Nat) :=
  let c := coreOf m.g
  let (o, n) := m.chunkDst
  if m.op = 0xB4 then
    let base := m.ring.base + m.ring.slotBytes * (m.slot.getD 0 % m.ring.nslot)
    .inl ((List.range n).map fun i => offsetKey c m.fifo (base + o + i))
  else if m.dstScr then scratchRange c m.banks (m.dst + m.row * m.dstr + o) n
  else globalRange s (coreCaches c) (gAt s m.g).ctx (m.dst + m.row * m.dstr + o) n true

/-- Is the destination in the local store? -/
def Cmd.local_ (m : Cmd) : Bool := m.op == 0xB4 || m.dstScr

/-- Pairs places with bytes. -/
def zipBytes : List Nat → List Byte → List (Nat × Byte)
  | k :: ks, b :: bs => (k, b) :: zipBytes ks bs
  | _, _ => []

/-- Writes bytes at places of the local store of a core, where other commands may be reading (R257), or at the homes; answers
the completion time. -/
def putPlaces (s : State) (loc : Option Nat) (bs : List (Nat × Byte)) : State × Nat :=
  match loc with
  | some c => (bs.foldl (fun s e => lsPut s e.1 [e.2]) (noteScratch s c none bs), 0)
  | none =>
    let (s, t) := performAll s bs
    (openEvents s (homePa s) (bs.map (·.1)), t)

/-- Is a place of the local store among some in a bank that drains since before the command's issue (R206)? -/
def heldAny (s : State) (m : Cmd) (ps : List Nat) : Bool :=
  (distinct (ps.map (· / 49152))).any fun k => (Store.get s.banks k).holds m.id

/-- Does a bank hold back the read of a CPYG's index (R206)? -/
def Cmd.tableHeld (s : State) (m : Cmd) : Bool :=
  m.op == 0xB2 && m.idx.isNone && heldAny s m [offsetKey (coreOf m.g) m.banks (m.ev.toNat + 4 * m.row)]

/-- The rest of a CPYR's slot, which reads zero once its last chunk is written (R295). -/
def Cmd.slotRest (m : Cmd) : List Nat :=
  if m.op = 0xB4 && m.srcLen ≤ 6144 * (m.chunk + 1) then
    let base := m.ring.base + m.ring.slotBytes * (m.slot.getD 0 % m.ring.nslot)
    (List.range (m.ring.slotBytes - m.len)).map fun i => offsetKey (coreOf m.g) m.fifo (base + m.len + i)
  else []

/-- Does a bank hold back a chunk (R206)? -/
def chunkHeld (s : State) (m : Cmd) (from_ to_ : List Nat) : Bool :=
  (m.usesSrc && m.srcScr && heldAny s m from_) || (m.local_ && heldAny s m (to_ ++ m.slotRest))

/-- May a command move data: every earlier one has moved all of its own, so that none waits for a slot (R256, R295); earlier
loads of the group are done (R257). -/
def mayMove (s : State) (c q : Nat) (m : Cmd) : Bool :=
  ((strQueue s c q).takeWhile fun k => k.id != m.id).all (·.moved) &&
  m.active && m.isCopy && !m.moved && !m.unclaimed && !pendBefore (gAt s m.g) m.id PendKind.loads && !m.tableHeld s &&
  !bit (bAt s m.blk).qfrz q

/-- A chunk's bytes are written; later chunks of the command and later commands of its queue see them (R256, R287). -/
def cmdPut (s : State) (c q : Nat) (m : Cmd) (bs : List (Nat × Byte)) : State × Nat :=
  let (s', t) := putPlaces s (if m.local_ then some c else none) bs
  let seen := if m.local_ then bs else bs.map fun e => (2 ^ 64 + homePa s e.1, e.2)
  let own := (strQueue s c q).map fun k => if k.olds.isEmpty then k else { k with olds := patchOlds seen k.olds }
  ({ s' with strq := Store.set s'.strq (4 * c + q) own }, t)

/-- Moves one chunk whose places are known (R287): the bytes, AMAX, flags and progress. -/
def cmdMove (s : State) (c q : Nat) (m : Cmd) (from_ to_ : List Nat) : State :=
  let bs := if m.usesSrc then m.peek s 0 m.srcScr from_ else List.replicate to_.length 0#8
  let s := if m.olds.isEmpty then s else spend s
  let (out, fl) := if m.op = 0xB3 then convert m.cvt bs else (bs, 0)
  let (s, t) := cmdPut s c q m (zipBytes to_ out)
  let s := if m.op = 0xB3 && cvtAmx m.cvt then
      { s with lbmax := Store.upd s.lbmax (4 * c + q) fun w => w32 (f32.finish 0 false false 0
          ((f32.val w.toNat).max (f32.val (cvtAmax m.cvt bs).toNat))).1 }
    else s
  let lastChunk := decide (m.srcLen ≤ 6144 * (m.chunk + 1))
  let lastRow := decide (m.rows ≤ m.row + 1)
  let s := m.slotRest.foldl (fun s k => lsPut s k [0#8]) s
  updCmd s c q m.id fun k => { k with
    chunk := if lastChunk then 0 else k.chunk + 1, row := if lastChunk then k.row + 1 else k.row
    idx := if lastChunk then none else m.idx
    moved := lastChunk && lastRow, fl := k.fl ||| fl, time := Nat.max k.time t }

/-- The distinct pages for which a chunk makes fault records, each with its kind, engine read 8 or engine write 9 (R277, R300):
those of its source, and those of its destination too, from the faults of the two. A chunk whose cause is no page's (ADDRESS,
SCRATCH_RANGE) makes none. -/
def chunkPages : (src dst : List Nat ⊕ (Nat × Nat × List Nat)) → List (Nat × Nat)
  | .inr (_, _, []), _ => []
  | .inr (_, _, ps), .inr (_, _, qs) => ps.map (·, 8) ++ (qs.filter fun p => !ps.contains p).map (·, 9)
  | .inr (_, _, ps), .inl _ => ps.map (·, 8)
  | .inl _, .inr (_, _, qs) => qs.map (·, 9)
  | .inl _, .inl _ => []

/-- Makes the fault records of a faulted chunk for a source of records, which waits for their acceptance (R277). -/
def chunkRecords (s : State) (slot : Nat) (owner : Nat × Nat) (pages : List (Nat × Nat)) : State :=
  pages.foldl (fun s p => faultRec s ⟨ctxidOf s slot, p.1, p.2, some owner⟩) s

/-- The fault records of a command's faulted chunk. -/
def cmdRecords (s : State) (m : Cmd) (pages : List (Nat × Nat)) : State :=
  chunkRecords s (gAt s m.g).ctx (m.g, 8 + m.pend) pages

/-- Pins the lines of a global range that a core's engine reads or writes through PL = 1 leaves (R214). -/
def pinPlaces (s : State) (m : Cmd) (loc : Bool) (va n : Nat) : State :=
  if loc then s else pinRange s (some (coreOf m.g / 16)) (coreCaches (coreOf m.g)) (gAt s m.g).ctx va n

/-- The lines of global places that a core's engine reads or writes meet the L2, where a miss is the cluster's (R213, R405). -/
def meetPlaces (s : State) (m : Cmd) (loc : Bool) (ps : List Nat) : State :=
  if loc then s else meetCore s (coreOf m.g) ps

/-- STREAMER_CHUNK (R287): the next chunk of command `n` is checked, read and written. An index row of CPYG is checked chunk by
chunk, so that one which leaves its range later has moved the chunks before (R289; log entry 167, DESIGN CHOICE). -/
def execStreamerChunk (c q n : Nat) (s : State) : Res :=
  match (strQueue s c q).find? fun m => m.id == n with
  | none => .next s
  | some m =>
    if !mayMove s c q m then .next s
    else
      let m := if m.op = 0xB2 then { m with idx := some (m.index s) } else m
      let pages := chunkPages (cmdSource s m) (cmdDest s m)
      match cmdSource s m, cmdDest s m with
      | .inr (cause, _, _), _ => .next (cmdFault (cmdRecords s m pages) c q m cause)
      | .inl _, .inr (cause, _, _) => .next (cmdFault (cmdRecords s m pages) c q m cause)
      | .inl from_, .inl to_ =>
        if chunkHeld s m from_ to_ then .next s else
        let s' := pinPlaces s m (!m.usesSrc || m.srcScr) (m.rowSrc s + m.chunkSrc.1) m.chunkSrc.2
        let s' := pinPlaces s' m m.local_ (m.dst + m.row * m.dstr + m.chunkDst.1) m.chunkDst.2
        let s' := meetPlaces (meetPlaces s' m (!m.usesSrc || m.srcScr) from_) m m.local_ to_
        .next (cmdMove s' c q m from_ to_)

/-- A fill completes (R276): its DMASK bit, then FP passes over consecutive ones. -/
def fpAdvance : Nat → Ring → Ring
  | 0, r => r
  | n + 1, r => if bit r.dmask 0 then fpAdvance n { r with dmask := r.dmask / 2, fp := (r.fp + 1) % 2 ^ 16 } else r

def ringFilled (r : Ring) (slot : Nat) (fault : Bool) : Ring :=
  let j := (slot + 2 ^ 16 - r.fp) % 2 ^ 16
  let r := { r with
    dmask := r.dmask ||| 2 ^ j, fmask := if fault then r.fmask ||| 2 ^ (slot % r.nslot) else r.fmask }
  fpAdvance 64 r

/-- STREAMER_COMPLETE (R288): after the last write's completion time (R258), once its fault records are accepted (R277), the
command leaves its queue. -/
def execStreamerComplete (c q n : Nat) (s : State) : Res :=
  match (strQueue s c q).find? fun m => m.id == n with
  | none => .next s
  | some m =>
    let slot := (gAt s m.g).ctx
    let ok := m.fault.isNone
    let tells := ok && m.op != 0xB2
    if !m.isCopy || !m.moved || s.gt ≤ m.time || recWaiting s (m.g, 8 + m.pend) || (tells && !signalRoom s slot m.ev 1#32 1) then .next s
    else
      let s := updQueue s c q fun l => l.filter fun k => k.id != n
      let s := match m.slot with
        | some w => updRing s m.blk m.ringNo fun r => ringFilled r w (!ok)
        | none => s
      let s := if tells then engineSignal s slot m.g m.pend m.ev 1#32 else s
      let s := if ok then updPend s m.g m.pend fun p => { p with fl := p.fl ||| m.fl } else s
      .next (dropPend s m.g m.pend)

/-- QUEUE_FENCE_LEAVE (R299): entries of one fence leave together once each is at the head of its queue. -/
def execQueueFenceLeave (c n : Nat) (s : State) : Res :=
  let qs := [0, 1, 2, 3].filter fun q => (strQueue s c q).any fun m => m.id == n && m.op == 0xBA
  let ready := qs.all fun q => match strQueue s c q with
    | m :: _ => m.id == n
    | [] => false
  match qs with
  | [] => .next s
  | q :: _ =>
    if !ready then .next s
    else
      let g := ((strQueue s c q).head?.map (·.g)).getD 0
      .next (dropPend (qs.foldl (fun s q => updQueue s c q fun l => l.drop 1) s) g n)

end Sys2Proof.Machine
end

