-- ==== Sys2Proof/Machine/Osd.lean ====
section
/-! DEFINITION. The operator scheduler: streams (R268 to R271), decoding (R305, R306), points, tokens and
dispatch (R314 to R318), the frontier (R327 to R335), mailboxes (R272, R322 to R324), OPPUSH (R325) and FRQ
(R340). -/

namespace Sys2Proof.Machine

/-! Streams. -/

/-- SIZE of a ring (R268). -/
def Stream.size (x : Stream) : Nat := 2 ^ (if x.logsz < 4 || 20 < x.logsz then 4 else x.logsz)

/-- Difference of two indexes modulo 2^32. -/
def idxSub (a b : Word) : Nat := (a - b).toNat

/-- A tail write (R269). -/
def tailWrite (s : State) (slot k : Nat) (seq idx : Word) : State :=
  updStream s slot k fun x =>
    if x.st ≠ 1 && x.st ≠ 2 then x
    else if serial seq x.lseq ≤ 0 then x
    else if x.size < idxSub idx x.hi then { x with st := 3, cause := 1 }
    else { x with lseq := seq, ti := if idxSub x.ti x.hi < idxSub idx x.hi then idx else x.ti }

/-- A tail write of a 64-bit value (R268). -/
def tailValue (s : State) (slot k : Nat) (v : Quad) : State :=
  tailWrite s slot k (w32 (v.toNat / 2 ^ 32)) (w32 v.toNat)

/-- The OPPUSH of a context slot whose pair is due at a stream (R325). -/
def pushDue (s : State) (slot k : Nat) (v : Quad) : Option (Nat × Nat) :=
  s.groups.findSome? fun g =>
    if g.2.ctx == slot then
      (g.2.pend.find? fun p => p.kind == .push && p.op == k && decide (p.time < s.gt) &&
        p.accs.any fun a => a.x == w32 v.toNat && a.y == w32 (v.toNat / 2 ^ 32)).map fun p => (g.1, p.id)
    else none

/-- STREAM_TAIL_WRITE (R269): from the host, or of an OPPUSH whose shadow write has completed (R325). -/
def streamTail (slot k : Nat) (v : Quad) (s : State) : Res :=
  let due := pushDue s slot k v
  let s := tailValue s slot k v
  .next (match due with
    | some (g, id) => dropPend s g id
    | none => s)

/-- STREAM_RECONCILE (R271): every 100 µs the shadow word of every stream in RUN or HELD is a tail write. -/
def execStreamReconcile (s : State) : Res :=
  if s.gt < s.recon + 100000 then .next s
  else .next (s.streams.foldl (fun s e =>
    if e.2.st == 1 || e.2.st == 2 then
      match readVa s osdCaches (e.1 / 64) e.2.shadow.toNat 8 with
      | some bs => tailValue s (e.1 / 64) (e.1 % 64) (w64 (leNat bs))
      | none => s
    else s) { s with recon := s.gt })

/-- STREAM_CTL_EN (R270). -/
def streamEnable (slot k : Nat) (s : State) : Res :=
  .next (updStream s slot k fun x => if x.st = 0 then { x with st := 1 } else x)

/-- A point's tokens go back to the pool, or its request is withdrawn (R315). -/
def returnTokens (s : State) (n : Nat) (p : Point) : State :=
  let s := { s with tokq := s.tokq.filter fun r => !(r.slot == n && r.l == p.l) }
  if p.tok = 2 then { s with grant := s.grant - opPwr (opAt s n).ins } else s

/-- Frees a slot and its line entries (R330, R333); copies of its points that wait for an engine are no more. -/
def freeOp (s : State) (n : Nat) : State :=
  { s with
    ops := Store.set s.ops n default
    tceq := (s.tceq.map (·.1)).foldl (fun m k => Store.upd m k fun q => q.filter fun c => c.mig || c.slot != n) s.tceq }

/-- An operator leaves its slot for a record that is written now (R336): it has not completed. -/
def saveOp (s : State) (n : Nat) : State :=
  let x := opAt s n
  { freeOp s n with away := s.away ++ [⟨x.ctx, x.stream, n, s.gt, x.num⟩] }

/-- The waits that a point registered end without being reached (R312, R335). -/
def endWaits (s : State) (x : OpSlot) (p : Point) : State :=
  let s := if p.wait0 then evRelink s x.ctx (evIdx (opWait0 x.ins)) else s
  if p.wait1 then evRelink s x.ctx (evIdx (opWait1 x.ins)) else s

/-- An operator that a frozen boundary mirror holds for good, whose stream was reset and of which no job is under way, is
freed (R329, R330; log entry 25, DEDUCED). -/
def freeReset (s : State) (n : Nat) : State :=
  let x := opAt s n
  if x.used && x.rst && x.bndfrz && x.points.all (fun p => p.st == .fired) then
    x.points.foldl (fun s p => endWaits s x p) (freeOp (x.points.foldl (fun s p => returnTokens s n p) s) n)
  else s

/-- STREAM_CTL_RST (R270): operators already decoded keep running, but for those that never can again (R329). -/
def streamReset (slot k : Nat) (s : State) : Res :=
  let s := updStream s slot k fun x => { x with
    st := 0, hi := 0#32, ti := 0#32, lseq := 0#32, cause := 0, waiting := 0, held := false }
  .next (s.ops.foldl (fun s e =>
    if e.2.used && e.2.ctx == slot && e.2.stream == k then freeReset (updOp s e.1 fun x => { x with rst := true }) e.1
    else s) s)

/-! Checks at decode (R306, R308, R328). -/

/-- What is left of an instruction when some fields are taken out. -/
def without (i : Nat) (fs : List (Nat × Nat)) : Nat := fs.foldl (fun n f => n - bits i f.1 f.2 * 2 ^ f.2) i

/-- The fields, beside OPC and VER, that an opcode uses (R305). -/
def opFields (opc : Nat) : List (Nat × Nat) :=
  match opc with
  | 1 => [(31, 12), (203, 36), (511, 208)]
  | 2 => [(19, 12), (31, 28), (39, 36), (203, 56), (511, 208)]
  | 3 => [(335, 208)]
  | 4 => [(383, 336)]
  | 6 => [(71, 56), (271, 208)]
  | 8 => [(29, 29), (31, 31), (71, 56), (87, 72), (383, 336), (511, 448)]
  | 9 => [(29, 29), (71, 56), (87, 72), (383, 336)]
  | _ => []

/-- A dependence vector of R328, but for BND. -/
def depOk (ndim d : Nat) : Bool :=
  let d0 := depC d 0
  let d1 := depC d 1
  let d2 := depC d 2
  (decide (0 < d2) || (d2 == 0 && (decide (0 < d1) || (d1 == 0 && decide (0 < d0))))) &&
  (decide (1 < ndim) || d1 == 0) && (decide (2 < ndim) || d2 == 0)

/-- The checks of R306 on the space of OPRUN and OPCOPY. -/
def spaceBad (i : Nat) : Bool :=
  opNdim i == 0 || decide (4 < opNdep i) ||
  [0, 1, 2].any (fun k => if k < opNdim i then opExtRaw i k == 0 else decide (1 < opExtRaw i k)) ||
  decide (16384 < opLines i) ||
  [0, 1, 2, 3].any (fun k => decide (opNdep i ≤ k) && opDep i k != 0) ||
  (opDeps i).any (fun d => !depOk (opNdim i) d)

/-- A name that a context may wait on here: 0 fine, 4 FORMAT, 3 FETCH (R306, R310). -/
def nameFault (s : State) (slot : Nat) (n : Word) (waits : Bool) : Nat :=
  if isNone n then 0
  else if !evIndexOk (ctxAt s slot) (evIdx n) then 4
  else if !waits || evChip n = s.chip then 0
  else match osdAccess s slot (evIdx n) false with
    | .ok _ e => if evMirror e then 0 else 4
    | .bad _ => 3

/-- The first of some faults. -/
def firstFault (l : List Nat) : Nat := (l.find? (· != 0)).getD 0

/-- Why an instruction is refused: 0 not, else the cause of the stream's ERROR (R306). -/
def opFault (s : State) (slot i : Nat) : Nat :=
  let opc := opOpc i
  if opVer i ≠ 1 then 2
  else if opc = 0 || 9 < opc then 4
  else if without i ([(7, 0), (11, 8)] ++ opFields opc) ≠ 0 then 4
  else if opc ≤ 2 && spaceBad i then 4
  else if opc = 6 && opExtRaw i 0 = 0 then 4
  else if opc = 9 && (opExtRaw i 1 = 0 || 4096 < opExtRaw i 0 + opExtRaw i 1) then 4
  else
    let ext := decide (opc ≤ 2) && (opDeps i).any depExt
    if ext && isNone (opBnd i) then 4
    else firstFault [nameFault s slot (opWait0 i) true, nameFault s slot (opWait1 i) true,
      nameFault s slot (opSig i) false, nameFault s slot (opBnd i) ext]

/-- The limits of a copy descriptor (R308). -/
def copyDescOk (d : Nat) : Bool :=
  bits d 511 480 == 0 && bits d 383 352 == 0 && bits d 127 64 == 0 &&
  [256, 288, 320, 384, 416, 448].all (fun o => bits d (o + 31) o % 16 == 0) &&
  bits d 223 192 % 16 == 0 && bits d 191 128 % 16 == 0 && bits d 63 0 % 16 == 0 &&
  (let w := bits d 255 224
   w == 0 || (cvtOk w && (!isQF (cvtD w) || bits d 223 192 / cvtSize w % 16 == 0)))

/-! Decoding. -/

/-- The address of the instruction at HI (R268). -/
def opAddr (x : Stream) : Nat := x.sbase.toNat + 64 * (x.hi.toNat % x.size)

/-- Is a wait of an operator none or reached (R311)? A frozen mirror reaches nothing more (log entry 26, DEDUCED). -/
def waitReached (s : State) (slot : Nat) (n t : Word) : Bool :=
  isNone n || (match osdAccess s slot (evIdx n) false with
    | .ok _ e => evReached e t
    | .bad _ => false)

/-- Did an access to a wait's entry fail (R310)? -/
def waitFails (s : State) (slot : Nat) (n : Word) : Bool :=
  !isNone n && (match osdAccess s slot (evIdx n) false with
    | .ok .. => false
    | .bad _ => true)

/-- Has every operator of a stream decoded before a number completed (R305)? One that is saved has not (log entry 139,
DEDUCED). -/
def earlierDone (s : State) (slot k num : Nat) : Bool :=
  !(s.away.any fun a => a.ctx == slot && a.stream == k && decide (a.num < num)) &&
  !(s.ops.any fun e => e.2.used && e.2.ctx == slot && e.2.stream == k && decide (e.2.num < num)) &&
  !(s.pops.any fun p => p.ctx == slot && p.stream == k && decide (p.num < num))

/-- The lowest free slot, and the line entries in use (R330, R334). -/
def freeSlot (s : State) : Option Nat := (List.range 64).find? fun n => !(opAt s n).used
def linesUsed (s : State) : Nat := s.ops.foldl (fun n e => n + if e.2.used then opLines e.2.ins else 0) 0

/-- May a slot and line entries be given now; none to a request behind a waiting one, of a stream or of an FRLD (R334,
R336). -/
def slotFor (s : State) (lines waiting : Nat) : Option Nat :=
  let first (n : Nat) : Bool := n != 0 && (waiting == 0 || decide (n < waiting))
  let ahead := (s.streams.any fun e => e.2.st == 1 && first e.2.waiting) ||
    s.groups.any fun g => !g.2.saved && g.2.frags.any fun f => first f.2.asks
  if ahead || 65536 < linesUsed s + lines then none else freeSlot s

/-- The stream goes on after the instruction at HI. -/
def streamNext (s : State) (slot k n : Nat) : State :=
  updStream s slot k fun x => { x with hi := x.hi + w32 n, held := false, waiting := 0 }

/-- The stream goes to ERROR with a cause, HI at the instruction (R270). -/
def streamError (s : State) (slot k cause : Nat) : State :=
  updStream s slot k fun x => { x with st := 3, cause := cause, held := false, waiting := 0 }

/-- The stream holds. -/
def streamHold (s : State) (slot k : Nat) : State := updStream s slot k fun x => { x with held := true }

/-- A decoded operator takes its number in the stream. -/
def streamCount (s : State) (slot k : Nat) : State := updStream s slot k fun x => { x with dec := x.dec + 1 }

/-- An OPRUN or OPCOPY takes a slot, or its stream waits for one (R334); while the context is pre-empted no point of it fires
(R273, R331). -/
def decodeSlot (s : State) (slot k ins copy : Nat) : State :=
  let x := streamAt s slot k
  match slotFor s (opLines ins) x.waiting with
  | none =>
    if x.waiting = 0 then
      updStream { s with nextId := s.nextId + 1 } slot k fun x => { x with waiting := s.nextId + 1 }
    else s
  | some n =>
    let o : OpSlot := { (default : OpSlot) with
      used := true, ctx := slot, stream := k, num := x.dec + 1, age := s.nextId, ins := ins, opa := w64 (opAddr x), copy := copy
      drain := (ctxAt s slot).st == 2 }
    streamNext (streamCount { s with ops := Store.set s.ops n o, nextId := s.nextId + 1 } slot k) slot k 1

/-- OPPIN (R305, R214): each line that translates is pinned or released. -/
def opPin (s : State) (slot ins : Nat) : State :=
  (List.range (opExtRaw ins 1 * 2 ^ 16 + opExtRaw ins 0)).foldl (fun s i =>
    match resolve s osdCaches slot (opArg ins + 192 * i) with
    | none => s
    | some (_, pa) =>
      let l := redirectLine s (lineOf pa)
      if opRel ins then updL2 s l fun x => { x with pin := 0, pinPage := 0 }
      else if paSpace pa = 2 then s
      else
        let (s, ok) := l2Pin (l2Hold s l) l slot 0
        if ok then s else pmcCount s (pmcsAt none (homeOf l).1) 0x12 1) s

/-- An operator's signal (R312), made for a group or for none: nothing where SIG is none. -/
def opSignal (s : State) (slot ins g : Nat) : State :=
  if isNone (opSig ins) || opInc ins = 0#32 then s
  else engineSignal { s with nextId := s.nextId + 1 } slot g s.nextId (opSig ins) (opInc ins)

/-- Can `n` signals of an operator be made now (R267, R280)? -/
def opRoom (s : State) (slot ins n : Nat) : Bool := isNone (opSig ins) || signalRoom s slot (opSig ins) (opInc ins) n

/-- An operator whose work comes once earlier ones have completed is recorded (R305). -/
def decodeLater (s : State) (slot k ins : Nat) : State :=
  let x := streamAt s slot k
  streamNext (streamCount { s with pops := s.pops ++ [⟨slot, k, x.dec + 1, ins⟩] } slot k) slot k 1

/-- Decodes an instruction that R306 admits (R305). -/
def decodeOp (s : State) (slot k ins : Nat) : State :=
  let x := streamAt s slot k
  match opOpc ins with
  | 1 => decodeSlot s slot k ins 0
  | 2 =>
    match readVa s osdCaches slot (opArg ins) 64 with
    | none => streamError s slot k 3
    | some bs => if copyDescOk (leNat bs) then decodeSlot s slot k ins (leNat bs) else streamError s slot k 4
  | 3 =>
    if waitFails s slot (opWait0 ins) || waitFails s slot (opWait1 ins) then eventFail s slot
    else if waitReached s slot (opWait0 ins) (opWt0 ins) && waitReached s slot (opWait1 ins) (opWt1 ins) then
      streamNext s slot k 1
    else streamHold s slot k
  | 4 => decodeLater s slot k ins
  | 5 => if earlierDone s slot k (x.dec + 1) then streamNext s slot k 1 else streamHold s slot k
  | 6 =>
    if waitFails s slot (opWait0 ins) then eventFail s slot
    else if waitReached s slot (opWait0 ins) (opWt0 ins) then
      (if opExtRaw ins 0 + 1 < idxSub x.ti x.hi then streamNext s slot k (opExtRaw ins 0 + 1) else streamHold s slot k)
    else streamNext s slot k 1
  | 7 => updStream (streamNext s slot k 1) slot k fun x => { x with st := 0 }
  | 8 =>
    if opSigend ins && !opRoom s slot ins 1 then s
    else
      let s := opPin s slot ins
      streamNext (if opSigend ins then opSignal s slot ins noGroup else s) slot k 1
  | _ => decodeLater s slot k ins

/-- The instruction at HI of a stream that may decode; none when the ring cannot be read. -/
def opFetch (s : State) (slot k : Nat) : Option Nat :=
  (readVa s osdCaches slot (opAddr (streamAt s slot k)) 64).map leNat

/-- A step of a stream's decoder for an opcode, `opc` 0 standing for any: a refused instruction sets ERROR
whatever it is (R306). -/
def decodeStep (s : State) (slot k opc : Nat) : State :=
  let x := streamAt s slot k
  if x.st ≠ 1 || x.ti = x.hi then s
  else match opFetch s slot k with
    | none => streamError s slot k 3
    | some ins =>
      let f := opFault s slot ins
      if f = 3 then eventFail s slot
      else if f ≠ 0 then streamError s slot k f
      else if opc ≠ 0 && opOpc ins ≠ opc then s
      else decodeOp s slot k ins

def execOprun (slot k : Nat) (s : State) : Res := .next (decodeStep s slot k 1)
def execOpcopy (slot k : Nat) (s : State) : Res := .next (decodeStep s slot k 2)
def execOpwait (slot k : Nat) (s : State) : Res := .next (decodeStep s slot k 3)
def execOpsig (slot k : Nat) (s : State) : Res := .next (decodeStep s slot k 4)
def execOpfence (slot k : Nat) (s : State) : Res := .next (decodeStep s slot k 5)
def execOpjump (slot k : Nat) (s : State) : Res := .next (decodeStep s slot k 6)
def execOpend (slot k : Nat) (s : State) : Res := .next (decodeStep s slot k 7)
def execOppin (slot k : Nat) (s : State) : Res := .next (decodeStep s slot k 8)
def execOpamax (slot k : Nat) (s : State) : Res := .next (decodeStep s slot k 9)

/-- DECODE_RESUME (R305, R334): a stream that holds, or waits for a slot, tries its instruction again. -/
def execDecodeResume (slot k : Nat) (s : State) : Res :=
  let x := streamAt s slot k
  .next (if x.held || x.waiting != 0 then decodeStep s slot k 0 else s)

/-- OPAMAX's advances (R305, R91): an entry whose page cannot be written is left alone. -/
def opAmax (s : State) (slot ins : Nat) : State :=
  (List.range (opExtRaw ins 1)).foldl (fun s i =>
    let va := hdrAmax (ctxAt s slot).hdr + 96 * (opExtRaw ins 0 + i)
    match resolve s osdCaches slot va with
    | some (l, pa) =>
      if l.w then
        let e := leNat ((List.range 96).map fun j => homeByte s (pa + j))
        (performAll s (bytesAt pa (leBytes 96 (amaxAdvance e)))).1
      else s
    | none => s) s

/-- OPSIG_SIGNAL (R305): the oldest recorded operator of a stream, once every earlier one has completed, does
its work and signals. -/
def execOpsigSignal (slot k : Nat) (s : State) : Res :=
  match s.pops.find? fun p => p.ctx == slot && p.stream == k with
  | none => .next s
  | some p =>
    if !earlierDone s slot k p.num || !opRoom s slot p.ins 1 then .next s
    else
      let s := { s with pops := s.pops.filter (· != p) }
      if opOpc p.ins = 9 then
        let s := opAmax s slot p.ins
        .next (if opSigend p.ins then opSignal s slot p.ins noGroup else s)
      else .next (opSignal s slot p.ins noGroup)

/-! Points (R327 to R333). -/

/-- Coordinates c0, c1, c2 of a linear index, and its line (R306, R327). -/
def ptC0 (i l : Nat) : Nat := l % opExt i 0
def ptLine (i l : Nat) : Nat := l / opExt i 0
def ptC1 (i l : Nat) : Nat := ptLine i l % opExt i 1
def ptC2 (i l : Nat) : Nat := ptLine i l / opExt i 1

/-- A predecessor's fate (R329): 0 satisfied, 1 not yet, 2 never, for its boundary mirror has frozen. -/
def predFate (s : State) (x : OpSlot) (l d : Nat) : Nat :=
  let i := x.ins
  let q0 := (ptC0 i l : Int) - depC d 0
  let q1 := (ptC1 i l : Int) - depC d 1
  let q2 := (ptC2 i l : Int) - depC d 2
  let inside (q : Int) (k : Nat) : Bool := decide (0 ≤ q) && decide (q < opExt i k)
  let clamp (q : Int) (k : Nat) : Nat := Nat.min q.toNat (opExt i k - 1)
  if inside q0 0 && inside q1 1 && inside q2 2 then
    let e := Store.get x.lines (q2.toNat * opExt i 1 + q1.toNat)
    if q0 < e.h || bit e.done (q0.toNat - e.h) then 0 else 1
  else if !depExt d then 0
  else
    let line := clamp q2 2 * opExt i 1 + clamp q1 1
    match osdAccess s x.ctx (evIdx (opBnd i)) false with
    | .ok _ e => if evReached e (opBndbase i + w32 (line + 1)) then 0 else if evFrozen e then 2 else 1
    | .bad _ => 1

/-- The positions of a line that may fire: below H + 16, not fired (R331). -/
def openPositions (x : OpSlot) (line : Nat) : List Nat :=
  let e := Store.get x.lines line
  ((List.range 16).map (e.h + ·)).filter fun c => decide (c < opExt x.ins 0) && !bit e.fired (c - e.h)

/-- The points of an operator that could fire but for their predecessors, in lexicographic order. -/
def openPoints (x : OpSlot) : List Nat :=
  (List.range (opLines x.ins)).flatMap fun n => (openPositions x n).map fun c => n * opExt x.ins 0 + c

/-- The worst fate of a point's predecessors. -/
def ptFate (s : State) (x : OpSlot) (l : Nat) : Nat := (opDeps x.ins).foldl (fun m d => Nat.max m (predFate s x l d)) 0

/-- Fires a point (R331): its FIRED bit, its waits evaluated (R314); a read of a wait that fails is dropped (R310), so that
nothing is registered for it. -/
def firePoint (s : State) (n l : Nat) : State :=
  let x := opAt s n
  let un (w t : Word) : Bool := !waitReached s x.ctx w (ptThr x.ins t l)
  let p : Point := { (default : Point) with
    l := l, st := .fired, wait0 := un (opWait0 x.ins) (opWt0 x.ins), wait1 := un (opWait1 x.ins) (opWt1 x.ins) }
  let s' := updOp s n fun x => { x with
    lines := Store.upd x.lines (ptLine x.ins l) fun e => { e with fired := e.fired ||| 2 ^ (ptC0 x.ins l - e.h) }
    points := x.points ++ [p] }
  let bad0 := waitFails s x.ctx (opWait0 x.ins)
  let bad1 := waitFails s x.ctx (opWait1 x.ins)
  let s' := if bad0 || bad1 then eventFail s' x.ctx else s'
  let s' := if p.wait0 && !bad0 then evRelink s' x.ctx (evIdx (opWait0 x.ins)) else s'
  let s' := if p.wait1 && !bad1 then evRelink s' x.ctx (evIdx (opWait1 x.ins)) else s'
  askTokens (pmcCount s' (bridgePmcs 0) 0x31 1)

/-- Does the OSD's read of a predecessor's boundary event fail (R310)? -/
def bndFails (s : State) (x : OpSlot) : Bool :=
  (opDeps x.ins).any depExt && (match osdAccess s x.ctx (evIdx (opBnd x.ins)) false with
    | .ok .. => false
    | .bad _ => true)

/-- The point of an operator that fires next, if one can: none once a boundary mirror has frozen (R329). -/
def fireable (s : State) (x : OpSlot) : Option Nat :=
  if !x.used || x.drain || x.bndfrz then none else (openPoints x).find? fun l => ptFate s x l == 0

/-- Has an operator that is taken first, of higher priority or decoded earlier, a point to fire (R316, R331)? -/
def firesAfter (s : State) (n : Nat) : Bool :=
  let x := opAt s n
  s.ops.any fun e =>
    (decide (opPrio s x < opPrio s e.2) || (opPrio s x == opPrio s e.2 && decide (e.2.age < x.age))) && (fireable s e.2).isSome

/-- Has BND frozen, if it is a mirror (R313, R329)? -/
def bndFrozen (s : State) (x : OpSlot) : Bool :=
  (opDeps x.ins).any depExt && (match osdAccess s x.ctx (evIdx (opBnd x.ins)) false with
    | .ok _ e => evFrozen e
    | .bad _ => false)

/-- The points of an operator that have not fired. -/
def unfiredPoints (x : OpSlot) : List Nat :=
  (List.range (opLines x.ins)).flatMap fun n =>
    let e := Store.get x.lines n
    ((List.range (opExt x.ins 0)).filter fun c => decide (e.h ≤ c) && !bit e.fired (c - e.h)).map fun c => n * opExt x.ins 0 + c

/-- Has some point that has not fired a predecessor that is never satisfied (R329)? -/
def heldForGood (s : State) (x : OpSlot) : Bool := bndFrozen s x && (unfiredPoints x).any fun l => ptFate s x l == 2

/-- POINT_FIRE (R331): the next point of an operator fires; a predecessor whose mirror froze sets BNDFRZ, and no point of the
operator fires any more (R329). No point fires while the context is being pre-empted. -/
def execPointFire (n : Nat) (s : State) : Res :=
  let x := opAt s n
  if !x.used then .next s
  else
    let fails := !x.drain && !(openPoints x).isEmpty && bndFails s x
    let s := if !x.bndfrz && heldForGood s x then updOp s n fun x => { x with bndfrz := true } else s
    let fires := fireable s (opAt s n)
    let s := if fails then eventFail s x.ctx else s
    .next (match fires with
      | some l => if firesAfter s n then s else firePoint s n l
      | none => freeReset s n)

/-- Retires position c0 of a line (R332). -/
def retireLine : Nat → Line → Line
  | 0, e => e
  | n + 1, e => if bit e.done 0 then retireLine n ⟨e.h + 1, e.done / 2, e.fired / 2⟩ else e

/-- Is every line of an operator complete (R330, R333)? -/
def OpSlot.complete (x : OpSlot) : Bool := (List.range (opLines x.ins)).all fun k => (Store.get x.lines k).h == opExt x.ins 0

/-- A point retires (R332, R323, R308): its DONE bit, its tokens, SIGPT; when it was the last, the slot is freed
(R333) and SIGEND signals. `ok` is false for a copy that faulted; `g` is the group whose MBXDONE it is, if any. -/
def retirePoint (s : State) (n l : Nat) (ok : Bool) (g : Nat) : State :=
  let x := opAt s n
  match x.points.find? fun p => p.l == l with
  | none => s
  | some p =>
    let s := returnTokens s n p
    let s := updOp s n fun x => { x with
      points := x.points.filter fun p => p.l != l
      lines := Store.upd x.lines (ptLine x.ins l) fun e => retireLine 17 { e with done := e.done ||| 2 ^ (ptC0 x.ins l - e.h) }
      copyflt := x.copyflt || !ok }
    let x' := opAt s n
    let last := x'.complete
    let s := if last then freeOp s n else s
    let s := if ok && opSigpt x.ins then opSignal s x.ctx x.ins g else s
    if last && opSigend x.ins && !x'.copyflt then opSignal s x.ctx x.ins g else s

/-- Can the signals that a retirement in a slot may make be made now (R267, R280)? -/
def retireRoom (s : State) (n : Nat) : Bool :=
  let x := opAt s n
  opRoom s x.ctx x.ins (b2n (opSigpt x.ins) + b2n (opSigend x.ins))

/-! Tokens and dispatch (R315 to R317). -/

/-- Does a compute die exceed TJHOT (R468)? -/
def tooHot (s : State) : Bool := (List.range 4).any fun d => decide (s.tjhot < Store.get s.therm d)

/-- The request to be served first: highest priority, restored points ahead, then in order (R315, R336). -/
def headRequest (s : State) : Option TokReq :=
  let top := s.tokq.foldl (fun m r => Nat.max m r.prio) 0
  let rs := s.tokq.filter fun r => r.prio == top
  match rs.find? (·.forced) with
  | some r => some r
  | none => rs.head?

/-- Are grants to restored points of a context still to come (R336)? -/
def forcedWaits (s : State) (slot : Nat) : Bool := s.tokq.any fun r => r.forced && (opAt s r.slot).ctx == slot

/-- TOKEN_GRANT (R315): the head request is granted when the free pool holds it; none while a die is too hot
(R468). -/
def execTokenGrant (s : State) : Res :=
  let s := askTokens s
  match headRequest s with
  | none => .next s
  | some r =>
    if tooHot s || s.pool < s.grant + r.pwr then .next s
    else
      let s := { s with tokq := s.tokq.filter (· != r), grant := s.grant + r.pwr }
      .next (updPoint s r.slot r.l fun p => { p with tok := 2 })

/-- Is a point's job ready (R314)? -/
def ptReady (x : OpSlot) (p : Point) : Bool :=
  p.st == .fired && !p.wait0 && !p.wait1 && (opPwr x.ins == 0 || p.tok == 2)

/-- Jobs posted to or taken on a core and not retired (R317). -/
def coreJobs (s : State) (c : Nat) : Nat :=
  s.ops.foldl (fun n e => n + if opOpc e.2.ins = 1 then
    (e.2.points.filter fun p => p.core == c && (p.st == .posted || p.st == .taken)).length else 0) 0

/-- Entries of a core's mailbox, and whether one is FREE; the reserve entry counts while in use (R272, R282). -/
def mailOf (s : State) (c : Nat) : List Mail := Store.get s.mbox c
def mailRoom (s : State) (c : Nat) : Bool := decide ((mailOf s c).length < 16 + b2n (s.reserve.contains (8 * c)))

/-- Does AFF allow a die (R304)? -/
def affAllows (ins die : Nat) : Bool := opAff ins == 0 || bit (opAff ins) die

/-- The core for a job (R317). -/
def placeJob (s : State) (n : Nat) (x : OpSlot) : Option Nat :=
  let ok (c : Nat) : Bool :=
    bit (ctxAt s x.ctx).mask c && affAllows x.ins (c / 128) && !bit (Store.get s.placeOff (64 * (c / 16) + n)) (c % 16) && mailRoom s c
  let cs := (List.range 512).filter ok
  let least := cs.foldl (fun m c => Nat.min m (coreJobs s c)) (2 ^ 32)
  cs.find? fun c => coreJobs s c == least

/-- A tensor copy engine with nothing to do, on a die that AFF allows (R316). -/
def placeCopy (s : State) (x : OpSlot) : Option Nat :=
  (List.range 32).find? fun t => affAllows x.ins (t / 8) && tceIdle s t && (tceHead s t).isNone &&
    !(s.ops.any fun e => e.2.used && opOpc e.2.ins == 2 && e.2.points.any fun p => p.st == .taken && p.core == t)

/-- Where the next job of an operator can go. -/
def placeOf (s : State) (n : Nat) (x : OpSlot) : Option Nat :=
  if opOpc x.ins = 1 then placeJob s n x else placeCopy s x

/-- The ready job of an operator that is first in lexicographic order. -/
def firstReady (x : OpSlot) : Option Point :=
  ((sortBy (·.l) (x.points.filter (ptReady x))).head?)

/-- Operators with a ready job that can be placed, at a priority. -/
def readyOps (s : State) (prio : Nat) : List (Nat × OpSlot) :=
  s.ops.filter fun e => e.2.used && !e.2.drain && opPrio s e.2 == prio && (firstReady e.2).isSome && (placeOf s e.1 e.2).isSome

/-- Key of a stream's share at a priority. -/
def shareKey (prio : Nat) (x : OpSlot) : Nat := 4096 * prio + 64 * x.ctx + x.stream

/-- May the oldest operator be served while each other ready stream of the priority still gets one of every 64 dispatches:
`counts` holds how often each of them was passed over, greatest first, and the j-th must stay below 64 − j (R316)? -/
def shareHolds (counts : List Nat) : Bool :=
  (List.range counts.length).all fun j => decide (counts.getD j 0 + j < 63)

/-- The operator to dispatch from (R316): the oldest, or, where a stream's share would be lost, that of the stream passed over
longest. -/
def chooseOp (s : State) (prio : Nat) : Option (Nat × OpSlot) :=
  match sortBy (fun e => e.2.age) (readyOps s prio) with
  | [] => none
  | o :: r =>
    let count (e : Nat × OpSlot) : Nat := Store.get s.share (shareKey prio e.2)
    let keys := distinct ((r.filter fun e => shareKey prio e.2 != shareKey prio o.2).map fun e => shareKey prio e.2)
    let counts := sortBy (fun n => 2 ^ 32 - n) (keys.map (Store.get s.share))
    if shareHolds counts then some o
    else r.find? fun e => count e == counts.headD 0 && shareKey prio e.2 != shareKey prio o.2

/-- The priority to dispatch at: the highest with a job that can be placed. -/
def choosePrio (s : State) : Option Nat := [7, 6, 5, 4, 3, 2, 1, 0].find? fun p => !(readyOps s p).isEmpty

/-- Counts a dispatch: the stream served starts afresh, those with a ready job that were passed over count one more, be there
a place for their job or not, the others start afresh (R316). -/
def countShare (s : State) (prio : Nat) (x : OpSlot) : State :=
  let ready := distinct ((s.ops.filter fun e => e.2.used && !e.2.drain && opPrio s e.2 == prio && (firstReady e.2).isSome).map
    fun e => shareKey prio e.2)
  let served := shareKey prio x
  let kept := Store.keep s.share fun k => k / 4096 != prio || (ready.contains k && k != served)
  { s with share := (ready.filter (· != served)).foldl (fun m k => Store.upd m k (· + 1)) kept }

/-- The words of a RUN descriptor (R318). -/
def runWords (n : Nat) (x : OpSlot) (l : Nat) (jobid : Word) : List Word :=
  [w32 (opHid x.ins * 2 ^ 16 + n * 4), w32 (ptC1 x.ins l * 2 ^ 16 + ptC0 x.ins l), w32 (ptC2 x.ins l), jobid,
    w32 (opArg x.ins), w32 (opArg x.ins / 2 ^ 32)]

/-- Posts the YIELD descriptors that are due, as far as entries are FREE (R272, R273, R318). Their JOBID word is 0, as a STOP's
is (log entry 122, DESIGN CHOICE). -/
def postYields (s : State) : State :=
  s.blocks.foldl (fun s e =>
    if e.2.due && mailRoom s (e.1 / 4) then
      let m : Mail := { kind := 1, blk := e.1 % 4, ctx := e.2.ctx, slot := 0, l := 0, words := 1#32 :: List.replicate 5 0#32 }
      updB { s with mbox := Store.upd s.mbox (e.1 / 4) fun l => l ++ [m] } e.1 fun x => { x with due := false }
    else s) s

/-- JOB_DISPATCH (R316, R317, R469): the next ready job goes to a mailbox, or to a tensor copy engine. -/
def execJobDispatch (s : State) : Res :=
  let s := askTokens (postYields s)
  match choosePrio s with
  | none => .next s
  | some prio =>
    match chooseOp s prio with
    | none => .next s
    | some (n, x) =>
      match firstReady x, placeOf s n x with
      | some p, some place =>
        let serial := (ctxAt s x.ctx).serial
        let jobid := w32 (n * 2 ^ 26 + serial % 2 ^ 26)
        let s := countShare s prio x
        let s := updCtx s x.ctx fun c => { c with serial := (serial + 1) % 2 ^ 26 }
        if opOpc x.ins = 1 then
          let m : Mail := { kind := 0, blk := 0, ctx := x.ctx, slot := n, l := p.l, words := runWords n x p.l jobid }
          let s := { s with mbox := Store.upd s.mbox place fun l => l ++ [m] }
          .next (updPoint s n p.l fun p => { p with st := .posted, jobid := jobid, core := place })
        else
          let s := { s with tceq := Store.upd s.tceq place fun q => q ++ [⟨false, n, p.l, 0⟩] }
          .next (updPoint s n p.l fun p => { p with st := .taken, jobid := jobid, core := place })
      | _, _ => .next s

/-! Copies of OPCOPY points (R308). -/

/-- A stride of a copy descriptor. -/
def descStride (d base k : Nat) : Nat := bits d (base + 32 * k + 31) (base + 32 * k)

/-- Source and destination of a point (R308). -/
def copySrc (x : OpSlot) (l : Nat) : Nat :=
  bits x.copy 63 0 + ptC0 x.ins l * descStride x.copy 256 0 + ptC1 x.ins l * descStride x.copy 256 1 +
    ptC2 x.ins l * descStride x.copy 256 2
def copyDst (x : OpSlot) (l : Nat) : Nat :=
  bits x.copy 191 128 + ptC0 x.ins l * descStride x.copy 384 0 + ptC1 x.ins l * descStride x.copy 384 1 +
    ptC2 x.ins l * descStride x.copy 384 2

/-- Who waits for the acceptance of a tensor copy engine's fault records (R277). -/
def tceOwner (t : Nat) : Nat × Nat := (noGroup + 1 + t, 0)

/-- Performs the copy of an engine chunk by chunk (R287): the state, the completion time and whether it went without a fault. -/
def copyChunks (slot tce src dst len cvt : Nat) : Nat → Nat → State → Nat → State × Nat × Bool
  | 0, _, s, t => (s, t, true)
  | n + 1, k, s, t =>
    let o := 6144 * k
    let cnt := Nat.min 6144 (len - o)
    let dOff := if cvt = 0 then o else cvtBytes cvt (o / cvtSize cvt)
    let dCnt := if cvt = 0 then cnt else cvtBytes cvt (cnt / cvtSize cvt)
    let caches := dieCaches (tce / 8)
    if len ≤ o then (s, t, true)
    else
      let srcs := globalRange s caches slot (src + o) cnt false
      let dsts := globalRange s caches slot (dst + dOff) dCnt true
      match srcs, dsts with
      | .inr _, _ | _, .inr _ => (chunkRecords s slot (tceOwner tce) (chunkPages srcs dsts), t, false)
      | .inl from_, .inl to_ =>
        let s := pinRange (pinRange s none caches slot (src + o) cnt) none caches slot (dst + dOff) dCnt
        let bs := from_.map (homeByte s)
        let out := if cvt = 0 then bs else (convert cvt bs).1
        let (s, t') := putPlaces s none (zipBytes to_ out)
        copyChunks slot tce src dst len cvt n (k + 1) s (Nat.max t t')

/-- Does a point's copy stand at the head of its engine's queue, with the engine free (R256)? -/
def copyNext (s : State) (n : Nat) (p : Point) : Bool :=
  tceIdle s p.core && (match tceHead s p.core with
    | some c => !c.mig && c.slot == n && c.l == p.l
    | none => false)

/-- OPCOPY_POINT_COMPLETE (R308): the copy of a point that an engine has taken is performed in its turn (R256); once its
completion time has passed (R258) and its fault records are accepted (R277) the point retires. -/
def execOpcopyPointComplete (n l : Nat) (s : State) : Res :=
  let x := opAt s n
  match x.points.find? fun p => p.l == l && p.st == .taken with
  | none => .next s
  | some p =>
    if !x.used || opOpc x.ins ≠ 2 then .next s
    else if p.perf then
      .next (if p.time < s.gt && !recWaiting s (tceOwner p.core) && retireRoom s n then
        tceStart (retirePoint s n l (!p.flt) noGroup) p.core else s)
    else if !copyNext s n p then .next s
    else
      let len := bits x.copy 223 192
      let (s, t, ok) := copyChunks x.ctx p.core (copySrc x l) (copyDst x l) len (bits x.copy 255 224)
        (len / 6144 + 1) 0 (tceNext s p.core) 0
      .next (updPoint s n l fun p => { p with perf := true, flt := !ok, time := t })

/-! Mailboxes (R272, R318, R322 to R324). -/

/-- The oldest entry that a block of a context may take (R322). -/
def mailFor (s : State) (b : Nat) : Option Mail :=
  (mailOf s (b / 4)).find? fun m => m.ctx == (bAt s b).ctx && (m.kind == 0 || m.blk == b % 4)

/-- Does an MBXRD that began to wait earlier on the core come first for an entry (R272)? -/
def mailQueued (s : State) (c n : Nat) (m : Mail) : Bool :=
  s.groups.any fun g => coreOf g.1 == c && !g.2.saved && g.2.frags.any fun f =>
    match f.2.wait with
    | .mbxrd _ k => decide (k < n) && mailFor s (blkOf g.1) == some m
    | _ => false

/-- A block takes an entry: it leaves the mailbox, and a point is taken (R272, R335). -/
def takeMail (s : State) (b : Nat) (m : Mail) : State :=
  let c := b / 4
  let drop (l : List Mail) : List Mail := l.takeWhile (· != m) ++ (l.dropWhile (· != m)).drop 1
  let s := { s with mbox := Store.upd s.mbox c drop }
  match m.kind with
  | 0 => updPoint s m.slot m.l fun p => { p with st := .taken, core := c, blk := b % 4 }
  | 1 => updB s b fun x => { x with yielded := true }
  | _ => s

/-- MBXRD (R322): it closes the region (R416) and waits in the order of its core's waiters (R272). -/
def execMbxrd (d : Opnd) (s : State) : Res :=
  let s := closeRegion s
  let b := cblk s
  let hold := { waitFor s (.mbxrd d s.nextId) with nextId := s.nextId + 1 }
  match mailFor s b with
  | none => .next hold
  | some m =>
    if mailQueued s (b / 4) s.nextId m then .next hold
    else done (updCG (takeMail s b m) fun g => wrDst g d m.words)

/-- MBXRD_WAKE (R322). -/
def execMbxrdWake (g f : Nat) (s : State) : Res :=
  match (fragAt s g f).wait with
  | .mbxrd d n =>
    match mailFor s (blkOf g) with
    | none => .next s
    | some m =>
      .next (if (gAt s g).saved || mailQueued s (coreOf g) n m then s
        else wakeWith (takeMail s (blkOf g) m) g f d m.words)
  | _ => .next s

/-- The point whose job a block has taken under a JOBID: slot and point (R323, R336). -/
def jobOf (s : State) (b : Nat) (jobid : Word) : Option (Nat × Nat) :=
  s.ops.findSome? fun e =>
    if e.2.used && e.2.ctx == (bAt s b).ctx && opOpc e.2.ins == 1 then
      (e.2.points.find? fun p => p.st == .taken && p.jobid == jobid && p.core == b / 4 && p.blk == b % 4).map fun p => (e.1, p.l)
    else none

/-- Does a block hold a taken job (R423)? -/
def holdsJob (s : State) (b : Nat) : Bool :=
  s.ops.any fun e => e.2.used && e.2.ctx == (bAt s b).ctx && opOpc e.2.ins == 1 &&
    e.2.points.any fun p => p.st == .taken && p.core == b / 4 && p.blk == b % 4

/-- The taken points of a block become FORCED and return their tokens (R335, R424). -/
def forceJobs (s : State) (b : Nat) : State :=
  s.ops.foldl (fun s e =>
    if e.2.used && e.2.ctx == (bAt s b).ctx && opOpc e.2.ins == 1 then
      e.2.points.foldl (fun s p =>
        if p.st == .taken && p.core == b / 4 && p.blk == b % 4 then
          updPoint (returnTokens s e.1 p) e.1 p.l fun p => { p with st := .forced, tok := 0 }
        else s) s
    else s) s

/-- MBXDONE once its fence is over (R323): operation `id` is complete, as soon as its signals can be made (R267, R280). -/
def mbxdoneFinish (s : State) (g f id : Nat) (jobid : Word) : State :=
  match jobOf s (blkOf g) jobid with
  | none => withCur (wake (dropPend s g id) g f) g f fun s => raiseAll s cOPERAND 0#64
  | some (n, l) => if retireRoom s n then wakeWith (retirePoint (dropPend s g id) n l true g) g f .nul [] else s

/-- MBXDONE (R323): it closes the region and waits as FREL.c does. -/
def execMbxdone (a : Opnd) (s : State) : Res :=
  let id := usrc s a
  if flagFull s 2 then .next (stallHere s)
  else
    let s := closeRegion s
    if (jobOf s (cblk s) id).isNone then .next (raiseAll s cOPERAND 0#64)
    else
      let (s, k) := addPend s 2 signalPend
      let s := waitFor s (.fence 2 true false k none 2 id 0#32)
      let (s, ok) := fenceRound s s.curG s.curF
      .next (if ok then mbxdoneFinish s s.curG s.curF k id else s)

/-- MBXQ (R324). -/
def execMbxq (d : Opnd) (s : State) : Res :=
  let b := cblk s
  let l := mailOf s (b / 4)
  let y := l.any fun m => m.kind != 0 && m.blk == b % 4
  done (updCG s fun g => wrDst g d [w32 (l.length % 32 + b2n y * 2 ^ 8)])

/-- What an EVSIG or MBXDONE leaves whose group has ended meanwhile (R65, R110): `t` is the state after it. Its fragment is freed;
no thread is left to take its trap. -/
def signalEnded (s t : State) (g f id : Nat) : State :=
  if (fragAt t g f).signals then t
  else updF (if (gAt t g).traps = (gAt s g).traps then t else dropPend s g id) g f fun _ => default

/-- FENCE_WAKE (R240, R320, R323): a fence, an EVSIG or an MBXDONE goes on once its fence is over. -/
def execFenceWake (g f : Nat) (s : State) : Res :=
  match (fragAt s g f).wait with
  | .fence _ _ _ bound _ after x y =>
    if (gAt s g).saved then .next s
    else
      let (s, ok) := fenceRound s g f
      if !ok then .next s
      else
        let t := match after with
          | 1 => evsigFinish s g f bound x y
          | 2 => mbxdoneFinish s g f bound x
          | _ => wakeWith s g f .nul []
        .next (if (gAt s g).ending then signalEnded s t g f bound else t)
  | _ => .next s

/-! OPPUSH and FRQ. -/

/-- OPPUSH (R325): the pair goes to the shadow word at its home; the tail write follows its completion time. -/
def execOppush (a b : Opnd) (s : State) : Res :=
  let k := (usrc s a).toNat
  let pair := upair s b
  if flagFull s 2 then .next (stallHere s)
  else
    let s := closeRegion s
    let slot := (cg s).ctx
    let va := (streamAt s slot k).shadow.toNat
    if 63 < k then .next (raiseAll s cOPERAND 0#64)
    else match checkGlobal s .write false va 8 with
      | .ok pa _ _ =>
        let (s, t) := performAll s (bytesAt pa (leBytes 8 pair))
        let s := raiseLct s (some (cblk s)) t
        let acc : Acc := { (default : Acc) with got := true, x := w32 pair, y := w32 (pair / 2 ^ 32) }
        done (addPend s 2 { (default : Pend) with kind := .push, dst := .nul, op := k, time := t, accs := [acc] }).1
      | .trap c rec => .next (raiseAt s c (active s) (w64 va) (cf s).pc (if rec then [(va / frameBytes, 1)] else []))
      | .zero => done s

/-- The slot status word (R341). -/
def slotStatus (x : OpSlot) : Nat :=
  b2n x.copyflt + b2n x.bndfrz * 2 + 4 + b2n x.drain * 8 + x.stream % 64 * 2 ^ 16

/-- The two words of FRQ, or none for OPERAND (R340). -/
def frqWords (s : State) (k : Nat) (b : Word) : Option (List Word) :=
  let x := opAt s k
  if 63 < k then none
  else if !x.used || x.ctx != (cg s).ctx then some [0#32, 0#32]
  else if b = 0xFFFFFFFF#32 then
    let n := ((List.range (opLines x.ins)).filter fun i => (Store.get x.lines i).h == opExt x.ins 0).length
    some [w32 (slotStatus x), w32 n]
  else if opLines x.ins ≤ b.toNat then none
  else
    let e := Store.get x.lines b.toNat
    some [w32 (e.h + e.done * 2 ^ 16), w32 e.fired]

/-- FRQ (R340). -/
def execFrq (d a b : Opnd) (s : State) : Res :=
  if flagFull s 1 then .next (stallHere s)
  else match frqWords s (usrc s a).toNat (usrc s b) with
    | none => .next (raiseAll s cOPERAND 0#64)
    | some ws => done (addPend s 1 (valuePend d (ws.flatMap fun w => leBytes 4 w.toNat))).1

end Sys2Proof.Machine
end

