-- ==== Sys2Proof/Machine/Kv.lean ====
section
/-! DEFINITION. KV pages and the Skivers (R375 to R391), and the mass counters (R394 to R399). -/

namespace Sys2Proof.Machine

/-! Memory of a context as a Skiver sees it. -/

/-- A fault of a KV command: its cause, its fault address, and the pages of the range that fail it, each with the kind of its
record (R277). -/
structure KvFault where
  cause : Nat
  fadr : Nat
  pages : List (Nat × Nat)
deriving DecidableEq, Repr, Inhabited

/-- A run of a Skiver command: the state as its writes leave it, the greatest completion time of its writes, its FLAGS
bits, the first fault met, the writes in order, and the ranges it touched. -/
structure Kv where
  s : State
  die : Nat
  slot : Nat
  time : Nat
  fl : Nat
  err : Option KvFault
  plan : List KvWrite
  seen : List (Nat × Nat)
deriving DecidableEq, Repr, Inhabited

/-- Stops a run with a fault, at its first one. -/
def Kv.fail (k : Kv) (e : KvFault) : Kv :=
  if k.err.isSome then k else { k with err := some e }

/-- The cause that an access to a page raises (R246). -/
def kvFate (s : State) (caches : List Nat) (slot : Nat) (wr : Bool) (p : Nat) : Option Nat :=
  match translate s caches slot p with
  | .notResident => some cPAGE
  | .revoked => some cFAR_REVOKED
  | .ok l => if wr && !l.w then some cPROTECTION else none

/-- The pages of a range. -/
def pagesOf (va n : Nat) : List Nat :=
  if n = 0 then [] else (List.range ((va + n - 1) / frameBytes + 1 - va / frameBytes)).map (va / frameBytes + ·)

/-- The physical addresses of a range, or its fault: the cause and the address of its first page that fails (R246), and every
page of it that fails (R277). -/
def kvPlaces (s : State) (caches : List Nat) (slot va n : Nat) (wr : Bool) : (List Nat) ⊕ KvFault :=
  if vaEnd < va + n then .inr ⟨cADDRESS, Nat.max va vaEnd, []⟩
  else
    match (pagesOf va n).filterMap fun p => (kvFate s caches slot wr p).map fun c => (c, p) with
    | (c, p) :: r => .inr ⟨c, Nat.max va (p * frameBytes), (p :: r.map (·.2)).map fun p => (p, b2n wr)⟩
    | [] => .inl ((List.range n).map fun i =>
        match translate s caches slot ((va + i) / frameBytes) with
        | .ok l => paOf l.space l.frame ((va + i) % frameBytes)
        | _ => 0)

/-- Reads bytes at the homes. -/
def Kv.rd (k : Kv) (va n : Nat) : Kv × Nat :=
  if k.err.isSome then (k, 0)
  else match kvPlaces k.s (dieCaches k.die) k.slot va n false with
    | .inr e => (k.fail e, 0)
    | .inl ps => ({ k with seen := k.seen ++ [(va, n)] }, leNat (ps.map (homeByte k.s)))

/-- Performs a write at its homes: the state and the completion time (R248). What an MFOLD adds is summed first (`kvPlan`). -/
def KvWrite.go (s : State) : KvWrite → State × Nat
  | .bytes ps bs => putPlaces s none (zipBytes ps bs)
  | .record ps w => putPlaces s none (zipBytes ps (leBytes 96 (amaxRecord (leNat (ps.map (homeByte s))) w)))
  | .add ps n => putPlaces s none (zipBytes ps (leBytes 4 (Nat.min (leNat (ps.map (homeByte s)) + n) 0xFFFFFFFF)))
  | .fold _ _ => (s, 0)
  | .shift ps n => putPlaces s none (zipBytes ps (leBytes 4 (leNat (ps.map (homeByte s)) / 2 ^ n)))

/-- Makes a write of `n` bytes at an address; of none, nothing is done. -/
def Kv.put (k : Kv) (va n : Nat) (mk : List Nat → KvWrite) : Kv :=
  if k.err.isSome || n == 0 then k
  else match kvPlaces k.s (dieCaches k.die) k.slot va n true with
    | .inr e => k.fail e
    | .inl ps =>
      let (s, t) := (mk ps).go k.s
      { k with s := s, time := Nat.max k.time t, plan := k.plan ++ [mk ps], seen := k.seen ++ [(va, n)] }

/-- Writes bytes. -/
def Kv.wr (k : Kv) (va : Nat) (bs : List Byte) : Kv := k.put va bs.length fun ps => .bytes ps bs

/-- Checks that a range could be written. -/
def Kv.check (k : Kv) (va n : Nat) : Kv :=
  if k.err.isSome then k
  else match kvPlaces k.s (dieCaches k.die) k.slot va n true with
    | .inr e => k.fail e
    | .inl _ => k

/-- Changes `n` bytes at an address. -/
def Kv.upd (k : Kv) (va n : Nat) (f : Nat → Nat) : Kv :=
  let (k, x) := k.rd va n
  if k.err.isSome then k else k.wr va (leBytes n (f x))

/-! Descriptors and pages. -/

/-- Fields of a sequence descriptor (R375). -/
def dPlist (d : Nat) : Nat := bits d 63 0
def dPcnt (d : Nat) : Nat := bits d 95 64
def dPcap (d : Nat) : Nat := bits d 127 96
def dCur (d : Nat) : Nat := bits d 159 128
def dFlist (d : Nat) : Nat := bits d 223 160
def dFcnt (d : Nat) : Nat := bits d 255 224
def dFcap (d : Nat) : Nat := bits d 287 256
def dLastpos (d : Nat) : Nat := bits d 319 288
def dKtid (d : Nat) : Nat := bits d 331 320
def dVtid (d : Nat) : Nat := bits d 343 332
def dKfmt (d : Nat) : Nat := bits d 347 344
def dVfmt (d : Nat) : Nat := bits d 351 348
def dHdim (d : Nat) : Nat := bits d 360 352
def dSat (d : Nat) : Bool := bit d 361
def dBusy (d : Nat) : Bool := bit d 362
def dHaspos (d : Nat) : Bool := bit d 363
def dBroken (d : Nat) : Bool := bit d 364
def dSeqid (d : Nat) : Nat := bits d 415 384

/-- A number with bits [hi:lo] replaced. -/
def putBits (x hi lo v : Nat) : Nat := x - bits x hi lo * 2 ^ lo + v % 2 ^ (hi + 1 - lo) * 2 ^ lo

/-- "None" in CUR. -/
def noPage : Nat := 0xFFFFFFFF

/-- A valid descriptor (R376). PLIST and FLIST are multiples of 8 by R375. -/
def descOk (d : Nat) : Bool :=
  let fmt (f : Nat) : Bool := f == 0 || f == 2 || f == 4
  bits d 511 480 == 0 && bits d 383 365 == 0 && !dBroken d && fmt (dKfmt d) && fmt (dVfmt d) &&
  dHdim d % 16 == 0 && decide (16 ≤ dHdim d) && decide (dHdim d ≤ 256) &&
  decide (dPcnt d ≤ dPcap d) && decide (dFcnt d ≤ dFcap d) && decide (dPcap d ≤ 0x03FFFFFF) &&
  (dCur d == noPage || decide (dCur d < dPcnt d))

/-- Row bytes of a format (R377), and its stride in a page. -/
def rowLen (fmt hdim : Nat) : Nat :=
  match fmt with
  | 0 => 2 * hdim
  | 2 => hdim
  | _ => hdim / 16 * qfBytes 4
def rowStride (fmt hdim : Nat) : Nat := (rowLen fmt hdim + 15) / 16 * 16
def dKstr (d : Nat) : Nat := rowStride (dKfmt d) (dHdim d)
def dVstr (d : Nat) : Nat := rowStride (dVfmt d) (dHdim d)
/-- Bytes of a page (R377). -/
def pageBytes (d : Nat) : Nat := 576 + 64 * (dKstr d + dVstr d)

/-- Fields of a page header (R378). -/
def hVmask (h : Nat) : Nat := bits h 63 0
def hFill (h : Nat) : Nat := bits h 79 64
def hKsc (h : Nat) : Int := sgn 8 (bits h 103 96)
def hVsc (h : Nat) : Int := sgn 8 (bits h 111 104)
def hSatcnt (h : Nat) : Nat := bits h 127 112
def hKamax (h : Nat) : Nat := bits h 159 128
def hVamax (h : Nat) : Nat := bits h 191 160

/-- The page VA in entry `i` of the page list. -/
def Kv.page (k : Kv) (d i : Nat) : Kv × Nat := k.rd (dPlist d + 8 * i) 8

/-! Appending (R382 to R384). -/

/-- A magnitude fits E4M3 under an exponent (R383). -/
def fitsE (e : Int) (a : Val) : Bool := !(((Val.ofInt 448).scale e).lt a)

/-- A value is finite. -/
def Val.isFin : Val → Bool
  | .fin _ => true
  | _ => false

/-- The largest magnitude of a row, NaN left out (R383). -/
def rowAmax (xs : List Nat) : Val :=
  xs.foldl (fun m x => let v := (f32.val x).mag; if v.isNan then m else m.max v) (Ex.nil false)

/-- The F32 encoding of a magnitude. -/
def encMag (v : Val) : Nat := (f32.finish 0 false false 0 v).1

/-- FLAGS bits that a KV command merges (R384). -/
def kvFlags (n : Nat) : Nat := n &&& (fNV + fOF + fUF + fNX + fQCLAMP)

/-- A row in its format (R384): the bytes and FLAGS bits. -/
def rowBytes' (fmt : Nat) (sc : Int) (xs : List Nat) : List Byte × Nat :=
  let vs := xs.map f32.val
  match fmt with
  | 0 => let rs := vs.map (bf16.finish 0 false false 0); (rs.flatMap fun r => leBytes 2 r.1, kvFlags (orFlags (rs.map (·.2))))
  | 2 => let rs := vs.map fun v => e4m3.finish 0 true false 0 (v.scale (-sc))
         (rs.flatMap fun r => leBytes 1 r.1, kvFlags (orFlags (rs.map (·.2))))
  | _ => let rs := (blocks16 vs).map (qfEncode 4 0 (fun _ => 0)); (rs.flatMap (·.1), kvFlags (orFlags (rs.map (·.2))))

/-- The amax entry of a tensor (R155), as read at its home. -/
def Kv.amax (k : Kv) (tid : Nat) : Kv × Nat := k.rd (hdrAmax (ctxAt k.s k.slot).hdr + 96 * tid) 96

/-- The scale a fresh page takes (R383): PS8 only. -/
def Kv.freshScale (k : Kv) (fmt tid : Nat) (a : Val) : Kv × Int :=
  if fmt ≠ 2 then (k, 0)
  else
    let (k, e) := k.amax tid
    let q := sgn 8 (amaxScale e 2).toNat
    let own := scaleExp 448 a
    (k, if q < own then own else q)

/-- open(i) of R383: the descriptor after; KV_NO_FREE_PAGE has the token index as its fault address. -/
def Kv.openPage (k : Kv) (d i : Nat) (ak av : Val) : Kv × Nat :=
  if k.err.isSome then (k, d)
  else if dFcnt d = 0 || dPcnt d = dPcap d then (k.fail ⟨cKV_NO_FREE_PAGE, i, []⟩, d)
  else
    let (k, pg) := k.rd (dFlist d + 8 * (dFcnt d - 1)) 8
    let k := k.check pg (pageBytes d)
    let (k, ksc) := k.freshScale (dKfmt d) (dKtid d) ak
    let (k, vsc) := k.freshScale (dVfmt d) (dVtid d) av
    let k := k.wr (dPlist d + 8 * dPcnt d) (leBytes 8 pg)
    let h := wrapN 8 ksc * 2 ^ 96 + wrapN 8 vsc * 2 ^ 104 + 2 ^ 81 + dSeqid d * 2 ^ 224
    let k := k.wr pg (leBytes 64 h ++ List.replicate 512 0#8)
    (k, putBits (putBits (putBits d 255 224 (dFcnt d - 1)) 159 128 (dPcnt d)) 95 64 (dPcnt d + 1))

/-- The seal step of R383: the descriptor after. -/
def Kv.sealCur (k : Kv) (d : Nat) : Kv × Nat :=
  if dCur d = noPage then (k, d)
  else
    let (k, pg) := k.page d (dCur d)
    let k := k.upd pg 64 fun h => putBits (putBits h 80 80 1) 81 81 0
    (k, putBits d 159 128 noPage)

/-- Records a magnitude in an amax entry (R91). -/
def Kv.record (k : Kv) (tid a : Nat) : Kv :=
  k.put (hdrAmax (ctxAt k.s k.slot).hdr + 96 * tid) 96 fun ps => .record ps (w32 a)

/-- One token of R383: the run and the descriptor after. -/
def Kv.token (k : Kv) (d i pos : Nat) (ks vs : List Nat) : Kv × Nat :=
  let ak := rowAmax ks
  let av := rowAmax vs
  let (k, d) := if dCur d = noPage then k.openPage d i ak av else (k, d)
  let (k, pg) := k.page d (dCur d)
  let (k, h) := k.rd pg 64
  let beyond := (dKfmt d == 2 && !fitsE (hKsc h) ak) || (dVfmt d == 2 && !fitsE (hVsc h) av)
  let split := beyond && !dSat d && ak.isFin && av.isFin && fitsE 127 ak && fitsE 127 av
  let (k, d) := if split then (let (k, d) := k.sealCur d; k.openPage d i ak av) else (k, d)
  let sat := beyond && !split
  let (k, pg) := k.page d (dCur d)
  let (k, h) := k.rd pg 64
  let j := hFill h
  let (kb, kf) := rowBytes' (dKfmt d) (hKsc h) ks
  let (vb, vf) := rowBytes' (dVfmt d) (hVsc h) vs
  let k := k.wr (pg + 576 + j * dKstr d) kb
  let k := k.wr (pg + 576 + 64 * dKstr d + j * dVstr d) vb
  let k := k.wr (pg + 64 + 4 * j) (leBytes 4 pos)
  let k := k.wr (pg + 320 + 4 * j) (leBytes 4 0)
  let big (old : Nat) (a : Val) : Nat := encMag ((f32.val old).max a)
  let k := k.upd pg 64 fun h =>
    let h := putBits (putBits h 63 0 (hVmask h ||| 2 ^ j)) 79 64 (j + 1)
    let h := putBits (putBits h 159 128 (big (hKamax h) ak)) 191 160 (big (hVamax h) av)
    if sat then putBits h 127 112 (Nat.min (hSatcnt h + 1) 0xFFFF) else h
  let k := if dKfmt d = 2 then k.record (dKtid d) (encMag ak) else k
  let k := if dVfmt d = 2 then k.record (dVtid d) (encMag av) else k
  let k := if k.err.isSome then k else { k with fl := k.fl ||| kf ||| vf ||| (if sat then fKVSAT else 0) }
  if j + 1 = 64 then k.sealCur d else (k, d)

/-- The tokens of a KVAPP from number `i` on; a token that finds no free page leaves the ones before it, and the page that it
sealed (R383). -/
def Kv.tokens (rows : Nat → List Nat × List Nat) (pos0 : Nat) : Nat → Nat → Kv → Nat → Kv × Nat × Nat
  | 0, i, k, d => (k, d, i)
  | n + 1, i, k, d =>
    let (ks, vs) := rows i
    let (k', d') := k.token d i (pos0 + i) ks vs
    if k'.err.isSome then (k', d', i) else Kv.tokens rows pos0 n (i + 1) k' d'

/-- The registers of a KV command. -/
def KvCmd.reg (m : KvCmd) (i : Nat) : Nat := (m.regs.getD i 0#32).toNat
def KvCmd.pair (m : KvCmd) (i : Nat) : Nat := m.reg i + 2 ^ 32 * m.reg (i + 1)
/-- The scratch that a command reads (R382, R397). -/
def KvCmd.scratchRows (m : KvCmd) : List (Nat × Nat) :=
  if m.op = 0xE0 then [2, 3].flatMap fun i => (List.range (Nat.min 64 (m.reg 4))).map fun j => (m.reg i + j * m.reg 6, Nat.min 1024 (m.reg 6))
  else if m.op = 0xE4 then (m.reg 2, 4 * m.reg 1) :: (List.range (Nat.min 96 (m.reg 1))).map fun r => (m.reg 0 + 256 * r, 4 * m.reg 3)
  else []

/-- The descriptor that a command names (MFOLD names none). -/
def KvCmd.desc (m : KvCmd) : Option Nat := if m.op = 0xE4 then none else some (m.pair 0)

/-- The F32 values of a scratch row as read number `rd` of a command finds them: each 16-byte word old or new (R257, R381). -/
def KvCmd.row (m : KvCmd) (s : State) (rd o n : Nat) : List Nat :=
  (List.range n).map fun i =>
    let k := offsetKey (coreOf m.g) m.banks (o + 4 * i)
    if m.olds.isEmpty then leNat (lsBytes s k 4)
    else leNat (((oldOrNew s m.olds rd (k / 16) (lsBytes s (k / 16 * 16) 16)).drop (k % 16)).take 4)

/-- The lowest byte of the source rows of a KVAPP that lies beyond the scratch size (R382). -/
def rowsOut (size o n sstr len : Nat) : Option Nat :=
  ((List.range n).filterMap fun i => if size < o + i * sstr + len then some (Nat.max (o + i * sstr) size) else none).head?

/-- KVAPP (R382, R383): the run and how many tokens were appended. -/
def kvAppend (m : KvCmd) (k : Kv) : Kv × Nat :=
  let va := m.pair 0
  let (k, d) := k.rd va 64
  let n := m.reg 4
  let pos0 := m.reg 5
  let sstr := m.reg 6
  let hd := dHdim d
  let size := m.banks.length * 49152
  let bad := m.reg 2 % 16 != 0 || m.reg 3 % 16 != 0 || n == 0 || decide (64 < n) || sstr % 16 != 0 || decide (sstr < 4 * hd) ||
    m.reg 7 != 0 || (dHaspos d && decide (pos0 ≤ dLastpos d)) || decide (2 ^ 32 < pos0 + n)
  if k.err.isSome then (k, 0)
  else if !descOk d then (k.fail ⟨cKV_FORMAT, va, []⟩, 0)
  else if bad then (k.fail ⟨cOPERAND, 0, []⟩, 0)
  else match [m.reg 2, m.reg 3].filterMap fun o => rowsOut size o n sstr (4 * hd) with
    | o :: r => (k.fail ⟨cSCRATCH_RANGE, (r.foldl Nat.min o), []⟩, 0)
    | [] =>
      let k := k.check va 64
      if k.err.isSome then (k, 0)
      else
        let rows (i : Nat) : List Nat × List Nat := (m.row k.s 0 (m.reg 2 + i * sstr) hd, m.row k.s 0 (m.reg 3 + i * sstr) hd)
        let (k, d', done_) := Kv.tokens rows pos0 n 0 k d
        let err := k.err
        let d' := if done_ = 0 then d' else putBits (putBits d' 319 288 (pos0 + done_ - 1)) 363 363 1
        let k := if d' = d then k else { ({ k with err := none }).wr va (leBytes 64 d') with err := err }
        (k, done_)

/-- KVSEAL (R385): with CUR = none it changes nothing. -/
def kvSeal (m : KvCmd) (k : Kv) : Kv :=
  let va := m.pair 0
  let (k, d) := k.rd va 64
  if k.err.isSome then k
  else if !descOk d then k.fail ⟨cKV_FORMAT, va, []⟩
  else if dCur d = noPage then k
  else
    let (k, d) := (k.check va 64).sealCur d
    k.wr va (leBytes 64 d)

/-! Eviction (R387 to R391). -/

/-- A token: position, page-list index, slot and mass. -/
structure Tok where
  pos : Nat
  page : Nat
  slot : Nat
  mass : Nat
deriving DecidableEq, Repr, Inhabited

/-- What READ finds of a page: its VA, its header and its tokens. -/
structure PageImg where
  va : Nat
  hdr : Nat
  toks : List Tok
deriving DecidableEq, Repr, Inhabited

/-- READ (R388). -/
def Kv.readPage (k : Kv) (d i : Nat) : Kv × PageImg :=
  let (k, pg) := k.page d i
  let k := k.check pg (pageBytes d)
  let (k, h) := k.rd pg 64
  let (k, pos) := k.rd (pg + 64) 256
  let (k, mass) := k.rd (pg + 320) 256
  let js := (List.range 64).filter fun j => bit (hVmask h) j
  (k, ⟨pg, h, js.map fun j => ⟨bits pos (32 * j + 31) (32 * j), i, j, bits mass (32 * j + 31) (32 * j)⟩⟩)

/-- Every page of the list. -/
def Kv.readPages (d : Nat) : Nat → Nat → Kv → Kv × List PageImg
  | 0, _, k => (k, [])
  | n + 1, i, k =>
    let (k, p) := k.readPage d i
    let (k, ps) := Kv.readPages d n (i + 1) k
    (k, p :: ps)

/-- SELECT (R389): the kept tokens by position. -/
def selectToks (toks : List Tok) (nsink nrecent nheavy : Nat) : List Tok :=
  let ts := sortBy (·.pos) toks
  let sinks := ts.take nsink
  let rest := ts.drop nsink
  let cut := rest.length - Nat.min nrecent rest.length
  let mid := rest.take cut
  let heavy := (sortBy (fun t => 0xFFFFFFFF - t.mass) mid).take nheavy
  sinks ++ (mid.filter heavy.contains) ++ rest.drop cut

/-- The largest of some signed exponents. -/
def maxInt (l : List Int) : Int := l.foldl (fun m x => if m < x then x else m) (-128)

/-- A PS8 row under another scale (R390): the bytes and whether a non-zero bit was lost. -/
def rescale (from_ to_ : Int) (bs : List Byte) : List Byte × Bool :=
  let rs := bs.map fun b => e4m3.finish 0 true false 0 ((e4m3.val b.toNat).scale (from_ - to_))
  (rs.flatMap fun r => leBytes 1 r.1, rs.any fun r => r.2 &&& (fNX + fUF) != 0)

/-- A token's rows as read. -/
def Kv.rows (k : Kv) (d : Nat) (ps : List PageImg) (t : Tok) : List Byte × List Byte :=
  let pg := (ps.getD t.page default).va
  let (_, kr) := k.rd (pg + 576 + t.slot * dKstr d) (dKstr d)
  let (_, vr) := k.rd (pg + 576 + 64 * dKstr d + t.slot * dVstr d) (dVstr d)
  (leBytes (dKstr d) kr, leBytes (dVstr d) vr)

/-- A row moved into a page: PS8 rows take its scale. -/
def movedRow (fmt hd : Nat) (from_ to_ : Int) (row : List Byte) : List Byte × Nat :=
  if fmt = 2 && from_ != to_ then
    let (bs, lost) := rescale from_ to_ (row.take hd)
    (bs ++ row.drop hd, b2n lost)
  else (row, 0)

/-- Writes destination page `q` with its tokens, whose rows were read before (R390, R391): the run and how many
rows lost bits. -/
def Kv.movePage (k : Kv) (d : Nat) (ps : List PageImg) (q : Nat) (ts : List (Tok × List Byte × List Byte)) : Kv × Nat :=
  let pg := ps.getD q default
  let srcs := (distinct (ts.map fun t => t.1.page)).map fun i => ps.getD i default
  let ksc := if dKfmt d = 2 then maxInt (srcs.map fun p => hKsc p.hdr) else 0
  let vsc := if dVfmt d = 2 then maxInt (srcs.map fun p => hVsc p.hdr) else 0
  let n := ts.length
  let big (f : Nat → Nat) : Nat := encMag (srcs.foldl (fun m p => m.max (f32.val (f p.hdr))) (Ex.nil false))
  let h := 2 ^ n - 1 + n * 2 ^ 64 + (if n = 64 then 2 ^ 80 else 2 ^ 81) + wrapN 8 ksc * 2 ^ 96 + wrapN 8 vsc * 2 ^ 104 +
    Nat.min (srcs.foldl (fun m p => m + hSatcnt p.hdr) 0) 0xFFFF * 2 ^ 112 + big hKamax * 2 ^ 128 + big hVamax * 2 ^ 160 +
    bits pg.hdr 255 192 * 2 ^ 192
  let words (f : Tok → Nat) : List Byte := (ts.flatMap fun t => leBytes 4 (f t.1)) ++ List.replicate (4 * (64 - n)) 0#8
  let k := k.wr pg.va (leBytes 64 h ++ words (·.pos) ++ words (·.mass))
  let idx := (List.range n).zip ts
  idx.foldl (fun acc e =>
    let (k, lossy) := acc
    let (j, t, kr, vr) := e
    let src := ps.getD t.page default
    let (kb, a) := movedRow (dKfmt d) (dHdim d) (hKsc src.hdr) ksc kr
    let (vb, b) := movedRow (dVfmt d) (dHdim d) (hVsc src.hdr) vsc vr
    ((k.wr (pg.va + 576 + j * dKstr d) kb).wr (pg.va + 576 + 64 * dKstr d + j * dVstr d) vb, lossy + a + b)) (k, 0)

/-- FREE (R391): the run, the descriptor, and the number of pages freed. -/
def Kv.freePages (k : Kv) (d : Nat) (ps : List PageImg) (kept n : Nat) : Kv × Nat × Nat :=
  let extra := ps.drop n
  let room := dFcap d - dFcnt d
  let freed := extra.take room
  let rest := extra.drop room
  let k := extra.foldl (fun k p => k.wr p.va (List.replicate 64 0#8)) k
  let k := k.wr (dFlist d + 8 * dFcnt d) (freed.flatMap fun p => leBytes 8 p.va)
  let k := k.wr (dPlist d + 8 * n) (rest.flatMap fun p => leBytes 8 p.va)
  let d := putBits (putBits d 255 224 (dFcnt d + freed.length)) 95 64 (n + rest.length)
  (k, putBits d 159 128 (if kept % 64 = 0 then noPage else n - 1), freed.length)

/-- MOVE and FREE for every kept page. -/
def Kv.compact (k : Kv) (d : Nat) (ps : List PageImg) (ts : List Tok) : Kv × Nat :=
  let full := ts.map fun t => (t, k.rows d ps t)
  let n := (ts.length + 63) / 64
  let (k, lossy) := (List.range n).foldl (fun acc q =>
    let (k, l) := acc
    let (k, x) := k.movePage d ps q (((full.drop (64 * q)).take 64).map fun e => (e.1, e.2.1, e.2.2))
    (k, l + x)) (k, 0)
  let (k, d, freed) := k.freePages d ps ts.length n
  (k, putBits (putBits d 447 416 (2 ^ 30 + freed % 2 ^ 14 * 2 ^ 16 + ts.length % 2 ^ 16)) 479 448 lossy)

/-- The parts of the lists that FREE writes when `n` pages stay: the ends of the free list and of the page list. -/
def freeRanges (d n : Nat) : List (Nat × Nat) :=
  let freed := Nat.min (dPcnt d - n) (dFcap d - dFcnt d)
  [(dFlist d + 8 * dFcnt d, 8 * freed), (dPlist d + 8 * n, 8 * (dPcnt d - n - freed))]

/-- The pages of some ranges that fault, with the kind of their records: engine read 8 or engine write 9 (R277, R300). -/
def Kv.faulting (k : Kv) (rs : List (Nat × Nat)) (wr : Bool) : List (Nat × Nat) :=
  rs.flatMap fun r => ((pagesOf r.1 r.2).filter fun p => decide (p < 2 ^ 36) && (kvFate k.s (dieCaches k.die) k.slot wr p).isSome).map
    fun p => (p, if wr then 9 else 8)

/-- Every page that faults in an eviction which leaves `n` pages: of the page list, of its pages, and of what FREE writes. A
page makes one record (R277), of the kind of the first access that it fails. -/
def Kv.evictFaults (k : Kv) (d n : Nat) : List (Nat × Nat) :=
  let pages := (List.range (dPcnt d)).filterMap fun i =>
    let (k', pg) := k.page d i
    if k'.err.isSome then none else some (pg, pageBytes d)
  (k.faulting [(dPlist d, 8 * dPcnt d)] false ++ k.faulting pages true ++ k.faulting (freeRanges d n) true).foldl
    (fun ps p => if ps.any (·.1 == p.1) then ps else ps ++ [p]) []

/-- KVEVICT after its acceptance (R388): FAULT, for any fault on a page or a list, writes nothing but the descriptor, and makes
a record for each page (R277). -/
def kvEvict (m : KvCmd) (k : Kv) : Kv :=
  let va := m.pair 0
  let (k, d) := k.rd va 64
  let (k', ps) := Kv.readPages d (dPcnt d) 0 k
  let kept := selectToks (ps.flatMap (·.toks)) (m.reg 2) (m.reg 3) (m.reg 4)
  let n := if k'.err.isSome then dPcnt d else (kept.length + 63) / 64
  let k' := (freeRanges d n).foldl (fun k r => if r.2 = 0 then k else k.check r.1 r.2) k'
  if k'.err.isSome then
    let s := (k.evictFaults d n).foldl (fun s p => faultRec s ⟨ctxidOf s k.slot, p.1, p.2, some (m.g, 8 + m.pend)⟩) k.s
    ({ k with s := s }).wr va (leBytes 64 (putBits (putBits d 447 416 (2 ^ 31)) 362 362 0))
  else
    let (k, d) := k'.compact d ps kept
    k.wr va (leBytes 64 (putBits d 362 362 0))

/-! Mass (R396 to R398). -/

/-- e × 2^20 rounded to an integer, ties to even; +∞ gives 2^32 (R397). -/
def massOf (n : Nat) : Nat :=
  match f32.val n with
  | .fin x => ((x.scale 20).toInt 0 0).1.toNat
  | .inf _ _ => 2 ^ 32
  | .nan _ => 0

/-- The sum of a column (R397), and whether a NaN was met. -/
def massSum (lams : List Nat) (col : List Nat) : Nat × Bool :=
  (lams.zip col).foldl (fun acc e =>
    let (lam, x) := e
    if lam = ninf32.toNat then acc
    else
      let d := (f32.val x).add 0 (f32.val lam).flip
      if d.isNan then (acc.1, true) else (acc.1 + massOf (exp2of (rnd32 d).1).1, acc.2)) (0, false)

/-- What an MFOLD adds to the counter of a column, and whether a NaN was met (R397): the reads of the strip and of λ for a column
are reads of their own (R257, R399). -/
def foldColumn (m : KvCmd) (s : State) (j : Nat) : Nat × Bool :=
  massSum (m.row s j (m.reg 2) (m.reg 1))
    ((List.range (m.reg 1)).map fun r => (m.row s j (m.reg 0 + 256 * r + 4 * j) 1).headD 0)

/-- The writes of a command as they are performed: an MFOLD leaves a column alone whose sum is 0 (R397). -/
def kvPlan (m : KvCmd) (s : State) : List KvWrite :=
  m.plan.filterMap fun w => match w with
    | .fold ps j => let n := (foldColumn m s j).1; if n = 0 then none else some (.add ps n)
    | w => some w

/-- The FLAGS bits that a command's performing adds: an MFOLD's NV (R397). -/
def kvLateFlags (m : KvCmd) (s : State) : Nat :=
  if m.plan.any (fun w => match w with
    | .fold _ j => (foldColumn m s j).2
    | _ => false) then fNV else 0

/-- The lines that an MFOLD writes through PL = 1 leaves as it is performed are pinned (R214). -/
def foldPin (m : KvCmd) (s t : State) (die : Nat) : State :=
  m.plan.foldl (fun t w => match w with
    | .fold _ j => if (foldColumn m s j).1 = 0 then t else pinRange t none (dieCaches die) m.ctx (m.pair 4 + 320 + 4 * j) 4
    | _ => t) t

/-- MFOLD's acceptance (R396): its checks. Its strip, its λ and its sums wait until it is performed (R399). -/
def kvFold (m : KvCmd) (k : Kv) : Kv :=
  let strip := m.reg 0
  let rows := m.reg 1
  let lam := m.reg 2
  let cols := m.reg 3
  let pg := m.pair 4
  let size := m.banks.length * 49152
  let bad := strip % 16 != 0 || rows == 0 || decide (96 < rows) || lam % 16 != 0 || cols == 0 || decide (64 < cols) ||
    pg % 192 != 0 || m.reg 6 != 0 || m.reg 7 != 0
  let ends := [(strip, strip + 256 * (rows - 1) + 4 * cols), (lam, lam + 4 * rows)].filter fun e => decide (size < e.2)
  if bad then k.fail ⟨cOPERAND, 0, []⟩
  else match ends with
    | e :: r => k.fail ⟨cSCRATCH_RANGE, (r.foldl (fun n x => Nat.min n (Nat.max x.1 size)) (Nat.max e.1 size)), []⟩
    | [] =>
      let k := k.check pg 576
      if k.err.isSome then k
      else
        (List.range cols).foldl (fun k j => match kvPlaces k.s (dieCaches k.die) k.slot (pg + 320 + 4 * j) 4 true with
          | .inl ps => { k with plan := k.plan ++ [.fold ps j] }
          | .inr e => k.fail e) k

/-- MDECAY (R398). -/
def kvDecay (m : KvCmd) (k : Kv) : Kv :=
  let va := m.pair 0
  let (k, d) := k.rd va 64
  let n := m.reg 2
  if k.err.isSome then k
  else if !descOk d then k.fail ⟨cKV_FORMAT, va, []⟩
  else if n = 0 || 8 < n || dPcnt d < m.reg 3 + m.reg 4 || m.reg 5 != 0 || m.reg 6 != 0 || m.reg 7 != 0 then
    k.fail ⟨cOPERAND, 0, []⟩
  else (List.range (m.reg 4)).foldl (fun k i =>
    let (k, pg) := k.page d (m.reg 3 + i)
    (List.range 64).foldl (fun k j => k.put (pg + 320 + 4 * j) 4 fun ps => .shift ps n) (k.check (pg + 320) 256)) k

/-! The two stages (R381). -/

/-- KVEVICT's acceptance checks (R387, R388); an event index beyond the table (R309) is out of range. -/
def evictCheck (m : KvCmd) (k : Kv) : Kv :=
  let va := m.pair 0
  let (k, d) := (k.check va 64).rd va 64
  let big (i : Nat) : Bool := decide (65535 < m.reg i)
  if k.err.isSome then k
  else if !descOk d then k.fail ⟨cKV_FORMAT, va, []⟩
  else if big 2 || big 3 || big 4 || m.reg 6 != 0 || m.reg 7 != 0
      || (evIdx (w32 (m.reg 5)) != 0 && !evIndexOk (ctxAt k.s k.slot) (evIdx (w32 (m.reg 5)))) then k.fail ⟨cOPERAND, 0, []⟩
  else k

/-- The run of a command at its acceptance, with every decision it makes (R381): of a KVEVICT only the checks. -/
def kvRun (m : KvCmd) (k : Kv) : Kv :=
  match m.op with
  | 0xE0 => (kvAppend m k).1
  | 0xE1 => kvSeal m k
  | 0xE3 => evictCheck m k
  | 0xE4 => kvFold m k
  | _ => kvDecay m k

/-- A fresh run. -/
def kvStart (s : State) (m : KvCmd) : Kv := ⟨s, m.g / 128 / 128, m.ctx, 0, 0, none, [], []⟩

/-- The lines that a run touched through PL = 1 leaves are pinned (R214). -/
def kvPin (s : State) (k : Kv) : State :=
  k.seen.foldl (fun s r => pinRange s none (dieCaches k.die) k.slot r.1 r.2) s

/-- A group's KV command enters its die's queue (R380, R381): it stalls while the queue or its flag is full. -/
def kvIssue (s : State) (op : Nat) (regs : List Word) : Res :=
  let die := coreOf s.curG / 128
  if flagFull s 2 then .next (stallHere s)
  else if 64 ≤ (Store.get s.kvq die).length then .next s
  else
    let (s, id) := addPend (closeRegion s) 2 { (default : Pend) with kind := .kv, dst := .nul }
    let m : KvCmd := { (default : KvCmd) with
      id := id, op := op, g := s.curG, f := s.curF, pend := id, regs := regs, banks := scratchBanks s (cblk s), ctx := (cg s).ctx }
    .next (waitFor { s with kvq := Store.upd s.kvq die fun l => l ++ [m] } .kv)

def execKvapp (a : Opnd) (s : State) : Res := kvIssue s 0xE0 (ublock s a 8)
def execKvseal (a : Opnd) (s : State) : Res := kvIssue s 0xE1 (ublock s a 2)
def execKvevict (a : Opnd) (s : State) : Res := kvIssue s 0xE3 (ublock s a 8)
def execMfold (a : Opnd) (s : State) : Res := kvIssue s 0xE4 (ublock s a 8)
def execMdecay (a : Opnd) (s : State) : Res := kvIssue s 0xE5 (ublock s a 8)

/-- Where a descriptor lies: two addresses, of one context or of two, may name one descriptor (R381). -/
def descPlace (s : State) (caches : List Nat) (slot va : Nat) : Option Nat :=
  match kvPlaces s caches slot va 64 false with
  | .inl (p :: _) => some p
  | _ => none

/-- Is a command on one descriptor accepted and not yet complete (R381)? -/
def kvTaken (s : State) (caches : List Nat) (slot va : Nat) : Bool :=
  let here := descPlace s caches slot va
  s.kvq.any fun q => q.2.any fun m => m.acc && match m.desc with
    | none => false
    | some w => (m.ctx == slot && w == va) || (here.isSome && (m.home == here || descPlace s (dieCaches q.1) m.ctx w == here))

/-- The descriptor of a command is BUSY (R381). -/
def kvBusy (s : State) (m : KvCmd) : Bool :=
  match m.desc with
  | none => false
  | some va => va % 64 == 0 && (let (k, d) := (kvStart s m).rd va 64; k.err.isNone && dBusy d)

/-- May a command be accepted now? -/
def kvMay (s : State) (m : KvCmd) : Bool :=
  !m.acc && !kvBusy s m && !(match m.desc with
    | some va => kvTaken s (dieCaches (m.g / 128 / 128)) m.ctx va
    | none => false) &&
  !pendBefore (gAt s m.g) m.id PendKind.loads && !(m.banks.any fun b => (bankAt s (coreOf m.g) b).holds m.id)

def updKv (s : State) (die id : Nat) (f : KvCmd → KvCmd) : State :=
  { s with kvq := Store.upd s.kvq die fun l => l.map fun m => if m.id == id then f m else m }
def dropKv (s : State) (die id : Nat) : State :=
  { s with kvq := Store.upd s.kvq die fun l => l.filter fun m => m.id != id }

/-- A KV command traps at its instruction (R381), with a record for each page that failed (R277). -/
def kvTrap (s : State) (m : KvCmd) (e : KvFault) : State :=
  withCur (wake s m.g m.f) m.g m.f fun s => raiseAt s e.cause (active s) (w64 e.fadr) (cf s).pc e.pages

/-- KV_ACCEPT (R381): the first command that may be accepted makes its checks and every other decision, and traps or lets its
group go on; one that traps waits while an access of its group is performed in part (R260). A KVAPP without a free page keeps what it has appended and sealed so far (R383). -/
def execKvAccept (die : Nat) (held : State) : Res :=
  let s := held
  match (Store.get s.kvq die).find? (kvMay s) with
  | none => .next s
  | some m =>
    let bad := match m.desc with
      | some va => va % 64 != 0
      | none => false
    let k := if bad then (kvStart s m).fail ⟨cOPERAND, 0, []⟩ else kvRun m (kvStart s m)
    let s := kvPin (if m.olds.isEmpty || m.op = 0xE4 then s else spend s) k
    let keep (s : State) : State := updKv s die m.id fun m =>
      { m with acc := true, plan := k.plan, fl := k.fl, olds := if m.op = 0xE4 then m.olds else [], home := m.desc.bind (descPlace s (dieCaches die) m.ctx) }
    match k.err with
    | none =>
      let s := keep s
      let s := if m.op = 0xE3 then (({ kvStart s m with s := s }).upd (m.pair 0) 64 fun d => putBits d 362 362 1).s else s
      .next (wakeWith s m.g m.f .nul [])
    | some e =>
      if inPart s m.g then .next held
      else if e.cause = cKV_NO_FREE_PAGE && !k.plan.isEmpty then .next (kvTrap (keep s) m e)
      else .next (kvTrap (dropPend (dropKv s die m.id) m.g m.pend) m e)

/-- The writes of an accepted command are performed: what it decided, an MFOLD's sums of the scratch it reads now, or an
eviction's phases (R381, R388, R399). -/
def kvPerform (s : State) (die : Nat) (m : KvCmd) : State :=
  let late := kvLateFlags m s
  let (s, t) :=
    if m.op = 0xE3 then
      let k := kvEvict m (kvStart s m)
      (kvPin k.s k, k.time)
    else (kvPlan m s).foldl (fun acc w =>
      let (s, t) := w.go acc.1
      (s, Nat.max acc.2 t)) (foldPin m s (if m.olds.isEmpty then s else spend s) die, 0)
  updKv s die m.id fun m => { m with perf := true, time := t, plan := [], olds := [], fl := m.fl ||| late }

/-- KV_COMPLETE (R381): an accepted command completes when its completion time has passed (R258), its fault records are
accepted (R277) and an event of another chip can take its signal (R388); else the first accepted one performs its writes. -/
def execKvComplete (die : Nat) (s : State) : Res :=
  let q := Store.get s.kvq die
  let ready (m : KvCmd) : Bool := m.acc && m.perf && decide (m.time < s.gt) && !recWaiting s (m.g, 8 + m.pend) &&
    (m.op != 0xE3 || signalRoom s m.ctx (w32 (m.reg 5)) 1#32 1)
  match q.find? ready with
  | some m =>
    let s := updPend (dropKv s die m.id) m.g m.pend fun p => { p with fl := p.fl ||| m.fl }
    let s := if m.op = 0xE3 then engineSignal s m.ctx m.g m.pend (w32 (m.reg 5)) 1#32 else s
    .next (dropPend s m.g m.pend)
  | none =>
    match q.find? fun m => m.acc && !m.perf with
    | none => .next s
    | some m => .next (kvPerform s die m)

/-! KVPOS (R386). -/

/-- The answer for a position: the first page and slot that hold it. -/
def kvFind (ps : List PageImg) (x : Nat) : Word :=
  match (ps.flatMap (·.toks)).find? fun t => t.pos == x with
  | some t => w32 (t.page * 64 + t.slot)
  | none => 0xFFFFFFFF#32

/-- The page list and the metadata of the pages (R377), read as the issuing core does (R386). -/
def kvView (s : State) (d : Nat) : Nat → Nat → List PageImg ⊕ KvFault
  | 0, _ => .inl []
  | n + 1, i =>
    let rd (va n : Nat) : (List Nat) ⊕ KvFault := kvPlaces s (coreCaches (coreOf s.curG)) (cg s).ctx va n false
    match rd (dPlist d + 8 * i) 8 with
    | .inr e => .inr e
    | .inl ps =>
      let pg := leNat (ps.map (homeByte s))
      match rd pg 576 with
      | .inr e => .inr e
      | .inl ps =>
        let bs := ps.map (homeByte s)
        let h := leNat (bs.take 64)
        let js := (List.range 64).filter fun j => bit (hVmask h) j
        match kvView s d n (i + 1) with
        | .inr e => .inr e
        | .inl r => .inl (⟨pg, h, js.map fun j => ⟨leNat ((bs.drop (64 + 4 * j)).take 4), i, j, 0⟩⟩ :: r)

/-- The ranges that KVPOS reads: the descriptor, the page list and the metadata of its pages (R377, R386). -/
def viewRanges (va d : Nat) (pages : List PageImg) : List (Nat × Nat) :=
  (va, 64) :: (dPlist d, 8 * dPcnt d) :: pages.map fun p => (p.va, 576)

/-- KVPOS's reads meet the L2 as the issuing core's, which pins what it fills through a PL = 1 leaf (R213, R214, R405). -/
def viewMeet (s : State) (va d : Nat) (pages : List PageImg) : State :=
  let core := coreOf s.curG
  (viewRanges va d pages).foldl (fun s r =>
    meetVa (pinRange s (some (core / 16)) (coreCaches core) (cg s).ctx r.1 r.2) core (cg s).ctx r.1 r.2) s

/-- KVPOS (R386): it waits while BUSY = 1 and between accepted commands; a fault is that of every accessing
thread. -/
def execKvpos (d a b : Opnd) (s : State) : Res :=
  let va := upair s a
  let uni := uniform d
  let ts := accThreads s uni
  let flt := if uni then active s else maskOf ts
  let stop (e : KvFault) : Res := .next (raiseSome s e.cause flt (w64 e.fadr) e.pages advance)
  if ts.isEmpty then done s
  else if flagFull s 1 then .next (stallHere s)
  else if kvTaken s (coreCaches (coreOf s.curG)) (cg s).ctx va then .next s
  else if va % 64 ≠ 0 then stop ⟨cOPERAND, 0, []⟩
  else match kvPlaces s (coreCaches (coreOf s.curG)) (cg s).ctx va 64 false with
    | .inr e => stop e
    | .inl ps =>
      let desc := leNat (ps.map (homeByte s))
      if dBusy desc then .next s
      else if !descOk desc then stop ⟨cKV_FORMAT, va, []⟩
      else match kvView s desc (dPcnt desc) 0 with
        | .inr e => stop e
        | .inl pages =>
          let as := ts.map fun t => { (default : Acc) with
            t := t, n := 4, got := true, bs := leBytes 4 (kvFind pages (src s .plain b t).toNat).toNat }
          done (addPend (viewMeet s va desc pages) 1
            { (default : Pend) with kind := .value, dst := d, uni := uni, done := true, accs := as }).1

end Sys2Proof.Machine
end

