-- ==== Sys2Proof/Machine/Banks.lean ====
section
/-! DEFINITION. Changing a local-store bank's mode: BANKM and its exit action (R205, R206, R245). -/

namespace Sys2Proof.Machine

/-- Does a VALID ring of the block lie in its j-th FIFO bank (R275)? -/
def ringIn (s : State) (b j : Nat) : Bool :=
  (bAt s b).rings.any fun e => e.2.valid &&
    decide (e.2.base < (j + 1) * 49152) && decide (j * 49152 < e.2.base + 192 * e.2.slotl * e.2.nslot)

/-- The place of a bank in a list of banks. -/
def placeIn (l : List Nat) (k : Nat) : Nat := (l.takeWhile (· != k)).length

/-- BANKM (R245); it closes the region when it issues (R416). -/
def execBankm (m : BitVec 2) (a : Opnd) (s : State) : Res :=
  let k := (usrc s a).toNat
  let c := coreOf s.curG
  let b := cblk s
  let x := bankAt s c k
  if k < 32 && x.drain then .next s
  else if flagFull s 2 then .next (stallHere s)
  else
    let s := closeRegion s
    if 32 ≤ k || !x.owned || x.blk != b % 4 || (x.mode == 2 && ringIn s b (placeIn (fifoBanks s b) k)) then
      .next (raiseAll s cOPERAND (w64 k))
    else
      let (s, id) := addPend s 2 { (default : Pend) with kind := .bank, dst := .nul }
      .next (advance (updBank s c k fun x =>
        { x with mode := m.toNat, drain := true, by_ := (s.curG, id), left := some x.mode }))

/-- Does a range reach a bank of a list that it is an offset in (R204)? -/
def rangeIn (list : List Nat) (k : Nat) (r : Nat × Nat) : Bool :=
  let j := placeIn list k
  list.contains k && decide (0 < r.2) && decide (r.1 < (j + 1) * 49152) && decide (j * 49152 < r.1 + r.2)

/-- The scratch that a copy command has yet to read or write: its rows from the one in hand on, every offset for the
source of a CPYG, whose table names its rows, and the rest of that table. -/
def Cmd.ranges (m : Cmd) : List (Nat × Nat) :=
  let rows := (List.range m.rows).drop m.row
  (if !m.usesSrc || !m.srcScr then [] else if m.op = 0xB2 then [(0, 49152 * m.banks.length)]
    else rows.map fun i => (m.src + i * m.sstr, m.srcLen)) ++
  (if !m.usesDst || !m.dstScr then [] else rows.map fun i => (m.dst + i * m.dstr, m.dstLen)) ++
  (if m.op = 0xB2 then (rows.drop (b2n m.idx.isSome)).map fun i => (m.ev.toNat + 4 * i, 4) else [])

/-- The FIFO bytes that a CPYR has yet to write: its slot, or the whole ring before it claims one. -/
def Cmd.ringRanges (s : State) (m : Cmd) : List (Nat × Nat) :=
  if m.op ≠ 0xB4 then []
  else match m.slot with
    | some w => [(m.ring.base + m.ring.slotBytes * (w % m.ring.nslot), m.ring.slotBytes)]
    | none => let r := ringRec s m.blk m.ringNo; if r.valid then [(r.base, r.size)] else []

/-- Does an operation issued before a BANKM still reach its bank (R206)? -/
def bankBusy (s : State) (c k bound : Nat) : Bool :=
  (s.groups.any fun g => coreOf g.1 == c && g.2.pend.any fun p =>
    decide (p.id < bound) && !p.done && p.accs.any fun a => !a.got && !a.zero && p.kind.counted &&
      (if p.scratch then a.pa / 49152 == 32 * c + k else holdsLine s (blkOf g.1) (lineOf a.pa) k)) ||
  (s.mxq.any fun o => o.core == c && decide (lastNum o.mem ≤ bound) && !o.perf && (memRanges o.mem).any (rangeIn o.banks k)) ||
  (s.rdvs.any fun r => r.blk / 4 == c && r.arrs.length == popcount r.gang && decide (lastNum r.arrs ≤ bound) &&
    (memRanges r.arrs).any (rangeIn r.banks k)) ||
  (s.strq.any fun q => q.1 / 4 == c && q.2.any fun m => decide (m.id < bound) && m.isCopy && !m.moved &&
    (m.ranges.any (rangeIn m.banks k) || (m.ringRanges s).any (rangeIn m.fifo k))) ||
  (s.kvq.any fun q => q.2.any fun m =>
    coreOf m.g == c && decide (m.id < bound) && m.readsScratch && m.scratchRows.any (rangeIn m.banks k))

/-- Requests of a block's write-backs below a number are still on their way. -/
def bankWb (s : State) (b bound : Nat) : Bool := wbPending s b bound

/-- BANK_DRAIN_COMPLETE (R205): the exit action begins once earlier accesses are done, and completes when
the write-backs have returned; every word then reads zero. -/
def execBankDrainComplete (c k : Nat) (s : State) : Res :=
  let x := bankAt s c k
  let b := 4 * c + x.blk
  if !x.drain then .next s
  else
    match x.left with
    | some old =>
      if bankBusy s c k x.by_.2 then .next s
      else
        let s := if old = 0 then dropBank ((List.range 256).foldl (fun s t => writeBack s b k t) s) c k else s
        .next (updBank s c k fun x => { x with left := none, bound := s.nextId })
    | none =>
      if bankWb s b x.bound then .next s
      else
        let s := { s with ls := Store.keep s.ls fun i => i / 49152 != 32 * c + k }
        let s := updBank s c k fun x => { x with drain := false, by_ := (0, 0), bound := 0 }
        .next (dropPend s x.by_.1 x.by_.2)

end Sys2Proof.Machine
end

