-- ==== Sys2Proof/Machine/Control.lean ====
section
/-! DEFINITION. The control instructions (R99 to R122): transfers, divergence and reconvergence, ending,
sleeping, MODE and the system registers, barriers, and code prefetch and pinning. -/

namespace Sys2Proof.Machine

/-- A target or join: a signed byte offset from the fetch block of the instruction (R100). -/
def relTarget (s : State) (o : Opnd) : Quad := fblock (cf s).pc + (usrc s o).signExtend 64

/-- Moves control to an address, or raises ALIGN there (R39). -/
def transfer (s : State) (t : Quad) (go : State → State) : Res :=
  if targetOk t then .next (go s) else .next (raiseAll s cALIGN t)

/-- NOP (R113). -/
def execNop (s : State) : Res := done s

/-- BRA (R101). -/
def execBra (a : Opnd) (s : State) : Res := let t := relTarget s a; transfer s t fun s => jump s t

/-- Does a divergent branch need a RECONV entry of its own (R104)? -/
def needRec (s : State) (join : Quad) : Bool :=
  match topOf s with
  | some e => !(e.kind == 0 && e.pc == join && (active s &&& ~~~e.mask) == 0#32)
  | none => true

/-- The pushes of a divergent branch (R104): the RECONV entry if needed, then the PATH entries in the
order given; the fragment goes on with the threads `first`. STACK if they do not fit. -/
def diverge (s : State) (join : Quad) (paths : List (Word × Quad)) (first : Word) (go : State → State) : State :=
  let nr := needRec s join
  let mode := (cf s).mode
  if !roomFor s (b2n nr + paths.length) then raiseStack s
  else
    let s := if nr then pushHere s ⟨0, join, active s, mode⟩ else s
    let s := paths.foldl (fun s p => pushHere s ⟨1, p.2, p.1, mode⟩) s
    go (updCF s fun f => { f with mask := first })

/-- BRC (R102). -/
def execBrc (n : BitVec 1) (p : BitVec 3) (a b : Opnd) (s : State) : Res :=
  let pr := rdP (cg s) p.toNat
  let t := active s &&& (if n == 1#1 then ~~~pr else pr)
  let nt := active s &&& ~~~t
  let tgt := relTarget s a
  let join := if b = .zero then tgt else relTarget s b
  if emptyMask nt then transfer s tgt fun s => jump s tgt
  else if emptyMask t then done s
  else if !targetOk tgt then .next (raiseAll s cALIGN tgt)
  else if !targetOk join then .next (raiseAll s cALIGN join)
  else .next (diverge s join [(t, tgt)] nt advance)

/-- The target of a thread in BRX (R103). -/
def brxTarget (s : State) (a : Opnd) (t : Nat) : Quad :=
  w64 ((srcAt s a 0 t).toNat + 2 ^ 32 * (srcAt s a 1 t).toNat)

/-- BRX (R103). -/
def execBrx (a b : Opnd) (s : State) : Res :=
  if isS a then let t := w64 (upair s a); transfer s t fun s => jump s t
  else
    let tg := brxTarget s a
    let bad := maskOf ((threads (active s)).filter fun t => !targetOk (tg t))
    let fadr := match lowest bad with
      | some t => tg t
      | none => 0#64
    let join := relTarget s b
    .next <| raiseSome s cALIGN bad fadr [] fun s =>
      let ts := threads (active s)
      let targets := sortBy id (distinct (ts.map fun t => (tg t).toNat))
      let of (x : Nat) : Word := maskOf (ts.filter fun t => (tg t).toNat == x)
      match targets with
      | [] => advance s
      | [x] => jump s (w64 x)
      | x :: rest =>
        if needRec s join && !targetOk join then raiseAll s cALIGN join
        else diverge s join (rest.reverse.map fun y => (of y, w64 y)) (of x) fun s => jump s (w64 x)

/-- CALL (R107). -/
def execCall (a : Opnd) (s : State) : Res :=
  let t := relTarget s a
  transfer s t fun s =>
    if !roomFor s 1 then raiseStack s
    else jump (pushHere s ⟨2, fblock (cf s).pc + 64#64, active s, (cf s).mode⟩) t

/-- Threads of the other live fragments of the acting group (R68). -/
def otherThreads (s : State) : Word :=
  (slots8.filter (· ≠ s.curF)).foldl (fun m i =>
    let f := Store.get (cg s).frags i
    if isLive f then m ||| f.mask else m) 0#32

/-- The threads that an entry of the shared stack resumes: those that live in no other fragment (R68,
log entry 15, DEDUCED). -/
def resumable (s : State) (e : StkEntry) : Word := e.mask &&& ~~~otherThreads s

/-- Takes a path from a stack entry: MASK, MODE and, if it transfers, PC. -/
def takeEntry (s : State) (e : StkEntry) : State :=
  updCF s fun f => { f with mask := resumable s e, mode := e.mode }

/-- RET (R107). -/
def execRet (s : State) : Res :=
  match topOf s with
  | some e =>
    if e.kind != 2 then .next (raiseStack s)
    else transfer s e.pc fun s => jump (popHere (takeEntry s e)) e.pc
  | none => .next (raiseStack s)

/-- What a chain of pops comes to. -/
inductive PopEnd where
  /-- A PATH entry that the fragment takes. -/
  | path (e : StkEntry)
  /-- A RECONV entry. -/
  | recon (e : StkEntry)
  /-- A RETURN entry (R107). -/
  | ret (e : StkEntry)
  /-- An entry of KIND 3 (R67). -/
  | bad
  /-- The stack is empty. -/
  | empty
deriving DecidableEq, Repr, Inhabited

/-- Pops entries with an empty mask that `drop` admits; the entry found is still on the stack. -/
def popChain (drop : StkEntry → Bool) : Nat → State → State × PopEnd
  | 0, s => (s, .empty)
  | n + 1, s =>
    match topOf s with
    | none => (s, .empty)
    | some e =>
      if e.kind = 3 then (s, .bad)
      else if emptyMask e.mask && drop e then popChain drop n (popHere s)
      else match e.kind with
        | 0 => (s, .recon e)
        | 1 => (s, .path e)
        | _ => (s, .ret e)

/-- SYNC (R106). -/
def execSync (s : State) : Res :=
  match popChain (fun e => e.kind == 1) 32 s with
  | (s', .path e) =>
    if targetOk e.pc then .next (jump (popHere (takeEntry s' e)) e.pc) else .next (raiseAll s cALIGN e.pc)
  | (s', .recon e) => .next (advance (popHere (takeEntry s' e)))
  | _ => .next (raiseStack s)

/-- Takes threads out of a mask in every stack entry, spilled ones too, and in every other fragment (R109). -/
def removeThreads (s : State) (m : Word) : State :=
  let cut (e : StkEntry) : StkEntry := { e with mask := e.mask &&& ~~~m }
  let g := s.curG
  let s := updCG s fun x => mapFrags { x with stk := x.stk.map cut } fun f => { f with pstk := f.pstk.map cut }
  let s := updCG s fun x =>
    { x with frags := (slots8.filter (· ≠ s.curF)).foldl (fun st i =>
        if isLive (Store.get st i) then Store.upd st i fun f => { f with mask := f.mask &&& ~~~m } else st) x.frags }
  (List.range (cg s).spilled).foldl (fun s i => spill s g i (cut (unspill s g i))) s

/-- An entry of the fragment table becomes FREE. -/
def freeFragment (s : State) : State := updCF s fun _ => default

/-- When no fragment is live the group waits for its operations, and ends (R109). -/
def maybeEnd (s : State) (yielded : Bool) : State :=
  if (liveFrags (cg s)).isEmpty then updCG s fun g => { g with ending := true, yielded := yielded } else s

/-- The acting fragment's threads end (R109). An entry whose mask names only threads that live in other fragments stays on
the stack, and the fragment is freed (log entry 126, DEDUCED). -/
def exitThreads (s0 : State) : State :=
  let s := removeThreads s0 (active s0)
  match popChain (fun _ => true) 32 s with
  | (s, .path e) =>
    if !targetOk e.pc then raiseAll s0 cALIGN e.pc
    else if emptyMask (resumable s e) then maybeEnd (freeFragment s) false
    else jump (popHere (takeEntry s e)) e.pc
  | (s, .recon e) =>
    if !targetOk e.pc then raiseAll s0 cALIGN e.pc
    else if emptyMask (resumable s e) then maybeEnd (freeFragment s) false
    else jump (popHere (takeEntry s e)) e.pc
  | (s, .ret _) => maybeEnd (freeFragment s) false
  | (_, .bad) => raiseStack s0
  | (s, .empty) => maybeEnd (freeFragment s) false

/-- Every live thread of a group ends (R110). A fragment whose EVSIG or MBXDONE is pending is freed with that operation, which
completes first (R65). -/
def endAll (s : State) (g : Nat) (yielded : Bool) : State :=
  updG s g fun x => { x with
    frags := x.frags.filter fun e => e.2.signals, stk := [], spilled := 0, ending := true, yielded := yielded }

/-- The rendezvous that list a group fail when it ends (R165). -/
def endedDrop (s : State) (g : Nat) : State := if (gAt s g).ending then rdvDrop s g else s

/-- EXIT (R109). -/
def execExit (s : State) : Res := .next (endedDrop (exitThreads s) s.curG)

/-- YIELD (R110). -/
def execYield (s : State) : Res := .next (endedDrop (endAll s s.curG true) s.curG)

/-- SLEEP (R111). -/
def execSleep (a : Opnd) (s : State) : Res :=
  .next (waitFor s (.sleep s.gt (usrc s a).toNat))

/-- TRAP (R112). -/
def execTrap (a : Opnd) (s : State) : Res := .next (raiseAll s cSOFTWARE ((usrc s a).zeroExtend 64))

/-- The MODE bits that a SETM field mask selects (R114). -/
def setmMask (m : Nat) : Nat :=
  b2n (bit m 0) * 0xF8000000 + b2n (bit m 1) * 0x07000000 + b2n (bit m 2) * 0x00E00000 +
  b2n (bit m 3) * 0x00180000 + b2n (bit m 4) * 0x00040000 + b2n (bit m 5) * 0x00020000 +
  b2n (bit m 6) * 0x0001E000 + b2n (bit m 7) * 0x00001FF8

/-- Writes MODE, or raises OPERAND for a value that R56 refuses. -/
def setMode (s : State) (m : Word) : Res :=
  if modeOk m then done (updCF s fun f => { f with mode := m }) else .next (raiseAll s cOPERAND 0#64)

/-- SETM (R114). -/
def execSetm (m : BitVec 8) (a : Opnd) (s : State) : Res :=
  let k := w32 (setmMask m.toNat)
  setMode s (((cf s).mode &&& ~~~k) ||| (usrc s a &&& k))

/-- PREQ as a register (R76). -/
def preqWord (s : State) : Word := w32 ((cctx s).preq % 4)

/-- The value of a system register (R73). -/
def sysReg (s : State) (i : Nat) : Word :=
  let g := cg s
  let f := cf s
  let lo (q : Quad) : Word := q.truncate 32
  let hi (q : Quad) : Word := (q >>> 32).truncate 32
  match i with
  | 0x00 => f.mode
  | 0x01 => g.flags
  | 0x02 => g.role
  | 0x03 => g.gang
  | 0x04 => w32 (grpOf s.curG + g.lane % 32 * 2 ^ 5 + g.pos % 8 * 2 ^ 10)
  | 0x05 => w32 (cblk s % 4)
  | 0x06 => w32 (coreOf s.curG)
  | 0x07 => w32 s.chip
  | 0x08 => w32 (cctx s).ctxid
  | 0x09 => g.rgncnt
  | 0x0A => preqWord s
  | 0x0B => w32 (cctx s).deadln
  | 0x0C => w32 s.gt
  | 0x0D => match g.latch with
    | some q => hi q
    | none => w32 (s.gt / 2 ^ 32)
  | 0x0E => w32 (depthOf g)
  | 0x0F => w32 (trapCause g f)
  | 0x10 => lo f.trap.pc
  | 0x11 => hi f.trap.pc
  | 0x12 => lo f.trap.fadr
  | 0x13 => hi f.trap.fadr
  | 0x14 => f.trap.frgmsk
  | 0x15 => f.trap.fltmsk
  | 0x16 => lo f.trap.oua
  | 0x17 => hi f.trap.oua
  | 0x18 => lo f.trap.rgnpc
  | 0x19 => hi f.trap.rgnpc
  | _ => 0#32

/-- Writes one value into a destination that ignores the guard: every active thread, or once (R115). -/
def writeAll (s : State) (d : Opnd) (w : Word) : State :=
  match d with
  | .s n => if (threads (active s)).isEmpty then s else updCG s fun g => wrS g n w
  | d => updCG s fun g => wrThreads g d ((threads (active s)).map fun t => (t, [w]))

/-- MFS (R115): a read of GTLO takes the time latch (R74). -/
def execMfs (d : Opnd) (i : BitVec 8) (s : State) : Res :=
  let v := sysReg s i.toNat
  let s := if i.toNat = 0x0C then updCG s fun g => { g with latch := some (w64 s.gt) } else s
  done (writeAll s d v)

/-- GETM (R115). -/
def execGetm (d : Opnd) (s : State) : Res := done (writeAll s d (cf s).mode)

/-- MTS (R115): MODE is checked, FLAGS clears the bits written as 1, the others are read-only. -/
def execMts (i : BitVec 8) (b : Opnd) (s : State) : Res :=
  match i.toNat with
  | 0x00 => setMode s (usrc s b)
  | 0x01 => let w := usrc s b; done (updCG s fun g => { g with flags := g.flags &&& ~~~w })
  | _ => done s

/-- The completion step of a barrier (R118). -/
def Bar.complete (b : Bar) : Bar :=
  { b with phase := (b.phase + b.count / b.expect) % 65536, count := b.count % b.expect }

def barAt (s : State) (k : Nat) : Bar := Store.get (bAt s (cblk s)).bars k
def updBar (s : State) (k : Nat) (f : Bar → Bar) : State :=
  updB s (cblk s) fun b => { b with bars := Store.upd b.bars k f }

/-- Has a barrier reached a phase (R119)? -/
def phaseReached (b : Bar) (t : Nat) : Bool := decide (0 ≤ sgn 16 ((b.phase + 65536 - t % 65536) % 65536))

/-- A BAR or an ARRIVE changes a barrier of the block and completes its phases; it ends every AWAIT whose condition then holds,
whatever the barrier does later (R118, R119). -/
def arriveBar (s : State) (k : Nat) (f : Bar → Bar) : State :=
  let s := updBar s k fun x => (f x).complete
  let b := barAt s k
  let met (x : Frag) : Frag := match x.wait with
    | .await d j t => if j = k && phaseReached b t then { x with wait := .awaited d k } else x
    | _ => x
  { s with groups := s.groups.map fun e =>
      if blkOf e.1 = cblk s then (e.1, { e.2 with frags := e.2.frags.map fun y => (y.1, met y.2) }) else e }

/-- BAR (R118); it closes the region (R416). -/
def execBar (k : BitVec 3) (b : Opnd) (s : State) : Res :=
  let n := (usrc s b).toNat
  let s := closeRegion s
  if n = 0 || 65535 < n then .next (raiseAll s cOPERAND 0#64)
  else done (arriveBar s k.toNat fun x => { x with expect := n })

/-- Has the group an earlier scratch store or scratch atomic not yet performed (R120)? -/
def scratchWrites (g : Group) : Bool :=
  g.pend.any fun p => p.scratch && (p.kind = .store || p.kind = .atomic) && !p.done

/-- ARRIVE (R118): it waits at issue for the group's earlier scratch stores and atomics (R120), and
closes the region. -/
def execArrive (d : Opnd) (k : BitVec 3) (b : Opnd) (s : State) : Res :=
  let n := (usrc s b).toNat
  if scratchWrites (cg s) then .next s
  else
    let s := closeRegion s
    if 65535 < n then .next (raiseAll s cOPERAND 0#64)
    else
      let s := arriveBar s k.toNat fun x => { x with count := x.count + n }
      done (updCG s fun g => wrDst g d [w32 (barAt s k.toNat).phase])

/-- AWAIT (R119). -/
def execAwait (d : Opnd) (k : BitVec 3) (b : Opnd) (s : State) : Res :=
  let t := bits (usrc s b).toNat 15 0
  if phaseReached (barAt s k.toNat) t then done (updCG s fun g => wrDst g d [w32 (barAt s k.toNat).phase])
  else .next (waitFor s (.await d k.toNat t))

/-- The code-cache unit of a level: the core's cache or its cluster's (R122). -/
def codeUnit (s : State) (l : Nat) : Nat :=
  let c := coreOf s.curG
  if l = 0 then c else 512 + c / 16

/-- The physical lines of a code range that can be fetched, ascending (R122). -/
def codeLines (s : State) (base len : Nat) : List Nat :=
  if len = 0 then []
  else (List.range ((base + len - 1) / 192 + 1 - base / 192)).filterMap fun i =>
    match resolve s (coreCaches (coreOf s.curG)) (cg s).ctx ((base / 192 + i) * 192) with
    | some (l, pa) => if l.x then some (pa / 64) else none
    | none => none

/-- The cluster of a code-cache unit. -/
def unitCluster (unit : Nat) : Nat := if unit < 512 then unit / 16 else unit - 512

/-- A code cache takes a fetch block as one content that it may hold (R40). A block that no code cache of the cluster has taken
for the context comes from its home, where a miss is the cluster's (R405; log entry 145, DESIGN CHOICE). -/
def keepCode (s : State) (unit slot pa : Nat) (bs : List Byte) : State :=
  let line := redirectLine s (lineOf pa)
  let near := s.code.any fun v => unitCluster v.unit == unitCluster unit && v.ctx == slot && v.pa == pa
  let s := if near || isHostLine line then s else l2Meet s (some (unitCluster unit)) line
  let v : CodeVer := ⟨unit, slot, pa, bs⟩
  if s.code.contains v then s else { s with code := s.code ++ [v] }

/-- A code cache takes the three fetch blocks of a line as they stand (R40, R122). -/
def cacheCode (s : State) (unit blk64 : Nat) : State :=
  [0, 1, 2].foldl (fun s k =>
    let pa := (blk64 + k) * 64
    keepCode s unit (cg s).ctx pa ((List.range 64).map fun i => homeByte s (pa + i))) s

/-- IPF (R122). -/
def execIpf (l : BitVec 1) (a b : Opnd) (s : State) : Res :=
  done ((codeLines s (upair s a) (usrc s b).toNat).foldl (fun s x => cacheCode s (codeUnit s l.toNat) x) s)

/-- Marks a line as pinned while the level stays at or below half its lines (R122). -/
def pinLine (s : State) (unit limit x : Nat) : State :=
  let p : CodePin := ⟨unit, (cg s).ctx, x⟩
  if s.pins.any (fun q => q.unit == unit && q.line == x) then s
  else if (s.pins.filter fun q => q.unit == unit).length < limit then { s with pins := s.pins ++ [p] } else s

/-- PIN (R122). -/
def execPin (l : BitVec 1) (a b : Opnd) (s : State) : Res :=
  let limit := if l = 0#1 then 256 else 4096
  done ((codeLines s (upair s a) (usrc s b).toNat).foldl (fun s x =>
    pinLine (cacheCode s (codeUnit s l.toNat) x) (codeUnit s l.toNat) limit x) s)

/-- UNPIN (R122). -/
def execUnpin (l : BitVec 1) (a b : Opnd) (s : State) : Res :=
  let ls := codeLines s (upair s a) (usrc s b).toNat
  done { s with pins := s.pins.filter fun p => !(p.unit == codeUnit s l.toNat && ls.contains p.line) }

end Sys2Proof.Machine
end

