-- ==== Sys2Proof/Machine/Clause.lean ====
section
/-! DEFINITION. Fetching and starting clauses (R33, R37 to R41), convergence (R105, R108), regions (R415), the
wakes of waiting fragments, and the end of groups and blocks (R109, R207). -/

namespace Sys2Proof.Machine

open Sys2Proof (DecodeError decode decodeRaw wordsOf)

/-! Fetch (R40). -/

/-- What a fetch of a block gives: its words, or the cause it raises. -/
inductive Fetched where
  | words (ws : List Word)
  | fault (cause : Nat)
deriving DecidableEq, Repr, Inhabited

/-- The contents that a fetch of a block of a context may return: as they stand, or as a code cache took them
since the context's launch (R40). -/
def codeVersions (s : State) (slot pa : Nat) : List (List Byte) :=
  distinctBytes ((List.range 64).map (fun i => homeByte s (pa + i)) ::
    (s.code.filter fun v => v.ctx == slot && v.pa == pa).map (·.bs))
where
  distinctBytes (l : List (List Byte)) : List (List Byte) :=
    l.foldl (fun acc x => if acc.contains x then acc else acc ++ [x]) []

/-- A code cache of a core takes a fetch block of a context that runs, as it stands: what a fetch may return until the
context's next launch (R40). It may do so at any time. -/
def prefetchCode (s : State) (c slot va : Nat) : State :=
  if (ctxAt s slot).st ≠ 1 && (ctxAt s slot).st ≠ 2 then s
  else match resolve s (coreCaches c) slot (va / 64 * 64) with
    | some (l, pa) => if l.x then keepCode s c slot pa ((List.range 64).map fun i => homeByte s (pa + i)) else s
    | none => s

/-- Fetches the block that holds an address, for a group (R40). -/
def fetch (s : State) (g : Nat) (pc : Quad) : State × Fetched :=
  let slot := (gAt s g).ctx
  let va := (fblock pc).toNat
  if vaEnd ≤ va then (s, .fault cADDRESS)
  else match translate s (coreCaches (coreOf g)) slot (va / frameBytes) with
    | .notResident => (s, .fault cPAGE)
    | .revoked => (s, .fault cFAR_REVOKED)
    | .ok l =>
      if !l.x then (s, .fault cPROTECTION)
      else
        let pa := paOf l.space l.frame (va % frameBytes)
        let vs := codeVersions s slot pa
        let bs := (pickOf s vs).getD []
        let s := if vs.length ≤ 1 then s else spend s
        (keepCode s (coreOf g) slot pa bs, .words (wordsOf bs))

/-! Decoding a clause (R33 step 1, R41). -/

/-- LEN of a header (R31). -/
def hdrLen (h : Word) : Nat := bits h.toNat 11 8
def hdrWait (h : Word) : Nat := bits h.toNat 31 20
def hdrRgn (h : Word) : Bool := bit h.toNat 7
def hdrCvg (h : Word) : Bool := bit h.toNat 6
def hdrYld (h : Word) : Bool := bit h.toNat 3

/-- Is an instruction of the first class of R34: what it reads is attributed to SETA? -/
def readsClass : Instr → Bool
  | .ldb .. | .ldbs .. | .ldh .. | .ldhs .. | .ldw .. | .ldd .. | .ldq .. | .pgreq .. | .scaleq .. => true
  | .atadd d .. | .atmin d .. | .atmax d .. | .atminn d .. | .atmaxn d .. | .atand d .. | .ator d ..
  | .atxor d .. | .atxch d .. | .atcas d .. | .atfadd d .. | .atfmax d .. => d != .nul
  | .rngq .. | .evpoll .. | .frq .. | .wstat .. | .kvpos .. | .frld .. => true
  | _ => false

/-- Is an opcode that of a control transfer (R38)? -/
def transferOp (op : Nat) : Bool := decide (1 ≤ op && op ≤ 8) || op == 0x0A || op == 0xF0

/-- Is an opcode of the copy class, or MBXRD or MBXDONE, which only role 0 issues (R284, R319)? -/
def producerOp (op : Nat) : Bool :=
  decide (0xB0 ≤ op && op ≤ 0xB6) || op == 0xBA || op == 0xBB || op == 0xBC || op == 0xC3 || op == 0xC4

/-- Does a word need privileged code (R413, R73)? -/
def privWord (w : Word) : Bool :=
  let op := bits w.toNat 31 24
  decide (0xF0 ≤ op && op ≤ 0xFA) ||
    ((op == 0x0D || op == 0x0E) && decide (0x10 ≤ bits w.toNat 15 8) && decide (bits w.toNat 15 8 < 0x1A))

/-- Words that an item of a clause takes: an instruction word with its literals; a reserved word is one. -/
def itemLen (w : Word) (r : List Word) : Nat :=
  match decodeRaw w r with
  | some (_, n) => n + 1
  | none => 1

/-- Does the code of a clause break a rule of placement: a control transfer that is not last (R38), or a first-class
operation without SETA (R34)? -/
def placeBad (seta : Nat) : Nat → List Word → Bool
  | 0, _ => false
  | _, [] => false
  | n + 1, w :: r =>
    let k := itemLen w r - 1
    (transferOp (bits w.toNat 31 24) && decide (k < r.length)) ||
      (seta == 15 && (match decodeRaw w r with
        | some (i, _) => readsClass i
        | none => false)) ||
      placeBad seta n (r.drop k)

/-- The v registers of an instruction lie in the allotment (R26). -/
def allotted (nvreg : Nat) (i : Instr) : Bool :=
  match form i with
  | some f => f.d.allotted nvreg && f.a.allotted nvreg && f.b.allotted nvreg
  | none => true

/-- The decode trap of one word, in the order of R41; none when it is legal. -/
def wordFault (priv : Bool) (role nvreg : Nat) (w : Word) (r : List Word) : Option Nat :=
  let op := bits w.toNat 31 24
  match decode w r with
  | .error .illegalClause => some cILLEGAL_CLAUSE
  | .error .illegalOpcode => some cILLEGAL_OPCODE
  | .error .operand => some (if privWord w && !priv then cPRIV else cOPERAND)
  | .ok (i, _) =>
    if privWord w && !priv then some cPRIV
    else if !allotted nvreg i then some cOPERAND
    else if producerOp op && role != 0 then some cROLE
    else none

/-- The first decode trap of some words, with the index of its word (R41). -/
def wordsFault (priv : Bool) (role nvreg : Nat) : Nat → Nat → List Word → Option (Nat × Nat)
  | 0, _, _ => none
  | _, _, [] => none
  | n + 1, k, w :: r =>
    match wordFault priv role nvreg w r with
    | some c => some (c, k)
    | none => wordsFault priv role nvreg n (k + itemLen w r) (r.drop (itemLen w r - 1))

/-- Is a header with LEN ≠ 0 faulty, at word `w` of its fetch block (R32, R37)? -/
def headerBad (h : Word) (w : Nat) : Bool :=
  bits h.toNat 2 0 != 0 || (decide (12 ≤ hdrSeta h) && hdrSeta h != 15) ||
  (decide (12 ≤ hdrSetb h) && hdrSetb h != 15) || decide (15 < w + hdrLen h)

/-- The header of the clause that holds word `w` of a fetch block, and the index of that header (R33): every fetch
block begins with a header, and each clause is followed by the next header. -/
def clauseAt (ws : List Word) (w : Nat) : Nat → Nat → Option (Nat × Word)
  | 0, _ => none
  | n + 1, k =>
    let h := (ws[k]?).getD 0#32
    if w = k then some (k, h)
    else if hdrLen h = 0 || bits h.toNat 2 0 ≠ 0 then none
    else if w ≤ k + hdrLen h then some (k, h)
    else clauseAt ws w n (k + hdrLen h + 1)

/-- The word of a fetch block at which an address stands. -/
def wordIx (pc : Quad) : Nat := pc.toNat % 64 / 4

/-! Clause start. -/

/-- The reconvergence stack a fragment uses, newest entry first, spilled entries too (R66, R104). -/
def wholeStack (s : State) : List StkEntry :=
  if (cf s).st = .handler then (cf s).pstk
  else (cg s).stk ++ (List.range (cg s).spilled).reverse.map fun i => unspill s s.curG i

/-- Acts on a convergence point at header H (R105). The fragment enters the clause or goes on elsewhere. -/
def converge (h : Quad) : Nat → State → State
  | 0, s => s
  | n + 1, s =>
    match (wholeStack s).find? fun e => e.kind == 0 with
    | none => s
    | some q =>
      if q.pc != h then s
      else match topOf s with
        | none => s
        | some e =>
          match e.kind with
          | 0 => popHere (takeEntry s e)
          | 1 =>
            if emptyMask e.mask then converge h n (popHere s)
            else if !targetOk e.pc then raiseAll s cALIGN e.pc
            else jump (popHere (takeEntry s e)) e.pc
          | 2 => s
          | _ => raiseStack s

/-- Is a HANDLER fragment of the group live? -/
def handlerLive (g : Group) : Bool := (liveFrags g).any fun i => isHandler (Store.get g.frags i)

/-- Opens a region at the header (R33 step 5, R72, R415). -/
def openRegion (s : State) : State :=
  let f := cf s
  updCG s fun g => { g with
    rgncnt := g.rgncnt + 1#32, rgnpc := f.pc, rgnx := w32 (2 ^ 31 + depthOf g % 32), rgnmsk := f.mask, rgnmode := f.mode }

/-- Groups placed on a block. -/
def groupsOf (s : State) (b : Nat) : List Nat :=
  ((List.range 32).map (32 * b + ·)).filter fun g => (gAt s g).present

/-- Groups of a block that a forced save has still to stop. -/
def runningOf (s : State) (b : Nat) : List Nat := (groupsOf s b).filter fun g => !(gAt s g).saved && !(gAt s g).ending

/-- Once the last group of a force-saved block has stopped, the jobs that the block has taken become FORCED (R335, R424). -/
def blockStops (s : State) (b : Nat) : State := if (bAt s b).saving && (runningOf s b).isEmpty then forceJobs s b else s

/-- Steps 4 to 6 of R33 for a fragment that stands at the header of a decoded clause. A group that is being
force-saved stops where it opens a region (R424). -/
def enterClause (s : State) : State :=
  let h := (cf s).hdr
  if hdrWait h &&& flagMask (cg s) ≠ 0 then s
  else if hdrRgn h then
    let s := openRegion s
    if (bAt s (cblk s)).saving && !handlerLive (cg s) then
      blockStops (updCG s fun g => { g with saved := true, roll := true }) (cblk s)
    else updCF s fun f => { f with pc := f.pc + 4#64, mid := true }
  else updCF s fun f => { f with pc := f.pc + 4#64, mid := true }

/-- Does another fragment of the group keep a fragment from passing a convergence point: it is READY, WAITING or
HANDLER, or waits at the same header itself (R108; log entry 78, DEDUCED)? -/
def othersLive (s : State) : Bool :=
  (slots8.filter (· ≠ s.curF)).any fun i =>
    let f := Store.get (cg s).frags i
    f.st == .ready || f.st == .waiting || f.st == .handler || (f.st == .merging && f.pc == (cf s).pc)

/-- Step 3 of R33, and the entry after it. -/
def atConvergence (s : State) : State :=
  let h := (cf s).pc
  if (cf s).st = .ready && othersLive s then updCF s fun f => { f with st := .merging }
  else
    let s' := converge h 33 s
    if (cf s').pc = h && !(cf s').code.isEmpty then enterClause s' else s'

/-- Steps 2 to 6 of R33 for a clause that decodes: the sample of PREQ may park the fragment (R423). -/
def startClause (s : State) : State :=
  let h := (cf s).hdr
  if hdrYld h && bit (cctx s).preq 0 && holdsJob s (cblk s) then
    waitFor (updCF s fun f => { f with code := [] }) .parked
  else if hdrCvg h then atConvergence s
  else enterClause s

/-- Is an opcode that of a ganged instruction (R163)? -/
def gangedOp (op : Nat) : Bool := op == 0xA2 || op == 0xA3 || (decide (0xA5 ≤ op) && decide (op ≤ 0xA9))

/-- The decode trap of a word at an address, for every active thread (R41); at a ganged instruction the rendezvous that
list the group fail (R165). -/
def raiseWord (s : State) (cause : Nat) (pc : Quad) (w : Word) : State :=
  let t := raiseAt s cause (active s) 0#64 pc []
  if gangedOp (bits w.toNat 31 24) then rdvDrop t s.curG else t

/-- A clause at word `w` of its fetch block starts: a filler passes on, a faulty header or word traps (R32, R41). -/
def startAt (s : State) (ws : List Word) (w : Nat) : State :=
  let h := (ws[w]?).getD 0#32
  let pc := (cf s).pc
  let body := (ws.drop (w + 1)).take (hdrLen h)
  if hdrLen h = 0 then
    if bits h.toNat 2 0 ≠ 0 then raiseAll s cILLEGAL_CLAUSE 0#64 else jump s (fblock pc + 64#64)
  else if headerBad h w || placeBad (hdrSeta h) 16 body then raiseAll s cILLEGAL_CLAUSE 0#64
  else match wordsFault (privileged s) (roleNo (cg s).role) (roleNvreg (cg s).role) 16 1 body with
    | some (c, k) => raiseWord s c (pc + w64 (4 * k)) ((body[k - 1]?).getD 0#32)
    | none => startClause (updCF s fun f => { f with hdr := h, code := body })

/-- A fragment resumes inside a clause: its header governs the words that remain, and none of the steps of a clause start
is made (R33). -/
def resumeInside (s : State) (h : Word) (hw w : Nat) (ws : List Word) : State :=
  updCF s fun f => { f with hdr := h, code := (ws.drop w).take (hw + hdrLen h + 1 - w), mid := true }

/-- The fault records of a fetch that fails (R40, R278). -/
def fetchRecords (cause : Nat) (va : Quad) : List (Nat × Nat) :=
  if cause = cADDRESS then [] else [(va.toNat / frameBytes, 3)]

/-- CLAUSE_START (R33): the acting fragment starts the clause at its PC, goes on starting it once its WAIT flags are
clear, or takes up a clause inside which it resumes. A PC that lies in no clause of its fetch block, as behind a filler, is
started as a header (log entry 123, DESIGN CHOICE). A fetch fault met inside a clause has the PC of the word at which the
fragment resumes as its trap PC (R40; log entry 148, DESIGN CHOICE). -/
def execClauseStart (s : State) : Res :=
  let f := cf s
  if (f.st ≠ .ready && f.st ≠ .handler) || f.wait ≠ .no || (f.mid && !f.code.isEmpty) then .next s
  else if !f.code.isEmpty then .next (enterClause s)
  else match fetch s s.curG f.pc with
    | (s, .fault c) => .next (raiseAt s c (active s) (fblock f.pc) f.pc (fetchRecords c (fblock f.pc)))
    | (s, .words ws) =>
      let w := wordIx f.pc
      if f.mid then
        match clauseAt ws w 16 0 with
        | some (hw, h) => if hw = w then .next (startAt s ws w) else .next (resumeInside s h hw w ws)
        | none => .next (startAt s ws w)
      else .next (startAt s ws w)

/-- FRAGMENT_MERGE (R108): the MERGING fragments at one header become one, which applies R105 and enters. -/
def execFragmentMerge (g : Nat) (s : State) : Res :=
  let x := gAt s g
  let ms := slots8.filter fun i => (Store.get x.frags i).st == .merging
  let busy := slots8.any fun i =>
    let st := (Store.get x.frags i).st
    st == .ready || st == .waiting || st == .handler
  if busy || x.saved then .next s
  else
    let pcs := distinct (ms.map fun i => (Store.get x.frags i).pc.toNat)
    .next <| unlessPart s g (pcs.foldl (fun s pc =>
      let same := ms.filter fun i => (Store.get x.frags i).pc.toNat == pc
      match same with
      | [] => s
      | i :: rest =>
        let mask := same.foldl (fun m j => m ||| (Store.get x.frags j).mask) 0#32
        let s := rest.foldl (fun s j => updF s g j fun _ => default) s
        let s := if rest.isEmpty then s else updG s g fun x => { x with rgnx := x.rgnx &&& 0x7FFFFFFF#32 }
        withCur (updF s g i fun f => { f with st := .ready, mask := mask }) g i fun s =>
          let s' := converge (w64 pc) 33 s
          if (cf s').pc = w64 pc && !(cf s').code.isEmpty then enterClause s' else s') s)

/-! Wakes. -/

/-- HANDLER_START (R418): the record has been accepted. -/
def execHandlerStart (g f : Nat) (s : State) : Res :=
  match (fragAt s g f).wait with
  | .record => .next (if recWaiting s (g, f) then s else updF s g f fun x => { x with wait := .no })
  | _ => .next s

/-- FRAGMENT_WAKE (R119): an AWAIT ends; a member of a failed rendezvous takes its trap, which freezes a HANDLER's group (R166,
R260, R419). -/
def execFragmentWake (g f : Nat) (s : State) : Res :=
  match (fragAt s g f).wait with
  | .gang cause fadr pc =>
    if (gAt s g).saved || inPart s g then .next s
    else
      let x := fragAt s g f
      let t := trapTo s g f cause x.mask fadr pc []
      .next (if isHandler x then rdvDrop t g else t)
  | .await d k t =>
    let b := Store.get (bAt s (blkOf g)).bars k
    .next (if (gAt s g).saved || !phaseReached b t then s else wakeWith s g f d [w32 b.phase])
  | .awaited d k =>
    .next (if (gAt s g).saved then s else wakeWith s g f d [w32 (Store.get (bAt s (blkOf g)).bars k).phase])
  | _ => .next s

/-- SLEEP_WAKE (R111). -/
def execSleepWake (g f : Nat) (s : State) : Res :=
  match (fragAt s g f).wait with
  | .sleep t0 n =>
    let ended := decide (t0 + n ≤ s.gt) || bit (ctxAt s (gAt s g).ctx).preq 0
    .next (if (gAt s g).saved || !ended then s else wakeWith s g f .nul [])
  | _ => .next s

/-- WTIME_WAKE (R243). -/
def execWtimeWake (g f : Nat) (s : State) : Res :=
  match (fragAt s g f).wait with
  | .wtime t => .next (if (gAt s g).saved || s.gt < t.toNat then s else wakeWith s g f .nul [])
  | _ => .next s

/-! The end of groups and blocks. -/

/-- Frees the banks of a block (R411: banks that belong to no block read as zero). -/
def freeBanks (s : State) (b : Nat) : State :=
  (List.range 32).foldl (fun s k =>
    let x := bankAt s (b / 4) k
    if x.owned && x.blk == b % 4 then
      dropBank { s with
        ls := Store.keep s.ls fun a => a / 49152 != 32 * (b / 4) + k
        banks := Store.set s.banks (32 * (b / 4) + k) default } (b / 4) k
    else s) s

/-- A block ends: its L1 is written back and invalidated, its banks and row-state slots are freed (R188, R207). -/
def endBlock (s : State) (b : Nat) : State :=
  let s := writeBackAll s b
  let s := freeBanks (unbindRows s b) b
  { s with blocks := Store.set s.blocks b default }

/-- A group leaves its core: its window writes belong to no group any more. -/
def dropGroup (s : State) (g : Nat) : State :=
  { s with
    groups := Store.set s.groups g default
    refl := s.refl.map fun w => if w.g == g then { w with g := noGroup } else w }

/-- A group ends, and its context keeps that it has yielded; the block ends with its last group (R109, R110, R207). -/
def endGroup (s : State) (g : Nat) : State :=
  let b := blkOf g
  let x := gAt s g
  let s := if x.yielded then updCtx s x.ctx fun c => { c with yielded := c.yielded ++ [g] } else s
  let s := dropGroup s g
  if (groupsOf s b).isEmpty then endBlock s b else s

/-- GROUP_END (R109, R110): with no live fragment and no operation left, GANG and the lane are free. -/
def execGroupEnd (g : Nat) (s : State) : Res :=
  let x := gAt s g
  .next (if x.present && x.ending && x.quiet then endGroup s g else s)

/-- QREL (R406, R421): the driver releases a frozen streamer queue: [8:0] COREID, [10:9] block, [13:12] queue,
[31] GO. -/
def queueRelease (slot : Nat) (v : Word) (s : State) : Res :=
  let w := v.toNat
  let b := 4 * bits w 8 0 + bits w 10 9
  let q := bits w 13 12
  .next (if bit w 31 && (bAt s b).present && (bAt s b).ctx == slot then
      updB s b fun x => { x with qfrz := x.qfrz - b2n (bit x.qfrz q) * 2 ^ q } else s)

end Sys2Proof.Machine
end

