-- ==== Sys2Proof/Machine/Place.lean ====
section
/-! DEFINITION. Where a launch puts its groups and banks (R16, R411), the creation of groups and blocks (R51, R207),
and the rollback of a group (R424). -/

namespace Sys2Proof.Machine

/-- A group as it is placed on every core of a launch (R411). -/
structure Placed where
  b : Nat
  grp : Nat
  role : Nat
  lane : Nat
  pos : Nat
deriving DecidableEq, Repr, Inhabited

/-- The roles of a block's groups in order of grp (R411). -/
def rolesOf (h : Nat) : List Nat :=
  [0, 1, 2, 3].flatMap fun r => List.replicate (hdrNgrp h r) r

/-- ROLE of a role's groups (R71). -/
def roleWord (h r : Nat) : Word := w32 (hdrNvreg h r * 2 ^ 8 + hdrPrio h r * 2 ^ 2 + r)

/-- May a lane take one more group (R16, R19, R411)? -/
def laneOk (h : Nat) (ps : List Placed) (lane b role : Nat) : Bool :=
  let on := ps.filter fun p => p.lane == lane
  decide (on.foldl (fun n p => n + 128 * hdrNvreg h p.role) 0 + 128 * hdrNvreg h role ≤ 32768) &&
  decide (on.length < 8) && !on.any fun p => p.b == b && p.role == role

/-- Places one group from the cursor onward (R411): the placements and the cursor after it. -/
def placeOne (h : Nat) (acc : Option (List Placed × Nat)) (x : Nat × Nat × Nat) : Option (List Placed × Nat) :=
  match acc with
  | none => none
  | some (ps, cur) =>
    let lanes := (List.range 32).map fun i => (cur + i) % 32
    match lanes.find? fun l => laneOk h ps l x.1 x.2.2 with
    | none => none
    | some l =>
      some (ps ++ [⟨x.1, x.2.1, x.2.2, l, (ps.filter fun p => p.lane == l).length⟩], (l + 1) % 32)

/-- The placement of a header's groups, or none if one finds no lane (R411). -/
def placement (h : Nat) : Option (List Placed) :=
  let roles := rolesOf h
  let groups := (List.range (hdrNblk h)).flatMap fun b => (List.range roles.length).map fun i => (b, i, roles.getD i 0)
  (groups.foldl (placeOne h) (some ([], 0))).map (·.1)

/-- The placement of one group of a context (R411). -/
def placedAt (s : State) (slot g : Nat) : Option Placed :=
  ((placement (ctxAt s slot).hdr).getD []).find? fun p => p.b == blkOf g % 4 && p.grp == grpOf g

/-- CACHE, SCRATCH and FIFO counts of a block (R409). -/
def splitCache (h b : Nat) : Nat := bits (hdrSplit h b) 5 0
def splitScr (h b : Nat) : Nat := bits (hdrSplit h b) 13 8
def splitFifo (h b : Nat) : Nat := bits (hdrSplit h b) 21 16
def splitSum (h b : Nat) : Nat := splitCache h b + splitScr h b + splitFifo h b

/-- The first bank of a block (R411). -/
def bankBase (h b : Nat) : Nat := ((List.range b).map (splitSum h)).foldl (· + ·) 0

/-- The banks of a block with the modes that the header gives (R411). -/
def bankModes (h b : Nat) : List (Nat × Nat) :=
  (List.range (splitSum h b)).map fun i =>
    (bankBase h b + i, if i < splitCache h b then 0 else if i < splitCache h b + splitScr h b then 1 else 2)

/-- SRGEN at creation (R82). -/
def seedOf (h g : Nat) : Word :=
  let x := w32 (hdrSeed h) ^^^ w32 (coreOf g * 2 ^ 7) ^^^ w32 (blkOf g % 4 * 2 ^ 5) ^^^ w32 (grpOf g)
  if x = 0#32 then 1#32 else x

/-- A group at its creation (R51, R68, R411). -/
def freshGroup (h slot g : Nat) (p : Placed) : Group :=
  let f : Frag := { (default : Frag) with st := .ready, mask := 0xFFFFFFFF#32, pc := w64 (hdrEntry h p.role) }
  { (default : Group) with
    present := true, ctx := slot, lane := p.lane, pos := p.pos, role := roleWord h p.role, srgen := seedOf h g
    frags := [(0, f)] }

/-- Sets a bank of a core for a block: its words read zero and its lines are invalid (R207). -/
def setBank (s : State) (b k mode : Nat) : State :=
  dropBank { s with
    ls := Store.keep s.ls fun a => a / 49152 != 32 * (b / 4) + k
    banks := Store.set s.banks (32 * (b / 4) + k) { (default : Bank) with owned := true, mode := mode, blk := b % 4 } } (b / 4) k

/-- The barriers of a block at its creation (R116). -/
def freshBars : Store Bar := (List.range 8).map fun k => (k, ⟨1, 0, 0⟩)

/-- Creates a block of a context with its banks (R207, R411). -/
def makeBlock (s : State) (slot b : Nat) : State :=
  let h := (ctxAt s slot).hdr
  let s := (bankModes h (b % 4)).foldl (fun s e => setBank s b e.1 e.2) s
  { s with blocks := Store.set s.blocks b { (default : Block) with present := true, ctx := slot, bars := freshBars } }

/-- Creates a group of a context. -/
def makeGroup (s : State) (slot g : Nat) (p : Placed) : State :=
  { s with groups := Store.set s.groups g (freshGroup (ctxAt s slot).hdr slot g p) }

/-- Creates the blocks and groups of a context on a core (R411), whose line-buffer maxima become +0 (R291). -/
def makeCore (s : State) (slot c : Nat) : State :=
  let h := (ctxAt s slot).hdr
  let s := (List.range (hdrNblk h)).foldl (fun s b => makeBlock s slot (4 * c + b))
    { s with lbmax := Store.keep s.lbmax fun k => k / 4 != c }
  ((placement h).getD []).foldl (fun s p => makeGroup s slot (128 * c + 32 * p.b + p.grp) p) s

/-- The cores of a 512-bit mask. -/
def coresOf (m : Nat) : List Nat := (List.range 512).filter fun c => bit m c

/-! Rollback (R424, R432). -/

/-- Cuts the stack of a group to a depth (R424): `n` entries are popped. -/
def cutStack (g : Nat) : Nat → State → State
  | 0, s => s
  | n + 1, s => cutStack g n (popG s g)

/-- One fragment at the region entry, the stack cut to DEP (R424, first row). -/
def rollback (s : State) (g : Nat) : State :=
  let x := gAt s g
  let s := cutStack g (depthOf x - bits x.rgnx.toNat 4 0) s
  let f : Frag := { (default : Frag) with st := .ready, mask := x.rgnmsk, pc := x.rgnpc, mode := x.rgnmode }
  updG s g fun y => { y with frags := [(0, f)], pend := [], stall := none, viol := none, roll := false }

/-- The fragments that wait in a GRES for a group go on (R432). -/
def gresDone (s : State) (g : Nat) : State :=
  s.groups.foldl (fun s e => slots8.foldl (fun s f =>
    if (Store.get e.2.frags f).wait = .quiet g then wakeWith s e.1 f .nul [] else s) s) s

/-- GROUP_ROLLBACK (R424, R432): a group that is to be rolled back, and has no operation left, is. -/
def execGroupRollback (g : Nat) (s : State) : Res :=
  let x := gAt s g
  .next (if x.present && x.roll && x.quiet then gresDone (rollback s g) g else s)

end Sys2Proof.Machine
end

