-- ==== Sys2Proof/Machine/Record.lean ====
section
/-! DEFINITION. The records of saves: frontier records (R337 to R339), group records (R437, R475) and block records
(R437), written and read back. -/

namespace Sys2Proof.Machine

/-! Bytes. -/

/-- A little-endian field of some bytes. -/
def fieldOf (bs : List Byte) (o n : Nat) : Nat := leNat ((bs.drop o).take n)
def wordOf (bs : List Byte) (o : Nat) : Word := w32 (fieldOf bs o 4)

/-- `n` zero bytes. -/
def zeros (n : Nat) : List Byte := List.replicate n 0#8

/-- Bytes filled up with zeros to a length. -/
def padTo (n : Nat) (bs : List Byte) : List Byte := bs ++ zeros (n - bs.length)

def wordsLe (ws : List Word) : List Byte := ws.flatMap fun w => leBytes 4 w.toNat

/-! Frontier records. -/

/-- A line record (R338). -/
def lineRec (e : Line) : List Byte := leBytes 8 (e.h % 2 ^ 16 + e.done % 2 ^ 16 * 2 ^ 16 + e.fired % 2 ^ 16 * 2 ^ 32)

/-- An entry of the forced list (R338). -/
def forcedRec (p : Point) : List Byte :=
  leBytes 16 (p.jobid.toNat + p.l % 2 ^ 32 * 2 ^ 32 + p.core % 2 ^ 9 * 2 ^ 64 + p.blk % 4 * 2 ^ 73)

/-- FORCED points in ascending order. -/
def forcedPts (x : OpSlot) : List Point := sortBy (·.l) (x.points.filter (·.st == .forced))

/-- The record of a slot (R337, R338). -/
def frontRec (s : State) (n : Nat) : List Byte :=
  let x := opAt s n
  let lines := (List.range (opLines x.ins)).map fun i => Store.get x.lines i
  let donel := (lines.filter fun e => e.h == opExt x.ins 0).length
  let fs := forcedPts x
  let hdr := opOpc x.ins + 2 ^ 8 + 0x5247 * 2 ^ 16 + b2n x.copyflt * 2 ^ 272 + b2n x.bndfrz * 2 ^ 273
    + x.stream % 64 * 2 ^ 276 + n % 64 * 2 ^ 282 + ctxidOf s x.ctx % 2 ^ 16 * 2 ^ 288 + fs.length % 2 ^ 16 * 2 ^ 304
    + donel * 2 ^ 320 + lines.length * 2 ^ 352 + s.gt % 2 ^ 64 * 2 ^ 384 + x.opa.toNat * 2 ^ 448
  leBytes 64 hdr ++ lines.flatMap lineRec ++ fs.flatMap forcedRec

/-- The length that a record's header gives (R337). -/
def frontLen (hdr : Nat) : Nat := 64 + 8 * bits hdr 383 352 + 16 * bits hdr 319 304

/-- A line record of a frontier record, checked (R339). -/
def lineOk (ext0 r : Nat) : Bool :=
  let h := bits r 15 0
  let d := bits r 31 16
  let f := bits r 47 32
  bits r 63 48 == 0 && decide (h ≤ ext0) && !bit d 0 && d &&& f == d && decide (f < 2 ^ (ext0 - h))

/-- The points that line records show as FORCED, in ascending order (R337). -/
def forcedOf (ext0 : Nat) (rs : List Nat) : List Nat :=
  ((List.range rs.length).map fun i =>
    let r := rs.getD i 0
    ((List.range 16).filter fun j => bit (bits r 47 32) j && !bit (bits r 31 16) j).map fun j => i * ext0 + bits r 15 0 + j).flatten

/-- The instruction that a record's header names, with an OPCOPY's descriptor, if the header passes the checks of R339, to
which those of R306 and R308 on the instruction belong. -/
def frontIns (s : State) (slot hdr : Nat) : Option (Nat × Nat) :=
  ((readVa s osdCaches slot (bits hdr 511 448) 64).map leNat).bind fun ins =>
    let copy := if opOpc ins = 2 then (readVa s osdCaches slot (opArg ins) 64).map leNat else some 0
    if bits hdr 31 16 == 0x5247 && bits hdr 15 8 == 1 && bits hdr 7 0 == opOpc ins && decide (opOpc ins ≤ 2) &&
        opFault s slot ins == 0 && bits hdr 383 352 == opLines ins then
      copy.bind fun d => if opOpc ins = 1 || copyDescOk d then some (ins, d) else none
    else none

/-- The line records of a record (R338). -/
def frontLines (hdr : Nat) (bs : List Byte) : List Nat := (List.range (bits hdr 383 352)).map fun i => fieldOf bs (64 + 8 * i) 8

/-- Do the line records pass R339, and DONEL and NFORCE agree with them? -/
def linesOk (ext0 hdr : Nat) (rs : List Nat) : Bool :=
  rs.all (lineOk ext0) && bits hdr 351 320 == (rs.filter fun r => bits r 15 0 == ext0).length &&
  bits hdr 319 304 == (forcedOf ext0 rs).length

/-- The number in its stream of the operator that a record's header names, as its save left it; 0 for a record of no save
of this context (R305; log entry 139, DEDUCED). -/
def awayNum (s : State) (slot hdr : Nat) : Nat :=
  ((s.away.find? fun a => a.ctx == slot && a.stream == bits hdr 281 276 && a.slot == bits hdr 287 282 &&
    a.time % 2 ^ 64 == bits hdr 447 384).map (·.num)).getD 0

/-- The operator that a frontier record describes, if it passes the checks of R339. -/
def frontCheck (s : State) (slot : Nat) (bs : List Byte) : Option OpSlot :=
  let hdr := leNat (bs.take 64)
  let n := bits hdr 383 352
  let rs := frontLines hdr bs
  let fs := (List.range (bits hdr 319 304)).map fun i => fieldOf bs (64 + 8 * n + 16 * i) 16
  let c := ctxAt s slot
  let fOk (f : Nat) : Bool := bits f 127 75 == 0 && bit c.mask (bits f 72 64) && decide (bits f 74 73 < hdrNblk c.hdr)
  (frontIns s slot hdr).bind fun e =>
    let (ins, copy) := e
    let ext0 := opExt ins 0
    if !linesOk ext0 hdr rs || fs.map (fun f => bits f 63 32) != forcedOf ext0 rs || !fs.all fOk then none
    else some { (default : OpSlot) with
      used := true, ctx := slot, stream := bits hdr 281 276, num := awayNum s slot hdr, ins := ins, opa := w64 (bits hdr 511 448), copy := copy
      lines := (List.range n).foldl (fun m i =>
        let r := rs.getD i 0
        Store.set m i ⟨bits r 15 0, bits r 31 16, bits r 47 32⟩) []
      points := fs.map fun f => { (default : Point) with
        l := bits f 63 32, st := .forced, jobid := w32 f, core := bits f 72 64, blk := bits f 74 73 }
      bndfrz := bit hdr 273, copyflt := bit hdr 272 }

/-- Loads a checked operator into a slot, which is free again at once if every line is complete (R333), and asks for the tokens of its FORCED points ahead of their priority
(R336). -/
def loadFront (s : State) (n : Nat) (x : OpSlot) : State :=
  let s := { s with
    ops := Store.set s.ops n { x with age := s.nextId }, nextId := s.nextId + 1
    away := s.away.filter fun a => !(a.ctx == x.ctx && a.stream == x.stream && a.num == x.num) }
  if x.complete then freeOp s n
  else if opPwr x.ins = 0 then s
  else x.points.foldl (fun s p =>
    updPoint { s with tokq := s.tokq ++ [⟨opPrio s x, n, p.l, opPwr x.ins, true⟩] } n p.l fun p => { p with tok := 1 }) s

/-! Group records. -/

/-- The code of a recorded state (R68, R475). -/
def FragState.code : FragState → Nat
  | .free => 0
  | .ready => 1
  | .waiting => 2
  | .handler => 3
  | .frozen => 4
  | .merging => 5

def FragState.ofCode (n : Nat) : FragState :=
  match n with
  | 0 => .free
  | 3 => .handler
  | 4 => .frozen
  | _ => .ready

/-- The state as a save records it: a wait, an arrival, a parking and a merge are cut off and begin again (R475). -/
def FragState.recorded : FragState → FragState
  | .waiting | .merging => .ready
  | st => st

/-- The header word of the clause that holds a fragment's PC; the word at PC where PC is a header (R431, R475). -/
def headerWord (s : State) (g f : Nat) : Word :=
  let x := fragAt s g f
  if x.st = .free then 0#32
  else if !x.code.isEmpty then x.hdr
  else match (fetch s g x.pc).2 with
    | .fault _ => x.hdr
    | .words ws =>
      let w := wordIx x.pc
      if !x.mid then (ws[w]?).getD 0#32
      else match clauseAt ws w 16 0 with
        | some (_, h) => h
        | none => (ws[w]?).getD 0#32

/-- A fragment entry of a group record (R475). -/
def fragRec (s : State) (g f : Nat) : List Byte :=
  let x := fragAt s g f
  if x.st = .free then zeros 32
  else
    let kept := if x.st = .frozen then x.kept.recorded.code else 0
    leBytes 4 x.mode.toNat ++ leBytes 4 x.mask.toNat ++ leBytes 8 x.pc.toNat ++ leBytes 1 x.st.recorded.code ++
      leBytes 1 kept ++ zeros 2 ++ leBytes 4 (headerWord s g f).toNat ++ zeros 8

/-- A handler block (R475). -/
def handlerRec (x : Frag) : List Byte :=
  padTo 64 (x.pstk.reverse.flatMap fun e => leBytes 16 e.image) ++ leBytes 1 x.pstk.length ++ zeros 3 ++
    leBytes 4 x.trap.cause ++ leBytes 4 x.trap.frgmsk.toNat ++ leBytes 4 x.trap.fltmsk.toNat ++ leBytes 8 x.trap.pc.toNat ++
    leBytes 8 x.trap.fadr.toNat ++ leBytes 8 x.trap.oua.toNat ++ leBytes 8 x.trap.rgnpc.toNat ++ zeros 16

/-- The 64-byte header of a group or block record (R437). -/
def recHead (s : State) (magic grp b role : Nat) (ctx : Nat) : List Byte :=
  leBytes 2 magic ++ leBytes 1 1 ++ leBytes 1 grp ++ leBytes 4 (b % 4) ++ leBytes 4 role ++ leBytes 2 (ctxidOf s ctx) ++
    leBytes 2 (b / 4) ++ leBytes 8 s.gt ++ zeros 40

/-- The record of a group (R437). -/
def groupRec (s : State) (g : Nat) : List Byte :=
  let x := gAt s g
  let hs := slots8.filter fun i => (Store.get x.frags i).st == .handler
  recHead s 0x4752 (grpOf g) (blkOf g) x.role.toNat x.ctx ++
    wordsLe (Store.getList x.s 0 48) ++ wordsLe (Store.getList x.p 0 8) ++
    wordsLe [x.flags, x.srgen, x.gang, w32 (depthOf x), x.rgncnt, x.rgnx, x.rgnmsk, x.rgnmode] ++
    leBytes 8 x.rgnpc.toNat ++ zeros 56 ++ slots8.flatMap (fragRec s g) ++
    padTo 256 (x.stk.reverse.flatMap fun e => leBytes 16 e.image) ++ wordsLe (Store.getList x.md 0 32) ++
    wordsLe (Store.getList x.v 0 (32 * roleNvreg x.role)) ++ hs.flatMap fun i => handlerRec (Store.get x.frags i)

/-- How long a group record is, from its first 1,024 bytes (R475). -/
def groupRecLen (bs : List Byte) : Nat :=
  1024 + 128 * fieldOf bs 9 1 + 128 * ((List.range 8).filter fun i => fieldOf bs (384 + 32 * i + 16) 1 == 3).length

/-- An address of an instruction word in a record: its bits [1:0] are zero (R40, R68). -/
def pcField (bs : List Byte) (o : Nat) : Quad := w64 (fieldOf bs o 8 / 4 * 4)

/-- The handler block of the h-th HANDLER entry of a record (R475). -/
def handlerOf (bs : List Byte) (o : Nat) (f : Frag) : Frag :=
  { f with
    pstk := ((List.range (Nat.min (fieldOf bs (o + 64) 1) 4)).map fun i => StkEntry.ofImage (fieldOf bs (o + 16 * i) 16)).reverse
    trap := ⟨fieldOf bs (o + 68) 4 % 256, pcField bs (o + 80), w64 (fieldOf bs (o + 88) 8), wordOf bs (o + 72),
      wordOf bs (o + 76), pcField bs (o + 96), pcField bs (o + 104)⟩ }

/-- The fragments of a group record; `freeze` makes every live one FROZEN (R437, R475). -/
def fragsOf (bs : List Byte) (nvreg : Nat) (freeze : Bool) : Store Frag :=
  (List.range 8).foldl (fun m i =>
    let o := 384 + 32 * i
    let st := FragState.ofCode (fieldOf bs (o + 16) 1)
    let kept := if st = .frozen then FragState.ofCode (fieldOf bs (o + 17) 1) else st
    let below := ((List.range i).filter fun j => fieldOf bs (384 + 32 * j + 16) 1 == 3).length
    if st = .free then m
    else
      let f : Frag := { (default : Frag) with
        st := if freeze then .frozen else st, kept := if freeze || st = .frozen then kept else .free
        mode := wordOf bs o, mask := wordOf bs (o + 4), pc := pcField bs (o + 8), hdr := wordOf bs (o + 20), mid := true }
      let f := { f with npc := f.pc }
      Store.set m i (if st = .handler then handlerOf bs (1024 + 128 * nvreg + 128 * below) f else f)) []

/-- Words of a record as a store. -/
def storeWords (bs : List Byte) (o n : Nat) : Store Word := Store.setList [] 0 ((List.range n).map fun i => wordOf bs (o + 4 * i))

/-- Do MAGIC, RVER and the identity of a record name this place (R437)? -/
def recIs (s : State) (bs : List Byte) (magic b ctx : Nat) : Bool :=
  fieldOf bs 0 2 == magic && fieldOf bs 2 1 == 1 && fieldOf bs 4 1 == b % 4 &&
  fieldOf bs 12 2 == ctxidOf s ctx && fieldOf bs 14 2 == b / 4

/-- Does a group record fit group g of a context: its identity and its role (R437)? -/
def groupRecOk (s : State) (ctx g : Nat) (bs : List Byte) : Bool :=
  recIs s bs 0x4752 (blkOf g) ctx && fieldOf bs 3 1 == grpOf g &&
  (match placedAt s ctx g with
    | some p => wordOf bs 8 == roleWord (ctxAt s ctx).hdr p.role
    | none => false)

/-- The last traps of the threads of restored HANDLER fragments (R73, R437). -/
def lastOf (frags : Store Frag) : Store Nat :=
  frags.foldl (fun m e =>
    if e.2.kept == .handler || e.2.st == .handler then
      (threads e.2.trap.fltmsk).foldl (fun m t => Store.set m t (256 + e.2.trap.cause % 256)) m else m) []

/-- Where the violation of a saved group is kept. -/
def violKey (s : State) (slot g : Nat) : Nat := 2 ^ 16 * ctxidOf s slot + g

/-- A group is saved: its violation is kept for its restore (R437; log entry 88, DESIGN CHOICE). -/
def keepViol (s : State) (g : Nat) : State :=
  { s with viols := Store.set s.viols (violKey s (gAt s g).ctx g) ((gAt s g).viol.getD 0) }

/-- The violation with which a group is restored: what was kept, where its record holds a FROZEN fragment (R437). -/
def keptViol (s : State) (slot g : Nat) (bs : List Byte) : Option Nat :=
  let c := Store.get s.viols (violKey s slot g)
  if c = 0 || !(List.range 8).any (fun i => FragState.ofCode (fieldOf bs (384 + 32 * i + 16) 1) == .frozen) then none else some c

/-- Recreates a group from its record (R437, R65): every flag is clear. The record holds no time latch, and the group has
none; TRAPC restarts at 0 outside a HANDLER fragment (log entry 124, DESIGN CHOICE, for both); an SRGEN word of 0 is restored as 1 (log entry 125, DEDUCED). -/
def restoreGroup (s : State) (ctx g : Nat) (bs : List Byte) (freeze : Bool) : State :=
  let p := (placedAt s ctx g).getD default
  let role := wordOf bs 8
  let nv := roleNvreg role
  let dep := fieldOf bs 300 4 % 32
  let x : Group := { (default : Group) with
    present := true, ctx := ctx, lane := p.lane, pos := p.pos, role := role, rest := true
    s := storeWords bs 64 48, p := storeWords bs 256 8
    flags := w32 (fieldOf bs 288 4 % 256), srgen := (let v := wordOf bs 292; if v = 0#32 then 1#32 else v)
    gang := wordOf bs 296, spilled := dep - 16
    rgncnt := wordOf bs 304, rgnx := wordOf bs 308 &&& 0x8000001F#32, rgnmsk := wordOf bs 312, rgnmode := wordOf bs 316
    rgnpc := pcField bs 320, frags := fragsOf bs nv freeze
    viol := keptViol s ctx g bs, traps := 1, last := lastOf (fragsOf bs nv freeze)
    stk := ((List.range (Nat.min dep 16)).map fun k => StkEntry.ofImage (fieldOf bs (640 + 16 * k) 16)).reverse
    md := storeWords bs 896 32, v := storeWords bs 1024 (32 * nv) }
  { s with groups := Store.set s.groups g x }

/-! Block records. -/

/-- A bank's state byte (R203); a bank of no block reads as zero (R411). -/
def Bank.byte (x : Bank) : Nat := if x.owned then x.mode % 4 + x.blk % 4 * 16 + b2n x.drain * 128 else 0

/-- A barrier's image (R116). -/
def Bar.image (x : Bar) : Nat := x.phase % 2 ^ 16 + x.count % 2 ^ 16 * 2 ^ 16 + x.expect % 2 ^ 16 * 2 ^ 32

/-- A ring record's image (R275). -/
def Ring.image (x : Ring) : Nat :=
  x.base % 2 ^ 32 + x.slotl % 2 ^ 8 * 2 ^ 40 + x.nslot % 2 ^ 8 * 2 ^ 48 + b2n x.valid * 2 ^ 63 + x.wp % 2 ^ 16 * 2 ^ 64
    + x.fp % 2 ^ 16 * 2 ^ 80 + x.ap % 2 ^ 16 * 2 ^ 96 + x.rp % 2 ^ 16 * 2 ^ 112 + x.dmask % 2 ^ 64 * 2 ^ 128

def Ring.ofImage (n fmask : Nat) : Ring :=
  { dmask := bits n 191 128, rp := bits n 127 112, ap := bits n 111 96, fp := bits n 95 80, wp := bits n 79 64
    valid := bit n 63, nslot := bits n 55 48, slotl := bits n 47 40, base := bits n 31 0, fmask := fmask }

/-- A row-state slot's record: its header and 96 rows (R437). -/
def rowRec (x : RowSlot) : List Byte :=
  padTo 64 (leBytes 4 (b2n x.bound * 16 + x.blk % 4 * 4 + x.pf % 16 * 32)) ++
  (List.range 96).flatMap fun r =>
    wordsLe [x.m r, x.l r, x.alpha r] ++ zeros 4 ++ (List.range 64).flatMap fun j => leBytes 2 (x.pAt r j).toNat

/-- The row-state slot that a record holds. A PF of 4 to 15, which never occurs, is taken as it stands and its P read as E5M2
(R187; log entry 152, DESIGN CHOICE). -/
def rowOf (bs : List Byte) (o b : Nat) : RowSlot :=
  let ro (r : Nat) : Nat := o + 64 + 144 * r
  { bound := true, blk := b % 4, pf := fieldOf bs o 4 / 32 % 16
    row := Store.setList [] 0 ((List.range 96).flatMap fun r => [wordOf bs (ro r), wordOf bs (ro r + 4), wordOf bs (ro r + 8)])
    p := Store.setList [] 0 ((List.range 96).flatMap fun r => (List.range 64).map fun j => w32 (fieldOf bs (ro r + 16 + 2 * j) 2)) }

/-- SCRATCH and FIFO banks of a block, ascending. -/
def dataBanks (s : State) (b : Nat) : List Nat :=
  (List.range 32).filter fun k => let x := bankAt s (b / 4) k; x.owned && x.blk == b % 4 && x.mode != 0

/-- The record of a block (R437). -/
def blockRec (s : State) (b : Nat) : List Byte :=
  let x := bAt s b
  let c := b / 4
  padTo 128 (recHead s 0x4252 0 b 0 x.ctx ++ ((List.range 32).flatMap fun k => leBytes 1 (bankAt s c k).byte) ++ leBytes 8 x.lct) ++
    ((List.range 8).flatMap fun k => leBytes 8 (Store.get x.bars k).image) ++
    ((List.range 16).flatMap fun k => let r := Store.get x.rings k; leBytes 24 r.image ++ leBytes 8 r.fmask) ++
    ((List.range 8).flatMap fun k => leBytes 8 (Store.get x.qstat k).toNat) ++
    ((List.range 4).flatMap fun k =>
      let r := rowSlot s c k
      if r.bound && r.blk == b % 4 then rowRec r else zeros 13888) ++
    (dataBanks s b).flatMap fun k => lsBytes s (bankKey c k) 49152

/-- How long a block record is, from the bank bytes it holds for the banks of a block. -/
def blockRecLen (bs : List Byte) (banks : List Nat) : Nat :=
  56320 + 49152 * (banks.filter fun k => fieldOf bs (64 + k) 1 % 4 != 0).length

/-- The row-state slot of a record that another block of the core holds (R188). -/
def rowTaken (s : State) (b : Nat) (bs : List Byte) : Option Nat :=
  [0, 1, 2, 3].find? fun k =>
    let x := rowSlot s (b / 4) k
    bit (fieldOf bs (768 + 13888 * k) 4) 4 && x.bound && x.blk != b % 4

/-- Word k of a queue's QSTAT with its reserved bits zero (R5, R300). -/
def qstatWord (k : Nat) (w : Quad) : Quad := w &&& if k % 2 = 0 then 0xFFFFFFFF00FFFF01#64 else 0xFFFF#64

/-- Restores what a block record holds but for the modes of its banks (R437). A row-state slot of the block that the record does
not hold is free afterwards (R188; log entry 151, DESIGN CHOICE); a barrier with COUNT at or above EXPECT is taken as it stands
(R116; log entry 169, DESIGN CHOICE). -/
def restoreBlock (s : State) (b : Nat) (bs : List Byte) : State :=
  let c := b / 4
  let s := unbindRows s b
  let s := [0, 1, 2, 3].foldl (fun s k =>
    if bit (fieldOf bs (768 + 13888 * k) 4) 4 then updRow s c k fun _ => rowOf bs (768 + 13888 * k) b else s) s
  let banks := dataBanks s b
  let s := (List.range banks.length).foldl (fun s i =>
    lsPut s (bankKey c (banks.getD i 0)) ((bs.drop (56320 + 49152 * i)).take 49152)) s
  updB s b fun x => { x with
    lct := fieldOf bs 96 8
    bars := (List.range 8).foldl (fun m k =>
      let n := fieldOf bs (128 + 8 * k) 8
      Store.set m k ⟨if bits n 47 32 = 0 then 1 else bits n 47 32, bits n 31 16, bits n 15 0⟩) []
    rings := (List.range 16).foldl (fun m k =>
      Store.set m k (Ring.ofImage (fieldOf bs (192 + 32 * k) 24) (fieldOf bs (192 + 32 * k + 24) 8))) []
    qstat := (List.range 8).foldl (fun m k => Store.set m k (qstatWord k (w64 (fieldOf bs (704 + 8 * k) 8)))) [] }

end Sys2Proof.Machine
end

