-- ==== Sys2Proof/Machine/Priv.lean ====
section
/-! DEFINITION. The privileged instructions (R429 to R438), but WMAPI. -/

namespace Sys2Proof.Machine

/-- RTE (R430): only a HANDLER fragment may return. -/
def execRte (a : Opnd) (s : State) : Res :=
  if (cf s).st ≠ .handler then .next (raiseAll s cOPERAND 0#64)
  else if a = .zero then .next (returnFromTrap s none)
  else
    let t := w64 (upair s a)
    transfer s t fun s => returnFromTrap s (some t)

/-- The group that a group operand names (R429): one that is placed on the issuing block. -/
def groupNamed (s : State) (a : Opnd) : Option Nat :=
  let n := (usrc s a).toNat
  let g := 32 * cblk s + n
  if n < 32 && (gAt s g).present && !(gAt s g).ending then some g else none

/-! GRD and GWR (R431). -/

/-- Word k of a number. -/
def wordK (n k : Nat) : Word := w32 (n / 2 ^ (32 * k))

/-- A number with word k replaced. -/
def setWordK (n k : Nat) (w : Word) : Nat := n - n / 2 ^ (32 * k) % 2 ^ 32 * 2 ^ (32 * k) + w.toNat * 2 ^ (32 * k)

/-- Stack entry i from the bottom, in hardware or in the stack area (R66). -/
def stackEntry (s : State) (g i : Nat) : StkEntry :=
  let x := gAt s g
  if i < x.spilled then unspill s g i else (x.stk[depthOf x - 1 - i]?).getD default

/-- An item of a group, or of the block, by class, index and word; none for one that does not exist (R431). -/
def itemRead (s : State) (g cls idx sub : Nat) : Option Word :=
  let x := gAt s g
  let b := bAt s (blkOf g)
  let at0 (w : Word) : Option Word := if idx = 0 && sub = 0 then some w else none
  match cls with
  | 0 => if idx < roleNvreg x.role && sub < 32 then some (rdV x idx sub) else none
  | 1 => if idx < 48 && sub = 0 then some (rdS x idx) else none
  | 2 => if idx < 8 && sub = 0 then some (rdP x idx) else none
  | 3 =>
    let f := fragAt s g idx
    if 7 < idx then none
    else match sub with
      | 0 => some f.mode
      | 1 => some f.mask
      | 2 => some (f.pc.truncate 32)
      | 3 => some (w32 (f.pc.toNat / 2 ^ 32))
      | 4 => some (w32 f.st.code)
      | 5 => some (headerWord s g idx)
      | _ => none
  | 4 => if idx < depthOf x && sub < 4 then some (wordK (stackEntry s g idx).image sub) else none
  | 5 => at0 x.flags
  | 6 => at0 x.srgen
  | 7 => at0 x.gang
  | 8 => at0 x.role
  | 9 =>
    if idx ≠ 0 then none
    else match sub with
      | 0 => some x.rgncnt
      | 1 => some (x.rgnpc.truncate 32)
      | 2 => some (w32 (x.rgnpc.toNat / 2 ^ 32))
      | 3 => some x.rgnx
      | 4 => some x.rgnmsk
      | 5 => some x.rgnmode
      | _ => none
  | 10 => if idx < 12 && sub = 0 then some (w32 (flagCount x idx)) else none
  | 11 => if idx < 4 && sub < 8 then some (Store.get x.md (8 * idx + sub)) else none
  | 12 => if idx < 8 && sub < 2 then some (wordK (Store.get b.bars idx).image sub) else none
  | 13 =>
    let r := Store.get b.rings idx
    if idx < 16 && sub < 6 then some (wordK r.image sub)
    else if idx < 16 && sub < 8 then some (wordK r.fmask (sub - 6)) else none
  | 14 => if idx < 4 && sub < 4 then some (wordK (Store.get b.qstat (2 * idx + sub / 2)).toNat (sub % 2)) else none
  | _ => if idx < 32 && sub = 0 then some (w32 (bankAt s (coreOf g) idx).byte) else none

/-- Writes stack entry i (R431): KIND 3 is refused. -/
def stackWrite (s : State) (g i sub : Nat) (w : Word) : Option State :=
  let x := gAt s g
  let e := StkEntry.ofImage (setWordK (stackEntry s g i).image sub w)
  if e.kind = 3 then none
  else if i < x.spilled then some (spill s g i e)
  else some (updG s g fun x => { x with stk := x.stk.set (depthOf x - 1 - i) e })

/-- Writes a word of a fragment entry (R431): MODE, MASK and PC of a FROZEN one. -/
def fragWrite (s : State) (g i sub : Nat) (w : Word) : Option State :=
  let f := fragAt s g i
  let move (pc : Nat) : State :=
    let q := w64 (pc / 4 * 4)
    updF s g i fun f => { f with pc := q, npc := q, mid := true, code := [] }
  if f.st ≠ .frozen then none
  else match sub with
    | 0 => if modeOk w then some (updF s g i fun f => { f with mode := w }) else none
    | 1 => some (updF s g i fun f => { f with mask := w })
    | 2 => some (move (setWordK f.pc.toNat 0 w))
    | 3 => some (move (setWordK f.pc.toNat 1 w))
    | _ => none

/-- Writes an item, or refuses (R431). FLAGS takes the word as it is, in its low 8 bits (log entry 121, DEDUCED). -/
def itemWrite (s : State) (g cls idx sub : Nat) (w : Word) : Option State :=
  let at0 (h : Group → Group) : Option State := if idx = 0 && sub = 0 then some (updG s g h) else none
  match cls with
  | 0 => if idx < roleNvreg (gAt s g).role && sub < 32 then some (updG s g fun x => wrV x idx sub w) else none
  | 1 => if idx < 48 && sub = 0 then some (updG s g fun x => wrS x idx w) else none
  | 2 => if idx < 8 && sub = 0 then some (updG s g fun x => wrP x idx w) else none
  | 3 => if idx < 8 then fragWrite s g idx sub w else none
  | 4 => if idx < depthOf (gAt s g) && sub < 4 then stackWrite s g idx sub w else none
  | 5 => at0 fun x => { x with flags := w &&& 0xFF#32 }
  | 6 => at0 fun x => { x with srgen := if w = 0#32 then 1#32 else w }
  | 7 => if gangOk { s with curG := g } w then at0 fun x => { x with gang := w } else none
  | 11 =>
    let m := setWordK (mdOf (gAt s g) idx) sub w
    if idx < 4 && sub < 8 && mdOk m then some (updG s g fun x => { x with md := Store.set x.md (8 * idx + sub) w }) else none
  | 12 =>
    let c := (Store.get (bAt s (blkOf g)).bars idx).count
    let e := w.toNat % 2 ^ 16
    if idx < 8 && sub = 0 then some s
    else if idx < 8 && sub = 1 && c < e then
      some (updB s (blkOf g) fun b => { b with bars := Store.upd b.bars idx fun x => { x with expect := e } })
    else none
  | 13 =>
    if idx < 16 && (sub = 6 || sub = 7) then
      some (updB s (blkOf g) fun b => { b with rings := Store.upd b.rings idx fun r => { r with fmask := setWordK r.fmask (sub - 6) w } })
    else none
  | 14 =>
    if idx < 4 && sub < 4 then
      some (updB s (blkOf g) fun b => { b with
        qstat := Store.upd b.qstat (2 * idx + sub / 2) fun q => qstatWord (sub / 2) (w64 (setWordK q.toNat (sub % 2) w)) })
    else none
  | _ => none

/-- The group an item lies in: classes 12 to 15 ignore the group operand (R431). -/
def itemGroup (s : State) (a : Opnd) (cls : Nat) : Option Nat :=
  if 12 ≤ cls then some s.curG else groupNamed s a

/-- The read of a spilled stack entry meets the L2 (R66, R405). -/
def itemMeet (s : State) (g cls idx : Nat) : State := if cls = 4 && decide (idx < (gAt s g).spilled) then meetStack s g idx else s

/-- GRD (R431). -/
def execGrd (d a b : Opnd) (s : State) : Res :=
  let sel := (usrc s b).toNat
  let cls := bits sel 31 28
  match (itemGroup s a cls).bind fun g => (itemRead s g cls (bits sel 27 8) (bits sel 7 0)).map fun w => (g, w) with
  | some (g, w) => done (updCG (itemMeet s g cls (bits sel 27 8)) fun x => wrDst x d [w])
  | none => .next (raiseAll s cOPERAND 0#64)

/-- Is every live fragment of a group FROZEN? -/
def allFrozen (x : Group) : Bool := (liveFrags x).all fun i => (Store.get x.frags i).st == .frozen

/-- GWR (R431): another group's fragments must all be FROZEN. -/
def execGwr (x a b : Opnd) (s : State) : Res :=
  let sel := (usrc s b).toNat
  let cls := bits sel 31 28
  let s := closeRegion s
  let out := (itemGroup s a cls).bind fun g =>
    if cls < 12 && g ≠ s.curG && !allFrozen (gAt s g) then none
    else itemWrite s g cls (bits sel 27 8) (bits sel 7 0) (usrc s x)
  match out with
  | some s' => done s'
  | none => .next (raiseAll s cOPERAND 0#64)

/-! GRES and GFRZ (R432, R433). -/

/-- GRES (R432): group g is frozen and rolled back once its operations have completed; the issuer waits, or is part of
what is rolled back. -/
def execGres (a : Opnd) (s : State) : Res :=
  match groupNamed s a with
  | none => .next (raiseAll (closeRegion s) cOPERAND 0#64)
  | some g =>
    if !regionOk (gAt s g) then .next (raiseAll (closeRegion s) cOPERAND 0#64)
    else
      let s := closeRegion s
      let s := if g = s.curG then s else waitFor s (.quiet g)
      let s := rdvDrop (updG s g fun x => mapFrags { x with roll := true } Frag.freeze) g
      .next (if (gAt s g).pend.isEmpty then gresDone (rollback s g) g else s)

/-- Returns a FROZEN fragment to its kept state (R433). -/
def Frag.unfreeze (f : Frag) : Frag := if f.st = .frozen then { f with st := f.kept, kept := .free } else f

/-- GFRZ (R433). -/
def execGfrz (u : BitVec 1) (a : Opnd) (s : State) : Res :=
  let s := closeRegion s
  match groupNamed s a with
  | none => .next (raiseAll s cOPERAND 0#64)
  | some g =>
    if u = 1#1 then done (updG s g fun x => mapFrags { x with viol := none } Frag.unfreeze)
    else if g = s.curG then .next (raiseAll s cOPERAND 0#64)
    else done (rdvDrop (updG s g fun x => mapFrags x Frag.freeze) g)

/-! TLBI (R434). -/

/-- TLBI (R434). -/
def execTlbi (a : Opnd) (s : State) : Res :=
  if flagFull s 2 then .next (stallHere s)
  else
    let s := closeRegion s
    match invOf (ofWords (ublock s a 4)) with
    | none => .next (raiseAll s cOPERAND 0#64)
    | some i =>
      if 1 < i.kind || i.ctx ≠ (cctx s).ctxid then .next (raiseAll s cOPERAND 0#64)
      else
        let (s, id) := addPend s 2 { (default : Pend) with kind := .inval, dst := .nul }
        done (postInv s { i with own := some (s.curG, id) }).1

/-! Records (R436, R437). -/

/-- The trap of an access to a record that fails (R246). -/
def recTrap (s : State) (wr : Bool) (e : Nat × Nat × List Nat) : State :=
  raiseAt s e.1 (active s) (w64 e.2.1) (cf s).pc (e.2.2.map fun p => (p, if wr then 1 else 0))

/-- Writes a record at its homes as an operation of the issuer (R258), then does what follows; or traps. -/
def saveRecord (s : State) (va : Nat) (bs : List Byte) (after : State → State) : Res :=
  match globalRange s (coreCaches (coreOf s.curG)) (cg s).ctx va bs.length true with
  | .inr e => .next (recTrap s true e)
  | .inl places =>
    let (s, t) := putPlaces s none (zipBytes places bs)
    let s := raiseLct s (some (cblk s)) t
    done (after (addPend s 2 { (default : Pend) with kind := .record, dst := .nul, time := t }).1)

/-- Reads bytes of a record; or the fault. -/
def loadRecord (s : State) (va n : Nat) : (List Byte) ⊕ (Nat × Nat × List Nat) :=
  match globalRange s (coreCaches (coreOf s.curG)) (cg s).ctx va n false with
  | .inr e => .inr e
  | .inl places => .inl (places.map (homeByte s))

/-- FRSV (R336, R436): it waits at issue until each point of the operator is UNFIRED, DONE or FORCED. -/
def execFrsv (a b : Opnd) (s : State) : Res :=
  let k := (usrc s a).toNat
  let va := upair s b
  let x := opAt s k
  let bad := decide (63 < k) || !x.used || x.ctx != (cg s).ctx || !x.drain
  if flagFull s 2 then .next (stallHere s)
  else if va % 64 ≠ 0 then .next (raiseAll (closeRegion s) cOPERAND (w64 va))
  else if bad then .next (raiseAll (closeRegion s) cOPERAND 0#64)
  else if x.points.any fun p => p.st != .forced then .next s
  else
    let s := closeRegion s
    saveRecord s va (frontRec s k) fun s => saveOp (x.points.foldl (fun s p => returnTokens s k p) s) k

/-- The operator that the record at an address describes (R339): its header is checked before its line records are read, and
these before its forced list; OPERAND, or the fault of an access. -/
def readFront (s : State) (va : Nat) : OpSlot ⊕ (Nat × Nat × List Nat) :=
  let bad : OpSlot ⊕ (Nat × Nat × List Nat) := .inr (cOPERAND, 0, [])
  match loadRecord s va 64 with
  | .inr e => .inr e
  | .inl h =>
    let hdr := leNat h
    match frontIns s (cg s).ctx hdr with
    | none => bad
    | some (ins, _) =>
      match loadRecord s va (64 + 8 * bits hdr 383 352) with
      | .inr e => .inr e
      | .inl bs =>
        if !linesOk (opExt ins 0) hdr (frontLines hdr bs) then bad
        else match loadRecord s va (frontLen hdr) with
          | .inr e => .inr e
          | .inl bs => match frontCheck s (cg s).ctx bs with
            | none => bad
            | some x => .inl x

/-- FRLD (R336, R339, R436): it waits at issue for a slot, with a place of its own in the order of R334. While the context
drains the slot has DRAIN set (R341). -/
def execFrld (d a : Opnd) (s : State) : Res :=
  let va := upair s a
  if flagFull s 1 then .next (stallHere s)
  else if va % 64 ≠ 0 then .next (raiseAll (closeRegion s) cOPERAND (w64 va))
  else match readFront s va with
    | .inr e => .next (recTrap (closeRegion s) false e)
    | .inl x =>
      match slotFor s (opLines x.ins) (cf s).asks with
      | none =>
        .next (if (cf s).asks = 0 then updCF { s with nextId := s.nextId + 1 } fun f => { f with asks := s.nextId + 1 } else s)
      | some n => done (addPend (loadFront (closeRegion s) n { x with drain := decide ((cctx s).st = 2) }) 1 (valuePend d (leBytes 4 n))).1

/-- Does a group operand stand for the block (R429)? -/
def isBlockForm (b : Opnd) : Bool := b == .mone

/-- CTXSV (R437, R188): a group waits at issue until its operations have completed; it then ends, with the row-state
bindings of its block. -/
def execCtxsv (a b : Opnd) (s : State) : Res :=
  let va := upair s a
  if flagFull s 2 then .next (stallHere s)
  else if va % 64 ≠ 0 then .next (raiseAll (closeRegion s) cOPERAND 0#64)
  else if isBlockForm b then
    let s := closeRegion s
    saveRecord s va (blockRec s (cblk s)) fun s => unbindRows s (cblk s)
  else match groupNamed s b with
    | none => .next (raiseAll (closeRegion s) cOPERAND 0#64)
    | some g =>
      if !allFrozen (gAt s g) then .next (raiseAll (closeRegion s) cOPERAND 0#64)
      else if !(gAt s g).pend.isEmpty then .next s
      else
        let s := closeRegion s
        saveRecord s va (groupRec s g) fun s => unbindRows (dropGroup (keepViol s g) g) (cblk s)

/-- At a launch and at CTXLD what the code caches hold of the context goes, and every pin (R40, R122). -/
def freshCode (s : State) (slot : Nat) : State := { s with code := s.code.filter fun v => v.ctx != slot, pins := [] }

/-- FORCED points that a restored block took are TAKEN again (R335). -/
def takeForced (s : State) (slot b : Nat) : State :=
  let again (p : Point) : Point := if p.st = .forced && p.core = b / 4 && p.blk = b % 4 then { p with st := .taken } else p
  let one (e : Nat × OpSlot) : Nat × OpSlot :=
    if e.2.used && e.2.ctx == slot && opOpc e.2.ins == 1 then (e.1, { e.2 with points := e.2.points.map again }) else e
  { s with ops := s.ops.map one }

/-- Do the bank bytes of a block record give the block exactly the banks and modes it has (R437)? A byte of zero stands for a
bank of no block too. -/
def splitEqual (s : State) (b : Nat) (bs : List Byte) : Bool :=
  (List.range 32).all fun k =>
    let x := bankAt s (b / 4) k
    let n := fieldOf bs (64 + k) 1 % 2 ^ 6
    if x.owned && x.blk == b % 4 then n == x.byte % 2 ^ 6 else n / 16 != b % 4 || (n == 0 && !x.owned)

/-- A CTXLD completes with nothing more to write. -/
def loadDone (s : State) : Res := done (addPend s 2 { (default : Pend) with kind := .record, dst := .nul }).1

/-- CTXLD of the block (R437, R188). -/
def ctxldBlock (s : State) (va : Nat) : Res :=
  let b := cblk s
  match loadRecord s va (56320 + 49152 * (dataBanks s b).length) with
  | .inr e => .next (recTrap s false e)
  | .inl bs =>
    if !recIs s bs 0x4252 b (cg s).ctx || !splitEqual s b bs then .next (raiseAll s cOPERAND 0#64)
    else match rowTaken s b bs with
      | some k => .next (raiseAll s cOPERAND (w64 k))
      | none => loadDone (freshCode (restoreBlock s b bs) (cg s).ctx)

/-- CTXLD of group n of the block (R437): it has ended, and the record is its own. -/
def ctxldGroup (s : State) (va n : Nat) : Res :=
  let g := 32 * cblk s + n
  match loadRecord s va 1024 with
  | .inr e => .next (recTrap s false e)
  | .inl h =>
    match loadRecord s va (groupRecLen h) with
    | .inr e => .next (recTrap s false e)
    | .inl bs =>
      if 31 < n || (gAt s g).present || !groupRecOk s (cg s).ctx g bs then .next (raiseAll s cOPERAND 0#64)
      else
        let slot := (cg s).ctx
        loadDone (takeForced (freshCode (restoreGroup s slot g bs true) slot) slot (cblk s))

/-- CTXLD (R437). -/
def execCtxld (a b : Opnd) (s : State) : Res :=
  let va := upair s a
  if flagFull s 2 then .next (stallHere s)
  else
    let s := closeRegion s
    if va % 64 ≠ 0 then .next (raiseAll s cOPERAND 0#64)
    else if isBlockForm b then ctxldBlock s va
    else ctxldGroup s va (usrc s b).toNat

end Sys2Proof.Machine
end

