-- ==== Sys2Proof/Machine/Context.lean ====
section
/-! DEFINITION. Contexts: launch (R409 to R411), pre-emption (R423 to R425), the save (R426), resume (R427) and teardown
(R428). -/

namespace Sys2Proof.Machine

/-! Launch. -/

/-- CAUSE codes (R406). -/
def kHEADER : Nat := 1
def kPLACE : Nat := 2
def kSAVESZ : Nat := 3
def kDEADLINE : Nat := 4
def kRECORD : Nat := 5
def kPTROOT : Nat := 6
def kEVTAB : Nat := 7

/-- The checks of R410 on a launch header. -/
def headerOk (h : Nat) : Bool :=
  let rs := [0, 1, 2, 3]
  let nb := hdrNblk h
  hdrMagic h == 0x4C48 && hdrLver h == 1 && bits h 31 22 == 0 && bits h 319 272 == 0 && bits h 511 480 == 0 &&
  rs.all (fun r => bits h (512 + 256 * r + 255) (512 + 256 * r + 84) == 0 && bits h (512 + 256 * r + 79) (512 + 256 * r + 78) == 0) &&
  rs.all (fun b => bits (hdrSplit h b) 23 22 == 0 && bits (hdrSplit h b) 15 14 == 0 && bits (hdrSplit h b) 7 6 == 0) &&
  rs.all (fun r => hdrEntry h r % 64 == 0) &&
  hdrAmax h % 192 == 0 && hdrHtab h % 64 == 0 && hdrArea h % 512 == 0 && hdrTrap h % 64 == 0 &&
  rs.all (fun r => hdrNgrp h r == 0 || (hdrNvreg h r % 16 == 0 && decide (16 ≤ hdrNvreg h r) && decide (hdrNvreg h r ≤ 192))) &&
  hdrNgrp h 0 == 1 && decide ((rolesOf h).length ≤ 32) &&
  decide (((rs.filter (· < nb)).map (splitSum h)).foldl (· + ·) 0 ≤ 32) &&
  rs.all (fun b => decide (b < nb) || hdrSplit h b == 0)

/-- Is a core of a mask held by another context in RUN, DRAIN or FAILED (R410)? -/
def coreBusy (s : State) (slot mask : Nat) : Bool :=
  s.ctxs.any fun e => e.1 != slot && (e.2.st == 1 || e.2.st == 2 || e.2.st == 4) && e.2.mask &&& mask != 0

/-- The physical pages of the event table, each translated for writing (R310); none if one is not. -/
def eventPages (s : State) (slot : Nat) : Option (List Nat) :=
  let c := ctxAt s slot
  let first := c.evbase.toNat / frameBytes
  let last := (c.evbase.toNat + 8 * 2 ^ c.evlog - 1) / frameBytes
  (List.range (last + 1 - first)).mapM fun i =>
    match resolve s osdCaches slot ((first + i) * frameBytes) with
    | some (l, pa) => if l.w then some pa else none
    | none => none

/-- What a LAUNCH or RESUME that passes its checks has read: the header, the mask and the table's pages. -/
structure Plan where
  hdr : Nat
  mask : Nat
  pages : List Nat
deriving DecidableEq, Repr, Inhabited

/-- The checks of R410, in the order of its table: the CAUSE of the first that fails, or what was read. -/
def launchPlan (s : State) (slot : Nat) : Nat ⊕ Plan :=
  let c := ctxAt s slot
  if !rootOk s c.ptroot.toNat then .inl kPTROOT
  else if c.lhdr.toNat % 192 ≠ 0 then .inl kHEADER
  else match readVa s osdCaches slot c.lhdr.toNat 192 with
    | none => .inl kHEADER
    | some hb =>
      let h := leNat hb
      if !headerOk h then .inl kHEADER
      else if c.cores.toNat % 64 ≠ 0 then .inl kPLACE
      else match readVa s osdCaches slot c.cores.toNat 64 with
        | none => .inl kPLACE
        | some mb =>
          let m := leNat mb
          if coreBusy s slot m || (placement h).isNone then .inl kPLACE
          else match eventPages s slot with
            | none => .inl kEVTAB
            | some ps => .inr ⟨h, m, ps⟩

/-- HELD streams of a context go to RUN (R270). -/
def heldRun (s : State) (slot : Nat) : State :=
  { s with streams := s.streams.map fun e => if e.1 / 64 == slot && e.2.st == 2 then (e.1, { e.2 with st := 1 }) else e }

/-- Creates a context that has passed its checks: its blocks and groups, PREQ clear (R76, R411). -/
def createCtx (s : State) (slot : Nat) (p : Plan) : State :=
  let s := updCtx s slot fun c => { c with
    st := 1, hdr := p.hdr, mask := p.mask, evpages := p.pages, preq := 0, preAt := 0, preFor := 0, hold := false, resuming := (0, 0)
    yielded := [] }
  (coresOf p.mask).foldl (fun s c => makeCore s slot c) (freshCode s slot)

/-- CTXCTL_LAUNCH (R407, R410, R411, R469). -/
def ctxLaunch (slot : Nat) (s : State) : Res :=
  let c := ctxAt s slot
  if c.st ≠ 0 && c.st ≠ 3 then .next s
  else match launchPlan s slot with
    | .inl k => .next (updCtx s slot fun c => { c with cause := k })
    | .inr p => .next (heldRun (updCtx (createCtx s slot p) slot fun c => { c with serial := 0 }) slot)

/-! Pre-emption (R423 to R425). -/

/-- The blocks of a context. -/
def blocksOf (s : State) (slot : Nat) : List Nat := (s.blocks.filter fun e => e.2.present && e.2.ctx == slot).map (·.1)

/-- A FIRED point that is not taken returns to UNFIRED, its waits deregistered (R335). -/
def unfire (s : State) (n : Nat) (p : Point) : State :=
  endWaits (updOp (returnTokens s n p) n fun x => { x with
    points := x.points.filter fun q => q.l != p.l
    lines := Store.upd x.lines (ptLine x.ins p.l) fun e =>
      { e with fired := e.fired - b2n (bit e.fired (ptC0 x.ins p.l - e.h)) * 2 ^ (ptC0 x.ins p.l - e.h) } }) (opAt s n) p

/-- The operators of a context drain: DRAIN is set and the points not taken return to UNFIRED (R335, R341). -/
def drainOps (s : State) (slot : Nat) : State :=
  s.ops.foldl (fun s e =>
    if e.2.used && e.2.ctx == slot then
      let s := updOp s e.1 fun x => { x with drain := true }
      e.2.points.foldl (fun s p => if p.st == .fired || p.st == .posted then unfire s e.1 p else s) s
    else s) s

/-- Mailbox entries of a context of some kinds leave the mailboxes. -/
def dropMail (s : State) (slot : Nat) (k : Nat → Bool) : State :=
  { s with mbox := s.mbox.foldl (fun m e => Store.set m e.1 (e.2.filter fun x => !(x.ctx == slot && k x.kind))) s.mbox }

/-- CTXCTL_PRE (R407, R423, R270, R273, R335). -/
def ctxPreempt (slot : Nat) (s : State) : Res :=
  let c := ctxAt s slot
  if c.st ≠ 1 then .next s
  else
    let s := updCtx s slot fun c => { c with st := 2, preq := 1, preAt := s.gt, preFor := c.deadln }
    let s := { s with streams := s.streams.map fun e => if e.1 / 64 == slot && e.2.st == 1 then (e.1, { e.2 with st := 2 }) else e }
    let s := dropMail (drainOps s slot) slot (· == 0)
    .next (postYields ((blocksOf s slot).foldl (fun s b => updB s b fun x => { x with due := true }) s))

/-- Does a fragment wait on the WAIT field of the clause at whose header it stands (R33, R475)? -/
def atWait (x : Group) (f : Frag) : Bool :=
  f.wait == .no && !f.mid && !f.code.isEmpty && hdrWait f.hdr &&& flagMask x != 0

/-- Does a fragment wait, stand parked, arrived or frozen, so that it does not run (R423, R424)? -/
def fragQuiet (x : Group) (f : Frag) : Bool :=
  match f.wait with
  | .gang .. => false
  | w => match f.st with
    | .waiting | .merging | .frozen => true
    | .handler => w != .no || atWait x f
    | _ => atWait x f

/-- Is every live fragment of a group so? -/
def groupQuiet (x : Group) : Bool := (liveFrags x).all fun i => fragQuiet x (Store.get x.frags i)

/-- Is a fragment of the group parked (R423)? -/
def groupParked (x : Group) : Bool := (liveFrags x).any fun i => (Store.get x.frags i).wait == .parked

/-- Is a group rolled back by a forced save (R424, first row)? A group that is frozen, or stands parked, is saved as
it stands (R423, R437). -/
def rollsBack (x : Group) : Bool :=
  regionOk x && !handlerLive x && !(groupQuiet x && groupParked x) &&
  !(liveFrags x).any fun i => (Store.get x.frags i).st == .frozen

/-- A group stops for a forced save, its arrival at the Cinch cancelled (R165, R424). -/
def stopGroup (s : State) (g : Nat) (standing : Bool) : State :=
  let s := { s with rdvs := s.rdvs.filter fun r => !r.lists g }
  updG s g fun x => { x with saved := true, roll := !standing && rollsBack x }

/-- Stops the groups that a forced save treats now: those to be rolled back and those that do not run (R424). -/
def stopDue (s : State) (b : Nat) : State :=
  (runningOf s b).foldl (fun s g =>
    let x := gAt s g
    if rollsBack x || groupQuiet x then stopGroup s g false else s) s

/-- The groups of a block that have come to rest stop, to be saved as they stand (R424). -/
def stopQuiet (s : State) (b : Nat) : State :=
  blockStops ((runningOf s b).foldl (fun s g => if groupQuiet (gAt s g) then stopGroup s g true else s) s) b

/-- A forced save of a block begins (R424). -/
def forceBlock (s : State) (b : Nat) : State := blockStops (stopDue (updB s b fun x => { x with saving := true }) b) b

/-- FORCED_SAVE_DECISION (R423, R424): a block that holds a taken job and in which a YLD clause has parked a fragment is
force-saved once every live fragment is parked, waiting or arrived (log entry 83, DEDUCED); in a forced save that is under way,
the groups that have come to rest stop. -/
def execForcedSaveDecision (c b : Nat) (s : State) : Res :=
  let k := 4 * c + b
  let x := bAt s k
  if 3 < b || !x.present then .next s
  else if x.saving then .next (stopQuiet s k)
  else
    let gs := runningOf s k
    let due := bit (ctxAt s x.ctx).preq 0 && holdsJob s k && gs.all (fun g => groupQuiet (gAt s g)) &&
      gs.any fun g => groupParked (gAt s g)
    .next (if due then forceBlock s k else s)

/-- PREEMPT_DEADLINE (R424): PREQ bit 1 is set and every block with a taken job is force-saved. -/
def execPreemptDeadline (slot : Nat) (s : State) : Res :=
  let c := ctxAt s slot
  if c.st ≠ 2 || s.gt < c.preAt + c.preFor || bit c.preq 1 then .next s
  else
    let s := updCtx s slot fun c => { c with preq := 3 }
    .next ((blocksOf s slot).foldl (fun s b => if holdsJob s b && !(bAt s b).saving then forceBlock s b else s) s)

/-- Freezes a group with cause DEADLINE (R424, R425). -/
def freezeLate (s : State) (g : Nat) : State :=
  let x := gAt s g
  let pc := match liveFrags x with
    | i :: _ => (Store.get x.frags i).pc
    | [] => 0#64
  rdvDrop (freezeGroup s g cDEADLINE pc 0#32) g

/-- What the hard deadline does to one block: the state and whether a group still ran (R424, R425). -/
def lateBlock (s : State) (b : Nat) : State × Bool :=
  if (bAt s b).saving then
    let s := stopQuiet s b
    let late := runningOf s b
    (late.foldl freezeLate s, !late.isEmpty)
  else
    let gs := runningOf s b
    let late := gs.filter fun g => !groupQuiet (gAt s g)
    if late.isEmpty then (blockStops (gs.foldl (fun s g => stopGroup s g true) (updB s b fun x => { x with saving := true })) b, false)
    else (late.foldl freezeLate s, true)

/-- A context changes its state to SAVED, FAILED or OFF: vector 6 (R456, R407). -/
def ctxLeaves (s : State) (slot : Nat) (f : Ctx → Ctx) : State := interrupt (updCtx s slot f) 6

/-- PREEMPT_HARD_DEADLINE (R424, R425). -/
def execPreemptHardDeadline (slot : Nat) (s : State) : Res :=
  let c := ctxAt s slot
  if c.st ≠ 2 || s.gt < c.preAt + 2 * c.preFor || !bit c.preq 1 then .next s
  else
    let (s, late) := (blocksOf s slot).foldl (fun (acc : State × Bool) b =>
      let (s, l) := lateBlock acc.1 b
      (s, acc.2 || l)) (s, false)
    .next (if late then ctxLeaves s slot fun c => { c with st := 4, cause := kDEADLINE } else s)

/-! The save (R426). -/

/-- Is a block stopped, with every operation complete and every rollback made? -/
def blockStill (s : State) (b : Nat) : Bool :=
  (bAt s b).saving && (groupsOf s b).all fun g => let x := gAt s g; x.saved && !x.roll && x.quiet

/-- Does a copy of the context run on a tensor copy engine (R407)? -/
def copyRuns (s : State) (slot : Nat) : Bool :=
  s.ops.any fun e => e.2.used && e.2.ctx == slot && opOpc e.2.ins == 2 && e.2.points.any fun p => p.st == .taken

/-- Points that blocks of a context had taken before they ended become FORCED and return their tokens (R335). -/
def forcePoints (s : State) (slot : Nat) : State :=
  s.ops.foldl (fun s e =>
    if e.2.used && e.2.ctx == slot then
      e.2.points.foldl (fun s p =>
        if p.st == .taken then updPoint (returnTokens s e.1 p) e.1 p.l fun p => { p with st := .forced, tok := 0 } else s) s
    else s) s

/-- Operator slots of a context. -/
def slotsOf (s : State) (slot : Nat) : List Nat :=
  (List.range 64).filter fun n => (opAt s n).used && (opAt s n).ctx == slot

/-- Every record of a save in its order, each filled up to a multiple of 64 (R426). -/
def saveRecords (s : State) (slot : Nat) : List (List Byte) :=
  let pad (bs : List Byte) : List Byte := padTo ((bs.length + 63) / 64 * 64) bs
  ((slotsOf s slot).map fun n => pad (frontRec s n)) ++
    (sortBy id (blocksOf s slot)).flatMap fun b => pad (blockRec s b) :: (groupsOf s b).map fun g => pad (groupRec s g)

/-- The save header (R426). -/
def saveHeader (s : State) (slot : Nat) : List Byte :=
  let bs := blocksOf s slot
  padTo 64 (leBytes 2 0x5341 ++ leBytes 1 1 ++ zeros 1 ++ leBytes 4 (slotsOf s slot).length ++ leBytes 4 bs.length ++
    leBytes 4 (bs.foldl (fun n b => n + (groupsOf s b).length) 0) ++ leBytes 8 s.gt ++ leBytes 2 (ctxidOf s slot) ++
    zeros 2 ++ leBytes 4 (ctxAt s slot).serial)

/-- Writes bytes of the save area; none if a page cannot be written. -/
def putSave (s : State) (slot va : Nat) (bs : List Byte) : Option State :=
  match globalRange s osdCaches slot va bs.length true with
  | .inr _ => none
  | .inl places => some (putPlaces s none (zipBytes places bs)).1

/-- The groups and blocks of a context leave their cores. -/
def dropBlocks (s : State) (slot : Nat) : State :=
  (blocksOf s slot).foldl (fun s b =>
    let s := (groupsOf s b).foldl dropGroup { s with rdvs := s.rdvs.filter fun r => r.blk != b }
    endBlock s b) s

/-- Translations of a context go out (R426). -/
def invContext (s : State) (slot : Nat) : State :=
  (postInv s { (default : Inv) with kind := 1, ctx := ctxidOf s slot }).1

/-- CONTEXT_SAVE (R407, R426, R470): once every block has yielded or been saved and no copy runs. -/
def execContextSave (slot : Nat) (s : State) : Res :=
  let c := ctxAt s slot
  if c.st ≠ 2 || copyRuns s slot || !(blocksOf s slot).all (blockStill s) then .next s
  else
    let s := (blocksOf s slot).foldl (fun s b => updB (writeBackAll s b) b fun x => { x with saved := true }) (forcePoints s slot)
    let recs := (saveRecords s slot).flatten
    let head := saveHeader s slot
    let fail (s : State) : State := ctxLeaves s slot fun c => { c with st := 4, cause := kSAVESZ }
    if c.savesz.toNat < 64 + recs.length then .next (fail ((putSave s slot c.savebase.toNat head).getD s))
    else match putSave s slot c.savebase.toNat (head ++ recs) with
      | none => .next (fail s)
      | some s =>
        let s := (slotsOf s slot).foldl saveOp s
        let s := (blocksOf s slot).foldl (fun s b => (groupsOf s b).foldl keepViol s) s
        let s := dropBlocks (dropMail s slot fun _ => true) slot
        .next (invContext (ctxLeaves s slot fun c => { c with st := 3 }) slot)

/-! Resume (R427). -/

/-- The save area as it is read back: frontier record addresses, block records and group records by block and group. -/
structure Saved where
  fronts : List Nat
  blks : List (Nat × List Byte)
  grps : List (Nat × List Byte)
deriving DecidableEq, Repr, Inhabited

/-- Rounds a length up to a multiple of 64 (R426). -/
def up64 (n : Nat) : Nat := (n + 63) / 64 * 64

/-- Reads the frontier records of a save: their addresses and where the next record lies; none if one fails (R339). -/
def readFronts (s : State) (slot : Nat) : Nat → Nat → List Nat → Option (List Nat × Nat)
  | 0, va, acc => some (acc, va)
  | n + 1, va, acc =>
    match readVa s osdCaches slot va 64 with
    | none => none
    | some h =>
      if 16384 < bits (leNat h) 383 352 then none
      else match readVa s osdCaches slot va (frontLen (leNat h)) with
        | none => none
        | some bs =>
          if (frontCheck s slot bs).isNone then none
          else readFronts s slot n (va + up64 (frontLen (leNat h))) (acc ++ [va])

/-- The block a block record names, on a core of the context (R427). -/
def recBlock (s : State) (slot : Nat) (bs : List Byte) : Option Nat :=
  let b := 4 * fieldOf bs 14 2 + fieldOf bs 4 1
  let c := ctxAt s slot
  if recIs s bs 0x4252 b slot && fieldOf bs 4 1 < hdrNblk c.hdr && bit c.mask (fieldOf bs 14 2) then some b else none

/-- Banks of a block under the header of its context. -/
def launchBanks (s : State) (slot b : Nat) : List Nat := (bankModes (ctxAt s slot).hdr (b % 4)).map (·.1)

/-- Reads the block and group records of a save: `b` is the block whose groups follow (R426, R427). -/
def readSaved (s : State) (slot : Nat) : Nat → Nat → Option Nat → Saved → Option Saved
  | 0, _, _, acc => some acc
  | n + 1, va, cur, acc =>
    match readVa s osdCaches slot va 1024 with
    | none => none
    | some h =>
      if fieldOf h 0 2 = 0x4252 then
        match recBlock s slot h with
        | none => none
        | some b =>
          let len := blockRecLen h (launchBanks s slot b)
          if (launchBanks s slot b).any fun k => fieldOf h (64 + k) 1 % 4 == 3 then none
          else match readVa s osdCaches slot va len with
            | none => none
            | some bs => readSaved s slot n (va + up64 len) (some b) { acc with blks := acc.blks ++ [(b, bs)] }
      else
        match cur with
        | none => none
        | some b =>
          let g := 32 * b + fieldOf h 3 1
          if fieldOf h 3 1 > 31 || !groupRecOk s slot g h then none
          else match readVa s osdCaches slot va (groupRecLen h) with
            | none => none
            | some bs => readSaved s slot n (va + up64 (groupRecLen h)) cur { acc with grps := acc.grps ++ [(g, bs)] }

/-- The whole save area of a context, checked; with its dispatch serial (R426, R427). -/
def readSave (s : State) (slot : Nat) : Option (Saved × Nat) :=
  let base := (ctxAt s slot).savebase.toNat
  match readVa s osdCaches slot base 64 with
  | none => none
  | some h =>
    if fieldOf h 0 2 ≠ 0x5341 || fieldOf h 2 1 ≠ 1 || fieldOf h 24 2 ≠ ctxidOf s slot || 64 < fieldOf h 4 4 || 2048 < fieldOf h 8 4
        || 65536 < fieldOf h 12 4 then none
    else match readFronts s slot (fieldOf h 4 4) (base + 64) [] with
      | none => none
      | some (fs, va) =>
        (readSaved s slot (fieldOf h 8 4 + fieldOf h 12 4) va none { (default : Saved) with fronts := fs }).map fun x =>
          (x, fieldOf h 28 4)

/-- Restores one saved block: its banks take the recorded modes, and only recorded groups are left, with those that had
yielded, which are created anew (R110, R427; log entry 120, DEDUCED). -/
def restoreSaved (s : State) (slot : Nat) (yielded : List Nat) (e : Nat × List Byte) : State :=
  let b := e.1
  let s := (launchBanks s slot b).foldl (fun s k => setBank s b k (fieldOf e.2 (64 + k) 1 % 4)) s
  ((groupsOf s b).filter fun g => !yielded.contains g).foldl dropGroup (restoreBlock s b e.2)

/-- A RESUME fails on a record: no group runs (R427). -/
def resumeFail (s : State) (slot : Nat) : State := ctxLeaves s slot fun c => { c with st := 4, cause := kRECORD, resuming := (0, 0), hold := false }

/-- Loads the frontier records that remain, as far as slots are free (R427, step 1, R334). -/
def loadFronts (slot : Nat) : Nat → State → State
  | 0, s => s
  | k + 1, s =>
    let (va, n) := (ctxAt s slot).resuming
    if n = 0 then s
    else match (readVa s osdCaches slot va 64).bind fun h =>
        (readVa s osdCaches slot va (frontLen (leNat h))).bind fun bs => (frontCheck s slot bs).map fun x => (x, frontLen (leNat h)) with
      | none => resumeFail s slot
      | some (x, len) =>
        match slotFor s (opLines x.ins) 0 with
        | none => s
        | some m =>
          let s := loadFront s m x
          loadFronts slot k (updCtx s slot fun c => { c with resuming := if n = 1 then (0, 0) else (va + up64 len, n - 1) })

/-- Steps 1, 3 and 4 of R427, as far as they go now: records are loaded; FORCED points are TAKEN again; once their
tokens are granted, streams run. -/
def resumeOn (s : State) (slot : Nat) : State :=
  let s := loadFronts slot 64 s
  let c := ctxAt s slot
  if c.st ≠ 1 || c.resuming.2 ≠ 0 then s
  else
    let s := (blocksOf s slot).foldl (fun s b => takeForced s slot b) s
    if forcedWaits s slot then s else heldRun (updCtx s slot fun c => { c with hold := false }) slot

/-- CTXCTL_RESUME (R407, R427): in SAVED it restores the context; of a context that still waits in its restore it makes
the next steps. -/
def ctxResume (slot : Nat) (s : State) : Res :=
  let c := ctxAt s slot
  if c.st = 1 && c.hold then .next (resumeOn s slot)
  else if c.st ≠ 3 then .next s
  else match launchPlan s slot with
    | .inl k => .next (updCtx s slot fun c => { c with cause := k })
    | .inr p =>
      let s' := updCtx s slot fun c => { c with hdr := p.hdr, mask := p.mask, evpages := p.pages }
      match readSave s' slot with
      | none => .next (resumeFail s' slot)
      | some (x, serial) =>
        let s := createCtx s slot p
        let s := x.blks.foldl (fun s e => restoreSaved s slot c.yielded e) s
        let s := x.grps.foldl (fun s e => restoreGroup s slot e.1 e.2 false) s
        let s := updCtx s slot fun c => { c with
          serial := serial, hold := true, resuming := ((x.fronts.head?).getD 0, x.fronts.length) }
        .next (resumeOn s slot)

/-! Teardown (R428). -/

/-- The window tables, paths, keys and subscriptions of a context go (R428, R365, R368, R371). -/
def dropWindows (s : State) (slot : Nat) : State :=
  let id := ctxidOf s slot
  let s := s.paths.foldl (fun s e =>
    if e.2.used && e.2.ctx == id && (e.2.st == 0 || e.2.st == 1) then
      if e.2.recv then updPath s e.1 fun p => { p with st := 3 }
      else
        let s := if e.2.st = 1 then emit s (control s 5 e.2.peer id e.2.gen e.2.seqa) else s
        closeSend s e.1 3
    else s) s
  { s with
    txw := s.txw.filter fun e => txwCtx e.2 != id, rxw := s.rxw.filter fun e => txwCtx e.2 != id
    keys := s.keys.filter fun e => e.2.owner != slot + 1
    subs := s.subs.filter fun r => r.1 != id, mirrors := s.mirrors.filter fun r => r.1 != id }

/-- The operators and streams of a context go: slots, lines, mailbox entries and tokens are freed, streams are OFF
(R428). -/
def dropStreams (s : State) (slot : Nat) : State :=
  let s := (slotsOf s slot).foldl (fun s n => freeOp ((opAt s n).points.foldl (fun s p => returnTokens s n p) s) n) s
  let s := dropMail s slot fun _ => true
  { s with
    pops := s.pops.filter fun p => p.ctx != slot
    away := s.away.filter fun a => a.ctx != slot
    evBad := s.evBad.filter fun m => m.1 != slot
    streams := s.streams.map fun e => if e.1 / 64 == slot then (e.1, { e.2 with st := 0, waiting := 0, held := false }) else e }

/-- Everything that the groups of a context still have under way is abandoned (R428). -/
def dropPending (s : State) (slot : Nat) : State :=
  let mine (g : Nat) : Bool := (gAt s g).ctx == slot && (gAt s g).present
  { s with
    hw := s.hw.filter fun r => match r.own with
      | some (g, _) => !mine g
      | none => true
    mxq := s.mxq.filter fun o => !o.mem.any fun m => mine m.g
    strq := s.strq.foldl (fun m e => Store.set m e.1 (e.2.filter fun c => !mine c.g)) s.strq
    kvq := s.kvq.foldl (fun m e => Store.set m e.1 (e.2.filter fun c => c.ctx != slot)) s.kvq
    invs := s.invs.map fun i => match i.own with
      | some (g, _) => if mine g then { i with own := none } else i
      | none => i }

/-- CTXCTL_KILL (R407, R428). -/
def ctxKill (slot : Nat) (s : State) : Res :=
  if (ctxAt s slot).st = 0 then .next s
  else
    let s := dropBlocks (dropPending s slot) slot
    let s := dropWindows (dropStreams s slot) slot
    let s := { s with l2 := s.l2.map fun e => if e.2.pin == slot + 1 then (e.1, { e.2 with pin := 0, pinPage := 0 }) else e }
    .next (ctxLeaves s slot fun c => { c with
      st := 0, mask := 0, hdr := 0, preq := 0, evpages := [], hold := false, resuming := (0, 0), yielded := [] })

/-! Writes of the context page and by firmware. -/

/-- INVHI_WRITE (R351, R406): posts the request that INVLO and the value form, or sets INVSTAT bit 1. -/
def invhiPost (slot : Nat) (v : Quad) (s : State) : Res :=
  match invOf ((ctxAt s slot).invlo.toNat + v.toNat * 2 ^ 64) with
  | none => .next (updCtx s slot fun c => { c with invref := true })
  | some i => .next (postInv s { i with slot := slot + 1 }).1

/-- STOP_DESCRIPTOR_POST (R428, R272, R318): a STOP descriptor for a block of the context, into a FREE entry; its JOBID word
is 0 (log entry 122, DESIGN CHOICE). -/
def execStopDescriptorPost (slot c b : Nat) (s : State) : Res :=
  let k := 4 * c + b
  if 3 < b || !(bAt s k).present || (bAt s k).ctx ≠ slot || !mailRoom s c then .next s
  else
    let m : Mail := { kind := 2, blk := b, ctx := slot, slot := 0, l := 0, words := 2#32 :: List.replicate 5 0#32 }
    .next { s with mbox := Store.upd s.mbox c fun l => l ++ [m] }

end Sys2Proof.Machine
end

