-- ==== Sys2Proof/Machine/Links.lean ====
section
/-! DEFINITION. Links (chapter 22): training, the optical ports and their replay, the slot table, local links
and link event records. A link is numbered 0 to 63 for an optical port and 64 + k for local link k. -/

namespace Sys2Proof.Machine

/-- Does the GSC run: power, an image booted, no hold of a lease reset or of the thermal trip (R460, R462, R468)? -/
def gscRuns (s : State) : Bool := s.power && (s.image == 1 || s.image == 2) && !s.lrcHold && !s.tripHold

def portAt (s : State) (p : Nat) : Port := Store.get s.ports p
def updPort (s : State) (p : Nat) (f : Port → Port) : State := { s with ports := Store.upd s.ports p f }

/-- How many wavelengths of a mask live (R444). -/
def waves (m : Nat) : Nat := ((List.range 16).filter fun i => bit m i).length

/-- The wavelengths that a laser module feeds (R444). -/
def moduleMask (n : Nat) : Nat := 15 * 2 ^ (4 * n)

/-- Live wavelength `n` of a mask, counted in ascending order (R444). -/
def liveWave (m n : Nat) : Nat := ((List.range 16).filter fun i => bit m i).getD n 0

/-- The transmit wavelengths that the 16 beats of a port's next flit travel on: beat b on live wavelength b mod W (R444). -/
def beatWaves (x : Port) : List Byte :=
  (List.range 16).map fun i => BitVec.ofNat 8 (liveWave x.txlive ((x.beat + i) % waves x.txlive))

/-- The time of a flit on W wavelengths, in units of 1/21 gt: 8/7, 32/21 or 16/7 ns (R444). -/
def flitTime (w : Nat) : Nat := 384 / w

/-- The chip at the other end of local link k (R439). -/
def linkPeer (s : State) (k : Nat) : Nat := s.chip / 32 * 32 + (s.chip % 32 + k + 1) % 32

/-! The slot clock (R447 to R449). -/

/-- Slots of a rotation. -/
def slotsPer (s : State) : Nat := s.nslot + 1

/-- Does the slot clock run: EN is set and EPOCH has come (R448)? -/
def slotsRun (s : State) : Bool := s.slotEn && decide (s.epoch ≤ s.gt)

/-- The slot that holds the present time, counted from EPOCH (R447). -/
def slotNow (s : State) : Nat := (s.gt - s.epoch) / s.slotlen

/-- Where a counted slot begins (R447). -/
def slotBegin (s : State) (n : Nat) : Nat := s.epoch + n * s.slotlen

/-- The active entry of a port in a counted slot (R449). -/
def slotEntry (s : State) (n p : Nat) : Nat := Store.get s.slotAct (64 * (n % slotsPer s) + p)

/-- The budget of a destination in a counted slot (R449). -/
def budgetOf (s : State) (n d : Nat) : Nat :=
  (List.range 64).foldl (fun b p =>
    let e := slotEntry s n p
    if slotV e && slotPeer e == d then b + slotBudget e else b) 0

/-- Some flits of a port go back to the head of the queue of a chip at its bridge die and keep their PSEQ (R448, R450). -/
def requeue (s : State) (port d : Nat) (fs : List Flit) : State :=
  { s with optq := Store.upd s.optq (optKey (port / 32) d) fun q =>
      fs.filter Flit.urgent ++ q.takeWhile Flit.urgent ++ fs.filter (fun f => !f.urgent) ++ q.dropWhile Flit.urgent }

/-- The unacknowledged flits of a port return to the head of the queue of the chip that a slot connects it to; its next flit starts
the FSEQs afresh (R446, R450; log entry 157, DEDUCED). -/
def returnPort (s : State) (n p : Nat) : State :=
  let x := portAt s p
  let s := if x.replay.isEmpty then s else requeue s p (slotPeer (slotEntry s n p)) (x.replay.map (·.2))
  updPort s p fun x => { x with replay := [], again := 0, fseq := 0 }

/-- The slot in progress is over: the unacknowledged flits of every port return to the head of their queues (R448, R450). -/
def returnFlits (s : State) : State :=
  match s.slotCur with
  | none => s
  | some n => { (s.ports.map (·.1)).reverse.foldl (fun s p => returnPort s n p) s with slotCur := none }

/-- SLOT_END (R450): the slot in progress is over. -/
def execSlotEnd (s : State) : Res :=
  match s.slotCur with
  | some n => .next (if slotBegin s (n + 1) ≤ s.gt then returnFlits s else s)
  | none => .next s

/-- At the start of a rotation, which ends the slot before it, a pending SWAP exchanges the banks (R448, R449). -/
def rotationStart (s : State) : State :=
  let r := slotNow s / slotsPer s
  if !slotsRun s || s.rot == some r then s
  else
    let s := match s.slotCur with
      | some n => if n / slotsPer s = r then s else returnFlits s
      | none => s
    let s := { s with rot := some r }
    if s.swap then optAdmit { s with slotAct := s.slotShd, slotShd := s.slotAct, swap := false } else s

/-- What a receiver knows of the FSEQs that come in a slot: none yet (R446, R450; log entry 157, DEDUCED). -/
def Port.listen (x : Port) : Port := { x with rseq := 4095, miss := [], owed := none }

/-- SLOT_START (R447, R448): the slot of the present time begins with no budget spent, and the receivers listen afresh; a rotation
that starts comes first (R449). -/
def execSlotStart (s : State) : Res :=
  if !slotsRun s || s.slotCur.isSome then .next s
  else
    let s := rotationStart s
    .next { s with slotCur := some (slotNow s), spent := [], ports := s.ports.map fun e => (e.1, e.2.listen) }

/-- SLOTCTL.SWAP (R447, R448): ignored while another is pending. -/
def swapOn (s : State) : State := { s with swap := true }

def execSlotctlSwap (s : State) : Res := .next (if gscRuns s then swapOn s else s)

/-- A write of SLOTCTL.EN (R448). A rotation that is under way when EN is set does not count as a rotation
start. -/
def slotEnWrite (s : State) (en : Bool) : State :=
  if en == s.slotEn then s
  else if en then
    let s := { s with slotEn := true }
    let r := slotNow s / slotsPer s
    { s with rot := if s.epoch ≤ s.gt && slotBegin s (r * slotsPer s) != s.gt then some r else none }
  else { returnFlits s with slotEn := false, rot := none }

def execSlotctlEn (en : Bool) (s : State) : Res := .next (if gscRuns s then slotEnWrite s en else s)

/-! Link events (R451). -/

/-- Writes a link event record. -/
def linkEvent (s : State) (kind : Nat) (loc rx : Bool) (port peer lost live replay : Nat) : State :=
  ringPut s 2 (leBytes 32 (b2n rx * 2 ^ 106 + b2n loc * 2 ^ 107 + kind % 16 * 2 ^ 108 + port % 64 * 2 ^ 112 +
    peer % 1024 * 2 ^ 118 + lost % 2 ^ 16 * 2 ^ 128 + live % 2 ^ 16 * 2 ^ 144 + replay % 2 ^ 32 * 2 ^ 160 +
    s.gt % 2 ^ 64 * 2 ^ 192))

/-- The chip that a port is connected to: as the active entry of the slot in progress says, else of slot 0. -/
def portPeer (s : State) (p : Nat) : Nat := slotPeer (slotEntry s (s.slotCur.getD 0) p)

/-! Port states (R446). -/

/-- The GSC installs a hop key; which, is free (R443; log entry 3). -/
def installKey (s : State) (h : Nat) : State := spend { s with hopKeys := Store.set s.hopKeys h (freeHere s + 1) }

/-- PORT_ENABLE (R446). -/
def execPortEnable (port : Nat) (s : State) : Res :=
  if port < 64 && (portAt s port).st = 0 && (portAt s port).rst = 0 && gscRuns s then
    .next (installKey (updPort s port fun x => { x with st := 1, rst := 1, txlive := 0xFFFF, rxlive := 0xFFFF }) port)
  else .next s

/-- PORT_DISABLE (R446): a port with a direction that is DOWN goes OFF; what it has sent and was not acknowledged returns to its
queue, as at a slot's end (log entry 157, DEDUCED). -/
def execPortDisable (port : Nat) (s : State) : Res :=
  if port < 64 && ((portAt s port).st = 4 || (portAt s port).rst = 4) && gscRuns s then
    .next (updPort (returnPort s (s.slotCur.getD 0) port) port fun x => { x with st := 0, rst := 0, owed := none })
  else .next s

/-- The capability word of stepping B0 sets bit 0 of FREV and of PREV (R445). -/
def capOwn : Nat := 0x0101

/-- Puts the capability word of this end on an output (R445): FREV only on an optical port. -/
def sendCap (s : State) (k : Nat) : State :=
  { s with out := s.out ++ [(k, leBytes 4 (if k < 32 then capOwn / 256 * 256 else capOwn))] }

/-- LINK_TRAINED (R439, R445, R446): `lanes` are the lanes of a local link, or the live wavelengths of a port; `cap` is the word
that the other end sends, on a local link in its first write. -/
def execLinkTrained (port lanes : Nat) (cap : Word) (s : State) : Res :=
  if s.lrcHold then .next s
  else if port < 64 then
    let p := portAt s port
    if p.st ≠ 1 then .next s
    else
      let s := sendCap s (32 + port)
      if cap.toNat &&& capOwn ≠ capOwn then
        .next (linkEvent (updPort s port fun x => { x with st := 4, rst := 4, rev := 0 })
          4 false false port (portPeer s port) 0 p.txlive 0)
      else if lanes ≠ 16 then .next s
      else .next (linkEvent (updPort s port fun x => { x with
          st := 2, rst := 2, rev := 1, fseq := 0, rseq := 4095, miss := [], beat := 0, again := 0, owed := none
          txlost := 0, rxlost := 0 })
        5 false false port (portPeer s port) 0 p.txlive 0)
  else
    let k := port - 64
    if 31 ≤ k then .next s
    else
      let s := { s with locs := Store.set s.locs k 0 }
      if lanes < 4 then .next s
      else
        let s := sendCap (installKey s (64 + k)) k
        if bit cap.toNat 8 then
          .next (linkEvent { s with locs := Store.set s.locs k 1 } 5 true false k (linkPeer s k) 0 0 0)
        else .next (linkEvent s 4 true false k (linkPeer s k) 0 0 0)

/-- The FSEQ up to which a receiver has accepted every flit (R446). -/
def Port.accepted (x : Port) : Nat :=
  match x.miss.head? with
  | some m => (m + 4095) % 4096
  | none => x.rseq

/-- What one end tells the other in RESTRIPE, on the wavelengths that remain: the live mask and the FSEQ that its receiver last
accepted (R446); in a lease reset it is quiet (R462). -/
def tellLive (s : State) (port mask : Nat) : State :=
  if waves mask < 8 || s.lrcHold then s
  else { s with out := s.out ++ [(32 + port, leBytes 4 ((portAt s port).accepted + mask * 2 ^ 16))] }

/-- LOSS_OF_LIGHT (R446): the transmit monitor or the receiver finds a module's four wavelengths dark. -/
def execLossOfLight (port laser : Nat) (rx : Bool) (s : State) : Res :=
  let p := portAt s port
  let m := moduleMask laser
  if 64 ≤ port || 4 ≤ laser then .next s
  else if rx then
    .next (if p.rst = 2 && (p.rxlive &&& m) ≠ 0 then
      tellLive (updPort s port fun x => { x with
        rst := 3, rxlost := x.rxlive &&& m, rxlive := x.rxlive - (x.rxlive &&& m) }) port (p.rxlive - (p.rxlive &&& m)) else s)
  else
    .next (if p.st = 2 && (p.txlive &&& m) ≠ 0 then
      tellLive (updPort s port fun x => { x with
        st := 3, txlost := x.txlive &&& m, txlive := x.txlive - (x.txlive &&& m) }) port (p.txlive - (p.txlive &&& m)) else s)

/-- Is FSEQ `a` at or before `b` in serial arithmetic modulo 4,096 (R446)? -/
def fseqLe (a b : Nat) : Bool := decide ((b + 4096 - a % 4096) % 4096 < 2048)

/-- Flits up to an FSEQ count as acknowledged (R446). -/
def portAcked (x : Port) (n : Nat) : Port :=
  let rest := x.replay.filter fun e => !fseqLe e.1 n
  { x with replay := rest, again := Nat.min x.again rest.length }

/-- The transmit direction after the exchange (R446). -/
def restripeTx (s : State) (port fseq : Nat) : State :=
  let p := portAcked (portAt s port) fseq
  if waves p.txlive < 8 then
    linkEvent (updPort s port fun x => { x with st := 4 }) 3 false false port (portPeer s port) p.txlost p.txlive 0
  else
    linkEvent (optAdmit (updPort s port fun _ => { p with st := 2, beat := 0, again := p.replay.length, since := s.gt }))
      1 false false port (portPeer s port) p.txlost p.txlive p.replay.length

/-- The receive direction after the exchange. -/
def restripeRx (s : State) (port : Nat) : State :=
  let p := portAt s port
  if waves p.rxlive < 8 then
    linkEvent (updPort s port fun x => { x with rst := 4 }) 3 false true port (portPeer s port) p.rxlost p.rxlive 0
  else linkEvent (updPort s port fun x => { x with rst := 2 }) 1 false true port (portPeer s port) p.rxlost p.rxlive 0

/-- RESTRIPE_DONE (R446): the exchange of the live mask and of the receiver's last accepted FSEQ ends, for the
transmit direction first; in a lease reset this end is quiet, and it does not end (R462). -/
def execRestripeDone (port fseq : Nat) (s : State) : Res :=
  let p := portAt s port
  .next (if s.lrcHold then s else if p.st = 3 then restripeTx s port fseq else if p.rst = 3 then restripeRx s port else s)

/-- Every unacknowledged flit is to be sent again (R446). -/
def resendAll (s : State) (port : Nat) : State :=
  updPort s port fun x => { x with again := x.replay.length, since := s.gt }

/-- FLIT_REPLAY_TIMEOUT (R446): no acknowledgement for 2 µs. -/
def execFlitReplayTimeout (port : Nat) (s : State) : Res :=
  let p := portAt s port
  .next (if p.st = 2 && !p.replay.isEmpty && decide (p.since + 2000 ≤ s.gt) then resendAll s port else s)

/-! Sending (R444, R447, R448, R450). -/

/-- When the transmitter can start, in units of 1/21 gt: none while it is busy beyond this gt. -/
def startAt21 (s : State) (p : Port) : Option Nat :=
  if p.busy < 21 * (s.gt + 1) then some (Nat.max p.busy (21 * s.gt)) else none

/-- Do the guard and the slot's end allow a flit of a time to start (R447)? -/
def slotAllows (s : State) (start time : Nat) : Bool :=
  match s.slotCur with
  | some n => slotsRun s && n == slotNow s && decide (slotBegin s n + s.guard ≤ s.gt) &&
      decide (start + time ≤ 21 * slotBegin s (n + 1))
  | none => false

/-- A flit leaves the port: its bytes and the wavelength of each of its beats (R441, R444). -/
def sendImage (s : State) (port start time : Nat) (f : Flit) (fseq : Nat) : State :=
  let s := { s with out := s.out ++ [(32 + port, f.image (hopKey s port) fseq ++ beatWaves (portAt s port))] }
  updPort s port fun x => { x with busy := start + time, beat := x.beat + 16 }

/-- The link control flit of a port, and its idle flit (R441, R446). -/
def linkControl (s : State) (port : Nat) (w : Word) : Flit := control s 7 (portPeer s port) 0 0 w
def idleFlit (s : State) (port : Nat) : Flit := control s 0 (portPeer s port) 0 0 0#32

/-- The next flit of a queue; in a lease reset only a closing marker goes (R365, R462). -/
def queueNext (s : State) (q : List Flit) : Option Flit := if s.lrcHold then q.find? (closes s) else q.head?

/-- The next data flit of a port in the slot in progress: its queue and the flit, when the budget allows it and
the replay buffer has room (R446, R450). -/
def nextData (s : State) (port : Nat) : Option (Nat × Flit) :=
  match s.slotCur with
  | none => none
  | some n =>
    let e := slotEntry s n port
    let d := slotPeer e
    match queueNext s (Store.get s.optq (optKey (port / 32) d)) with
    | none => none
    | some f =>
      if slotV e && decide ((portAt s port).replay.length < 2048) &&
          (f.urgent || decide (Store.get s.spent d < budgetOf s n d)) then some (d, f) else none

/-- A port with nothing else to send sends an idle flit, in TRAIN and UP (R446, R448). -/
def sendIdle (s : State) (port start time : Nat) : State := sendImage s port start time (idleFlit s port) 0

/-- FLIT_SEND (R446, R448, R450): link control goes first, then flits to be sent again, then the head of the queue
of the chip that the slot connects the port to, else an idle flit. In a lease reset the transmitters are quiet but for the
markers that announce it (R462, R365). -/
def execFlitSend (port : Nat) (s : State) : Res :=
  let p := portAt s port
  let t := flitTime (waves p.txlive)
  match startAt21 s p with
  | none => .next s
  | some b =>
    let inSlot := slotAllows s b t
    let open_ := (p.st = 1 || p.st = 2) && (!slotsRun s || inSlot)
    match (if s.lrcHold then none else p.owed) with
    | some w =>
      if open_ then .next (updPort (sendImage s port b t (linkControl s port w) 0) port fun x => { x with owed := none })
      else .next s
    | none =>
      let idle : Res := .next (if open_ && !s.lrcHold then sendIdle s port b t else s)
      if p.st ≠ 2 || !inSlot then idle
      else if 0 < p.again && !s.lrcHold then
        match p.replay[p.replay.length - p.again]? with
        | some (q, f) =>
          let s := pmcCount s (bridgePmcs (port / 32)) 0x40 1
          .next (updPort (sendImage s port b t f q) port fun x => { x with again := x.again - 1 })
        | none => idle
      else match nextData s port with
        | none => idle
        | some (d, f) =>
          let s := { s with optq := Store.upd s.optq (optKey (port / 32) d) (·.erase f)
                            spent := if f.urgent then s.spent else Store.upd s.spent d (· + 1) }
          .next (updPort (sendImage s port b t f p.fseq) port fun x => { x with
            fseq := (x.fseq + 1) % 4096, replay := x.replay ++ [(p.fseq, f)]
            since := if x.replay.isEmpty then s.gt else x.since })

/-! Receiving (R441, R443, R446). -/

/-- Does the tag of a clear flit verify under a hop's key (R443)? -/
def hopOk (s : State) (h : Nat) (f : Flit) : Bool :=
  f.sealed || f.tag == fit 16 (Config.hopTag (hopKey s h) (f.zeroed ++ f.payload))

/-- The receiver owes link control: the FSEQ it last accepted, with a negative acknowledgement or not. -/
def owe (s : State) (port : Nat) (nak : Bool) : State :=
  updPort s port fun x => { x with
    owed := some (w32 (x.accepted + b2n (nak || (match x.owed with | some w => w.getLsbD 31 | none => false)) * 2 ^ 31)) }

/-- A receiver accepts a flit, unless it has accepted its FSEQ already: in serial arithmetic the 2,048 values after the newest
accepted one are new, and of the others those that were passed over (R446). -/
def Port.accept (x : Port) (q : Nat) : Option Port :=
  let d := (q + 4096 - x.rseq) % 4096
  if 1 ≤ d && d ≤ 2048 then
    let gap := (List.range (d - 1)).map fun i => (x.rseq + 1 + i) % 4096
    some { x with rseq := q, miss := (x.miss ++ gap).filter fun m => decide ((q + 4096 - m) % 4096 < 2048) }
  else if x.miss.contains q then some { x with miss := x.miss.filter (· != q) }
  else none

/-- Is there room for a flit where it goes? One for this chip needs the reorder buffer unless it is the next of its path (R263,
R446). -/
def roomOn (s : State) (f : Flit) : Bool :=
  if f.dst ≠ s.chip then canEmit s f.dst
  else f.urgent || decide (s.rxq.length < Config.reorderFlits) ||
    match pathOf s f.ctx f.src true with
    | some k => f.pseq == (pathAt s k).seqa + 1#32
    | none => true

/-- A link control flit: the cumulative acknowledgement, and a resend on a negative one (R446). -/
def linkControlTaken (s : State) (port : Nat) (w : Word) : State :=
  let s := optAdmit (updPort s port fun x => { portAcked x (w.toNat % 4096) with since := s.gt })
  if w.getLsbD 31 then resendAll s port else s

/-- Is it the guard of the slot in progress, in which a flit of the slot before may still arrive (R447)? -/
def inGuard (s : State) : Bool := match s.slotCur with
  | some n => decide (s.gt < slotBegin s n + s.guard)
  | none => false

/-- FLIT_RECEIVE (R441, R443, R446): a flit with a CRC or tag failure or a reserved KIND is discarded and
raises replay; one already accepted is discarded; one that finds no room is not accepted. One that comes in a guard is taken and
not acknowledged, because the slot that it was sent in is not known (log entry 157, DEDUCED): its sender sends it again, and the
copy is known by its PSEQ (R450). -/
def execFlitReceive (port : Nat) (flit : List Byte) (s : State) : Res :=
  let p := portAt s port
  let f := Flit.ofBytes flit
  if 64 ≤ port || !(p.rst = 1 || p.rst = 2) then .next s
  else if !imageOk flit || !hopOk s port f then .next (if p.rst = 2 then owe s port true else s)
  else if f.kind = 0 then .next s
  else if f.kind = 7 then .next (linkControlTaken s port f.pseq)
  else if p.rst ≠ 2 then .next s
  else if inGuard s then .next (if roomOn s f then emit s f else s)
  else match p.accept (imageFseq flit) with
    | none => .next (owe s port false)
    | some x =>
      if !roomOn s f then .next s
      else .next (owe (emit (updPort s port fun _ => x) f) port (!x.miss.isEmpty))

/-! Local links (R439). -/

/-- A UALink completion error for a request (log entry 28, DESIGN CHOICE). -/
def completionError (tag : Nat) : List Byte := leBytes 4 tag ++ [1#8]

/-- Answers a request with a completion error; in a lease reset the transmitter is quiet (R462). -/
def refuseUalink (s : State) (link tag : Nat) : State :=
  if s.lrcHold then s else { s with out := s.out ++ [(link, completionError tag)] }

/-- UALINK_WRITE_RECEIVE (R439): a flit image of 256 bytes, which the link holds while it finds no room, or a path
acknowledgement of 8 with the chip it comes from where that is not the sender (log entry 22); any other write is another
request. -/
def execUalinkWriteReceive (link : Nat) (flit : List Byte) (s : State) : Res :=
  if !linkUp s link then .next s
  else if flit.length = 256 then
    let f := Flit.ofBytes flit
    .next (if imageOk flit && hopOk s (64 + link) f && decide (1 ≤ f.kind) && decide (f.kind ≤ 6) && roomOn s f
      then emit s f else s)
  else if flit.length = 8 || flit.length = 10 then
    .next (takeFlit s { (control s 4 s.chip (leNat ((flit.drop 4).take 2)) (leNat ((flit.drop 6).take 2) % 256)
                        (w32 (leNat (flit.take 4)))) with
      src := if flit.length = 8 then linkPeer s link else leNat (flit.drop 8) % 1024 })
  else .next (refuseUalink s link 0)

/-- UALINK_OTHER_REQUEST (R439): answered with a completion error, and nothing is applied. -/
def execUalinkOtherRequest (link tag : Nat) (s : State) : Res :=
  .next (if linkUp s link then refuseUalink s link tag else s)

end Sys2Proof.Machine
end

