-- ==== Sys2Proof/Machine/Firmware.lean ====
section
/-! DEFINITION. Firmware command links (R281), probes (R282), leaf controllers (R459, R421), integrity (R464,
R465, R357), the bad-frame register (R458), power and heat (R400, R457, R468), the performance counters (R405)
and the control registers that have no row of their own (R452 to R457, R474). -/

namespace Sys2Proof.Machine

/-- The state a step gives, or the one before. -/
def stateOf (r : Res) (s : State) : State :=
  match r with
  | .next t => t
  | _ => s

/-! Firmware command links (R281): link 2 k goes to LFC k, link 2 k + 1 comes from it. -/

def linkAt (s : State) (l : Nat) : FwLink := Store.get s.fw l
def updLink (s : State) (l : Nat) (f : FwLink → FwLink) : State := { s with fw := Store.upd s.fw l f }

/-- Is LFC k frozen (R421)? -/
def lfcOff (s : State) (k : Nat) : Bool := s.lfcFrozen.contains k

/-- Does LFC k run: its image has been loaded and verified, and it is not frozen (R459, R460)? -/
def lfcRuns (s : State) (k : Nat) : Bool := gscRuns s && s.lfcUp && !lfcOff s k

/-- Do the processors at the sending and at the receiving end of a command link run? -/
def senderRuns (s : State) (l : Nat) : Bool := if l % 2 = 0 then gscRuns s else lfcRuns s (l / 2)
def receiverRuns (s : State) (l : Nat) : Bool := if l % 2 = 0 then lfcRuns s (l / 2) else gscRuns s

/-! The private SRAM of the processors: 0 the GSC, 1 + k LFC k (R459). -/

/-- Does a processor run? -/
def procRuns (s : State) (proc : Nat) : Bool := if proc = 0 then gscRuns s else decide (proc ≤ 32) && lfcRuns s (proc - 1)

/-- The size of its SRAM: 1.5 MiB, or 192 KiB. -/
def sramSize (proc : Nat) : Nat := if proc = 0 then 1572864 else 196608

def sramPut (s : State) (proc a : Nat) (bs : List Byte) : State := { s with sram := Store.setList s.sram (2 ^ 64 * proc + a) bs }
def sramGet (s : State) (proc a n : Nat) : List Byte := (List.range n).map fun i => Store.get s.sram (2 ^ 64 * proc + a + i)

/-- A processor's program moves bytes between its SRAM, from `a` on, and device memory, from `va` on, which it reaches only through
the translation of the firmware context (R459). Which context slot that is, the program says; a byte whose page gives no
access is not moved (log entry 158, DESIGN CHOICE). -/
def firmwareMove (store : Bool) (proc slot va a n : Nat) (s : State) : State :=
  if !procRuns s proc || sramSize proc < a + n then s
  else (List.range n).foldl (fun s i => match resolve s [] slot (va + i) with
    | some (l, pa) =>
      if 2 ≤ l.space || (store && !l.w) then s
      else if store then (performAll s (bytesAt pa (sramGet s proc (a + i) 1))).1
      else sramPut s proc (a + i) [homeByte s pa]
    | none => s) s

/-- Permits a sender has: 8, and the reserve permit while it is in use (R281, R282). -/
def permits (s : State) (l : Nat) : Nat := 8 + b2n (s.reserve.contains (8 * l + 4))

/-- A permit comes back: the receiver frees the oldest message's buffer. -/
def permitBack (s : State) (l : Nat) : State :=
  updLink s l fun x => if x.spent = 0 then x else { x with spent := x.spent - 1, msgs := x.msgs.drop 1 }

/-- FIRMWARE_MESSAGE (R281): a message is delivered in SEQ order and spends a permit; TYPE 0xFF returns one of
the other direction, without spending a permit or counting in SEQ itself (log entry 165, DESIGN CHOICE). A sender without a permit
waits; a frozen LFC, or a processor held in reset, sends nothing. -/
def execFirmwareMessage (link : Nat) (msg : List Byte) (s : State) : Res :=
  let h := leNat (msg.take 8)
  let x := linkAt s link
  if 64 ≤ link || msg.length ≠ 64 || !senderRuns s link then .next s
  else if bits h 47 40 = 0xFF then .next (permitBack s (if link % 2 = 0 then link + 1 else link - 1))
  else if bits h 63 48 ≠ x.seq || 56 < bits h 39 32 then .next s
  else if permits s link ≤ x.spent then .next (updLink s link fun x => { x with want := true })
  else .next (updLink { s with out := s.out ++ [(128 + link, msg)] } link fun x =>
    { x with spent := x.spent + 1, seq := (x.seq + 1) % 2 ^ 16, msgs := x.msgs ++ [msg], want := false })

/-- PERMIT_RETURN (R281): a frozen LFC returns none. -/
def execPermitReturn (link : Nat) (s : State) : Res :=
  .next (if link < 64 && receiverRuns s link then permitBack s link else s)

/-- Freezes an LFC and writes the record (R421, R422). -/
def freezeLfc (s : State) (k cause : Nat) : State :=
  if lfcOff s k then s else violation { s with lfcFrozen := s.lfcFrozen ++ [k] } 5 cause 0 0 0 k

/-- LFC_WATCHDOG (R459, R421): which code of R420's table the record holds is not stated, a free choice (log entry 32, DESIGN
CHOICE). -/
def execLfcWatchdog (k : Nat) (s : State) : Res :=
  .next (if k < 32 && lfcRuns s k then spend (freezeLfc s k (causeAt (freeHere s))) else s)

/-- LFC_RESET (R281, R421): the GSC releases the LFC, and both directions have all permits. -/
def execLfcReset (k : Nat) (s : State) : Res :=
  if 32 ≤ k || !gscRuns s then .next s
  else
    let full (x : FwLink) : FwLink := { x with spent := 0, msgs := [], want := false }
    .next (updLink (updLink { s with lfcFrozen := s.lfcFrozen.filter (· != k) } (2 * k) full) (2 * k + 1) full)

/-! Probes (R282): unit 8 · index + class. Classes: 0 the mailbox of a core, 1 a streamer queue, 2 the fault batch,
3 the egress queue of a path, 4 a command link. -/

/-- Does a producer stall on a full streamer queue: its next word is a copy command or a fence for that queue? -/
def stallsOn (s : State) (c q : Nat) : Bool :=
  !queueRoom s c q && s.groups.any fun g => coreOf g.1 == c && !g.2.saved && g.2.frags.any fun f =>
    (f.2.st == .ready || f.2.st == .handler) && f.2.mid && f.2.wait == .no && (match f.2.code with
      | w :: _ =>
        let op := bits w.toNat 31 24
        (decide (0xB0 ≤ op) && decide (op ≤ 0xB5) && bits w.toNat 17 16 == q) || (op == 0xBA && bit w.toNat (16 + q))
      | [] => false)

/-- The OSD has a descriptor for a core whose mailbox is full: a YIELD, or a job that no core can take. -/
def mailWanted (s : State) (c : Nat) : Bool :=
  s.blocks.any (fun e => e.2.due && e.1 / 4 == c) ||
  s.ops.any fun e => e.2.used && !e.2.drain && opOpc e.2.ins == 1 && (firstReady e.2).isSome && (placeOf s e.1 e.2).isNone &&
    bit (ctxAt s e.2.ctx).mask c && affAllows e.2.ins (c / 128)

/-- Do the homes hold a write for a path (R280)? -/
def pathHeld (s : State) (k : Nat) : Bool :=
  let p := pathAt s k
  p.used && !p.recv && s.hw.any fun r => windowHeld s r && (match windowFate s r with
    | some (_, e, ds, _) => txwCtx e == p.ctx && ds.contains p.peer
    | none => false)

/-! Messages that wait for room on a path (R267, R280): each names a context ID and the chips whose paths it needs. -/

/-- What `n` additions to an event wait for: the owner's chip, or the chips of the subscribers of an own event. -/
def signalWants (s : State) (slot : Nat) (name inc : Word) (n : Nat) : List (Nat × List Nat) :=
  if signalRoom s slot name inc n then []
  else [(ctxidOf s slot, if evChip name = s.chip then subscribersOf s slot (evIdx name) else [evChip name])]

/-- What `n` signals of an operator wait for. -/
def opWants (s : State) (slot ins n : Nat) : List (Nat × List Nat) :=
  if isNone (opSig ins) then [] else signalWants s slot (opSig ins) (opInc ins) n

/-- What the retirement of a point in a slot waits for. -/
def retireWants (s : State) (n : Nat) : List (Nat × List Nat) :=
  let x := opAt s n
  opWants s x.ctx x.ins (b2n (opSigpt x.ins) + b2n (opSigend x.ins))

/-- What the command of a streamer waits for at its end (R288). -/
def cmdWants (s : State) (m : Cmd) : List (Nat × List Nat) :=
  if m.isCopy && m.moved && decide (m.time < s.gt) && !recWaiting s (m.g, 8 + m.pend) && m.fault.isNone && m.op != 0xB2 then
    signalWants s (gAt s m.g).ctx m.ev 1#32 1
  else []

/-- What the command of a Skiver waits for at its end (R388). -/
def kvWants (s : State) (m : KvCmd) : List (Nat × List Nat) :=
  if m.acc && m.perf && decide (m.time < s.gt) && !recWaiting s (m.g, 8 + m.pend) && m.op == 0xE3 then
    signalWants s m.ctx (w32 (m.reg 5)) 1#32 1
  else []

/-- What a tensor copy engine waits for: the result of its migration (R220), or the retirement of its copy (R308). -/
def tceWants (s : State) (k : Nat) : List (Nat × List Nat) :=
  let m := migAt s k
  if m.phase = 5 then (if m.time < s.gt then signalWants s m.slot (w32 m.event) (w32 m.result) 1 else [])
  else match tceHead s k with
    | some c =>
      if (opAt s c.slot).points.any fun p => p.l == c.l && p.st == .taken && p.perf && decide (p.time < s.gt) then retireWants s c.slot else []
    | none => []

/-- What the OSD waits for in a stream: the signal of a recorded operator (R305), or that of an OPPIN it decodes. -/
def streamWants (s : State) (slot k : Nat) (x : Stream) : List (Nat × List Nat) :=
  (match s.pops.find? fun p => p.ctx == slot && p.stream == k with
    | some p => if earlierDone s slot k p.num then opWants s slot p.ins 1 else []
    | none => []) ++
  if x.st ≠ 1 || x.ti = x.hi then []
  else match opFetch s slot k with
    | some ins => if opOpc ins == 8 && opSigend ins && opFault s slot ins == 0 then opWants s slot ins 1 else []
    | none => []

/-- What the EVSIG or MBXDONE of a fragment waits for once its fence is over (R320, R323). -/
def fragWants (s : State) (g f : Nat) : List (Nat × List Nat) :=
  match (fragAt s g f).wait with
  | .fence _ _ _ _ _ after x y =>
    if after == 0 || !(fenceRound s g f).2 then []
    else if after == 1 then signalWants s (gAt s g).ctx x y 1
    else match jobOf s (blkOf g) x with
      | some (n, _) => retireWants s n
      | none => []
  | _ => []

/-- What the groups of a core wait for. -/
def coreWants (s : State) (c : Nat) : List (Nat × List Nat) :=
  (s.groups.filter fun e => coreOf e.1 == c).flatMap fun e => e.2.frags.flatMap fun f => fragWants s e.1 f.1

/-- What the receiver of a path waits for: the event message next on it is reflected to the subscribers, or answered (R313, R371). -/
def rxWants (s : State) (k : Nat) : List (Nat × List Nat) :=
  let p := pathAt s k
  match p.used && p.recv && decide (p.st < 2), slotOfCtx s p.ctx with
  | true, some slot =>
    (match nextMsg s k 1 with
      | some (_, idx, v) => match osdAccess s slot idx true with
        | .ok _ e => if v == 0#32 || evMirror e || subsRoom s slot idx e 1 then [] else [(p.ctx, subscribersOf s slot idx)]
        | .bad _ => []
      | none => []) ++
    (match nextMsg s k 3 with
      | some (_, _, v) => if v == 0#32 || egressRoom s p.ctx [p.peer] 1 then [] else [(p.ctx, [p.peer])]
      | none => [])
  | _, _ => []

/-- Every wait of a group, an engine, the OSD or a receiver for room on a path. -/
def pathWants (s : State) : List (Nat × List Nat) :=
  s.strq.flatMap (fun e => e.2.flatMap (cmdWants s)) ++ s.kvq.flatMap (fun e => e.2.flatMap (kvWants s)) ++
  (List.range 32).flatMap (tceWants s) ++ s.streams.flatMap (fun e => streamWants s (e.1 / 64) (e.1 % 64) e.2) ++
  s.groups.flatMap (fun e => e.2.frags.flatMap fun f => fragWants s e.1 f.1) ++ s.paths.flatMap fun e => rxWants s e.1

/-- Is a send path among those that some waits name? -/
def pathNamed (s : State) (k : Nat) (ws : List (Nat × List Nat)) : Bool :=
  let p := pathAt s k
  p.used && !p.recv && ws.any fun w => w.1 == p.ctx && w.2.contains p.peer

/-- The send paths, as units, that some waits name. -/
def namedPaths (s : State) (ws : List (Nat × List Nat)) : List Nat :=
  if ws.isEmpty then [] else (s.paths.filter fun p => pathNamed s p.1 ws).map fun p => 8 * p.1 + 3

/-- Is a unit blocked on its full queue? -/
def probeBlocked (s : State) (u : Nat) : Bool :=
  let i := u / 8
  match u % 8 with
  | 0 => !mailRoom s i && mailWanted s i
  | 1 => stallsOn s (i / 4) (i % 4)
  | 2 => i == 0 && !s.fq.waiting.isEmpty
  | 3 => pathHeld s i || ((pathAt s i).used && !(pathAt s i).recv && pathNamed s i (pathWants s))
  | 4 => decide (permits s i ≤ (linkAt s i).spent) && (linkAt s i).want
  | _ => false

/-- Is a queue's occupancy at its depth still? -/
def probeFull (s : State) (u : Nat) : Bool :=
  let i := u / 8
  match u % 8 with
  | 0 => decide (16 ≤ (mailOf s i).length)
  | 1 => decide (32 ≤ (strQueue s (i / 4) (i % 4)).length)
  | 2 => decide (512 ≤ s.fq.opened.length + s.fq.held)
  | 3 => !egressRoom { s with reserve := [] } (pathAt s i).ctx [(pathAt s i).peer] 1
  | _ => decide (8 ≤ (linkAt s i).spent)

/-- Reserve entries return to their class once the queue's occupancy falls below its depth (R282). -/
def settleReserve (s : State) : State :=
  if s.reserve.isEmpty then s else { s with reserve := s.reserve.filter fun u => probeFull s u }

/-- 4,096 ck in gt. -/
def probeTime : Nat := 2048

/-- PROBE_TIMEOUT (R282): a unit found blocked is looked at again; found blocked 4,096 ck later it sends its token
(log entry 33, DEDUCED). -/
def execProbeTimeout (u : Nat) (s : State) : Res :=
  if !probeBlocked s u then .next { s with blocked := Store.set s.blocked u 0 }
  else
    let t := Store.get s.blocked u
    if t = 0 then .next { s with blocked := Store.set s.blocked u (s.gt + 1) }
    else if s.gt + 1 < t + probeTime || s.probes.any fun p => p.origin == u then .next s
    else .next { s with probes := s.probes ++ [⟨u, u, 0⟩], blocked := Store.set s.blocked u (s.gt + 1) }

/-- One emergency admission of the origin into the queue it is blocked on (R282). -/
def emergency (s : State) (u : Nat) : State :=
  let c := u % 8
  if s.reserve.any fun r => r % 8 == c then s
  else
    let s := pmcCount { s with reserve := s.reserve ++ [u]
                               emerg := Store.upd s.emerg c fun n => Nat.min (n + 1) 0xFFFFFFFF } (bridgePmcs 0) 0x41 1
    if c = 2 then acceptWaiting s 1 else s

/-- Send paths of a context slot that the homes hold writes for. -/
def heldPaths (s : State) (slot : Nat) : List Nat :=
  (s.paths.filter fun p => p.2.ctx == ctxidOf s slot && pathHeld s p.1).map fun p => 8 * p.1 + 3

/-- The queues on which the unit that drains a queue is blocked itself (R282): the groups of a core take its mailbox's
entries, a streamer its queue's commands, the processor at a link's end its messages; the driver drains the fault batches
and the reflector the paths. -/
def probeNext (s : State) (u : Nat) : List Nat :=
  let i := u / 8
  let recs (k : Nat × Nat → Bool) : List Nat := if s.fq.waiting.any fun r => r.own.any k then [2] else []
  match u % 8 with
  | 0 =>
    ([0, 1, 2, 3].filter (stallsOn s i)).map (fun q => 8 * (4 * i + q) + 1) ++ recs (fun o => coreOf o.1 == i) ++
      distinct ((distinct ((s.blocks.filter fun e => e.2.present && e.1 / 4 == i).map (·.2.ctx))).flatMap (heldPaths s) ++
        namedPaths s (coreWants s i))
  | 1 =>
    let ms := (strQueue s (i / 4) (i % 4)).filter (·.active)
    recs (fun o => ms.any fun m => o == (m.g, 8 + m.pend)) ++ namedPaths s (ms.flatMap (cmdWants s))
  | 4 => if probeBlocked s (8 * (i + 1 - 2 * (i % 2)) + 4) then [8 * (i + 1 - 2 * (i % 2)) + 4] else []
  | _ => []

/-- PROBE_TOKEN (R282): a token of unit `u` passes along every queue on which the unit that drains its holder's queue is
blocked; an unblocked holder, or the 64th hop, drops it; back at its origin it makes one emergency admission. -/
def execProbeToken (u : Nat) (s : State) : Res :=
  match s.probes.find? fun p => p.origin == u with
  | none => .next s
  | some p =>
    let rest := s.probes.takeWhile (· != p) ++ (s.probes.dropWhile (· != p)).drop 1
    if !probeBlocked s p.at_ || 64 ≤ p.hops then .next { s with probes := rest }
    else
      let to_ := probeNext s p.at_
      let s := { s with probes := rest ++ (to_.filter (· != u)).map fun v => ⟨u, v, p.hops + 1⟩ }
      .next (if to_.contains u then emergency s u else s)

/-! Bad frames and errors (R357 to R359, R458, R464, R465). -/

/-- Is the list full (R358)? -/
def badFull (s : State) : Bool := decide (4096 ≤ s.bad.length)

/-- An entry of the current lease (R359). -/
def badPut (s : State) (reason frame : Nat) : State :=
  if badFrame s frame || badFull s then s else { s with bad := s.bad ++ [⟨true, false, reason, frame⟩] }

/-- The last tier-0 frame (R344). -/
def lastFrame : Nat := 8388599

/-- The status that a BFAPP command leaves (R458): DUP is that of the last append. -/
def bfstatOf (busy refused dup : Bool) : Nat := b2n busy + 2 * b2n refused + 4 * b2n dup

/-- A BFAPP command with OP `op` (R458), written by the GSC: ignored while BUSY; refused on a non-zero reserved bit. -/
def bfapp (s : State) (op : Nat) (v : Nat) : State :=
  let reason := bits v 55 52
  let frame := bits v 35 0
  let reserved := bits v 61 56 ≠ 0 || bits v 51 36 ≠ 0
  let dup := bit s.bfstat 2
  if bit s.bfstat 0 || bits v 63 62 ≠ op || !gscRuns s then s
  else match op with
    | 0 =>
      let listed := badFrame s frame
      let refused := reserved || badFull s || reason = 0 || 4 < reason || lastFrame < frame
      if refused || listed then { s with bfstat := bfstatOf false refused listed }
      else { badPut s reason frame with bfstat := 1 }
    | 1 =>
      if reserved then { s with bfstat := bfstatOf false true dup }
      else { s with bad := s.bad.map fun b => { b with pend := false }, bfstat := bfstatOf true false dup }
    | 2 =>
      if reserved then { s with bfstat := bfstatOf false true dup }
      else { s with bad := s.bad.filter fun b => !b.pend, bfstat := bfstatOf true false dup }
    | _ => { s with bfstat := bfstatOf false reserved dup }

/-- The four commands of BFAPP (R458). -/
def execBfappAppend (v : Quad) (s : State) : Res := .next (bfapp s 0 v.toNat)
def execBfappCommit (v : Quad) (s : State) : Res := .next (bfapp s 1 v.toNat)
def execBfappDiscard (v : Quad) (s : State) : Res := .next (bfapp s 2 v.toNat)
def execBfappNop (v : Quad) (s : State) : Res := .next (bfapp s 3 v.toNat)

/-- BFAPP_FLASH_DONE (R458): BUSY clears. -/
def execBfappFlashDone (s : State) : Res := .next { s with bfstat := s.bfstat / 2 * 2 }

/-- ECC_CORRECTED (R464, R457): a tier-0 frame that reaches CETHR is appended with reason 2. -/
def execEccCorrected (frame : Nat) (s : State) : Res :=
  let n := Store.get s.ecc frame + 1
  let s := { s with ecc := Store.set s.ecc frame n }
  .next (if s.cethr ≠ 0 && decide (s.cethr ≤ n) && decide (frame ≤ lastFrame) then badPut s 2 frame else s)

/-- A frame enters the fault-address queue (R357, R456). -/
def faqPut (s : State) (tier frame : Nat) : State :=
  let n := (s.faqTail - s.faqHead).toNat
  let ks := (List.range (Nat.min n 64)).map fun i => (s.faqHead.toNat + i) % 64
  match ks.find? fun k => (Store.get s.faq k).tier == tier && (Store.get s.faq k).frame == frame with
  | some k => { s with faq := Store.upd s.faq k fun e => { e with count := Nat.min (e.count + 1) 255 } }
  | none =>
    if 64 ≤ n then { s with faqOvf := Nat.min (s.faqOvf + 1) 0xFFFFFFFF }
    else interrupt { s with faq := Store.set s.faq (s.faqTail.toNat % 64) ⟨s.gt, 1, tier, frame⟩
                            faqTail := s.faqTail + 1#32 } 4

/-- Does an access of a group lie where an error was met: in a frame or a line of the L2 (`lineInError`), or, for tier 2, in a
bank of the core's local store, which holds scratch words and lines of the block's L1? A thread that NRZ excused reads no data
(R229). -/
def inError (s : State) (g tier frame : Nat) (p : Pend) (a : Acc) : Bool :=
  if a.zero then false
  else if p.scratch then tier == 2 && a.pa / 49152 == 32 * coreOf g + frame
  else if tier = 2 then (lineBanks s (blkOf g)).contains frame && holdsLine s (blkOf g) (lineOf a.pa) frame
  else lineInError s tier frame (lineOf a.pa)

/-- Data with an uncorrectable error is never delivered (R246): what the group's pending reads have still to deliver of it they
no longer deliver, and an atomic that has still to read it is not performed (log entry 133, DESIGN CHOICE). -/
def dropError (s : State) (g tier frame : Nat) : State :=
  let hit (r : HomeReq) : Bool := lineInError s tier frame (r.dest.getD r.line)
  let reads (p : Pend) : Bool := p.kind == .load || p.kind == .atomic || p.kind == .scaleq || p.kind == .amax
  let drop (p : Pend) : Pend :=
    if reads p then { p with accs := p.accs.map fun a => if inError s g tier frame p a then { a with got := true, put := allRegs } else a }
    else p
  let ids := ((gAt s g).pend.filter fun p => p.kind == .load).map (·.id)
  let s := { s with hw := s.hw.filter fun r => !(r.kind != .masked && r.own.any (·.1 == g) && hit r) }
  ids.foldl (fun s id => finishLoad s g id) (updG s g fun x => { x with pend := x.pend.map drop })

/-- The consuming group is frozen (R246, R465). -/
def groupError (s : State) (g tier frame : Nat) : State :=
  if !(gAt s g).present then s
  else
    let pc := match liveFrags (gAt s g) with
      | i :: _ => (Store.get (gAt s g).frags i).pc
      | [] => 0#64
    rdvDrop (freezeGroup (dropError s g tier frame) g cUNCORRECTABLE pc 0#32) g

/-- The ACTIVE command of a streamer queue that reads ends with UNCORRECTABLE and its block's queue freezes (R300, R421); the record
holds the address that it read from (R422). -/
def queueError (s : State) (c q : Nat) : State :=
  match (strQueue s c q).find? fun m => m.active && m.isCopy && !m.moved && !m.unclaimed with
  | none => s
  | some m =>
    let s := updB (cmdFault s c q m cUNCORRECTABLE) m.blk fun b =>
      { b with qfrz := if bit b.qfrz q then b.qfrz else b.qfrz + 2 ^ q }
    violation s 1 cUNCORRECTABLE (ctxidOf s (gAt s m.g).ctx) (m.rowSrc s + m.chunkSrc.1) q (4 * c + q)

/-- An error in the RFL for a path's context (R363, R365): the receive path is refused with reason 8, and every send
record of the context tells its peer. -/
def pathError (s : State) (k : Nat) : State :=
  let p := pathAt s k
  if !p.used then s
  else
    let s := if p.recv && p.st ≤ 1 then
        downReceive (violation s 2 cRX_REFUSED p.ctx 0 (p.peer + 8 * 2 ^ 20) k) k
      else s
    s.paths.foldl (fun s e =>
      if e.2.used && !e.2.recv && e.2.ctx == p.ctx then emit s (control s 6 e.2.peer e.2.ctx e.2.gen e.2.seqa)
      else s) s

/-- The accepted command of a Skiver completes frozen; an eviction is BROKEN (R388, R421). -/
def skiverError (s : State) (die : Nat) : State :=
  match (Store.get s.kvq die).find? fun m => m.acc && !m.perf with
  | none => s
  | some m =>
    let k := kvStart s m
    let k := if m.op = 0xE3 then
        k.upd (m.pair 0) 64 fun d => putBits (putBits (putBits d 447 416 (3 * 2 ^ 30)) 364 364 1) 362 362 0
      else k
    violation (updKv k.s die m.id fun m => { m with perf := true, time := k.time }) 3 cUNCORRECTABLE
      (ctxidOf s m.ctx) (m.pair 0) 0 die

/-- The copy at the head of a tensor copy engine's queue ends faulted (R308). -/
def copyError (s : State) (t : Nat) : State :=
  match tceHead s t with
  | some c =>
    if c.mig then s
    else updPoint (tceNext s t) c.slot c.l fun p => { p with perf := true, flt := true, time := s.gt }
  | none => s

/-- The migration in hand, or the copy, of a tensor copy engine ends faulted (R220, R308, R421); the record holds the address
that it copied from (R422). -/
def tceError (s : State) (t : Nat) : State :=
  let m := migAt s t
  let record (s : State) (slot addr : Nat) : State := violation s 4 cUNCORRECTABLE (ctxidOf s slot) addr 0 t
  if m.phase = 2 || m.phase = 3 then record (migStop s t 3) m.slot (paOf m.stier m.sframe 0)
  else match tceHead s t with
    | some c =>
      if tceIdle s t && !c.mig then record (copyError s t) (opAt s c.slot).ctx (copySrc (opAt s c.slot) c.l) else s
    | none => s

/-- UNCORRECTABLE (R465): `kind` names the consuming master as a violation record does, 6 the OSD reading the ring
of a stream, 7 the OSD at an event table of a context slot, whose next access there is then dropped (R310; log entry 168, DEDUCED); `tier` 0 or 1 gives
the frame, 2 a bank of the group's core, 3 a line of the L2, another value an error elsewhere. -/
def execUncorrectable (kind unit frame tier : Nat) (s : State) : Res :=
  let s := if tier ≤ 1 then faqPut s tier frame else s
  .next (match kind with
    | 0 => groupError s unit tier frame
    | 1 => queueError s (unit / 4) (unit % 4)
    | 2 => pathError s unit
    | 3 => skiverError s unit
    | 4 => tceError s unit
    | 5 => if unit < 32 then freezeLfc s unit cUNCORRECTABLE else s
    | 6 => if (streamAt s (unit / 64) (unit % 64)).st = 1 then streamError s (unit / 64) (unit % 64) 3 else s
    | _ => { s with evBad := s.evBad ++ [(unit, tier, frame)] })

/-! Heat and power (R400, R457, R468). -/

/-- PTA_POOL_WRITE (R400): the pool changes, grants stand. -/
def ptaPool (v : Quad) (s : State) : Res := .next { s with pool := v.toNat % 2 ^ 13 }

/-- TJHOT_EXCEEDED (R457, R468): a die's hottest sensor; a compute die beyond TJHOT sets HOT, and setting it
signals vector 5. -/
def execTjhotExceeded (die temp : Nat) (s : State) : Res :=
  if 6 ≤ die then .next s
  else
    let s := { s with therm := Store.set s.therm die (temp % 2 ^ 12) }
    .next (if die < 4 && s.tjhot < temp % 2 ^ 12 && !bit s.thstat 0 then interrupt { s with thstat := 1 } 5 else s)

/-- 110 °C in steps of 0.25 °C. -/
def tripTemp : Nat := 440

/-- THERMAL_TRIP (R468): every core and firmware processor is held in reset. -/
def execThermalTrip (die temp : Nat) (s : State) : Res :=
  if 6 ≤ die || temp < tripTemp then .next s
  else .next (interrupt { s with therm := Store.set s.therm die (temp % 2 ^ 12), tripHold := true } 5)

/-- PMC_WRAP (R405): an enabled counter at its last value counts once more. -/
def execPmcWrap (k : Nat) (s : State) : Res :=
  let x := Store.get s.pmc k
  .next (if bit x.sel 31 && x.count == 2 ^ 48 - 1 then pmcAdd s k 1 else s)

/-! Control registers (R452 to R457, R474). A write of 4 or 8 bytes, aligned; other sizes are ignored (log entry
34, PRESUMED). -/

/-- The words of an 8-byte place that a write carries. -/
structure Lanes where
  lo : Option Word
  hi : Option Word
deriving DecidableEq, Repr, Inhabited

def lanes (off size : Nat) (v : Quad) : Lanes :=
  let a := w32 v.toNat
  if size = 8 && off % 8 = 0 then ⟨some a, some (w32 (v.toNat / 2 ^ 32))⟩
  else if size = 4 && off % 8 = 0 then ⟨some a, none⟩
  else if size = 4 && off % 8 = 4 then ⟨none, some a⟩
  else ⟨none, none⟩

/-- A 64-bit register after the write. -/
def Lanes.over (l : Lanes) (old : Quad) : Quad :=
  w64 ((l.lo.getD (w32 old.toNat)).toNat + (l.hi.getD (w32 (old.toNat / 2 ^ 32))).toNat * 2 ^ 32)

/-- A field takes a value in its range, else stays (R474). -/
def ranged (ok : Nat → Bool) (new old : Nat) : Nat := if ok new then new else old

/-- A ring base that R279 admits. -/
def baseOk (v : Nat) : Bool := decide (v / 2 ^ 52 = 0) && decide (bits v 51 50 ≤ 2)

/-- The registers of a record ring, at place `r` of its block (log entry 34, PRESUMED): 0 BASE, 8 LOG and TAIL, 16 HEAD and
the overflow count. -/
def ringRegs (s : State) (k r : Nat) (l : Lanes) : State :=
  let x := ringOf s k
  match r with
  | 0 =>
    let b := l.over x.base
    if baseOk b.toNat then setRing s k { x with base := b } else s
  | 8 => match l.lo with
    | some w => setRing s k { x with log := ranged (fun n => decide (6 ≤ n) && decide (n ≤ 16)) w.toNat x.log }
    | none => s
  | 16 =>
    let s := match l.lo with
      | some w =>
        if k = 0 then stateOf (fqhead w s) s
        else if k = 1 then stateOf (vrhead w s) s
        else stateOf (lerhead w s) s
      | none => s
    match l.hi with
    | some w => if k = 0 then s else setRing s k { ringOf s k with ovf := w.toNat }
    | none => s
  | _ => s

/-- The region at 0x01_0000 (R454): the rings at 0x00, 0x40 and 0x80, FQTMR and FQCNT at 0x18, FAQHEAD and FAQOVF
at 0xC0. -/
def queueRegs (s : State) (r : Nat) (l : Lanes) : State :=
  if r = 0x18 then
    let tmr (n : Nat) : Bool := decide (1000 ≤ n) && decide (n ≤ 1000000)
    let cnt (n : Nat) : Bool := decide (1 ≤ n) && decide (n ≤ 512)
    { s with fq := { s.fq with
        tmr := (l.lo.map fun w => ranged tmr w.toNat s.fq.tmr).getD s.fq.tmr
        cnt := (l.hi.map fun w => ranged cnt w.toNat s.fq.cnt).getD s.fq.cnt } }
  else if r = 0xC0 then { s with faqHead := l.lo.getD s.faqHead, faqOvf := (l.hi.map (·.toNat)).getD s.faqOvf }
  else if r < 0xC0 then ringRegs s (r / 0x40) (r % 0x40) l
  else s

/-- The region at 0x02_0000 (R457); CETHR and the thermal registers only by the GSC (R454). -/
def powerRegs (s : State) (r : Nat) (l : Lanes) (gsc : Bool) : State :=
  match r, l.lo, l.hi with
  | 0x00, some w, _ => stateOf (ptaPool (w64 w.toNat) s) s
  | 0x08, some w, _ => { s with ptmo := ranged (fun n => decide (10000 ≤ n) && decide (n ≤ 100000000)) w.toNat s.ptmo }
  | 0x10, some w, _ => { s with apbase := ranged (fun n => decide (n / 2 ^ 14 = 0)) (w.toNat % 2 ^ 16) s.apbase }
  | 0x18, some w, _ => if gsc then { s with cethr := w.toNat % 2 ^ 16 } else s
  | 0x40, some w, h =>
    if gsc then
      let s := { s with tjhot := ranged (fun n => decide (340 ≤ n) && decide (n ≤ 400)) (w.toNat % 2 ^ 12) s.tjhot }
      match h with
      | some h => if h.getLsbD 0 then { s with thstat := 0 } else s
      | none => s
    else s
  | 0x40, none, some h => if gsc && h.getLsbD 0 then { s with thstat := 0 } else s
  | _, _, _ => s

/-- SLOTCTL (R447, R448, R474): its fields only while EN is 0; then SWAP and EN. -/
def slotctl (s : State) (v : Nat) : State :=
  let s' := if s.slotEn then s
    else
      let len := ranged (fun n => decide (1000 ≤ n) && decide (n ≤ 10000000)) (bits v 47 24) s.slotlen
      { s with slotlen := len, guard := ranged (fun n => decide (n < len)) (bits v 23 8) s.guard, nslot := bits v 7 2 }
  slotEnWrite (if bit v 1 then swapOn s' else s') (bit v 0)

/-- SLOTCTL as it reads (R447). -/
def slotctlImage (s : State) : Quad := w64 (b2n s.slotEn + s.nslot * 2 ^ 2 + s.guard * 2 ^ 8 + s.slotlen * 2 ^ 24)

/-- The region at 0x03_0000 (R447, R449): SLOTCTL, EPOCH, and the SHADOW entries from 0x4000 on, 4 bytes each. -/
def slotRegs (s : State) (r : Nat) (l : Lanes) : State :=
  let ent (s : State) (i : Nat) (w : Option Word) : State :=
    match w with
    | some w => { s with slotShd := Store.set s.slotShd i (w.toNat &&& 0x83FFFFFF) }
    | none => s
  if r = 0 then slotctl s (l.over (slotctlImage s)).toNat
  else if r = 8 then (if s.slotEn then s else { s with epoch := (l.over (w64 s.epoch)).toNat })
  else if 0x4000 ≤ r && r < 0x8000 then ent (ent s ((r - 0x4000) / 4) l.lo) ((r - 0x4000) / 4 + 1) l.hi
  else s

/-- Does a write of CTXCTL act in a state (R407, R408)? One of LAUNCH, RESUME and PRE alone where R407 has a row, KILL with
any others but in OFF, or no command. -/
def ctxctlActs (st : Nat) (w : Word) : Bool :=
  let act := bits w.toNat 3 0
  act == 0 || (w.getLsbD 3 && st != 0) || (act == 1 && (st == 0 || st == 3)) || (act == 4 && st == 3) || (act == 2 && st == 1)

/-- CTXCTL (R406 to R408): CTXID in OFF and SAVED, then the command; any other write is ignored. -/
def ctxctl (s : State) (c : Nat) (w : Word) : State :=
  let st := (ctxAt s c).st
  if !ctxctlActs st w then s
  else
    let s := if st = 0 || st = 3 then updCtx s c fun x => { x with ctxid := bits w.toNat 31 16 } else s
    if w.getLsbD 3 then stateOf (ctxKill c s) s
    else if w.getLsbD 1 then stateOf (ctxPreempt c s) s
    else if w.getLsbD 2 then stateOf (ctxResume c s) s
    else if w.getLsbD 0 then stateOf (ctxLaunch c s) s
    else s

/-- The page of a context slot (R406). An address takes any value: its stated multiple is no range of R474, and R410 refuses
a misaligned LHDR or CORES (log entry 116, DEDUCED). Only a whole write of INVHI acts (log entry 159, DESIGN CHOICE). -/
def ctxRegs (s : State) (c r : Nat) (l : Lanes) : State :=
  let x := ctxAt s c
  let free := decide (x.st = 0) || decide (x.st = 3)
  let set (f : Ctx → Ctx) : State := if free then updCtx s c f else s
  match r with
  | 0x000 => (match l.lo with
    | some w => ctxctl s c w
    | none => s)
  | 0x008 => set fun x => { x with ptroot := l.over x.ptroot }
  | 0x010 => set fun x => { x with lhdr := l.over x.lhdr }
  | 0x018 => set fun x => { x with cores := l.over x.cores }
  | 0x020 => set fun x => { x with evbase := l.over x.evbase }
  | 0x028 =>
    let s := match l.lo with
      | some w => set fun x => { x with evlog := ranged (fun n => decide (n ≤ 22)) (w.toNat % 32) x.evlog }
      | none => s
    match l.hi with
    | some w => if w = 0#32 then s else updCtx s c fun x => { x with deadln := w.toNat }
    | none => s
  | 0x030 => set fun x => { x with savebase := l.over x.savebase }
  | 0x038 => set fun x => { x with savesz := l.over x.savesz }
  | 0x100 => updCtx s c fun x => { x with invlo := l.over x.invlo }
  | 0x108 => (match l.lo, l.hi with
    | some _, some _ => stateOf (invhiPost c (l.over 0#64) s) s
    | _, _ => s)
  | 0x110 => (match l.lo with
    | some w => if w.getLsbD 1 then updCtx s c fun x => { x with invref := false } else s
    | none => s)
  | 0x200 => (match l.lo with
    | some w => stateOf (queueRelease c w s) s
    | none => s)
  | _ => s

/-- A counter's registers: its count, and the select word at offset 8 (R405). -/
def pmcRegs (s : State) (k r : Nat) (l : Lanes) : State :=
  let x := Store.get s.pmc k
  if r = 0 then { s with pmc := Store.set s.pmc k { x with count := (l.over (w64 x.count)).toNat % 2 ^ 48 } }
  else match l.lo with
    | some w =>
      let v := w.toNat
      let ovf := bit x.sel 30 && !bit v 30
      { s with pmc := Store.set s.pmc k { x with
          sel := bits v 15 0 + b2n (bit v 29) * 2 ^ 29 + b2n ovf * 2 ^ 30 + b2n (bit v 31) * 2 ^ 31 } }
    | none => s

/-- The EMERG counters, beside the counters of bridge die 0, 4 bytes a class (R282, R393; log entry 34, PRESUMED). -/
def emergRegs (s : State) (k : Nat) (l : Lanes) : State :=
  let put (s : State) (k : Nat) (w : Option Word) : State :=
    match w with
    | some w => if k < 5 then { s with emerg := Store.set s.emerg k w.toNat } else s
    | none => s
  put (put s k l.lo) (k + 1) l.hi

/-- The MSI-X region (R454, R456): the table, and at 0x800 the pending bits, cleared by writing 1, but that the GSC signals
vector 7 by writing 1 to its bit (log entry 34, PRESUMED). -/
def msixRegs (s : State) (r : Nat) (l : Lanes) (gsc : Bool) : State :=
  let put (s : State) (i : Nat) (w : Option Word) : State :=
    match w with
    | some w => { s with msixTab := Store.set s.msixTab i w }
    | none => s
  let ones (i : Nat) : Bool := bit (l.lo.getD 0#32).toNat i
  if r < 0x80 then put (put s (r / 4) l.lo) (r / 4 + 1) l.hi
  else if r = 0x800 then
    let kept (i : Nat) : Bool := bit s.msix i && !(ones i && !(gsc && i == 7))
    let s' := { s with msix := (List.range 8).foldl (fun m i => m + b2n (kept i) * 2 ^ i) 0 }
    if gsc && ones 7 then interrupt s' 7 else s'
  else s

/-- May a master write at an offset of BAR0 (R454)? Masters: 0 the host, 1 the GSC, 2 + k LFC k. -/
def mayWrite (off master : Nat) : Bool :=
  let h := decide (master ≤ 1)
  if off < 0x1000 then false
  else if off < 0x30000 then h
  else if off < 0x40000 then master == 1
  else if off < 0x110000 then h
  else if off < 0x120000 then h || (off < 0x112000 && master == 2 + (off - 0x110000) / 0x100)
  else if off < 0x300000 then master == 1
  else false

/-- A write of BAR0 (R453, R454). Only a whole write of BFAPP acts (R458; log entry 159, DESIGN CHOICE). -/
def bar0 (s : State) (off : Nat) (l : Lanes) (gsc : Bool) : State :=
  if off < 0x10000 then msixRegs s (off - 0x1000) l gsc
  else if off < 0x20000 then queueRegs s (off - 0x10000) l
  else if off < 0x30000 then powerRegs s (off - 0x20000) l gsc
  else if off < 0x40000 then slotRegs s (off - 0x30000) l
  else if off < 0x80000 then ctxRegs s ((off - 0x40000) / 0x1000) ((off - 0x40000) % 0x1000) l
  else if off < 0x100000 then s
  else if off < 0x100200 then
    (if off % 0x100 < 0x80 then pmcRegs s (512 + 8 * ((off - 0x100000) / 0x100) + off % 0x100 / 16) (off % 16) l
      else if off < 0x1000A0 then emergRegs s ((off - 0x100080) / 4) l else s)
  else if 0x110000 ≤ off && off < 0x112000 then pmcRegs s ((off - 0x110000) / 16) (off % 16) l
  else if off = 0x200000 then
    let v := l.over 0#64
    match l.lo, l.hi with
    | some _, some _ => bfapp s (bits v.toNat 63 62) v.toNat
    | _, _ => s
  else s

/-- CTL of a stream (R268, R270): PRIO and LOGSZ only while OFF; a reset comes before an enable. -/
def streamCtl (s : State) (c k : Nat) (w : Word) : State :=
  let s := if (streamAt s c k).st = 0 then
      updStream s c k fun x => { x with prio := bits w.toNat 21 19, logsz := ranged (fun n => decide (4 ≤ n) && decide (n ≤ 20)) (bits w.toNat 18 14) 4 }
    else s
  let s := if w.getLsbD 1 then stateOf (streamReset c k s) s else s
  if w.getLsbD 0 then stateOf (streamEnable c k s) s else s

/-- A write of BAR2 (R453, R268). -/
def bar2 (s : State) (off : Nat) (l : Lanes) : State :=
  let c := off / 4096
  let k := off % 4096 / 64
  let x := streamAt s c k
  match off % 64 with
  | 0x00 => (match l.lo, l.hi with
    | some _, some _ => stateOf (streamTail c k (l.over 0#64) s) s
    | _, _ => s)
  | 0x18 =>
    let v := l.over x.sbase
    if x.st = 0 then updStream s c k fun x => { x with sbase := v } else s
  | 0x20 =>
    let v := l.over x.shadow
    if x.st = 0 then updStream s c k fun x => { x with shadow := v } else s
  | 0x28 => (match l.lo with
    | some w => streamCtl s c k w
    | none => s)
  | _ => s

/-- The key slots (R368), written by the GSC as a register file of their own, number 8: 64 bytes a slot, the key, the
id at 0x20, the owning context slot at 0x28 (log entry 34, PRESUMED). Slot 0 holds nothing. -/
def keyRegs (s : State) (off : Nat) (l : Lanes) : State :=
  let k := off / 64
  let r := off % 64
  let upd (f : Key → Key) : State := { s with keys := Store.upd s.keys k f }
  if k = 0 || 64 ≤ k then s
  else if r < 0x20 then
    upd fun x =>
      let old := bits x.key (8 * r + 63) (8 * r)
      { x with key := x.key - old * 2 ^ (8 * r) + (l.over (w64 old)).toNat * 2 ^ (8 * r) }
  else if r = 0x20 then upd fun x => { x with kid := l.lo.getD x.kid }
  else if r = 0x28 then upd fun x => { x with owner := (l.lo.map fun w => w.toNat % 64 + 1).getD x.owner }
  else s

/-- The placement table of an LFC (R317), number 9, written only by it: 4 bytes a slot (log entry 34, PRESUMED). -/
def placeRegs (s : State) (cl off : Nat) (l : Lanes) : State :=
  let put (s : State) (i : Nat) (w : Option Word) : State :=
    match w with
    | some w => if i < 64 then { s with placeOff := Store.set s.placeOff (64 * cl + i) (0xFFFF - w.toNat % 2 ^ 16) } else s
    | none => s
  put (put s (off / 8 * 2) l.lo) (off / 8 * 2 + 1) l.hi

/-- Can a master write now: a firmware processor that is held in reset or frozen writes nothing (R421, R460, R462, R468)? -/
def masterRuns (s : State) (master : Nat) : Bool :=
  master == 0 || (if master = 1 then gscRuns s else lfcRuns s (master - 2))

/-- A write of a control register (R452 to R457, R474): a write that R454 does not allow is ignored, and a record is written when its
master is an LFC. -/
def registerWrite (bar off size : Nat) (v : Quad) (master : Nat) (s : State) : Res :=
  let l := lanes off size v
  let place := off / 8 * 8
  let none_ := l.lo.isNone && l.hi.isNone
  if !masterRuns s master then .next s
  else .next (match bar with
    | 0 =>
      if !mayWrite off master then (if 2 ≤ master then violation s 5 cREG_REFUSED 0 off v.toNat (master - 2) else s)
      else if none_ then s
      else bar0 s place l (master == 1)
    | 2 => if master ≤ 1 && off < 0x40000 && !none_ then bar2 s place l else s
    | 8 => if master = 1 && !none_ then keyRegs s place l else s
    | 9 => if 2 ≤ master && master < 34 && !none_ then placeRegs s (master - 2) place l else s
    | _ => s)

end Sys2Proof.Machine
end

