-- ==== Sys2Proof/Machine/Boot.lean ====
section
/-! DEFINITION. Power, boot and manifests (R460, R461), the lease reset (R462, R463) and the management port
(R467). -/

namespace Sys2Proof.Machine

/-! Power (R460, R462). -/

/-- The part with every volatile item at its reset value: SCRUBPEND, the bad-frame list and the SVN floors lie in
flash, the chip index is fixed, and the model's own fields go on. -/
def freshState (s : State) : State :=
  { State.reset with
    chip := s.chip, bad := s.bad, scrubPend := s.scrubPend, svn := s.svn
    fresh := s.fresh, agenda := s.agenda, nextId := s.nextId }

/-- LOSS_OF_POWER (R462). -/
def execLossOfPower (s : State) : Res := .next { freshState s with power := false }

/-! Manifests (R461). A manifest is given with the images that it names, one behind the other in the order of the image table. -/

/-- Some bytes of the identity record's sources (R455): ROMVER, FUSEVER, SERIAL and OWNKH. -/
def idRomver : List Byte := (List.range 4).map fun i => Config.fuse i
def idFusever : List Byte := (List.range 4).map fun i => Config.fuse (4 + i)
def idSerial : List Byte := (List.range 8).map fun i => Config.fuse (8 + i)
def idOwnkh : List Byte := (List.range 48).map fun i => Config.fuse (16 + i)

def sigRsa : Nat := 384
def sigSlh : Nat := 16224

/-- Fields of a manifest. -/
def manClass (m : List Byte) : Nat := leNat ((m.drop 3).take 1)
def manSvn (m : List Byte) : Nat := leNat ((m.drop 4).take 4)
def manNimg (m : List Byte) : Nat := leNat ((m.drop 8).take 4)
def manTable (m : List Byte) : List Byte := (m.drop 256).take (64 * manNimg m)

/-- Entry i of the image table, and its target: 0 GSC, 1 LFC, 2 recovery. -/
def manEntry (m : List Byte) (i : Nat) : List Byte := (m.drop (256 + 64 * i)).take 64
def manTarget (m : List Byte) (i : Nat) : Nat := leNat ((manEntry m i).drop 60 |>.take 1)

/-- Has a manifest an image for a target? -/
def manHas (m : List Byte) (t : Nat) : Bool := (List.range (manNimg m)).any fun i => manTarget m i == t

/-- The length of a manifest, and the bytes of image i behind it. -/
def manLen (m : List Byte) : Nat := 256 + 64 * manNimg m + sigRsa + sigSlh
def manSize (m : List Byte) (i : Nat) : Nat := leNat ((manEntry m i).drop 56 |>.take 4)
def manImage (m : List Byte) (i : Nat) : List Byte :=
  (m.drop ((List.range i).foldl (fun n j => n + manSize m j) (manLen m))).take (manSize m i)

/-- An entry of the image table: a target of the three, and zeros behind it (R461). -/
def entryOk (m : List Byte) (i : Nat) : Bool := decide (manTarget m i ≤ 2) && leNat ((manEntry m i).drop 61) == 0

/-- The header's and the table's checks (R461, R466). A target-2 image needs KEYCLASS 0. -/
def manShape (m : List Byte) : Bool :=
  leNat (m.take 2) == 0x4D46 && leNat ((m.drop 2).take 1) == 1 && decide (manClass m ≤ 1) &&
  decide (1 ≤ manNimg m) && decide (manNimg m ≤ 33) && leNat ((m.drop 12).take 4) == 0 && leNat ((m.drop 64).take 192) == 0 &&
  m.length == (List.range (manNimg m)).foldl (fun n j => n + manSize m j) (manLen m) &&
  (List.range (manNimg m)).all (entryOk m) && (manClass m == 0 || !manHas m 2) &&
  (m.drop 16).take 48 == Config.sha384 (manTable m)

/-- What a check of a signature looks at: which key (0 the owner's, 1 the tenant's), OWNKH or the tenant key, the signed bytes
and the signature. -/
def signed (cls : Nat) (key bs sig : List Byte) : Bool := Config.verifies (leBytes 1 cls ++ key ++ bs ++ sig)

/-- Both signatures under a key class (R461): the owner's keys are those whose joint SHA-384 is OWNKH. -/
def bothSigned (s : State) (cls : Nat) (bs sigs : List Byte) : Bool :=
  let key := if cls = 1 then s.tenantKey else idOwnkh
  (cls == 0 || !s.tenantKey.isEmpty) && signed cls key bs (sigs.take sigRsa) && signed cls key bs (sigs.drop sigRsa)

/-- Is a manifest accepted: its shape, both signatures, the SVN floor of its class (R461)? -/
def manOk (s : State) (m : List Byte) : Bool :=
  let n := 256 + 64 * manNimg m
  manShape m && bothSigned s (manClass m) (m.take n) ((m.drop n).take (sigRsa + sigSlh)) &&
  decide (Store.get s.svn (manClass m) ≤ manSvn m)

/-- The images of a target, and whether each has the SHA-384 of its entry (R460, R461). -/
def manImages (m : List Byte) (t : Nat) : List Nat := (List.range (manNimg m)).filter fun i => manTarget m i == t
def imagesOk (m : List Byte) (t : Nat) : Bool :=
  (manImages m t).all fun i => Config.sha384 (manImage m i) == (manEntry m i).take 48

/-- The part of the image table that names LFC images (R467). -/
def manLfc (m : List Byte) : List Byte := (manImages m 1).flatMap (manEntry m)

/-- An image is put into the private SRAM of a processor, 0 the GSC and 1 + k LFC k, at its load address (R459, R461), as far as the
SRAM reaches (log entry 158, DESIGN CHOICE). -/
def loadImage (s : State) (m : List Byte) (proc i : Nat) : State :=
  let at_ := leNat ((manEntry m i).drop 48 |>.take 8)
  sramPut s proc at_ ((manImage m i).take (sramSize proc - at_))

/-- The GSC image loads and verifies the LFC images, LFC k taking the k-th or the last, and then releases the LFCs and the cores
(R460; log entry 147, DESIGN CHOICE). -/
def loadLfcs (s : State) (m : List Byte) : State :=
  let is_ := manImages m 1
  if !imagesOk m 1 then s
  else
    let s := { s with lfcUp := true }
    if is_.isEmpty then s
    else (List.range 32).foldl (fun s k => loadImage s m (k + 1) (is_.getD (Nat.min k (is_.length - 1)) 0)) s

/-- An image runs on the GSC (R460, R467). -/
def runImage (s : State) (m : List Byte) (k : Nat) : State :=
  let s := (manImages m (if k = 1 then 0 else 2)).foldl (fun s i => loadImage s m 0 i) s
  loadLfcs { s with image := k, manHash := Config.sha384 (m.take (manLen m)), lfcHash := Config.sha384 (manLfc m) } m

/-- May the recovery image boot: only under KEYCLASS 0 (R461)? -/
def recoverOk (s : State) (m : List Byte) : Bool := manOk s m && manClass m == 0 && manHas m 2 && imagesOk m 2

/-- The recovery image raises the floors to its SVN (R461, log entry 35, DEDUCED). If it fails the GSC halts with vector 7 pending
(R460). -/
def bootRecovery (s : State) (m : List Byte) : State :=
  if recoverOk s m then
    { runImage s m 2 with svn := [0, 1].foldl (fun v c => Store.upd v c fun n => Nat.max n (manSvn m)) s.svn }
  else interrupt { s with image := 3 } 7

/-- The boot that loads the bad-frame list (R359). -/
def loadBad (s : State) : State := { s with bad := s.bad.filter fun b => !(b.pend && b.old) }

/-- May the GSC image of a manifest boot (R460, R461; log entry 104, DEDUCED)? -/
def bootOk (s : State) (m : List Byte) : Bool := manOk s m && manHas m 0 && imagesOk m 0

/-- Boot from step 3 on (R460). -/
def boot (s : State) (m rec_ : List Byte) : State :=
  let s := loadBad s
  if bootOk s m then runImage s m 1 else bootRecovery s rec_

/-! The lease reset (R462, R463). -/

/-- The paths of every context go SHUT; open send paths tell their peers (R365, R462). -/
def shutPaths (s : State) : State :=
  s.paths.foldl (fun s e =>
    if e.2.used && decide (e.2.st ≤ 1) then
      if e.2.recv then updPath s e.1 fun p => { p with st := 3 }
      else closeSend (if e.2.st = 1 then emit s (control s 5 e.2.peer e.2.ctx e.2.gen e.2.seqa) else s) e.1 3
    else s) s

/-- A request with its nonce is accepted, or counted while a reset is under way (R462). -/
def leaseRequest (s : State) (nonce : Nat) : State :=
  if s.lrcHold then { s with reqcnt := s.reqcnt + 1 }
  else shutPaths { s with scrubPend := true, lrcHold := true, lrcStart := s.gt, lrcNonce := nonce, reqcnt := 0 }

/-- LRST_N (R462): with the nonce that NONCE wrote last, or zero. -/
def execLrstN (s : State) : Res := .next (if s.power then leaseRequest s s.nonce else s)

/-- POWER_ON (R460, R401): with SCRUBPEND set the lease reset comes first. -/
def execPowerOn (manifest recovery : List Byte) (s : State) : Res :=
  if s.power && (s.image != 0 || s.lrcHold) then .next s
  else
    let s := if s.power then s else { freshState s with power := true }
    .next (if s.scrubPend then leaseRequest s s.nonce else boot s manifest recovery)

/-- The identity record (R455). -/
def idRecord : List Byte :=
  leBytes 4 0x10B09512 ++ List.replicate 4 0#8 ++ idOwnkh.take 8 ++ idRomver ++ idFusever ++ idSerial ++ List.replicate 32 0#8

/-- Bytes written and verified in a domain (R463): as stated for a fault-free part, else free (log entry 36, DESIGN CHOICE). -/
def scrubBytes (s : State) (clean : Bool) (d : Nat) : Nat :=
  match d with
  | 0 => if clean then 824633720832 else Config.freeNat s.fresh % 2 ^ 64
  | 1 => if clean then 201326592 else Config.freeNat (s.fresh + 1) % 2 ^ 64
  | 2 => if clean then 805306368 else Config.freeNat (s.fresh + 2) % 2 ^ 64
  | 3 => if clean then 536870912 + Config.freeNat (s.fresh + 3) % 2 ^ 32 else Config.freeNat (s.fresh + 3) % 2 ^ 64
  | d => Config.freeNat (s.fresh + d) % 2 ^ 64

/-- Free bytes that stand for a signature under the device keys (log entry 3, DESIGN CHOICE). -/
def freeBytes (s : State) (n : Nat) : List Byte := (List.range n).map fun i => Config.freeByte (s.fresh + i)

/-- The first 256 bytes of the scrub record (R463). -/
def scrubHead (s : State) (mismatch : Nat) : List Byte :=
  leBytes 2 0x5352 ++ [1#8] ++ leBytes 1 (b2n (mismatch != 0)) ++ leBytes 4 s.reqcnt ++ leBytes 8 s.lrcStart ++ leBytes 8 s.gt ++
  leBytes 32 s.lrcNonce ++ (List.range 7).flatMap (fun d => leBytes 8 (scrubBytes s (mismatch == 0) d)) ++ leBytes 8 mismatch ++
  idRomver ++ idFusever ++ idSerial ++ [0xB0#8] ++ List.replicate 7 0#8 ++ idOwnkh ++ List.replicate 64 0#8

/-- SCRUB_COMPLETE (R462, R463): every domain of the part reads zero and every table has its reset value; what survives is
the time base, the bad-frame list with the HBM frames that failed, the SVN floors; far and host memory are no domain.
`mismatch` lists the failing words by frame, a number beyond the last frame standing for another domain. -/
def execScrubComplete (mismatch : List Nat) (recovery : List Byte) (s : State) : Res :=
  if !s.lrcHold then .next s
  else
    let record := scrubHead s mismatch.length ++ freeBytes { s with fresh := s.fresh + 7 } (sigRsa + sigSlh)
    let t := freshState s
    let t := { t with
      gt := s.gt, fresh := s.fresh + 7 + sigRsa + sigSlh, mem := s.mem.filter fun e => paSpace e.1 != 0
      scrubRec := record, scrubPend := false }
    let t := loadBad t
    let t := { t with bad := t.bad.map fun b => { b with old := b.pend } }
    let t := mismatch.foldl (fun t f => if f ≤ lastFrame then badPut t 1 f else t) t
    let t := { t with bad := t.bad.map fun b => { b with old := b.pend } }
    .next (bootRecovery t recovery)

/-! The management port (R467). Its messages are those of the standards; the model gives each response as its code and
the content that the manual names (log entry 37, PRESUMED). -/

/-- SPDM response codes (DSP0274). -/
def spdmError (code : Nat) : List Byte := [0x7F#8] ++ leBytes 1 code

/-- The packets of a message, each of at most one transmission unit (R467). -/
def packets (unit : Nat) (bs : List Byte) : List (List Byte) :=
  (List.range ((bs.length + unit - 1) / unit)).map fun i => (bs.drop (unit * i)).take unit

/-- A message of an MCTP type leaves the management port in packets, each announced by an in-band interrupt under its dynamic
address where it has one (R467). -/
def sendMctp (s : State) (type : Byte) (bs : List Byte) : State :=
  { s with out := s.out ++ (packets s.mgmt.unit (type :: bs)).flatMap fun p =>
      (if s.i3c = 0 then [] else [(99, leBytes 1 s.i3c)]) ++ [(97, p)] }

/-- An SPDM message (R467). -/
def answer (s : State) (bs : List Byte) : State := sendMctp s 5#8 bs

/-- A message of the session leaves sealed with AES-256-GCM under the session's key and the number of the message (R467; log
entry 4, DESIGN CHOICE). -/
def answerSealed (s : State) (bs : List Byte) : State :=
  sendMctp { s with mgmt := { s.mgmt with gone := s.mgmt.gone + 1 } } 6#8 (Config.sealGcm s.mgmt.key (2 * s.mgmt.gone + 1) [] bs)

/-- A sealed message of the session has come. -/
def Mgmt.met (m : Mgmt) : Mgmt := { m with came := m.came + 1 }

/-- What opening a sealed message of the session gives: nothing where its tag fails (R467; log entry 4, DESIGN CHOICE). -/
def openSealed (s : State) (bs : List Byte) : Option (List Byte) :=
  if Config.verifies (leBytes 32 s.mgmt.key ++ leBytes 12 (2 * s.mgmt.came) ++ bs) then some (Config.openGcm s.mgmt.key (2 * s.mgmt.came) bs)
  else none

/-- The transmission unit is negotiated with the bus owner (R467). -/
def setMctpUnit (s : State) (n : Nat) : State := if s.power && decide (64 ≤ n) && decide (n ≤ 256) then { s with mgmt := { s.mgmt with unit := n } } else s

/-- Bytes a response may have before it is sent in chunks, and the size of a chunk. -/
def chunkSize : Nat := 1024

/-- A response; a large one is kept for CHUNK_GET and announced by the error LargeResponse. -/
def respond (s : State) (bs : List Byte) : State :=
  if bs.length ≤ chunkSize then answer s bs else answer { s with chunkOut := bs } (spdmError 0x0F)

/-- A response that ends in a signature over the transcript under the device key, in free bytes. -/
def respondSigned (s : State) (bs : List Byte) : State :=
  respond { s with fresh := s.fresh + sigRsa + sigSlh } (bs ++ freeBytes s (sigRsa + sigSlh))

/-- Is the port alive: the part has power (R460)? -/
def portLive (s : State) : Bool := s.power

/-- A response where the protocol is at a stage, else the error UnexpectedRequest. -/
def spdm (s : State) (ready : Bool) (f : State → State) : Res :=
  .next (if !portLive s then s else if ready then f s else answer s (spdmError 0x04))

/-- NONCE (R467): a vendor request sets the nonce. -/
def execNonce (v : BitVec 256) (s : State) : Res :=
  spdm s true fun s => answer { s with nonce := v.toNat } [0x7E#8, 0x01#8]

/-- The signed bytes of a vendor request, and whether both owner signatures hold. -/
def reqBody (req : List Byte) : List Byte := req.take (req.length - sigRsa - sigSlh)
def reqSigned (s : State) (code : Nat) (req : List Byte) : Bool :=
  decide (sigRsa + sigSlh < req.length) &&
  bothSigned s 0 (leBytes 1 code ++ reqBody req) (req.drop (req.length - sigRsa - sigSlh))

/-- LEASE_RESET (R462, R467): over a 32-byte nonce. -/
def execLeaseReset (req : List Byte) (s : State) : Res :=
  spdm s true fun s =>
    if reqSigned s 2 req && (reqBody req).length == 32 then
      leaseRequest (answer s [0x7E#8, 0x02#8]) (leNat (reqBody req))
    else answer s (spdmError 0x01)

/-- TENANT_KEY (R461, R467). -/
def execTenantKey (req : List Byte) (s : State) : Res :=
  spdm s true fun s =>
    if reqSigned s 3 req then answer { s with tenantKey := reqBody req } [0x7E#8, 0x03#8] else answer s (spdmError 0x01)

/-- GET_VERSION (R467): 1.2 and 1.3; it starts the connection afresh. -/
def execGetVersion (s : State) : Res :=
  spdm s true fun s =>
    answer { s with spdmVer := true, spdmAlg := false, session := 0, chunkIn := [], chunkNext := 0, chunkOut := [] }
      [0x04#8, 0x12#8, 0x13#8]

/-- The capability flags (R467): CERT, CHAL, MEAS with signature, MEAS_FRESH, ENCRYPT, MAC, KEY_EX, HBEAT, CHUNK. -/
def capFlags : Nat := 2 ^ 1 + 2 ^ 2 + 2 * 2 ^ 3 + 2 ^ 5 + 2 ^ 6 + 2 ^ 7 + 2 ^ 9 + 2 ^ 13 + 2 ^ 17

def execGetCapabilities (s : State) : Res := spdm s s.spdmVer fun s => answer s (0x61#8 :: leBytes 4 capFlags)

/-- NEGOTIATE_ALGORITHMS (R467): the offered ones of the six that the part supports, bits 0 to 5 in the order of R467; a
requester that offers none gets an error. -/
def execNegotiateAlgorithms (offer : Word) (s : State) : Res :=
  spdm s s.spdmVer fun s =>
    let o := offer.toNat % 64
    if o = 0 then answer s (spdmError 0x01) else answer { s with spdmAlg := true } (0x63#8 :: leBytes 4 o)

/-- Byte i of the certificate chain of slot 0, which the part carries (log entry 5, DESIGN CHOICE). -/
def certByte (i : Nat) : Byte := Config.fuse (4096 + i)

/-- The digest of the chain. -/
def certDigest : List Byte := (List.range 48).map fun i => Config.fuse (64 + i)

def execGetDigests (s : State) : Res := spdm s s.spdmAlg fun s => answer s ([0x01#8, 0x01#8] ++ certDigest)

/-- GET_CERTIFICATE (R467): slot 0 only. -/
def execGetCertificate (certSlot off len : Nat) (s : State) : Res :=
  spdm s s.spdmAlg fun s =>
    if certSlot = 0 then respond s ([0x02#8, 0x00#8] ++ (List.range (Nat.min len 65535)).map fun i => certByte (off + i))
    else answer s (spdmError 0x01)

/-- CHALLENGE (R467): a signed response. -/
def execChallenge (certSlot : Nat) (v : BitVec 256) (s : State) : Res :=
  spdm s s.spdmAlg fun s =>
    if certSlot = 0 then respondSigned s ([0x03#8, 0x00#8] ++ certDigest ++ leBytes 32 v.toNat)
    else answer s (spdmError 0x01)

/-- A measurement (R467). -/
def measurement (s : State) (idx : Nat) : Option (List Byte) :=
  match idx with
  | 1 => some idRomver
  | 2 => some idFusever
  | 3 => some s.manHash
  | 4 => some s.lfcHash
  | 0xF0 => some s.scrubRec
  | _ => none

/-- GET_MEASUREMENTS (R467): index 0 asks for their number, 0xFF for all. -/
def execGetMeasurements (idx : Nat) (v : BitVec 256) (s : State) : Res :=
  spdm s s.spdmAlg fun s =>
    let all := [1, 2, 3, 4, 0xF0]
    let block (i : Nat) : List Byte := leBytes 1 i ++ (measurement s i).getD []
    if idx = 0 then respondSigned s ([0x60#8, 0x05#8] ++ leBytes 32 v.toNat)
    else if idx = 0xFF then respondSigned s ([0x60#8] ++ all.flatMap block ++ leBytes 32 v.toNat)
    else match measurement s idx with
      | some _ => respondSigned s ([0x60#8] ++ block idx ++ leBytes 32 v.toNat)
      | none => answer s (spdmError 0x01)

/-- KEY_EXCHANGE (R467): a session is being made; the exchange data and the session's key are free. -/
def execKeyExchange (req : List Byte) (s : State) : Res :=
  spdm s s.spdmAlg fun s =>
    if s.session != 0 || req.isEmpty then answer s (spdmError 0x01)
    else respondSigned { s with session := 1, mgmt := ⟨s.mgmt.unit, Config.freeNat (s.fresh + 96), 0, 0⟩, fresh := s.fresh + 97 }
      ([0x64#8] ++ freeBytes s 96)

/-- FINISH (R467), sealed in the session that is being made: the session stands once its check data verifies. -/
def execFinish (req : List Byte) (s : State) : Res :=
  spdm s (s.session == 1) fun s => match openSealed s req with
    | some m =>
      if Config.verifies m then answerSealed { s with session := 2, mgmt := s.mgmt.met } [0x65#8]
      else answerSealed { s with session := 0, mgmt := s.mgmt.met } (spdmError 0x06)
    | none => answer { s with session := 0 } (spdmError 0x06)

/-- HEARTBEAT (R467), a message of the session. -/
def execHeartbeat (s : State) : Res :=
  spdm s (s.session == 2) fun s => answerSealed { s with mgmt := s.mgmt.met } [0x68#8]

/-- END_SESSION (R467), the session's last message. -/
def execEndSession (s : State) : Res :=
  spdm s (s.session == 2) fun s => answerSealed { s with session := 0, mgmt := s.mgmt.met } [0x6C#8]

/-- A large request, once whole: a vendor request, KEY_EXCHANGE or FINISH (log entry 37, PRESUMED, for the codes). -/
def largeRequest (req : List Byte) (s : State) : Res :=
  match req with
  | 0xFE#8 :: 0x01#8 :: bs => execNonce (BitVec.ofNat 256 (leNat (bs.take 32))) s
  | 0xFE#8 :: 0x02#8 :: bs => execLeaseReset bs s
  | 0xFE#8 :: 0x03#8 :: bs => execTenantKey bs s
  | 0xE4#8 :: bs => execKeyExchange bs s
  | 0xE5#8 :: bs => execFinish bs s
  | c :: _ => .next (answer s (spdmError 0x07 ++ [c]))
  | [] => .next (answer s (spdmError 0x01))

/-- CHUNK_SEND (R467): chunks come in order; the last completes the large request, which is then carried out. -/
def execChunkSend (seq : Nat) (last : Bool) (chunk : List Byte) (s : State) : Res :=
  spdm s s.spdmVer fun s =>
    if seq ≠ s.chunkNext then answer { s with chunkIn := [], chunkNext := 0 } (spdmError 0x01)
    else
      let req := (if seq = 0 then [] else s.chunkIn) ++ chunk
      if last then
        let s := answer { s with chunkIn := [], chunkNext := 0 } (0x05#8 :: leBytes 2 seq)
        stateOf (largeRequest req s) s
      else answer { s with chunkIn := req, chunkNext := seq + 1 } (0x05#8 :: leBytes 2 seq)

/-- CHUNK_GET (R467): chunk `seq` of the large response that is kept; after the last one it is gone. -/
def execChunkGet (seq : Nat) (s : State) : Res :=
  spdm s s.spdmVer fun s =>
    let part := (s.chunkOut.drop (chunkSize * seq)).take chunkSize
    if part.isEmpty then answer s (spdmError 0x01)
    else
      let last := decide (s.chunkOut.length ≤ chunkSize * (seq + 1))
      answer { s with chunkOut := if last then [] else s.chunkOut } ([0x06#8] ++ leBytes 1 (b2n last) ++ leBytes 2 seq ++ part)

/-- UNSUPPORTED_REQUEST (R467): the standard's error response; `code` is a request code with the MCTP message type above bit 8:
control (0), SPDM (5) or secured SPDM (6), in a session answered sealed; a message of another type is dropped. -/
def execUnsupportedRequest (code : Nat) (s : State) : Res :=
  let err := spdmError 0x07 ++ leBytes 1 code
  .next (if !portLive s then s
    else match code / 256 with
      | 0 => sendMctp s 0#8 (leBytes 1 code ++ [0x05#8])
      | 5 => answer s err
      | 6 => if s.session = 0 then answer s err else answerSealed { s with mgmt := s.mgmt.met } err
      | _ => s)

/-- The 48-bit Provisioned ID (R467): the low 32 bits of SERIAL below 16 bits of the part (log entry 5, DESIGN CHOICE). -/
def provisionedId : List Byte := idSerial.take 4 ++ (List.range 2).map fun i => Config.fuse (112 + i)

/-- ENTDAA (R467): the part shows its Provisioned ID and takes a dynamic address while it has none. -/
def execEntdaa (addr : BitVec 7) (s : State) : Res :=
  .next (if s.power && s.i3c == 0 then { s with i3c := addr.toNat, out := s.out ++ [(97, provisionedId)] } else s)

/-- SETDASA (R467): from static address 0x5C. -/
def execSetdasa (stat addr : BitVec 7) (s : State) : Res :=
  .next (if s.power && s.i3c == 0 && stat == 0x5C#7 then { s with i3c := addr.toNat } else s)

/-- SET_ENDPOINT_ID (R467): the control message is answered with its completion code, the status, the EID and a pool of none; EIDs
0 and 0xFF name no endpoint and are invalid data. -/
def execSetEndpointId (eid : Byte) (s : State) : Res :=
  .next (if !portLive s then s
    else if eid = 0#8 || eid = 0xFF#8 then sendMctp s 0#8 [0x01#8, 0x02#8]
    else sendMctp { s with eid := eid.toNat } 0#8 [0x01#8, 0x00#8, 0x00#8, eid, 0x00#8])

end Sys2Proof.Machine
end

