-- ==== Sys2Proof/Machine/HostLink.lean ====
section
/-! DEFINITION. The host link: posted writes in their order (R259), accesses of device memory (R452, R453), and what the
control registers read as (R5, R452 to R457). -/

namespace Sys2Proof.Machine

/-! What registers read as (R5). A read of a place without a register gives zero. -/

/-- Two 32-bit fields side by side. -/
def pairOf (lo hi : Nat) : Nat := lo % 2 ^ 32 + hi % 2 ^ 32 * 2 ^ 32

/-- Eight bytes of a list. -/
def eightOf (bs : List Byte) (o : Nat) : Nat := leNat ((bs.drop o).take 8)

/-- A record ring's registers (R279, R422, R451). -/
def ringImage (x : RecRing) (r : Nat) : Nat :=
  match r with
  | 0x00 => x.base.toNat
  | 0x08 => pairOf x.log x.tail.toNat
  | 0x10 => pairOf x.head.toNat x.ovf
  | _ => 0

/-- An entry of the fault-address queue (R357). -/
def FaqEnt.image (e : FaqEnt) : Nat := e.frame % 2 ^ 36 + e.tier * 2 ^ 36 + e.count * 2 ^ 48 + e.time % 2 ^ 64 * 2 ^ 64

/-- The queue region: rings, FQTMR and FQCNT, FAQHEAD, FAQOVF and FAQTAIL, and from 0x400 on the queue window, 16 bytes an
entry (R357, R454; log entry 34, PRESUMED, for the offsets). -/
def queueImage (s : State) (r : Nat) : Nat :=
  if r = 0x18 then pairOf s.fq.tmr s.fq.cnt
  else if r = 0xC0 then pairOf s.faqHead.toNat s.faqOvf
  else if r = 0xC8 then s.faqTail.toNat
  else if r < 0xC0 then ringImage (ringOf s (r / 0x40)) (r % 0x40)
  else if 0x400 ≤ r && r < 0x800 then
    let e := (Store.get s.faq ((r - 0x400) / 16)).image
    if r % 16 = 0 then e % 2 ^ 64 else e / 2 ^ 64
  else 0

/-- The power region (R400, R457). -/
def powerImage (s : State) (r : Nat) : Nat :=
  let th (d : Nat) : Nat := Store.get s.therm d
  match r with
  | 0x00 => pairOf (s.pool + (s.pool - s.grant) * 2 ^ 16) s.grant
  | 0x08 => s.ptmo
  | 0x10 => s.apbase
  | 0x18 => s.cethr
  | 0x20 => pairOf (th 0) (th 1)
  | 0x28 => pairOf (th 2) (th 3)
  | 0x30 => pairOf (th 4) (th 5)
  | 0x40 => pairOf s.tjhot s.thstat
  | _ => 0

/-- The slot region (R447, R449): SHADOW from 0x4000 on, ACTIVE from 0x8000 on. -/
def slotImage (s : State) (r : Nat) : Nat :=
  let ent (m : Store Nat) (i : Nat) : Nat := pairOf (Store.get m i) (Store.get m (i + 1))
  if r = 0 then (slotctlImage s).toNat
  else if r = 8 then s.epoch
  else if 0x4000 ≤ r && r < 0x8000 then ent s.slotShd ((r - 0x4000) / 4)
  else if 0x8000 ≤ r && r < 0xC000 then ent s.slotAct ((r - 0x8000) / 4)
  else 0

/-- A context's page (R406). -/
def ctxImage (s : State) (c r : Nat) : Nat :=
  let x := ctxAt s c
  match r with
  | 0x000 => x.st * 2 ^ 4 + x.cause * 2 ^ 8 + x.ctxid % 2 ^ 16 * 2 ^ 16
  | 0x008 => x.ptroot.toNat
  | 0x010 => x.lhdr.toNat
  | 0x018 => x.cores.toNat
  | 0x020 => x.evbase.toNat
  | 0x028 => pairOf x.evlog x.deadln
  | 0x030 => x.savebase.toNat
  | 0x038 => x.savesz.toNat
  | 0x110 => b2n (s.invs.any fun i => i.slot == c + 1) + 2 * b2n x.invref
  | _ => 0

/-- A performance counter (R405). -/
def pmcImage (s : State) (k r : Nat) : Nat := if r = 0 then (Store.get s.pmc k).count else (Store.get s.pmc k).sel

/-- Eight bytes of BAR0 (R454). -/
def bar0Image (s : State) (off : Nat) : Nat :=
  if off < 0x1000 then eightOf idRecord off
  else if off < 0x1080 then pairOf (Store.get s.msixTab ((off - 0x1000) / 4)).toNat (Store.get s.msixTab ((off - 0x1000) / 4 + 1)).toNat
  else if off = 0x1800 then s.msix
  else if off < 0x10000 then 0
  else if off < 0x20000 then queueImage s (off - 0x10000)
  else if off < 0x30000 then powerImage s (off - 0x20000)
  else if off < 0x40000 then slotImage s (off - 0x30000)
  else if off < 0x80000 then ctxImage s ((off - 0x40000) / 0x1000) ((off - 0x40000) % 0x1000)
  else if off < 0x100000 then 0
  else if off < 0x100200 then
    (if off % 0x100 < 0x80 then pmcImage s (512 + 8 * ((off - 0x100000) / 0x100) + off % 0x100 / 16) (off % 16)
      else if off < 0x1000A0 then
        pairOf (Store.get s.emerg ((off - 0x100080) / 4)) (Store.get s.emerg ((off - 0x100080) / 4 + 1))
      else 0)
  else if 0x110000 ≤ off && off < 0x112000 then pmcImage s ((off - 0x110000) / 16) (off % 16)
  else if off = 0x200000 then s.bfstat
  else if 0x300000 ≤ off then eightOf s.scrubRec (off - 0x300000)
  else 0

/-- Eight bytes of BAR2: the registers of a stream (R268). -/
def bar2Image (s : State) (off : Nat) : Nat :=
  let x := streamAt s (off / 4096) (off % 4096 / 64)
  match off % 64 with
  | 0x08 => pairOf x.ti.toNat x.lseq.toNat
  | 0x10 => x.hi.toNat
  | 0x18 => x.sbase.toNat
  | 0x20 => x.shadow.toNat
  | 0x28 => x.logsz * 2 ^ 14 + x.prio * 2 ^ 19 + x.st * 2 ^ 22 + x.cause * 2 ^ 24
  | _ => 0

/-- Bytes of a register space. -/
def imageBytes (img : Nat → Nat) (off n : Nat) : List Byte :=
  (List.range n).map fun i => BitVec.ofNat 8 (img ((off + i) / 8 * 8) / 2 ^ (8 * ((off + i) % 8)))

/-- What a read of the host gives: BAR0 at 2^53, BAR2 at 2^54 (log entry 118, DESIGN CHOICE, for these places), else device
memory (R452, R453). -/
def hostBytes (s : State) (pa n : Nat) : Option (List Byte) :=
  if 2 ^ 53 ≤ pa then
    if pa + n ≤ 2 ^ 53 + 2 ^ 24 then some (imageBytes (bar0Image s) (pa - 2 ^ 53) n)
    else if 2 ^ 54 ≤ pa && pa + n ≤ 2 ^ 54 + 2 ^ 18 then some (imageBytes (bar2Image s) (pa - 2 ^ 54) n)
    else none
  else (hostPlace s pa n).map fun pa => (List.range n).map fun i => homeByte s (pa + i)

/-! Requests of the host, in their order (R259). -/

/-- A write of device memory (R259): performed at the home and given a completion time, once that of the write before it has
passed, so that no copy leased before that one is read after this one. -/
def hostWrite (pa : Nat) (bs : List Byte) (s : State) : State :=
  if s.gt < s.hostT then { s with hostq := s.hostq ++ [.write pa bs] }
  else match hostPlace s pa bs.length with
    | none => s
    | some to_ =>
      let (s, t) := performAll s (bytesAt to_ bs)
      openEvents { s with hostT := t } (homePa s) ((bytesAt to_ bs).map (·.1))

/-- A read of device memory or of a register (R452, R453, R5). -/
def hostRead (pa n : Nat) (s : State) : State :=
  match hostBytes s pa n with
  | some bs => { s with out := s.out ++ [(96, bs)] }
  | none => s

/-- A request of the host acts. -/
def hostAct (r : HostReq) (s : State) : Res :=
  match r with
  | .write pa bs => .next (hostWrite pa bs s)
  | .read pa n => .next (hostRead pa n s)
  | .register bar off size v => registerWrite bar off size v 0 s
  | .tail slot k v => streamTail slot k v s
  | .enable slot k => streamEnable slot k s
  | .rst slot k => streamReset slot k s
  | .fqhead v => fqhead v s
  | .vrhead v => vrhead v s
  | .lerhead v => lerhead v s
  | .pool v => ptaPool v s
  | .launch slot => ctxLaunch slot s
  | .preempt slot => ctxPreempt slot s
  | .resume slot => ctxResume slot s
  | .kill slot => ctxKill slot s
  | .invhi slot v => invhiPost slot v s
  | .qrel slot v => queueRelease slot v s

/-- A request of the host acts, or waits behind earlier ones that wait (R259; log entry 117, DESIGN CHOICE). -/
def posted (r : HostReq) (s : State) : Res :=
  if s.hostq.isEmpty then hostAct r s else .next { s with hostq := s.hostq ++ [r] }

/-- The oldest request that waits is tried again. -/
def hostNext (s : State) : Res :=
  match s.hostq with
  | [] => .next s
  | r :: rest =>
    match hostAct r { s with hostq := [] } with
    | .next t => .next { t with hostq := t.hostq ++ rest }
    | .fault e => .fault e
    | .refused e => .refused e

/-- HOST_MEMORY_WRITE (R259, R452, R453). -/
def execHostMemoryWrite (pa : Nat) (bs : List Byte) (s : State) : Res := posted (.write pa bs) s

/-- HOST_MEMORY_READ (R452, R453, R5). -/
def execHostMemoryRead (pa n : Nat) (s : State) : Res := posted (.read pa n) s

/-- REGISTER_WRITE (R452 to R457, R474). -/
def execRegisterWrite (bar off size : Nat) (v : Quad) (master : Nat) (s : State) : Res :=
  if master = 0 then posted (.register bar off size v) s else registerWrite bar off size v master s

/-- STREAM_TAIL_WRITE (R269): from the host, or of an OPPUSH whose shadow write has completed (R325). -/
def execStreamTailWrite (slot k : Nat) (v : Quad) (s : State) : Res :=
  if (pushDue s slot k v).isSome then streamTail slot k v s else posted (.tail slot k v) s

/-- STREAM_CTL_EN (R270). -/
def execStreamCtlEn (slot k : Nat) (s : State) : Res := posted (.enable slot k) s
/-- STREAM_CTL_RST (R270). -/
def execStreamCtlRst (slot k : Nat) (s : State) : Res := posted (.rst slot k) s
/-- FQHEAD_WRITE (R279). -/
def execFqheadWrite (v : Word) (s : State) : Res := posted (.fqhead v) s
/-- VRHEAD_WRITE (R422). -/
def execVrheadWrite (v : Word) (s : State) : Res := posted (.vrhead v) s
/-- LERHEAD_WRITE (R451). -/
def execLerheadWrite (v : Word) (s : State) : Res := posted (.lerhead v) s
/-- PTA_POOL_WRITE (R400). -/
def execPtaPoolWrite (v : Quad) (s : State) : Res := posted (.pool v) s
/-- CTXCTL_LAUNCH (R407, R410). -/
def execCtxctlLaunch (slot : Nat) (s : State) : Res := posted (.launch slot) s
/-- CTXCTL_PRE (R407, R423). -/
def execCtxctlPre (slot : Nat) (s : State) : Res := posted (.preempt slot) s
/-- CTXCTL_RESUME (R407, R427). -/
def execCtxctlResume (slot : Nat) (s : State) : Res := posted (.resume slot) s
/-- CTXCTL_KILL (R407, R428). -/
def execCtxctlKill (slot : Nat) (s : State) : Res := posted (.kill slot) s
/-- INVHI_WRITE (R351, R406). -/
def execInvhiWrite (slot : Nat) (v : Quad) (s : State) : Res := posted (.invhi slot v) s
/-- QREL_WRITE (R406, R421). -/
def execQrelWrite (slot : Nat) (v : Word) (s : State) : Res := posted (.qrel slot v) s

end Sys2Proof.Machine
end

