-- ==== Sys2Proof/Machine/Dispatch.lean ====
section
/-! DEFINITION. The meaning of every instruction and step, one arm each. -/

namespace Sys2Proof.Machine

/-- What an instruction, or a step of the part, does. -/
def exec (i : Instr) (s : State) : Host.Outcome State Fault Refusal :=
  match i with
  | .nop => Sys2Proof.Machine.execNop s
  | .bra a => Sys2Proof.Machine.execBra a s
  | .brc n p a b => Sys2Proof.Machine.execBrc n p a b s
  | .brx a b => Sys2Proof.Machine.execBrx a b s
  | .call a => Sys2Proof.Machine.execCall a s
  | .ret => Sys2Proof.Machine.execRet s
  | .sync => Sys2Proof.Machine.execSync s
  | .exit => Sys2Proof.Machine.execExit s
  | .yield => Sys2Proof.Machine.execYield s
  | .sleep a => Sys2Proof.Machine.execSleep a s
  | .trap a => Sys2Proof.Machine.execTrap a s
  | .setm m a => Sys2Proof.Machine.execSetm m a s
  | .getm d => Sys2Proof.Machine.execGetm d s
  | .mfs d ix => Sys2Proof.Machine.execMfs d ix s
  | .mts ix b => Sys2Proof.Machine.execMts ix b s
  | .bar k b => Sys2Proof.Machine.execBar k b s
  | .arrive d k b => Sys2Proof.Machine.execArrive d k b s
  | .await d k b => Sys2Proof.Machine.execAwait d k b s
  | .vote d k n p => Sys2Proof.Machine.execVote d k n p s
  | .ipf l a b => Sys2Proof.Machine.execIpf l a b s
  | .pin l a b => Sys2Proof.Machine.execPin l a b s
  | .unpin l a b => Sys2Proof.Machine.execUnpin l a b s
  | .add d a b => Sys2Proof.Machine.execAdd d a b s
  | .sub d a b => Sys2Proof.Machine.execSub d a b s
  | .addc d a b => Sys2Proof.Machine.execAddc d a b s
  | .subb d a b => Sys2Proof.Machine.execSubb d a b s
  | .mul d a b => Sys2Proof.Machine.execMul d a b s
  | .mulh d a b => Sys2Proof.Machine.execMulh d a b s
  | .mulhn d a b => Sys2Proof.Machine.execMulhn d a b s
  | .mad d a b => Sys2Proof.Machine.execMad d a b s
  | .div d a b => Sys2Proof.Machine.execDiv d a b s
  | .divn d a b => Sys2Proof.Machine.execDivn d a b s
  | .rem d a b => Sys2Proof.Machine.execRem d a b s
  | .remn d a b => Sys2Proof.Machine.execRemn d a b s
  | .and d a b => Sys2Proof.Machine.execAnd d a b s
  | .or d a b => Sys2Proof.Machine.execOr d a b s
  | .xor d a b => Sys2Proof.Machine.execXor d a b s
  | .andn d a b => Sys2Proof.Machine.execAndn d a b s
  | .shl d a b => Sys2Proof.Machine.execShl d a b s
  | .shr d a b => Sys2Proof.Machine.execShr d a b s
  | .sar d a b => Sys2Proof.Machine.execSar d a b s
  | .rot d a b => Sys2Proof.Machine.execRot d a b s
  | .min d a b => Sys2Proof.Machine.execMin d a b s
  | .max d a b => Sys2Proof.Machine.execMax d a b s
  | .minn d a b => Sys2Proof.Machine.execMinn d a b s
  | .maxn d a b => Sys2Proof.Machine.execMaxn d a b s
  | .abs d a => Sys2Proof.Machine.execAbs d a s
  | .clz d a => Sys2Proof.Machine.execClz d a s
  | .popc d a => Sys2Proof.Machine.execPopc d a s
  | .brev d a => Sys2Proof.Machine.execBrev d a s
  | .bfe d a b => Sys2Proof.Machine.execBfe d a b s
  | .bfi d a b => Sys2Proof.Machine.execBfi d a b s
  | .sel d a b => Sys2Proof.Machine.execSel d a b s
  | .mov d a => Sys2Proof.Machine.execMov d a s
  | .cmp c p a b => Sys2Proof.Machine.execCmp c p a b s
  | .cmpn c p a b => Sys2Proof.Machine.execCmpn c p a b s
  | .fcmp c p a b => Sys2Proof.Machine.execFcmp c p a b s
  | .pand p n q m r => Sys2Proof.Machine.execPand p n q m r s
  | .por p n q m r => Sys2Proof.Machine.execPor p n q m r s
  | .pxor p n q m r => Sys2Proof.Machine.execPxor p n q m r s
  | .pset p a => Sys2Proof.Machine.execPset p a s
  | .pget d p => Sys2Proof.Machine.execPget d p s
  | .shfl d a b => Sys2Proof.Machine.execShfl d a b s
  | .shup d a b => Sys2Proof.Machine.execShup d a b s
  | .shdn d a b => Sys2Proof.Machine.execShdn d a b s
  | .qswz d a b => Sys2Proof.Machine.execQswz d a b s
  | .qxh d a => Sys2Proof.Machine.execQxh d a s
  | .qxv d a => Sys2Proof.Machine.execQxv d a s
  | .qxd d a => Sys2Proof.Machine.execQxd d a s
  | .nibl d a b => Sys2Proof.Machine.execNibl d a b s
  | .nibh d a b => Sys2Proof.Machine.execNibh d a b s
  | .prmt d a b => Sys2Proof.Machine.execPrmt d a b s
  | .radd d a => Sys2Proof.Machine.execRadd d a s
  | .rmax d a => Sys2Proof.Machine.execRmax d a s
  | .rmin d a => Sys2Proof.Machine.execRmin d a s
  | .fradd d a => Sys2Proof.Machine.execFradd d a s
  | .frmax d a => Sys2Proof.Machine.execFrmax d a s
  | .psum d a => Sys2Proof.Machine.execPsum d a s
  | .psumx d a => Sys2Proof.Machine.execPsumx d a s
  | .fadd d a b => Sys2Proof.Machine.execFadd d a b s
  | .fsub d a b => Sys2Proof.Machine.execFsub d a b s
  | .fmul d a b => Sys2Proof.Machine.execFmul d a b s
  | .fma d a b => Sys2Proof.Machine.execFma d a b s
  | .fms d a b => Sys2Proof.Machine.execFms d a b s
  | .fmin d a b => Sys2Proof.Machine.execFmin d a b s
  | .fmax d a b => Sys2Proof.Machine.execFmax d a b s
  | .fabs d a => Sys2Proof.Machine.execFabs d a s
  | .fneg d a => Sys2Proof.Machine.execFneg d a s
  | .frcp d a => Sys2Proof.Machine.execFrcp d a s
  | .frsq d a => Sys2Proof.Machine.execFrsq d a s
  | .fsqrt d a => Sys2Proof.Machine.execFsqrt d a s
  | .fexp2 d a => Sys2Proof.Machine.execFexp2 d a s
  | .flog2 d a => Sys2Proof.Machine.execFlog2 d a s
  | .fsin d a => Sys2Proof.Machine.execFsin d a s
  | .fcos d a => Sys2Proof.Machine.execFcos d a s
  | .ftanh d a => Sys2Proof.Machine.execFtanh d a s
  | .fscal d a b => Sys2Proof.Machine.execFscal d a b s
  | .frnd d a => Sys2Proof.Machine.execFrnd d a s
  | .fdot2 d a b => Sys2Proof.Machine.execFdot2 d a b s
  | .scaleq d a f => Sys2Proof.Machine.execScaleq d a f s
  | .f2i d a => Sys2Proof.Machine.execF2i d a s
  | .f2n d a => Sys2Proof.Machine.execF2n d a s
  | .i2f d a => Sys2Proof.Machine.execI2f d a s
  | .n2f d a => Sys2Proof.Machine.execN2f d a s
  | .f2h d a b => Sys2Proof.Machine.execF2h d a b s
  | .h2f d a e => Sys2Proof.Machine.execH2f d a e s
  | .pk8 d a b => Sys2Proof.Machine.execPk8 d a b s
  | .upk8 d a b => Sys2Proof.Machine.execUpk8 d a b s
  | .qfpk d a f => Sys2Proof.Machine.execQfpk d a f s
  | .qfupk d a f => Sys2Proof.Machine.execQfupk d a f s
  | .amaxr d a => Sys2Proof.Machine.execAmaxr d a s
  | .ldb d a b => Sys2Proof.Machine.execLdb d a b s
  | .ldbs d a b => Sys2Proof.Machine.execLdbs d a b s
  | .ldh d a b => Sys2Proof.Machine.execLdh d a b s
  | .ldhs d a b => Sys2Proof.Machine.execLdhs d a b s
  | .ldw d a b => Sys2Proof.Machine.execLdw d a b s
  | .ldd d a b => Sys2Proof.Machine.execLdd d a b s
  | .ldq d a b => Sys2Proof.Machine.execLdq d a b s
  | .stb x a b => Sys2Proof.Machine.execStb x a b s
  | .sth x a b => Sys2Proof.Machine.execSth x a b s
  | .stw x a b => Sys2Proof.Machine.execStw x a b s
  | .std x a b => Sys2Proof.Machine.execStd x a b s
  | .stq x a b => Sys2Proof.Machine.execStq x a b s
  | .prf l a b => Sys2Proof.Machine.execPrf l a b s
  | .pgreq d a b => Sys2Proof.Machine.execPgreq d a b s
  | .atadd d a b u => Sys2Proof.Machine.execAtadd d a b u s
  | .atmin d a b u => Sys2Proof.Machine.execAtmin d a b u s
  | .atmax d a b u => Sys2Proof.Machine.execAtmax d a b u s
  | .atminn d a b u => Sys2Proof.Machine.execAtminn d a b u s
  | .atmaxn d a b u => Sys2Proof.Machine.execAtmaxn d a b u s
  | .atand d a b u => Sys2Proof.Machine.execAtand d a b u s
  | .ator d a b u => Sys2Proof.Machine.execAtor d a b u s
  | .atxor d a b u => Sys2Proof.Machine.execAtxor d a b u s
  | .atxch d a b u => Sys2Proof.Machine.execAtxch d a b u s
  | .atcas d a b u w => Sys2Proof.Machine.execAtcas d a b u w s
  | .atfadd d a b u => Sys2Proof.Machine.execAtfadd d a b u s
  | .atfmax d a b u => Sys2Proof.Machine.execAtfmax d a b u s
  | .frel sv => Sys2Proof.Machine.execFrel sv s
  | .facq => Sys2Proof.Machine.execFacq s
  | .fseq sv => Sys2Proof.Machine.execFseq sv s
  | .frc d => Sys2Proof.Machine.execFrc d s
  | .wtime a => Sys2Proof.Machine.execWtime a s
  | .flush ix => Sys2Proof.Machine.execFlush ix s
  | .mds j a => Sys2Proof.Machine.execMds j a s
  | .gang a => Sys2Proof.Machine.execGang a s
  | .mma f a j => Sys2Proof.Machine.execMma f a j s
  | .mmas f a j => Sys2Proof.Machine.execMmas f a j s
  | .mzro f => Sys2Proof.Machine.execMzro f s
  | .ascore d a r j => Sys2Proof.Machine.execAscore d a r j s
  | .avacc f r j => Sys2Proof.Machine.execAvacc f r j s
  | .afin f a l r => Sys2Proof.Machine.execAfin f a l r s
  | .arst r a b => Sys2Proof.Machine.execArst r a b s
  | .arow d r => Sys2Proof.Machine.execArow d r s
  | .cpy t sv q a b => Sys2Proof.Machine.execCpy t sv q a b s
  | .cpy2 t sv q a b => Sys2Proof.Machine.execCpy2 t sv q a b s
  | .cpyg t sv q a b => Sys2Proof.Machine.execCpyg t sv q a b s
  | .cpyc t sv q a b => Sys2Proof.Machine.execCpyc t sv q a b s
  | .cpyr r sv q a b => Sys2Proof.Machine.execCpyr r sv q a b s
  | .cpyz t q a b => Sys2Proof.Machine.execCpyz t q a b s
  | .rngi r a b => Sys2Proof.Machine.execRngi r a b s
  | .rngw d r => Sys2Proof.Machine.execRngw d r s
  | .rngr r a => Sys2Proof.Machine.execRngr r a s
  | .rngq d r b => Sys2Proof.Machine.execRngq d r b s
  | .qfnc m => Sys2Proof.Machine.execQfnc m s
  | .qwait d m => Sys2Proof.Machine.execQwait d m s
  | .lbcl d l => Sys2Proof.Machine.execLbcl d l s
  | .bankm m a => Sys2Proof.Machine.execBankm m a s
  | .evsig a b => Sys2Proof.Machine.execEvsig a b s
  | .evwait d a b => Sys2Proof.Machine.execEvwait d a b s
  | .evpoll d a => Sys2Proof.Machine.execEvpoll d a s
  | .mbxrd d => Sys2Proof.Machine.execMbxrd d s
  | .mbxdone a => Sys2Proof.Machine.execMbxdone a s
  | .mbxq d => Sys2Proof.Machine.execMbxq d s
  | .frq d a b => Sys2Proof.Machine.execFrq d a b s
  | .oppush a b => Sys2Proof.Machine.execOppush a b s
  | .rxadd x a b => Sys2Proof.Machine.execRxadd x a b s
  | .rxfadd x a b => Sys2Proof.Machine.execRxfadd x a b s
  | .rxbadd x a b => Sys2Proof.Machine.execRxbadd x a b s
  | .rxmax x a b => Sys2Proof.Machine.execRxmax x a b s
  | .wstat d a b => Sys2Proof.Machine.execWstat d a b s
  | .kvapp a => Sys2Proof.Machine.execKvapp a s
  | .kvseal a => Sys2Proof.Machine.execKvseal a s
  | .kvpos d a b => Sys2Proof.Machine.execKvpos d a b s
  | .kvevict a => Sys2Proof.Machine.execKvevict a s
  | .mfold a => Sys2Proof.Machine.execMfold a s
  | .mdecay a => Sys2Proof.Machine.execMdecay a s
  | .rte a => Sys2Proof.Machine.execRte a s
  | .grd d a b => Sys2Proof.Machine.execGrd d a b s
  | .gwr x a b => Sys2Proof.Machine.execGwr x a b s
  | .gres a => Sys2Proof.Machine.execGres a s
  | .gfrz u a => Sys2Proof.Machine.execGfrz u a s
  | .tlbi a => Sys2Proof.Machine.execTlbi a s
  | .wmapi a => Sys2Proof.Machine.execWmapi a s
  | .frsv a b => Sys2Proof.Machine.execFrsv a b s
  | .frld d a => Sys2Proof.Machine.execFrld d a s
  | .ctxsv a b => Sys2Proof.Machine.execCtxsv a b s
  | .ctxld a b => Sys2Proof.Machine.execCtxld a b s
  | .clauseStart => Sys2Proof.Machine.execClauseStart s
  | .fragmentMerge g => Sys2Proof.Machine.execFragmentMerge g s
  | .handlerStart g f => Sys2Proof.Machine.execHandlerStart g f s
  | .fragmentWake g f => Sys2Proof.Machine.execFragmentWake g f s
  | .sleepWake g f => Sys2Proof.Machine.execSleepWake g f s
  | .wtimeWake g f => Sys2Proof.Machine.execWtimeWake g f s
  | .evwaitWake g f => Sys2Proof.Machine.execEvwaitWake g f s
  | .rngwWake g f => Sys2Proof.Machine.execRngwWake g f s
  | .mbxrdWake g f => Sys2Proof.Machine.execMbxrdWake g f s
  | .qwaitWake g f => Sys2Proof.Machine.execQwaitWake g f s
  | .lbclWake g f => Sys2Proof.Machine.execLbclWake g f s
  | .frcWake g f => Sys2Proof.Machine.execFrcWake g f s
  | .fenceWake g f => Sys2Proof.Machine.execFenceWake g f s
  | .groupEnd g => Sys2Proof.Machine.execGroupEnd g s
  | .loadComplete g id thr => Sys2Proof.Machine.execLoadComplete g id thr s
  | .l1LeaseExpiry c k => Sys2Proof.Machine.execL1LeaseExpiry c k s
  | .storeComplete g id => Sys2Proof.Machine.execStoreComplete g id s
  | .atomicComplete g id => Sys2Proof.Machine.execAtomicComplete g id s
  | .homeRead g id line => Sys2Proof.Machine.execHomeRead g id line s
  | .homeWrite id => Sys2Proof.Machine.execHomeWrite id s
  | .pageWalk cache slot page => Sys2Proof.Machine.execPageWalk cache slot page s
  | .invalidationComplete id => Sys2Proof.Machine.execInvalidationComplete id s
  | .faultBatchTimeout => Sys2Proof.Machine.execFaultBatchTimeout s
  | .faultBatchFull => Sys2Proof.Machine.execFaultBatchFull s
  | .faultDelivery => Sys2Proof.Machine.execFaultDelivery s
  | .fqheadWrite v => Sys2Proof.Machine.execFqheadWrite v s
  | .vrheadWrite v => Sys2Proof.Machine.execVrheadWrite v s
  | .lerheadWrite v => Sys2Proof.Machine.execLerheadWrite v s
  | .migrate tce slot cmd => Sys2Proof.Machine.execMigrate tce slot cmd s
  | .migrationResult tce => Sys2Proof.Machine.execMigrationResult tce s
  | .dcdAddCapacity port base len tag => Sys2Proof.Machine.execDcdAddCapacity port base len tag s
  | .dcdReleaseOrderly ext => Sys2Proof.Machine.execDcdReleaseOrderly ext s
  | .dcdReleaseForced ext => Sys2Proof.Machine.execDcdReleaseForced ext s
  | .bankDrainComplete c k => Sys2Proof.Machine.execBankDrainComplete c k s
  | .cinchRelease c n => Sys2Proof.Machine.execCinchRelease c n s
  | .mxeQueuePerform c => Sys2Proof.Machine.execMxeQueuePerform c s
  | .matrixOpComplete c n g => Sys2Proof.Machine.execMatrixOpComplete c n g s
  | .attentionOpComplete c n g => Sys2Proof.Machine.execAttentionOpComplete c n g s
  | .streamerActivate c q => Sys2Proof.Machine.execStreamerActivate c q s
  | .streamerChunk c q n => Sys2Proof.Machine.execStreamerChunk c q n s
  | .streamerComplete c q n => Sys2Proof.Machine.execStreamerComplete c q n s
  | .queueFenceLeave c n => Sys2Proof.Machine.execQueueFenceLeave c n s
  | .streamTailWrite slot k v => Sys2Proof.Machine.execStreamTailWrite slot k v s
  | .streamReconcile => Sys2Proof.Machine.execStreamReconcile s
  | .streamCtlEn slot k => Sys2Proof.Machine.execStreamCtlEn slot k s
  | .streamCtlRst slot k => Sys2Proof.Machine.execStreamCtlRst slot k s
  | .oprun slot k => Sys2Proof.Machine.execOprun slot k s
  | .opcopy slot k => Sys2Proof.Machine.execOpcopy slot k s
  | .opwait slot k => Sys2Proof.Machine.execOpwait slot k s
  | .opsig slot k => Sys2Proof.Machine.execOpsig slot k s
  | .opfence slot k => Sys2Proof.Machine.execOpfence slot k s
  | .opjump slot k => Sys2Proof.Machine.execOpjump slot k s
  | .opend slot k => Sys2Proof.Machine.execOpend slot k s
  | .oppin slot k => Sys2Proof.Machine.execOppin slot k s
  | .opamax slot k => Sys2Proof.Machine.execOpamax slot k s
  | .decodeResume slot k => Sys2Proof.Machine.execDecodeResume slot k s
  | .opsigSignal slot k => Sys2Proof.Machine.execOpsigSignal slot k s
  | .pointFire n => Sys2Proof.Machine.execPointFire n s
  | .tokenGrant => Sys2Proof.Machine.execTokenGrant s
  | .jobDispatch => Sys2Proof.Machine.execJobDispatch s
  | .opcopyPointComplete n l => Sys2Proof.Machine.execOpcopyPointComplete n l s
  | .eventInc path => Sys2Proof.Machine.execEventInc path s
  | .eventMir path => Sys2Proof.Machine.execEventMir path s
  | .eventSub path => Sys2Proof.Machine.execEventSub path s
  | .ctxctlLaunch slot => Sys2Proof.Machine.execCtxctlLaunch slot s
  | .ctxctlPre slot => Sys2Proof.Machine.execCtxctlPre slot s
  | .forcedSaveDecision c b => Sys2Proof.Machine.execForcedSaveDecision c b s
  | .preemptDeadline slot => Sys2Proof.Machine.execPreemptDeadline slot s
  | .preemptHardDeadline slot => Sys2Proof.Machine.execPreemptHardDeadline slot s
  | .groupRollback g => Sys2Proof.Machine.execGroupRollback g s
  | .contextSave slot => Sys2Proof.Machine.execContextSave slot s
  | .ctxctlResume slot => Sys2Proof.Machine.execCtxctlResume slot s
  | .ctxctlKill slot => Sys2Proof.Machine.execCtxctlKill slot s
  | .invhiWrite slot v => Sys2Proof.Machine.execInvhiWrite slot v s
  | .qrelWrite slot v => Sys2Proof.Machine.execQrelWrite slot v s
  | .kvAccept die => Sys2Proof.Machine.execKvAccept die s
  | .kvComplete die => Sys2Proof.Machine.execKvComplete die s
  | .reflectorForward path => Sys2Proof.Machine.execReflectorForward path s
  | .sliceReport slice => Sys2Proof.Machine.execSliceReport slice s
  | .rxWriteApply path => Sys2Proof.Machine.execRxWriteApply path s
  | .pathAckReceive path n => Sys2Proof.Machine.execPathAckReceive path n s
  | .pathClosedReceive path n => Sys2Proof.Machine.execPathClosedReceive path n s
  | .pathDownReceive path n => Sys2Proof.Machine.execPathDownReceive path n s
  | .pathAckTimeout path => Sys2Proof.Machine.execPathAckTimeout path s
  | .peerUnreachable chip => Sys2Proof.Machine.execPeerUnreachable chip s
  | .portEnable port => Sys2Proof.Machine.execPortEnable port s
  | .portDisable port => Sys2Proof.Machine.execPortDisable port s
  | .linkTrained port lanes cap => Sys2Proof.Machine.execLinkTrained port lanes cap s
  | .flitSend port => Sys2Proof.Machine.execFlitSend port s
  | .flitReceive port flit => Sys2Proof.Machine.execFlitReceive port flit s
  | .flitReplayTimeout port => Sys2Proof.Machine.execFlitReplayTimeout port s
  | .lossOfLight port laser rx => Sys2Proof.Machine.execLossOfLight port laser rx s
  | .restripeDone port fseq => Sys2Proof.Machine.execRestripeDone port fseq s
  | .ualinkWriteReceive link flit => Sys2Proof.Machine.execUalinkWriteReceive link flit s
  | .ualinkOtherRequest link tag => Sys2Proof.Machine.execUalinkOtherRequest link tag s
  | .slotStart => Sys2Proof.Machine.execSlotStart s
  | .slotEnd => Sys2Proof.Machine.execSlotEnd s
  | .slotctlSwap => Sys2Proof.Machine.execSlotctlSwap s
  | .slotctlEn en => Sys2Proof.Machine.execSlotctlEn en s
  | .probeTimeout u => Sys2Proof.Machine.execProbeTimeout u s
  | .probeToken u => Sys2Proof.Machine.execProbeToken u s
  | .firmwareMessage link msg => Sys2Proof.Machine.execFirmwareMessage link msg s
  | .permitReturn link => Sys2Proof.Machine.execPermitReturn link s
  | .lfcWatchdog k => Sys2Proof.Machine.execLfcWatchdog k s
  | .lfcReset k => Sys2Proof.Machine.execLfcReset k s
  | .powerOn manifest recovery => Sys2Proof.Machine.execPowerOn manifest recovery s
  | .lrstN => Sys2Proof.Machine.execLrstN s
  | .leaseReset req => Sys2Proof.Machine.execLeaseReset req s
  | .scrubComplete mismatch recovery => Sys2Proof.Machine.execScrubComplete mismatch recovery s
  | .nonce v => Sys2Proof.Machine.execNonce v s
  | .tenantKey req => Sys2Proof.Machine.execTenantKey req s
  | .getVersion => Sys2Proof.Machine.execGetVersion s
  | .getCapabilities => Sys2Proof.Machine.execGetCapabilities s
  | .negotiateAlgorithms offer => Sys2Proof.Machine.execNegotiateAlgorithms offer s
  | .getDigests => Sys2Proof.Machine.execGetDigests s
  | .getCertificate certSlot off len => Sys2Proof.Machine.execGetCertificate certSlot off len s
  | .challenge certSlot v => Sys2Proof.Machine.execChallenge certSlot v s
  | .getMeasurements idx v => Sys2Proof.Machine.execGetMeasurements idx v s
  | .keyExchange req => Sys2Proof.Machine.execKeyExchange req s
  | .finish req => Sys2Proof.Machine.execFinish req s
  | .heartbeat => Sys2Proof.Machine.execHeartbeat s
  | .endSession => Sys2Proof.Machine.execEndSession s
  | .chunkSend seq last chunk => Sys2Proof.Machine.execChunkSend seq last chunk s
  | .chunkGet seq => Sys2Proof.Machine.execChunkGet seq s
  | .unsupportedRequest code => Sys2Proof.Machine.execUnsupportedRequest code s
  | .entdaa addr => Sys2Proof.Machine.execEntdaa addr s
  | .setdasa stat addr => Sys2Proof.Machine.execSetdasa stat addr s
  | .setEndpointId eid => Sys2Proof.Machine.execSetEndpointId eid s
  | .bfappAppend v => Sys2Proof.Machine.execBfappAppend v s
  | .bfappCommit v => Sys2Proof.Machine.execBfappCommit v s
  | .bfappDiscard v => Sys2Proof.Machine.execBfappDiscard v s
  | .bfappNop v => Sys2Proof.Machine.execBfappNop v s
  | .bfappFlashDone => Sys2Proof.Machine.execBfappFlashDone s
  | .ptaPoolWrite v => Sys2Proof.Machine.execPtaPoolWrite v s
  | .eccCorrected frame => Sys2Proof.Machine.execEccCorrected frame s
  | .uncorrectable kind unit frame tier => Sys2Proof.Machine.execUncorrectable kind unit frame tier s
  | .tjhotExceeded die temp => Sys2Proof.Machine.execTjhotExceeded die temp s
  | .thermalTrip die temp => Sys2Proof.Machine.execThermalTrip die temp s
  | .pmcWrap k => Sys2Proof.Machine.execPmcWrap k s
  | .hostMemoryWrite pa bs => Sys2Proof.Machine.execHostMemoryWrite pa bs s
  | .hostMemoryRead pa n => Sys2Proof.Machine.execHostMemoryRead pa n s
  | .registerWrite bar off size v master => Sys2Proof.Machine.execRegisterWrite bar off size v master s
  | .lossOfPower => Sys2Proof.Machine.execLossOfPower s
  | .stopDescriptorPost slot c b => Sys2Proof.Machine.execStopDescriptorPost slot c b s

end Sys2Proof.Machine
end

