-- ==== Sys2Proof/Machine/Issue.lean ====
section
/-! DEFINITION. What moves next: which fragments may issue (R33, R177, R413), the choice of a lane (R414), the steps
of the part that may be due, and one move of the machine. The order of the agents is data or free (log entry 1, DESIGN CHOICE). -/

namespace Sys2Proof.Machine

/-! Which fragments may issue. -/

/-- Do the cores run: the firmware that runs has released them (R460, R462, R468)? -/
def coresRun (s : State) : Bool := gscRuns s && s.lfcUp

/-- The v registers that a field names (R29). -/
def Slot.vregs : Slot → List Nat
  | .op r (.v n) => (List.range r.span).map (n + ·)
  | _ => []

/-- The v registers that an instruction names (R177). -/
def namedRegs (i : Instr) : List Nat :=
  match form i with
  | some f => f.d.vregs ++ f.a.vregs ++ f.b.vregs
  | none => []

/-- The group and the v register that a GRD or GWR names by its selector (R177, R431). -/
def itemReg (s : State) : Instr → Option (Nat × Nat)
  | .grd _ a b | .gwr _ a b =>
    let sel := (usrc s b).toNat
    if bits sel 31 28 = 0 then (groupNamed s a).map fun g => (g, bits sel 27 8) else none
  | _ => none

/-- An instruction of the uniform class: an s register in the destination role (R15, R30). -/
def uniformInstr (i : Instr) : Bool :=
  match form i with
  | some f => match f.d with
    | .op r (.s _) => !(r == .amx || r == .st1 || r == .st2 || r == .st4 || r == .strip || r == .slzm)
    | _ => false
  | none => false

/-- A matrix or attention instruction, which the scoreboard does not hold (R177). -/
def isMatrix (i : Instr) : Bool :=
  match form i with
  | some f => decide (0xA0 ≤ f.op) && decide (f.op ≤ 0xAF)
  | none => false

/-- Does the scoreboard hold an instruction of a group back (R177)? -/
def scoreboardHolds (s : State) (g : Nat) (i : Instr) : Bool :=
  !isMatrix i && ((namedRegs i).any fun r => (heldRegs s g).contains r) ||
  (match itemReg { s with curG := g } i with
    | some (h, r) => (heldRegs s h).contains r
    | none => false)

/-- The instruction at a fragment's PC, with the words after it; none at a clause start. -/
def instrAt (f : Frag) : Option (Except DecodeError (Instr × List Word)) :=
  if !f.mid then none
  else match f.code with
    | w :: r => some (decode w r)
    | [] => none

/-- May the groups of a context slot issue (R407, R427)? -/
def ctxIssues (s : State) (slot : Nat) : Bool :=
  let c := ctxAt s slot
  (c.st == 1 || c.st == 2) && c.resuming.2 == 0

/-- May a group issue: not stopped by a save, not ending, no restored token grant to come (R336), no KV command to be
accepted (R381), not arrived at the Cinch (R163)? -/
def groupIssues (s : State) (g : Nat) : Bool :=
  let x := gAt s g
  x.present && !x.saved && !x.ending && ctxIssues s x.ctx && !(x.rest && forcedWaits s x.ctx) &&
  slots8.all fun i => match (Store.get x.frags i).wait with
    | .kv | .cinch | .gang .. => false
    | _ => true

/-- May a fragment of such a group issue (R33, R68, R177, R414)? -/
def fragIssues (s : State) (g i : Nat) : Bool :=
  let f := fragAt s g i
  (f.st == .ready || f.st == .handler) && f.wait == .no &&
  match instrAt f with
  | some (.ok (ins, _)) => !scoreboardHolds s g ins
  | some (.error _) => true
  | none => f.mid || f.code.isEmpty || hdrWait f.hdr &&& flagMask (gAt s g) == 0

/-- The groups on a lane. -/
def laneGroups (s : State) (c l : Nat) : List Nat :=
  (s.groups.filter fun e => e.1 / 128 == c && e.2.present && e.2.lane == l).map (·.1)

/-- Does an instruction of another fragment, which stalls on a full flag, hold a fragment back (R35)? -/
def heldByStall (s : State) (g i : Nat) : Bool :=
  match (gAt s g).stall with
  | some j => i != j && fragIssues s g j
  | none => false

/-- The fragments of a lane that are READY and may issue. -/
def laneReady (s : State) (c l : Nat) : List (Nat × Nat) :=
  (laneGroups s c l).flatMap fun g =>
    if groupIssues s g then (slots8.filter fun i => fragIssues s g i && !heldByStall s g i).map (g, ·) else []

/-! The choice of R414. -/

/-- What the choice compares, the greater first: how often passed over from 8 on, HANDLER, ROLE.PRIO, and then the
older issue, the lower position, the lower index. -/
def choiceKey (s : State) (x : Nat × Nat) : List Int :=
  let g := gAt s x.1
  let f := Store.get g.frags x.2
  [if 8 ≤ f.passed then (f.passed : Int) else 0, b2n (f.st == .handler), rolePrio g.role, -(f.issued : Int), -(g.pos : Int),
    -(x.2 : Int)]

/-- Lexicographic order of two such lists: the first is the greater. -/
def keyAbove : List Int → List Int → Bool
  | a :: r, b :: t => decide (b < a) || (a == b && keyAbove r t)
  | _, _ => false

/-- The order in which a lane considers its ready fragments (R414). -/
def byChoice (s : State) : List (Nat × Nat) → List (Nat × Nat)
  | [] => []
  | x :: r => insertBy x (byChoice s r)
where
  /-- Inserts before the first that the new one is above of. -/
  insertBy (x : Nat × Nat) : List (Nat × Nat) → List (Nat × Nat)
    | [] => [x]
    | y :: r => if keyAbove (choiceKey s x) (choiceKey s y) then x :: y :: r else y :: insertBy x r

/-! One issue. -/

/-- The state in which fragment `i` of group `g` issues an instruction of `n` words. -/
def readyTo (s : State) (g i n : Nat) : State :=
  updF { s with curG := g, curF := i } g i fun f => { f with npc := f.pc + w64 (4 * n) }

/-- The decode trap of the word at a fragment's PC (R41): none in a clause that has started, whose words have passed;
where a fragment resumes inside a clause each word is decoded as it issues (R33). -/
def faultAt (s : State) (g i : Nat) : Option Nat :=
  let s := { s with curG := g, curF := i }
  match (cf s).code with
  | w :: r => wordFault (privileged s) (roleNo (cg s).role) (roleNvreg (cg s).role) w r
  | [] => none

/-- Fragment `i` of group `g` issues its next instruction, or starts its clause (R33). An instruction of the uniform class
is skipped where no thread is active (R15). -/
def issue (s : State) (g i : Nat) : Res :=
  let f := fragAt s g i
  match instrAt f with
  | some d => match faultAt s g i with
    | some c => .next (raiseWord (readyTo s g i 1) c f.pc ((f.code.head?).getD 0#32))
    | none => match d with
      | .ok (ins, r) =>
        let t := readyTo s g i (f.code.length - r.length)
        if uniformInstr ins && emptyMask (active t) then done t else exec ins t
      | .error _ => .next (raiseAll (readyTo s g i 1) cILLEGAL_OPCODE 0#64)
  | none => exec .clauseStart (readyTo s g i 0)

/-- Did an issue stall: the fragment stands where it stood (R35, R267)? -/
def stalled (s t : State) (g i : Nat) : Bool := decide (fragAt t g i = fragAt (readyTo s g i 0) g i) ||
  decide (fragAt t g i = { fragAt s g i with npc := (fragAt t g i).npc, asks := (fragAt t g i).asks })

/-- May a fragment at a header that has not been fetched start the clause, as the fetch would find it: is its WAIT clear, or
is there no clause to read (R33, R414)? -/
def unfetchedClear (s : State) (g i : Nat) : Bool :=
  let f := fragAt s g i
  match (fetch s g f.pc).2 with
  | .words ws => hdrWait ((ws[wordIx f.pc]?).getD 0#32) &&& flagMask (gAt s g) == 0
  | .fault _ => true

/-- Is a fragment that may be taken ready: one at a header only with WAIT clear (R33, R414)? -/
def fragReady (s : State) (g i : Nat) : Bool :=
  fragIssues s g i && ((fragAt s g i).mid || !(fragAt s g i).code.isEmpty || unfetchedClear s g i)

/-- Has a fragment an instruction in hand? A header, and the fetch of a clause, occupy no lane time (R33). -/
def hasInstr (f : Frag) : Bool := f.mid && !f.code.isEmpty

/-- Counts an issue: the fragment starts afresh, the others of its lane that were ready were passed over (R414). An
instruction of a clause is counted by its cluster (R405). Where only a clause has been started or fetched nothing has issued. -/
def countIssue (s t : State) (x : Nat × Nat) (ready : List (Nat × Nat)) : State :=
  let t := { (if (gAt t x.1).stall.isSome then updG t x.1 fun g => { g with stall := none } else t) with nextId := t.nextId + 1 }
  if hasInstr (fragAt s x.1 x.2) then
    let t := ready.foldl (fun t y =>
      if y == x || !fragReady s y.1 y.2 then t else updF t y.1 y.2 fun f => { f with passed := f.passed + 1 }) t
    let t := if isLive (fragAt t x.1 x.2) then updF t x.1 x.2 fun f => { f with passed := 0, issued := t.nextId } else t
    pmcCount t (clusterPmcs (coreOf x.1 / 16)) 0x02 1
  else t

/-- A stall on a full flag is noted in the group (R35), and an FRLD's place among those that wait for a slot (R334). -/
def keepStall (s t : State) (g i : Nat) : State :=
  let s := if (gAt t g).stall = (gAt s g).stall then s else updG s g fun x => { x with stall := (gAt t g).stall }
  if (fragAt t g i).asks = (fragAt s g i).asks then s
  else updF { s with nextId := t.nextId } g i fun f => { f with asks := (fragAt t g i).asks }

/-- Does an issue take a trap of its group while an access of the group that changes memory is performed in part? The
trap then waits, so that what it reports in OUAPC has had no effect on memory (R260; log entry 140, DEDUCED). -/
def trapEarly (s t : State) (g : Nat) : Bool := (gAt s g).traps != (gAt t g).traps && inPart s g

/-- Has a fragment, taken at a header that had not been fetched, only come to know its WAIT, which is not clear: its clause
does not start, and nothing has issued (R33, R414)? -/
def onlyFetched (s t : State) (g i : Nat) : Bool :=
  let f := fragAt t g i
  !(fragAt s g i).mid && (fragAt s g i).code.isEmpty && !f.mid && !f.code.isEmpty && f.pc == (fragAt s g i).pc &&
    f.wait == .no && (f.st == .ready || f.st == .handler) && hdrWait f.hdr &&& flagMask (gAt t g) != 0

/-- The first of some fragments whose issue does not stall. -/
def issueFirst (s : State) (ready : List (Nat × Nat)) : List (Nat × Nat) → Res
  | [] => .next s
  | x :: r =>
    if heldByStall s x.1 x.2 then issueFirst s ready r
    else match issue s x.1 x.2 with
    | .next t =>
      if trapEarly s t x.1 then issueFirst s ready r
      else if onlyFetched s t x.1 x.2 then issueFirst t (ready.filter (· != x)) r
      else if stalled s t x.1 x.2 then issueFirst (keepStall s t x.1 x.2) ready r
      else .next (countIssue s t x ready)
    | .fault e => .fault e
    | .refused e => .refused e

/-- A lane issues (R414). -/
def laneIssue (s : State) (c l : Nat) : Res :=
  if !coresRun s then .next s
  else
    let ready := laneReady s c l
    issueFirst s ready (byChoice s ready)

/-! Steps of the part that may be due. Each is harmless when it is not. -/

/-- The OSD takes the tail write of an OPPUSH once its shadow write has completed (R325). -/
def takePush (g : Nat) (p : Pend) (s : State) : Res :=
  let slot := (gAt s g).ctx
  match p.accs with
  | a :: _ =>
    let v := w64 (a.x.toNat + a.y.toNat * 2 ^ 32)
    if pushDue s slot p.op v = some (g, p.id) then streamTail slot p.op v s else .next s
  | [] => .next s

/-- Some registers of some threads return: which, is free (R36, log entry 3). -/
def someData (g id : Nat) (s : State) : Res :=
  let n := freeHere s
  execLoadComplete g id (w32 n, n / 2 ^ 32) (spend s)

/-- The old words of some threads return: which, is free (R36, log entry 3). -/
def someOld (g id : Nat) (s : State) : Res := execAtomicComplete g (id, w32 (freeHere s)) (spend s)

/-- Every thread. -/
def allThreads : Word := 0xFFFFFFFF#32

/-- For the operations of a group. -/
def pendSteps (g : Nat) (p : Pend) : List (State → Res) :=
  match p.kind with
  | .load =>
    (distinct ((p.accs.filter fun a => !a.got && !p.scratch).map fun a => lineOf a.pa)).map (execHomeRead g p.id) ++
      [execLoadComplete g p.id (allThreads, allRegs), someData g p.id]
  | .pgreq | .value => [execLoadComplete g p.id (allThreads, allRegs), someData g p.id]
  | .atomic | .scaleq => [execAtomicComplete g (p.id, allThreads), someOld g p.id]
  | .amax => [execAtomicComplete g (p.id, allThreads), execStoreComplete g p.id]
  | .store | .flush | .rx | .record => [execStoreComplete g p.id]
  | .push => [takePush g p]
  | _ => []

/-- For a waiting fragment. -/
def waitSteps (g i : Nat) (f : Frag) : List (State → Res) :=
  match f.wait with
  | .sleep .. => [execSleepWake g i]
  | .await .. | .awaited .. | .gang .. => [execFragmentWake g i]
  | .evwait .. => [execEvwaitWake g i]
  | .rngw .. => [execRngwWake g i]
  | .mbxrd .. => [execMbxrdWake g i]
  | .qwait .. => [execQwaitWake g i]
  | .lbcl .. => [execLbclWake g i]
  | .frc .. => [execFrcWake g i]
  | .wtime .. => [execWtimeWake g i]
  | .fence .. => [execFenceWake g i]
  | .record => [execHandlerStart g i]
  | _ => []

/-- For a group. -/
def groupSteps (g : Nat) (x : Group) : List (State → Res) :=
  x.pend.flatMap (pendSteps g) ++ x.frags.flatMap (fun e => waitSteps g e.1 e.2) ++
  (if x.ending && x.quiet then [execGroupEnd g] else []) ++
  (if x.roll && x.quiet then [execGroupRollback g] else []) ++
  (if x.frags.any fun e => e.2.st == .merging then [execFragmentMerge g] else [])

/-- For the engines of the cores. -/
def coreSteps (s : State) : List (State → Res) :=
  s.rdvs.map (fun r => execCinchRelease (r.blk / 4) r.id) ++
  s.mxq.flatMap (fun o => if o.perf then
      o.mem.flatMap fun m => if m.fin then [] else
        [if o.op ≤ 0xA4 then execMatrixOpComplete o.core o.id m.g else execAttentionOpComplete o.core o.id m.g]
    else [execMxeQueuePerform o.core]) ++
  (s.banks.filter fun e => e.2.drain).map (fun e => execBankDrainComplete (e.1 / 32) (e.1 % 32)) ++
  s.strq.flatMap (fun e =>
    execStreamerActivate (e.1 / 4) (e.1 % 4) :: e.2.map fun m =>
      if m.op = 0xBA then execQueueFenceLeave (e.1 / 4) m.id
      else if m.moved then execStreamerComplete (e.1 / 4) (e.1 % 4) m.id
      else execStreamerChunk (e.1 / 4) (e.1 % 4) m.id)

/-- For the homes and the engines of the dies. -/
def engineSteps (s : State) : List (State → Res) :=
  s.hw.map (fun r => execHomeWrite r.id) ++
  s.kvq.flatMap (fun e => if e.2.isEmpty then [] else [execKvAccept e.1, execKvComplete e.1]) ++
  (List.range 32).flatMap (fun t => if tceIdle s t && (tceHead s t).isNone then [] else [execMigrationResult t]) ++
  s.invs.map fun i => execInvalidationComplete i.id

/-- The decoding step of a stream's next instruction. -/
def decodeSteps (s : State) (k : Nat) : List (State → Res) :=
  let c := k / 64
  let n := k % 64
  let x := streamAt s c n
  if x.st ≠ 1 || x.ti = x.hi then []
  else if x.held || x.waiting ≠ 0 then [execDecodeResume c n]
  else match (opFetch s c n).map opOpc with
    | some 1 | none => [execOprun c n]
    | some 2 => [execOpcopy c n]
    | some 3 => [execOpwait c n]
    | some 4 => [execOpsig c n]
    | some 5 => [execOpfence c n]
    | some 6 => [execOpjump c n]
    | some 7 => [execOpend c n]
    | some 8 => [execOppin c n]
    | some _ => [execOpamax c n]

/-- For the scheduler of operators. -/
def osdSteps (s : State) : List (State → Res) :=
  s.streams.flatMap (fun e => decodeSteps s e.1) ++
  s.pops.map (fun p => execOpsigSignal p.ctx p.stream) ++
  s.ops.flatMap (fun e => execPointFire e.1 :: (e.2.points.filter fun p => opOpc e.2.ins == 2 && p.st == .taken).map fun p =>
    execOpcopyPointComplete e.1 p.l) ++
  (if s.ops.isEmpty then [] else [execTokenGrant]) ++
  (if s.ops.isEmpty && !(s.blocks.any fun e => e.2.due) then [] else [execJobDispatch]) ++
  (if s.recon + 100000 ≤ s.gt && !s.streams.isEmpty then [execStreamReconcile] else [])

/-- For the contexts. -/
def ctxSteps (s : State) : List (State → Res) :=
  s.ctxs.flatMap (fun e =>
    (if e.2.st = 2 then [execPreemptDeadline e.1, execPreemptHardDeadline e.1, execContextSave e.1] else []) ++
    (if e.2.st = 1 && e.2.hold then [ctxResume e.1] else [])) ++
  s.blocks.flatMap fun e => if (ctxAt s e.2.ctx).st = 2 then [execForcedSaveDecision (e.1 / 4) (e.1 % 4)] else []

/-- For the paths and links. -/
def fabricSteps (s : State) : List (State → Res) :=
  s.paths.flatMap (fun e =>
    if e.2.recv then
      (if e.2.acked ≠ e.2.seqa || e.2.close.isSome then [execRxWriteApply e.1] else []) ++
      (match nextFlit s e.1 with
        | some f =>
          if f.kind ≤ 2 then [execRxWriteApply e.1]
          else match leNat ((f.payload.drop 40).take 8) with
            | 1 => [execEventInc e.1]
            | 2 => [execEventMir e.1]
            | _ => [execEventSub e.1]
        | none => [])
    else
      (if (nextWrite s e.2.ctx e.2.peer).isSome then [execReflectorForward e.1] else []) ++
      (if e.2.st = 1 && e.2.since + s.ptmo ≤ s.gt then [execPathAckTimeout e.1] else [])) ++
  s.rxq.flatMap (fun f => match f.kind with
    | 4 => ((pathOf s f.ctx f.src false).map fun k => execPathAckReceive k f.pseq).toList
    | 5 => ((pathOf s f.ctx f.src true).map fun k => execPathClosedReceive k f.pseq).toList
    | 6 => ((pathOf s f.ctx f.src false).map fun k => execPathDownReceive k f.pseq).toList
    | _ => []) ++
  (if s.refl.isEmpty then [] else (List.range 384).map execSliceReport) ++
  s.ports.flatMap (fun e => [execFlitSend e.1, execFlitReplayTimeout e.1]) ++
  (if s.slotEn then [execSlotEnd, execSlotStart] else [])

/-- Units that may be blocked on a queue in use (R282). -/
def probeUnits (s : State) : List Nat :=
  s.mbox.map (fun e => 8 * e.1) ++ s.strq.map (fun e => 8 * e.1 + 1) ++ [2] ++ s.paths.map (fun e => 8 * e.1 + 3) ++
  s.fw.map fun e => 8 * e.1 + 4

/-- Has a look at a unit something to do: note that it is blocked, or no longer, or send its token (R282)? -/
def probeDue (s : State) (u : Nat) : Bool :=
  let t := Store.get s.blocked u
  if probeBlocked s u then t == 0 || (decide (t + probeTime ≤ s.gt + 1) && !s.probes.any fun p => p.origin == u) else t != 0

/-- For faults and probes. -/
def faultSteps (s : State) : List (State → Res) :=
  (if s.fq.opened.isEmpty then [] else [execFaultBatchTimeout, execFaultBatchFull]) ++
  (if s.fq.deliver.isEmpty then [] else [execFaultDelivery]) ++
  ((probeUnits s).filter (probeDue s)).map execProbeTimeout ++ s.probes.map fun p => execProbeToken p.origin

/-- For the host link: its oldest request that waits (R259). -/
def hostSteps (s : State) : List (State → Res) := if s.hostq.isEmpty then [] else [hostNext]

/-- Every step of the part that may be due. -/
def partSteps (s : State) : List (State → Res) :=
  (if coresRun s then s.groups.flatMap (fun e => groupSteps e.1 e.2) ++ coreSteps s else []) ++ engineSteps s ++ osdSteps s ++ ctxSteps s ++ fabricSteps s ++ faultSteps s ++
  hostSteps s

/-- The lanes on which some fragment may issue. -/
def busyLanes (s : State) : List (Nat × Nat) :=
  let ls := s.groups.foldl (fun acc e =>
    let x := (coreOf e.1, e.2.lane)
    if e.2.present && !acc.contains x then acc ++ [x] else acc) []
  if coresRun s then ls.filter fun x => !(laneReady s x.1 x.2).isEmpty else []

/-! Time. -/

/-- Lanes of a cluster without a ready group, and arrivals at its Cinches (R405). -/
def idleLanes (s : State) (cl : Nat) : Nat := 512 - ((busyLanes s).filter fun x => x.1 / 16 == cl).length
def arrivedIn (s : State) (cl : Nat) : Nat :=
  (s.rdvs.filter fun r => r.blk / 64 == cl).foldl (fun n r => n + r.arrs.length) 0

/-- Time passes: n gt are 2 n ck (R5, R405). -/
def timePasses (s : State) (n : Nat) : State :=
  let s := { s with gt := s.gt + n }
  if s.pmc.isEmpty then s
  else
    let s := (List.range 32).foldl (fun s c =>
      let t := pmcCount (pmcCount s (clusterPmcs c) 0x01 (2 * n)) (clusterPmcs c) 0x03 (2 * n * idleLanes s c)
      pmcCount t (clusterPmcs c) 0x21 (2 * n * arrivedIn s c)) s
    (List.range 2).foldl (fun s b => pmcCount s (bridgePmcs b) 0x01 (2 * n)) s

/-! One move. -/

/-- Is this a step of the part, which an agenda may name: it has no word, and is not the start of a clause, which lanes
make? -/
def isPartStep (i : Instr) : Bool := (encode i).isEmpty && i != .clauseStart

/-- Is this a step of a core or its engines, which take none while they are held in reset (R460, R462, R468)? -/
def coreStep : Instr → Bool
  | .fragmentMerge _ | .handlerStart .. | .fragmentWake .. | .sleepWake .. | .wtimeWake .. | .evwaitWake .. | .rngwWake ..
  | .mbxrdWake .. | .qwaitWake .. | .lbclWake .. | .frcWake .. | .fenceWake .. | .groupEnd _ | .loadComplete ..
  | .l1LeaseExpiry .. | .storeComplete .. | .atomicComplete .. | .homeRead .. | .bankDrainComplete .. | .cinchRelease ..
  | .mxeQueuePerform _ | .matrixOpComplete .. | .attentionOpComplete .. | .streamerActivate .. | .streamerChunk ..
  | .streamerComplete .. | .queueFenceLeave .. | .groupRollback _ => true
  | _ => false

/-- A move that an agenda names. -/
def takeTurn (s : State) : Turn → Res
  | .lane c l => laneIssue s c l
  | .act i => if isPartStep i && (!coreStep i || coresRun s) then exec i s else .next s
  | .prefetch c slot va => .next (prefetchCode s c slot va)
  | .forget k => .next (forgetEntry s k)
  | .host => hostNext s
  | .firmware store proc slot va a n => .next (firmwareMove store proc slot va a n s)
  | .mctpUnit n => .next (setMctpUnit s n)
  | .time n => .next (timePasses s n)

/-- What a cache does of its own accord: a code cache takes any block of any context (R40), a translation cache makes any
walk, or drops any entry (R350): which, is free (log entry 3). -/
def cacheAny (s : State) : Res :=
  let n := freeHere s
  let k := n / 3
  match n % 3 with
  | 0 => .next (prefetchCode (spend s) (k % 512) (k / 512 % 64) (k / 32768 * 64 % vaEnd))
  | 1 => execPageWalk (k % 549) (k / 549 % 64) (k / 35136 % 2 ^ 36) (spend s)
  | _ => .next (forgetEntry (spend s) (k % (s.tlb.length + 1)))

/-- The moves that are possible. -/
def possible (s : State) : List (State → Res) :=
  (busyLanes s).map (fun x s => laneIssue s x.1 x.2) ++ partSteps s ++
  (if s.groups.isEmpty then [] else [cacheAny])

/-- The part moves by itself: one possible move, a free choice where there are several, and one gt. -/
def moveOn (s : State) : Res :=
  let ts := possible s
  match pickOf s ts with
  | none => .next (timePasses s 1)
  | some t =>
    match t (if ts.length ≤ 1 then s else spend s) with
    | .next s' => .next (timePasses s' 1)
    | .fault e => .fault e
    | .refused e => .refused e

/-- Without power only a power-on happens (R460, R462). -/
def powerless (s : State) : Turn → Res
  | .act (.powerOn m r) => execPowerOn m r s
  | _ => .next s

/-- One move of the machine: the agenda's next, else one of its own. -/
def move (s : State) : Res :=
  match s.agenda with
  | t :: rest =>
    let s := { s with agenda := rest }
    if s.power then takeTurn s t else powerless s t
  | [] => if s.power then moveOn s else .fault .noPower

/-- A fragment that is not ready starts its count of passes afresh (R414). -/
def resetPassed (s : State) : State :=
  s.groups.foldl (fun s e =>
    e.2.frags.foldl (fun s f =>
      if f.2.passed == 0 || (groupIssues s e.1 && fragReady s e.1 f.1 && !heldByStall s e.1 f.1) then s
      else updF s e.1 f.1 fun f => { f with passed := 0 }) s) s

/-- A unit that is no longer blocked is not blocked for 4,096 ck on end (R282). -/
def settleBlocked (s : State) : State :=
  if s.blocked.isEmpty then s else { s with blocked := Store.keep s.blocked (probeBlocked s) }

/-- After a move a rotation whose time has come starts (R449), reserve entries go back and times of blocking end (R282), and passes
are counted afresh (R414). -/
def settle (s : State) : State := resetPassed (settleBlocked (settleReserve (rotationStart s)))

/-- What a move leaves. -/
def settled : Res → Res
  | .next s => .next (settle s)
  | .fault e => .fault e
  | .refused e => .refused e

/-! Placing an instruction (see `State.withFetchWord`). -/

/-- A launch header of one role-0 group with 192 vector registers and PRV = 1 (R409). -/
def placeHeader : Nat := 192 * 2 ^ (512 + 64) + 2 ^ (512 + 72) + 2 ^ (512 + 83)

/-- A clause header with SETA = 0, SETB = 1 and LEN = 15 (R31). -/
def placeClause : Word := w32 (15 * 2 ^ 8 + 1 * 2 ^ 12)

/-- A state whose next move is the issue of the words of an instruction by fragment 0 of group 0, on lane 0 of core 0, of
a context in RUN in slot 0: the agenda names that lane's turn (log entry 31). -/
def withInstr (s : State) (ws : List Word) : State :=
  let g := freshGroup placeHeader 0 0 ⟨0, 0, 0, 0, 0⟩
  let f : Frag := { (default : Frag) with
    st := .ready, mask := 0xFFFFFFFF#32, pc := 4#64, hdr := placeClause, mid := true, code := ws }
  { s with
    agenda := [.lane 0 0], power := true, image := 1, lfcUp := true, lrcHold := false, tripHold := false
    ctxs := Store.upd s.ctxs 0 fun c => { c with st := 1, hdr := placeHeader, mask := 1, resuming := (0, 0) }
    blocks := Store.set s.blocks 0 { (default : Block) with present := true, bars := freshBars }
    groups := Store.set s.groups 0 { g with frags := [(0, f)] } }

end Sys2Proof.Machine
end

