-- ==== Sys2Proof/Machine/Step.lean ====
section
/-! DEFINITION. The step of the machine. -/

namespace Sys2Proof.Machine

/-- One step. -/
def step (s : State) : Host.Outcome State Fault Refusal := settled (move s)

/-- The state `s` with an instruction placed as the next that the machine issues: a program comes to run by a LAUNCH
(R410), and this stands for one with a single group in a role with PRV = 1, whose only fragment stands at the
instruction, inside a clause whose header sets SETA and SETB (log entry 31, DEDUCED). The bits above `nbits` are zero. -/
def State.withFetchWord (s : State) (nbits w : Nat) : State :=
  withInstr s (wordsOf (leBytes 12 (w % 2 ^ nbits)))

end Sys2Proof.Machine
end

