-- ==== Sys2Proof/Safety.lean ====
section
/-! DEFINITION. The terms in which claims are stated: which parts of the state an instruction leaves alone, which threads it
executes for, and what a destination holds afterwards. -/

namespace Sys2Proof.Machine

/-! Frames. -/

/-- Every byte of memory and of the local stores reads as before. -/
def SameMemory (s t : State) : Prop :=
  (∀ a, memByte t a = memByte s a) ∧ ∀ k, Store.get t.ls k = Store.get s.ls k

/-- Nothing of the part differs but the acting group: not a byte of memory, no other group, no other register. -/
def OnlyGroup (s t : State) : Prop :=
  t = { s with groups := t.groups } ∧ (∀ g, g ≠ s.curG → gAt t g = gAt s g) ∧ SameMemory s t

/-- In the acting group only the register files, FLAGS and SRGEN may differ, and the acting fragment goes on after the
instruction (R33); MODE, MASK and the trap registers stay, as do the other fragments, the stack, the region, GANG, the
descriptor slots and the pending operations. -/
def RegFrame (s t : State) : Prop :=
  OnlyGroup s t ∧
  cg t = { cg s with v := (cg t).v, s := (cg t).s, p := (cg t).p, flags := (cg t).flags, srgen := (cg t).srgen
                     frags := (cg t).frags } ∧
  (∀ i, i ≠ s.curF → fragAt t s.curG i = fragAt s s.curG i) ∧ cf t = (cf s).onward

/-- The three register files of the acting group are as before. -/
def SameRegs (s t : State) : Prop := (cg t).v = (cg s).v ∧ (cg t).s = (cg s).s ∧ (cg t).p = (cg s).p

/-- FLAGS and the stochastic generator are as before. -/
def SameFlags (s t : State) : Prop := (cg t).flags = (cg s).flags ∧ (cg t).srgen = (cg s).srgen

/-- In the acting group only the acting fragment differs. -/
def OnlyFragment (s t : State) : Prop :=
  OnlyGroup s t ∧ cg t = { cg s with frags := (cg t).frags } ∧
  ∀ i, i ≠ s.curF → fragAt t s.curG i = fragAt s s.curG i

/-- Nothing differs but that the acting fragment goes on after the instruction. -/
def OnlyGoesOn (s t : State) : Prop := OnlyFragment s t ∧ cf t = (cf s).onward

/-! Threads and destinations. -/

/-- The threads that an instruction with this destination executes for: the lowest-numbered active one in the uniform class
(R15), else the active threads that the guard selects (R57). -/
def execThreads (s : State) (d : Opnd) : List Nat :=
  match d with
  | .s _ => (lowest (active s)).toList
  | _ => threads (selected s)

/-- A destination of `k` registers has taken word `i` of each result: in the threads of a mask in the vector class, of the
lowest-numbered active thread in the uniform class; no other register differs (R26, R30): nul discards it. -/
def WroteIn (m : Word) (s t : State) (d : Opnd) (k : Nat) (val : Nat → Nat → Word) : Prop :=
  match d with
  | .v n =>
    (∀ r j, j < 32 → rdV (cg t) r j =
      if n ≤ r ∧ r < n + k ∧ m.getLsbD j then val j (r - n) else rdV (cg s) r j) ∧
    (cg t).s = (cg s).s ∧ (cg t).p = (cg s).p
  | .s n =>
    (∀ r, rdS (cg t) r = match lowest (active s) with
      | some l => if n ≤ r ∧ r < n + k then val l (r - n) else rdS (cg s) r
      | none => rdS (cg s) r) ∧
    (cg t).v = (cg s).v ∧ (cg t).p = (cg s).p
  | _ => SameRegs s t

/-- The same for an instruction that executes under the guard (R57). -/
def Wrote (s t : State) (d : Opnd) (k : Nat) (val : Nat → Nat → Word) : Prop := WroteIn (selected s) s t d k val

/-- FLAGS has taken the bits that the executing threads raise (R61). -/
def RaisedFlags (s t : State) (d : Opnd) (fl : Nat → Nat) : Prop :=
  (cg t).flags = (cg s).flags ||| w32 (orFlags ((execThreads s d).map fl))

/-- A predicate holds `f` in the selected threads, and no other register differs (R54). -/
def WrotePred (s t : State) (p : Nat) (f : Nat → Bool) : Prop :=
  (∀ j, j < 32 → pbit (cg t) p j = if (selected s).getLsbD j then f j else pbit (cg s) p j) ∧
  (∀ q, q ≠ p → rdP (cg t) q = rdP (cg s) q) ∧ (cg t).v = (cg s).v ∧ (cg t).s = (cg s).s

/-- Words written over consecutive s registers by an instruction that executes once, none for nul; nothing else of the
register files differs. -/
def WroteUniform (s t : State) (d : Opnd) (ws : List Word) : Prop :=
  match d with
  | .s n => (∀ r, rdS (cg t) r = if n ≤ r ∧ r < n + ws.length then ws.getD (r - n) 0#32 else rdS (cg s) r) ∧
      (cg t).v = (cg s).v ∧ (cg t).p = (cg s).p
  | _ => SameRegs s t

/-! Stochastic rounding (R82). -/

/-- The generator after n steps. -/
def srAfter : Nat → Word → Word
  | 0, x => x
  | n + 1, x => srStep (srAfter n x)

/-- The value that the n-th rounding of an instruction takes: 0 but under RSR. -/
def drawn (mode : Nat) (x : Word) (n : Nat) : Nat := if mode = 5 then srVal (srAfter (n + 1) x) else 0

/-- The generator after n roundings. -/
def generatorAfter (mode : Nat) (x : Word) (n : Nat) : Word := if mode = 5 then srAfter n x else x

/-- How many of the executing threads come before one. -/
def turnOf (s : State) (d : Opnd) (j : Nat) : Nat := ((execThreads s d).takeWhile (· != j)).length

/-- The results of an instruction that makes `n` roundings for each thread, in ascending order of threads: `f j k` gives
from thread j's number and the number k of roundings made before its own the words and the FLAGS bits. -/
def RoundedResults (s t : State) (d : Opnd) (words n : Nat) (f : Nat → Nat → List Word × Nat) : Prop :=
  Wrote s t d words (fun j i => (f j (n * turnOf s d j)).1.getD i 0#32) ∧
  RaisedFlags s t d (fun j => (f j (n * turnOf s d j)).2) ∧
  (cg t).srgen = generatorAfter (mRound (cf s).mode) (cg s).srgen (n * (execThreads s d).length) ∧
  RegFrame s t

/-! Traps (R418, R420). -/

/-- The threads of `flt` of the acting group took a trap of a cause as the group's next one; of the group nothing else
differs but its fragments (R73). -/
def TrapNoted (s t : State) (cause : Nat) (flt : Word) : Prop :=
  cg t = { cg s with frags := (cg t).frags, traps := (cg s).traps + 1, last := (cg t).last } ∧
  ∀ j, j < 32 → Store.get (cg t).last j =
    if flt.getLsbD j then ((cg s).traps + 1) * 256 + cause % 256 else Store.get (cg s).last j

/-- The trap registers that a trap of threads `flt` of the acting fragment sets, in a fragment of some threads (R75, R418).
OUAPC is the address of the oldest operation of the group with an access not performed, the access that traps among them where
`own` says that the trap is one of an access (R75, R260, R476; log entry 142, DEDUCED). -/
def trapRegs (s : State) (cause : Nat) (mask flt : Word) (fadr : Quad) (own : Bool := false) : TrapRegs :=
  { cause := cause, pc := (cf s).pc, fadr := fadr, frgmsk := mask, fltmsk := flt
    oua := oldestPc s s.curG (if own then (cf s).pc else 0#64), rgnpc := (cg s).rgnpc }

/-- The acting fragment took a trap of a cause with its threads `flt`: it is a HANDLER at TRAPENT with the trap registers set
and an empty private stack, it kept its MODE, and nothing else of the part differs but what the group notes of the trap. -/
def Trapped (s t : State) (cause : Nat) (flt : Word) (fadr : Quad) (own : Bool := false) : Prop :=
  OnlyGroup s t ∧ TrapNoted s t cause flt ∧ (∀ i, i ≠ s.curF → fragAt t s.curG i = fragAt s s.curG i) ∧
  cf t = { cf s with
    st := .handler, pc := w64 (hdrTrap (cctx s).hdr), mask := active s, mid := false, code := [], pstk := [], asks := 0
    trap := trapRegs s cause (active s) flt fadr own, wait := .no }

/-! Issue (R34, R35). -/

/-- The flag that the acting fragment's clause gives an operation class has room (R35). -/
def flagOpen (s : State) (cls : Nat) : Prop := flagFull s cls = false

/-- The acting group has one more pending operation, the newest; nothing else of the part differs but the operation count,
the region's OK bit, and that the acting fragment goes on. -/
def Pended (s t : State) (cls : Nat) (p : Pend → Prop) : Prop :=
  (∃ q : Pend, (cg t).pend = (cg s).pend ++ [q] ∧ q.id = s.nextId ∧ q.flag = flagFor (cf s).hdr cls ∧
    q.pc = (cf s).pc ∧ p q) ∧
  t = { s with groups := t.groups, nextId := s.nextId + 1 } ∧
  (∀ g, g ≠ s.curG → gAt t g = gAt s g) ∧ SameMemory s t ∧
  cg t = { cg s with pend := (cg t).pend, frags := (cg t).frags, rgnx := (cg t).rgnx } ∧
  (∀ i, i ≠ s.curF → fragAt t s.curG i = fragAt s s.curG i) ∧ cf t = (cf s).onward

/-- Memory in its canonical form. -/
def MemCanonical (s : State) : Prop := Memory.wf s.mem = true

end Sys2Proof.Machine
end

