-- ==== Sys2Proof/WellFormed.lean ====
section
/-! DEFINITION. Which instructions are well formed: every field holds a value its role admits, every
selector a defined code, and at most two literal words follow (R25 to R29, R43). -/

namespace Sys2Proof

open Sys2Proof.Machine

/-- A step of the part has no word, so nothing of it can be ill formed. -/
def wellFormed (i : Instr) : Bool :=
  match form i with
  | some f => f.legal
  | none => true

end Sys2Proof
end

