-- ==== Sys2Proof/Certificates/Slice0/Obligations.lean ====
section
/-! DEFINITION. The statements for the provers. -/

namespace Sys2Proof.Claim

open Sys2Proof Sys2Proof.Machine

/-! What several statements share. Each rule is about one constructor of `Instr`, given as a function of its operands, and
holds in every state and for every operand. -/

/-- An exact result as an element of `w` bits with its FLAGS bits: under SAT clamped to the signed range, else wrapped
(R79, R125). -/
def satResult (w : Nat) (sat : Bool) (x : Int) : Nat × Nat :=
  if sat then (wrapN w (max (sMin w) (min x (sMax w))), if x < sMin w ∨ sMax w < x then fSAT else 0)
  else (wrapN w x, 0)

/-- An integer instruction on elements (R124, R125): for each executing thread, element i of the result and its FLAGS bits
come from element i of A, of B and of the old D under the packing and SAT of MODE, and nothing else differs. -/
def Packed (mk : Opnd → Opnd → Opnd → Instr) (f : Nat → Bool → Nat → Nat → Nat → Nat × Nat) : Prop :=
  ∀ (s : State) (d a b : Opnd),
    let w := packWidth (mIpack (cf s).mode)
    let r := fun j i => f w (mSat (cf s).mode) (elem w i (src s .pack a j)) (elem w i (src s .pack b j)) (elem w i (srcAt s d 0 j))
    ∃ (t : State) (val : Nat → Word), exec (mk d a b) s = .next t ∧ Wrote s t d 1 (fun j _ => val j) ∧
      (∀ j i, i < 32 / w → elem w i (val j) = (r j i).1) ∧
      RaisedFlags s t d (fun j => orFlags ((List.range (32 / w)).map fun i => (r j i).2)) ∧
      (cg t).srgen = (cg s).srgen ∧ RegFrame s t

/-- An instruction that writes one word per executing thread, computed from what the thread reads, and raises no flag. -/
def Word1 (s : State) (i : Instr) (d : Opnd) (val : Nat → Word) : Prop :=
  ∃ t, exec i s = .next t ∧ Wrote s t d 1 (fun j _ => val j) ∧ SameFlags s t ∧ RegFrame s t

/-- An instruction that writes one predicate in the selected threads (R54, R57). -/
def Pred1 (s : State) (i : Instr) (p : BitVec 3) (f : Nat → Bool) : Prop :=
  ∃ t, exec i s = .next t ∧ WrotePred s t p.toNat f ∧ SameFlags s t ∧ RegFrame s t

/-- An instruction that rounds each element once (R82, R142): `f` answers from the drawn value, the thread and the element
the encoding and its FLAGS bits. -/
def Rounds (s : State) (i : Instr) (d : Opnd) (w n : Nat) (f : Nat → Nat → Nat → Nat × Nat) : Prop :=
  ∃ t, exec i s = .next t ∧ RoundedResults s t d 1 n (fun j k =>
    let rs := (List.range n).map fun e => f (drawn (mRound (cf s).mode) (cg s).srgen (k + e)) j e
    ([w32 (fromElems w (rs.map (·.1)))], orFlags (rs.map (·.2))))

/-- An arithmetic instruction on the elements of FTYPE: the exact value of each element, rounded once (R83 to R86, R142). -/
def Arith (s : State) (i : Instr) (d : Opnd) (exact : Nat → Nat → Val) : Prop :=
  let m := fmode s
  Rounds s i d m.fmt.width (32 / m.fmt.width) fun v j e => m.fmt.finish m.mode false m.ftz v (exact j e)

/-- The acting fragment becomes `f`; nothing else of the part differs. -/
def Becomes (s : State) (i : Instr) (f : Frag) : Prop := ∃ t, exec i s = .next t ∧ OnlyFragment s t ∧ cf t = f

/-- The acting fragment waits and gives up its lane; a HANDLER fragment stays HANDLER (R33). -/
def Waits (s : State) (i : Instr) (w : Wait) : Prop :=
  Becomes s i { cf s with st := if (cf s).st = .handler then .handler else .waiting, wait := w }

/-- What the check of an access of `n` bytes at an address says (R224, R225, R246). -/
def reach (s : State) (k : AccKind) (a : Opnd) (nrz : Bool) (va n : Nat) : Checked :=
  if isLs a then checkScratch s va n else checkGlobal s k nrz va n

/-- Access `c` is that of thread c.t of a memory instruction with address operands a and b: its address, its width, and the
place that the check found; a load that NRZ excuses holds zeros already (R229). -/
def AccessOf (s : State) (k : AccKind) (a b : Opnd) (nrz : Bool) (n : Nat) (c : Acc) : Prop :=
  c.va = addrOf s a b c.t ∧ c.n = n ∧ match reach s k a nrz c.va n with
    | .ok pa pl w => c.pa = pa ∧ c.pl = pl ∧ c.win = w ∧ c.got = false ∧ c.zero = false
    | .zero => c.got = true ∧ c.zero = true ∧ c.bs = List.replicate n 0#8
    | .trap _ _ => False

/-- A memory instruction with address operands a and b (R227, R246, R247); `shut` says that it closes the region (R416).
With no executing thread it only goes on; with a full flag it stalls and holds back its group where some access passes its
check (R35); where every executing thread's access passes it becomes one pending operation with one access for each executing
thread, in ascending order; and where every active thread executes and all fail without a fault record, they trap with the
cause and the address of the lowest, and OUAPC is the instruction itself if nothing older is pending (log entry 142, DEDUCED). -/
def Issues (s : State) (i : Instr) (d : Opnd) (cls : Nat) (shut : Bool) (k : AccKind) (a b : Opnd) (nrz : Bool) (n : Nat)
    (p : Pend → Prop) : Prop :=
  let js := execThreads s d
  let s0 := if shut then updCG s fun g => { g with rgnx := g.rgnx &&& 0x7FFFFFFF#32 } else s
  let passes := fun j => ∀ c r, reach s k a nrz (addrOf s a b j) n ≠ .trap c r
  ((∃ j ∈ js, passes j) → ¬flagOpen s cls → exec i s = .next (stallHere s)) ∧
  (js = [] → ∃ t, exec i s = .next t ∧ OnlyGoesOn s0 t) ∧
  (flagOpen s cls → js ≠ [] → (∀ j ∈ js, passes j) →
    ∃ t, exec i s = .next t ∧ Pended s t cls fun q =>
      q.accs.map (·.t) = js ∧ (∀ c ∈ q.accs, AccessOf s k a b nrz n c) ∧ q.scratch = isLs a ∧ p q) ∧
  (∀ j cause, (cf s).st = .ready → lowest (active s) = some j → (uniform d = true ∨ selected s = active s) →
    (∀ x ∈ js, ∃ c, reach s k a nrz (addrOf s a b x) n = .trap c false) →
    reach s k a nrz (addrOf s a b j) n = .trap cause false →
    ∃ t, exec i s = .next t ∧ Trapped s0 t cause (active s) (w64 (addrOf s a b j)) (cause != cOPERAND))

/-- The state after a closing instruction has cleared the region's OK bit (R416). -/
def shut (s : State) : State := updCG s fun g => { g with rgnx := g.rgnx &&& 0x7FFFFFFF#32 }

/-- The acting fragment once a wait of its instruction is over at once: after the instruction, READY or as a HANDLER. -/
def afterWait (s : State) : Frag :=
  { (cf s).onward with wait := .no, kept := if (cf s).kept = .waiting then .ready else (cf s).kept }

/-- The acting fragment is READY or a HANDLER, and nothing that a fence of its group at scope C waits for is under way: no
earlier access, no dirty byte and no write-back of its block, and the global time is beyond LCT (R240). -/
def AtRest (s : State) : Prop :=
  ((cf s).st = .ready ∨ (cf s).st = .handler) ∧
  (∀ p ∈ (cg s).pend, p.kind.counted = false) ∧
  (∀ k ∈ lineBanks s (blkOf s.curG), ∀ t, t < 256 → (l1At s (coreOf s.curG) k t).dirty = 0) ∧
  (∀ r ∈ s.hw, r.wb = true → r.blk ≠ some (blkOf s.curG)) ∧ (bAt s (blkOf s.curG)).lct < s.gt

/-- An arrival at the Cinch that clashes with no open rendezvous (R163): the fragment waits, and its member joins the
rendezvous of its block and GANG, or opens one. -/
def Arrives (s s0 : State) (i : Instr) (m : Member) : Prop :=
  clashes s0 m = [] → ∃ t, exec i s = .next t ∧
    OnlyFragment s0 { t with rdvs := s.rdvs, nextId := s.nextId } ∧ t.nextId = s.nextId + 1 ∧
    cf t = { cf s with st := if (cf s).st = .handler then .handler else .waiting, wait := .cinch } ∧
    ((∀ r ∈ s.rdvs, ¬(r.blk = blkOf m.g ∧ r.gang = m.gang)) → t.rdvs = s.rdvs ++ [⟨s.nextId, blkOf m.g, m.gang, [m]⟩]) ∧
    ((∃ r ∈ s.rdvs, r.blk = blkOf m.g ∧ r.gang = m.gang) →
      t.rdvs = s.rdvs.map fun r => if r.blk = blkOf m.g ∧ r.gang = m.gang then { r with arrs := r.arrs ++ [m] } else r)

/-- A command of an engine joins the tail of queue q of its core as one pending operation (R274). -/
def Queued (s s0 : State) (i : Instr) (q : Nat) (m : Cmd) : Prop :=
  ∃ t, exec i s = .next t ∧
    (Pended s0 { t with strq := s.strq } 2 fun p => p.kind = .engine ∧ p.dst = .nul) ∧
    strQueue t (coreOf s.curG) q = strQueue s (coreOf s.curG) q ++ [{ m with id := s.nextId, pend := s.nextId }] ∧
    ∀ k, k ≠ 4 * coreOf s.curG + q → Store.get t.strq k = Store.get s.strq k

/-- An instruction whose values are ready at issue and are written when its flag clears (R34, R36). -/
def Values (s : State) (i : Instr) (d : Opnd) (ws : List Word) : Prop :=
  ∃ t, exec i s = .next t ∧ Pended s t 1 fun q => q.kind = .value ∧ q.dst = d ∧ q.uni = true ∧ q.done = true ∧
    q.accs.map (·.bs) = [ws.flatMap fun w => leBytes 4 w.toNat]

/-- The fragment takes a trap of all its threads. -/
def Traps (s s0 : State) (i : Instr) (cause : Nat) (fadr : Quad) : Prop :=
  (cf s).st = .ready → ∃ t, exec i s = .next t ∧ Trapped s0 t cause (active s) fadr

/-- A trap of a HANDLER fragment froze its group as a violating master: every live fragment is FROZEN and keeps its state, the
HANDLER its trap registers and the PC of its trap, and the violation is recorded (R419, R422, R433). -/
def Froze (s t : State) (cause : Nat) (flt : Word) : Prop :=
  ∃ u, OnlyGroup s u ∧ cg u = { cg s with viol := some cause, frags := (cg u).frags } ∧
    cf u = { cf s with st := .frozen, kept := .handler, asks := 0, mid := true, code := [], wait := .no } ∧
    (∀ i, i < 8 → i ≠ s.curF → fragAt u s.curG i =
      if (fragAt s s.curG i).st = .free ∨ (fragAt s s.curG i).st = .frozen then fragAt s s.curG i
      else { fragAt s s.curG i with st := .frozen, kept := (fragAt s s.curG i).st, asks := 0 }) ∧
    t = violation u 0 cause (ctxidOf s (cg s).ctx) (cf s).pc.toNat flt.toNat (groupMid s.curG)

/-- An s register, pair or quad written by an instruction that executes once; FLAGS, the generator and all else as before. -/
def Uniform (s s0 : State) (i : Instr) (d : Opnd) (ws : List Word) : Prop :=
  ∃ t, exec i s = .next t ∧ WroteUniform s t d ws ∧ SameFlags s t ∧ RegFrame s0 t

/-- The wait of fragment f of group g of state s is over in t: the fragment goes on after its instruction, READY or as a
HANDLER, and the s registers of d hold ws (R36); nothing else of the part differs. -/
def Woken (s t : State) (g f : Nat) (d : Opnd) (ws : List Word) : Prop :=
  t = { s with groups := t.groups } ∧ (∀ h, h ≠ g → gAt t h = gAt s h) ∧
  gAt t g = { gAt s g with s := (gAt t g).s, frags := (gAt t g).frags } ∧
  (∀ i, i ≠ f → fragAt t g i = fragAt s g i) ∧
  fragAt t g f = { (fragAt s g f).onward with
    st := if (fragAt s g f).st = .waiting then .ready else (fragAt s g f).st
    kept := if (fragAt s g f).kept = .waiting then .ready else (fragAt s g f).kept
    wait := .no } ∧
  match d with
  | .s n => ∀ r, rdS (gAt t g) r = if n ≤ r ∧ r < n + ws.length then ws.getD (r - n) 0#32 else rdS (gAt s g) r
  | _ => (gAt t g).s = (gAt s g).s

/-- Operation p of group g is complete in t: it is no longer pending and its FLAGS bits have merged (R35, R62); nothing else
of the part differs. -/
def Completed (s t : State) (g : Nat) (p : Pend) : Prop :=
  t = { s with groups := t.groups } ∧ (∀ h, h ≠ g → gAt t h = gAt s h) ∧
  gAt t g = { gAt s g with pend := (gAt s g).pend.filter fun q => q.id != p.id, flags := (gAt s g).flags ||| w32 p.fl }

/-- A record that an instruction writes to memory, once its pages can be written: its bytes are at their homes, and the
operation waits for their completion time (R258). -/
def Saves (s : State) (i : Instr) (va : Nat) (bs : List Byte) (p : State → Prop) : Prop :=
  ∀ places, globalRange (shut s) (coreCaches (coreOf s.curG)) (cg s).ctx va bs.length true = .inl places →
    ∃ t q, exec i s = .next t ∧ t.mem = (putPlaces (shut s) none (zipBytes places bs)).1.mem ∧
      (cg t).pend = (cg s).pend ++ [q] ∧ q.kind = .record ∧
      q.time = (putPlaces (shut s) none (zipBytes places bs)).2 ∧ p t

/-- Memory after bytes of some places have been written in order: the last byte written to an address stays. -/
def HoldsBytes (s t : State) (bs : List (Nat × Byte)) : Prop :=
  ∀ x, memByte t x = match bs.reverse.find? fun e => e.1 == x with
    | some e => e.2
    | none => memByte s x

/-- No migration redirects a line and no context has a running event table, so that writes go where they are sent and stay
as they are (R220, R310). -/
def Plain (s : State) : Prop := s.migs = [] ∧ ∀ e ∈ s.ctxs, e.2.evpages = []

end Sys2Proof.Claim

open Sys2Proof Sys2Proof.Machine Sys2Proof.Claim

/-! Decoding, the step, memory. -/

/-- Words of several families, written out from the encoding tables, decode to the instructions they stand for (R24 to
R28). -/
def Obligations.DecodesWrittenWords : Prop :=
  -- ADD v4, v5, v6: opcode 0x20, D 0x04, A 0x05, B 0x06
  decode 0x20040506#32 [] = .ok (.add (.v 4) (.v 5) (.v 6), []) ∧
  -- MOV v4, #0x12345678: opcode 0x3F, A 0xFF takes the literal word
  decode 0x3F04FF00#32 [0x12345678#32, 7#32] = .ok (.mov (.v 4) (.lit 0x12345678#32), [7#32]) ∧
  -- LDW v4, [s4 + v2]: opcode 0x84, A 0xC4, B 0x02
  decode 0x8404C402#32 [] = .ok (.ldw (.v 4) (.s 4) (.v 2), []) ∧
  -- SETM field NRZ and NRP from a literal: opcode 0x0B, mask 0x40 in D
  decode 0x0B40FF00#32 [0x0001A000#32] = .ok (.setm 0x40#8 (.lit 0x0001A000#32), []) ∧
  -- opcode 0x16 is reserved
  decode 0x16000000#32 [] = .error .illegalOpcode ∧
  -- a literal beyond the end of the clause
  decode 0x3F04FF00#32 [] = .error .illegalClause

/-- Decoding what the encoder makes of any well-formed instruction gives the instruction back, with the words that
follow it, whatever they are (R24 to R29, R232). -/
def Obligations.EncodeDecode : Prop :=
  ∀ (i : Instr), wellFormed i = true → ∀ (w : Word) (ls rest : List Word),
    encode i = w :: ls → decode w (ls ++ rest) = .ok (i, rest)

/-- A lane's turn runs the decoded instruction: where the agenda lets lane l of core c issue, the processors run, the
fragment that the lane chooses (R414) stands inside a clause, and the words from its PC on decode to instruction i and make
no decode trap, the step is exec of i, or goes on where i is of the uniform class and no thread is active (R15), after which
the issue is counted, unused reserve entries go back, and the counts of passes and the times of blocking that have ended start
afresh. A fragment that a stall of its group holds back is passed over (R35). The agenda, and the wait of a trap for an access
performed in part, are the model's own (log entries 1 and 140). -/
def Obligations.StepRunsDecoded : Prop :=
  ∀ (s : State) (c l g f : Nat) (rest : List Turn) (q : List (Nat × Nat)) (w : Word) (ws r : List Word) (i : Instr) (t : State),
    let s' := { s with agenda := rest }
    let u := readyTo s' g f ((w :: ws).length - r.length)
    s.agenda = .lane c l :: rest → s.power = true → coresRun s' = true → byChoice s' (laneReady s' c l) = (g, f) :: q →
    heldByStall s' g f = false → (fragAt s' g f).mid = true → (fragAt s' g f).code = w :: ws → decode w ws = .ok (i, r) →
    faultAt s' g f = none →
    (if uniformInstr i = true ∧ active u = 0#32 then .next (advance u) else exec i u) = .next t →
    trapEarly s' t g = false → stalled s' t g f = false →
    step s = .next (settle (countIssue s' t (g, f) (laneReady s' c l)))

/-- A step of the part that the agenda names is exec of that step, after which unused reserve entries go back and ended counts
of passes and times of blocking start afresh; a step of a core or of its engines happens only while the cores run, and is
passed over while they are held in reset (R460, R462, R468). The agenda is the model's own (log entry 1). -/
def Obligations.StepRunsAgenda : Prop :=
  ∀ (s : State) (i : Instr) (rest : List Turn), s.agenda = .act i :: rest → s.power = true → isPartStep i = true →
    step s = settled (if coreStep i = true ∧ coresRun s = false then .next { s with agenda := rest }
      else exec i { s with agenda := rest })

/-- Memory is in its canonical form right after reset. That an unlisted byte reads 0 is the model's choice (log entry 2). -/
def Obligations.ResetMemoryCanonical : Prop := MemCanonical State.reset

/-- Every step keeps memory in its canonical form: addresses strictly rise and no byte that reads 0 is listed. The form is
the model's (log entry 2). -/
def Obligations.StepKeepsMemoryCanonical : Prop :=
  ∀ (s t : State), MemCanonical s → step s = .next t → MemCanonical t

/-! Integer instructions. -/

/-- ADD, SUB, MUL, MULH, MULHN, MAD, ABS, MIN, MAX, MINN and MAXN on elements (R124, R125); DIV, DIVN, REM and REMN on
elements, a zero divisor giving the values of R126 with DZ. -/
def Obligations.IntegerArithmetic : Prop :=
  Packed .add (fun w sat a b _ => satResult w sat (sgn w a + sgn w b)) ∧
  Packed .sub (fun w sat a b _ => satResult w sat (sgn w a - sgn w b)) ∧
  Packed .mul (fun w sat a b _ => satResult w sat (sgn w a * sgn w b)) ∧
  Packed .mad (fun w sat a b d => satResult w sat (sgn w a * sgn w b + sgn w d)) ∧
  Packed (fun d a _ => .abs d a) (fun w sat a _ _ => satResult w sat ((sgn w a).natAbs : Int)) ∧
  Packed .mulh (fun w _ a b _ => (wrapN w (sgn w a * sgn w b / 2 ^ w), 0)) ∧
  Packed .mulhn (fun w _ a b _ => (a * b / 2 ^ w, 0)) ∧
  Packed .min (fun w _ a b _ => (if sgn w a ≤ sgn w b then a else b, 0)) ∧
  Packed .max (fun w _ a b _ => (if sgn w a ≤ sgn w b then b else a, 0)) ∧
  Packed .minn (fun _ _ a b _ => (min a b, 0)) ∧
  Packed .maxn (fun _ _ a b _ => (max a b, 0)) ∧
  Packed .div (fun w sat a b _ =>
    if b = 0 then (if sgn w a < 0 then 2 ^ (w - 1) else 2 ^ (w - 1) - 1, fDZ)
    else satResult w sat ((sgn w a).tdiv (sgn w b))) ∧
  Packed .divn (fun w _ a b _ => if b = 0 then (2 ^ w - 1, fDZ) else (a / b, 0)) ∧
  Packed .rem (fun w _ a b _ => if b = 0 then (a, fDZ) else (wrapN w ((sgn w a).tmod (sgn w b)), 0)) ∧
  Packed .remn (fun _ _ a b _ => if b = 0 then (a, fDZ) else (a % b, 0))

/-- SHL, SHR, SAR, ROT, CLZ, POPC and BREV on elements: a shift by the width or more gives zeros, or copies of the sign;
ROT turns left by the count modulo the width (R125). -/
def Obligations.ShiftsAndCounts : Prop :=
  Packed .shl (fun w _ a n _ => (if w ≤ n then 0 else a * 2 ^ n % 2 ^ w, 0)) ∧
  Packed .shr (fun w _ a n _ => (if w ≤ n then 0 else a / 2 ^ n, 0)) ∧
  Packed .sar (fun w _ a n _ => (wrapN w (sgn w a / 2 ^ min n w), 0)) ∧
  Packed .rot (fun w _ a n _ => ((a * 2 ^ (n % w) + a / 2 ^ (w - n % w)) % 2 ^ w, 0)) ∧
  Packed (fun d a _ => .clz d a) (fun w _ a _ _ => (((List.range w).filter fun i => decide (a < 2 ^ i)).length, 0)) ∧
  Packed (fun d a _ => .popc d a) (fun w _ a _ _ => (((List.range w).filter fun i => bit a i).length, 0)) ∧
  Packed (fun d a _ => .brev d a) (fun w _ a _ _ => (fromElems 1 ((List.range w).map fun i => a / 2 ^ (w - 1 - i) % 2), 0))

/-- AND, OR, XOR, ANDN and MOV on words (R125); BFE and BFI, bit by bit (R128): the field at bits [4:0] of B, of the width
in [13:8], cut at bit 31; BFE extends it by its highest bit where bit 15 is set, BFI puts the low bits of A into the old D. -/
def Obligations.WordLogic : Prop :=
  ∀ (s : State) (d a b : Opnd),
    Word1 s (.and d a b) d (fun j => src s .plain a j &&& src s .plain b j) ∧
    Word1 s (.or d a b) d (fun j => src s .plain a j ||| src s .plain b j) ∧
    Word1 s (.xor d a b) d (fun j => src s .plain a j ^^^ src s .plain b j) ∧
    Word1 s (.andn d a b) d (fun j => src s .plain a j &&& ~~~src s .plain b j) ∧
    Word1 s (.mov d a) d (fun j => src s .plain a j) ∧
    ∃ (x y : Nat → Word),
    Word1 s (.bfe d a b) d x ∧ Word1 s (.bfi d a b) d y ∧
    ∀ j k, k < 32 →
      let c := (src s .plain b j).toNat
      let pos := bits c 4 0
      let n := min (pos + bits c 13 8) 32 - pos
      (x j).getLsbD k = (if k < n then (src s .plain a j).getLsbD (pos + k)
        else decide (0 < n) && bit c 15 && (src s .plain a j).getLsbD (pos + n - 1)) ∧
      (y j).getLsbD k = if pos ≤ k ∧ k < pos + n then (src s .plain a j).getLsbD (k - pos) else (srcAt s d 0 j).getLsbD k

/-- ADDC and SUBB (R127): a 33-bit sum with p7 as the carry in, or a difference with p7 as the borrow in; p7 takes the carry
or borrow of each thread written, and in the uniform class that of the one execution in every active thread. -/
def Obligations.CarryChain : Prop :=
  ∀ (s : State) (d a b : Opnd),
    let A := fun j => (src s .plain a j).toNat
    let B := fun j => (src s .plain b j).toNat
    let C := fun j => b2n (pbit (cg s) 7 j)
    let Chained := fun (i : Instr) (val : Nat → Word) (out : Nat → Bool) =>
      ∃ t, exec i s = .next t ∧ RegFrame s t ∧ SameFlags s t ∧
        Wrote s (updCG t fun g => { g with p := (cg s).p }) d 1 (fun j _ => val j) ∧
        (∀ q, q ≠ 7 → rdP (cg t) q = rdP (cg s) q) ∧
        ∀ j, j < 32 → pbit (cg t) 7 j =
          if uniform d then (if (active s).getLsbD j then out ((lowest (active s)).getD 0) else pbit (cg s) 7 j)
          else if (selected s).getLsbD j then out j else pbit (cg s) 7 j
    Chained (.addc d a b) (fun j => w32 (A j + B j + C j)) (fun j => decide (2 ^ 32 ≤ A j + B j + C j)) ∧
    Chained (.subb d a b) (fun j => src s .plain a j - src s .plain b j - w32 (C j)) (fun j => decide (A j < B j + C j))

/-- SEL (R129): every active thread is written, with A where the guard selects it and with B elsewhere; the uniform form
looks at the guard of the lowest-numbered active thread. -/
def Obligations.SelectByGuard : Prop :=
  ∀ (s : State) (d a b : Opnd), ∃ t, exec (.sel d a b) s = .next t ∧
    WroteIn (active s) s t d 1 (fun j _ =>
      if (guardMask (cg s) (cf s).mode).getLsbD j then src s .plain a j else src s .plain b j) ∧
    SameFlags s t ∧ RegFrame s t

/-- CMP, CMPN, FCMP, PAND, POR, PXOR and PSET write one predicate in the selected threads (R130 to R132, R146). -/
def Obligations.Predicates : Prop :=
  ∀ (s : State) (a b : Opnd) (c p q r : BitVec 3) (n m : BitVec 1),
    let x := fun j => pbit (cg s) q.toNat j != (n == 1#1)
    let y := fun j => pbit (cg s) r.toNat j != (m == 1#1)
    Pred1 s (.cmp c p a b) p (fun j => intCond c.toNat (src s .plain a j).toInt (src s .plain b j).toInt) ∧
    Pred1 s (.cmpn c p a b) p (fun j => intCond c.toNat (src s .plain a j).toNat (src s .plain b j).toNat) ∧
    Pred1 s (.fcmp c p a b) p (fun j => (List.range (32 / (fmode s).fmt.width)).all fun e =>
      Val.cond c.toNat (fsrc s (fmode s) a j e) (fsrc s (fmode s) b j e)) ∧
    Pred1 s (.pand p n q m r) p (fun j => x j && y j) ∧
    Pred1 s (.por p n q m r) p (fun j => x j || y j) ∧
    Pred1 s (.pxor p n q m r) p (fun j => x j ^^ y j) ∧
    Pred1 s (.pset p a) p (fun j => (src s .plain a j).getLsbD j)

/-- PGET and VOTE (R121, R132): the predicate as it is; the ballot, any, all and unanimity over the voting threads. -/
def Obligations.PredicatesRead : Prop :=
  ∀ (s : State) (d : Opnd) (p : BitVec 3) (n : BitVec 1) (k : BitVec 2),
    let voters := if uniform d then active s else selected s
    let v := fun j => pbit (cg s) p.toNat j != (n == 1#1)
    Word1 s (.pget d p) d (fun _ => rdP (cg s) p.toNat) ∧
    ∃ x, Word1 s (.vote d k n p) d (fun _ => x) ∧
      (k = 0#2 → ∀ j, j < 32 → x.getLsbD j = (voters.getLsbD j && v j)) ∧
      (k ≠ 0#2 → x = 0#32 ∨ x = 1#32) ∧
      (k = 1#2 → (x = 1#32 ↔ ∃ j, voters.getLsbD j = true ∧ v j = true)) ∧
      (k = 2#2 → (x = 1#32 ↔ ∀ j, voters.getLsbD j = true → v j = true)) ∧
      (k = 3#2 → (x = 1#32 ↔
        (∀ j, voters.getLsbD j = true → v j = true) ∨ ∀ j, voters.getLsbD j = true → v j = false))

/-- SHFL, SHUP, SHDN, QSWZ, QXH, QXV and QXD (R133, R134): thread j takes A of the thread that the rule names, active or not,
and 0 where it names none. In the uniform class A = tid is the lowest-numbered active thread's index, whichever thread is
named (R27). -/
def Obligations.Exchanges : Prop :=
  ∀ (s : State) (d a b : Opnd),
    let A := fun j => src s .plain a (if uniform d = true ∧ a = .tid then (lowest (active s)).getD 0 else j)
    let n := (usrc s b).toNat
    Word1 s (.shfl d a b) d (fun j => A ((src s .plain b j).toNat % 32)) ∧
    Word1 s (.shup d a b) d (fun j => if j < n then 0#32 else A (j - n)) ∧
    Word1 s (.shdn d a b) d (fun j => if 31 < j + n then 0#32 else A (j + n)) ∧
    Word1 s (.qswz d a b) d (fun j => A (j / 4 * 4 + n / 4 ^ (j % 4) % 4)) ∧
    Word1 s (.qxh d a) d (fun j => A (if j % 2 = 0 then j + 1 else j - 1)) ∧
    Word1 s (.qxv d a) d (fun j => A (if j % 4 < 2 then j + 2 else j - 2)) ∧
    Word1 s (.qxd d a) d (fun j => A (j / 4 * 4 + (3 - j % 4)))

/-- NIBL, NIBH and PRMT (R135, R136), byte by byte: the table byte that a nibble of A names; a byte of A and the old D, or 0. -/
def Obligations.ByteLookups : Prop :=
  ∀ (s : State) (d a b : Opnd), ∃ (x y z : Nat → Word),
    Word1 s (.nibl d a b) d x ∧ Word1 s (.nibh d a b) d y ∧ Word1 s (.prmt d a b) d z ∧
    ∀ j i, i < 4 →
      let table := fun k => byteOf (srcAt s b (k / 4) j) (k % 4)
      let c := (src s .plain b j).toNat
      let stride := match bits c 5 4 with
        | 0 => 1
        | 1 => 7
        | 2 => 0
        | _ => 2
      let k := (bits c 2 0 + i * stride) % 8
      byteOf (x j) i = table (byteOf (src s .plain a j) i % 16) ∧
      byteOf (y j) i = table (byteOf (src s .plain a j) i / 16) ∧
      byteOf (z j) i = if bit c (8 + i) then 0 else if k < 4 then byteOf (src s .plain a j) k else byteOf (srcAt s d 0 j) (k - 4)

/-- RADD, RMAX, RMIN, PSUM and PSUMX (R95, R96, R137, R138): every executing thread takes the root of the reduction tree over
the leaves, the identity where there is none; thread j of a prefix sum takes the combination of the leaves up to j, or before
j. The leaves are A of the selected threads, or of every active thread in the uniform class, where A = tid is the
lowest-numbered active thread's index in each leaf (R27). -/
def Obligations.IntegerReductions : Prop :=
  ∀ (s : State) (d a : Opnd),
    let w := packWidth (mIpack (cf s).mode)
    let leaf := fun j =>
      if (if uniform d then active s else selected s).getLsbD j then
        some (elems w (src s .pack a (if uniform d = true ∧ a = .tid then (lowest (active s)).getD 0 else j)))
      else none
    let add := fun x y => clampS w (mSat (cf s).mode) (sgn w x + sgn w y)
    let larger := fun x y => (if sgn w x < sgn w y then y else x, 0)
    let smaller := fun x y => (if sgn w y < sgn w x then y else x, 0)
    let All := fun (i : Instr) (r : Nat → Node × Nat) (ident : Nat) =>
      ∃ t, exec i s = .next t ∧
        Wrote s t d 1 (fun j _ => w32 (fromElems w ((r j).1.getD (List.replicate (32 / w) ident)))) ∧
        RaisedFlags s t d (fun j => (r j).2) ∧ (cg t).srgen = (cg s).srgen ∧ RegFrame s t
    All (.radd d a) (fun _ => nodeAt add leaf 5 0) 0 ∧
    All (.rmax d a) (fun _ => nodeAt larger leaf 5 0) (2 ^ (w - 1)) ∧
    All (.rmin d a) (fun _ => nodeAt smaller leaf 5 0) (2 ^ (w - 1) - 1) ∧
    All (.psum d a) (fun j => prefixOf add leaf (j + 1)) 0 ∧
    All (.psumx d a) (fun j => prefixOf add leaf j) 0

/-! Floating-point instructions. -/

/-- FADD, FSUB, FMUL, FMA, FMS, FSCAL and the transcendentals deliver for each element the exact value rounded once under
MODE, with the flags of R83 to R86, the threads in ascending order drawing from the generator under RSR (R82, R142, R145).
FMIN, FMAX, FABS, FNEG and, outside F32, H2F deliver each element exactly, without a flag (R143, R151). Tininess is the
reading of log entry 10. -/
def Obligations.FloatArithmetic : Prop :=
  ∀ (s : State) (d a b : Opnd) (k : BitVec 1),
    let m := fmode s
    let x := fun j e => fsrc s m a j e
    let y := fun j e => fsrc s m b j e
    let z := fun j e => m.val (srcAt s d 0 j) e
    Arith s (.fadd d a b) d (fun j e => (x j e).add m.mode (y j e)) ∧
    Arith s (.fsub d a b) d (fun j e => (x j e).add m.mode (y j e).flip) ∧
    Arith s (.fmul d a b) d (fun j e => (x j e).mul (y j e)) ∧
    Arith s (.fma d a b) d (fun j e => ((x j e).mul (y j e)).add m.mode (z j e)) ∧
    Arith s (.fms d a b) d (fun j e => ((x j e).mul (y j e)).add m.mode (z j e).flip) ∧
    Arith s (.fscal d a b) d (fun j e => (x j e).scale (sgn m.fmt.width (elem m.fmt.width e (src s .fp b j)))) ∧
    Arith s (.frcp d a) d (fun j e => Fn.rcp.eval (x j e)) ∧
    Arith s (.frsq d a) d (fun j e => Fn.rsq.eval (x j e)) ∧
    Arith s (.fsqrt d a) d (fun j e => Fn.sqrt.eval (x j e)) ∧
    Arith s (.fexp2 d a) d (fun j e => Fn.exp2.eval (x j e)) ∧
    Arith s (.flog2 d a) d (fun j e => Fn.log2.eval (x j e)) ∧
    Arith s (.fsin d a) d (fun j e => Fn.sin.eval (x j e)) ∧
    Arith s (.fcos d a) d (fun j e => Fn.cos.eval (x j e)) ∧
    Arith s (.ftanh d a) d (fun j e => Fn.tanh.eval (x j e)) ∧
    let Exact := fun (i : Instr) (f : Nat → Nat → Val) => Word1 s i d (fun j =>
      w32 (fromElems m.fmt.width ((List.range (32 / m.fmt.width)).map fun e => (m.fmt.finish 0 false false 0 (f j e)).1)))
    Exact (.fmin d a b) (fun j e => (fsrc s m a j e).min (fsrc s m b j e)) ∧
    Exact (.fmax d a b) (fun j e => (fsrc s m a j e).max (fsrc s m b j e)) ∧
    Exact (.fabs d a) (fun j e => (fsrc s m a j e).mag) ∧
    Exact (.fneg d a) (fun j e => (fsrc s m a j e).flip) ∧
    (mFtype (cf s).mode ≠ 0 →
      Word1 s (.h2f d a k) d (fun j => w32 (f32.finish 0 false false 0 (fsrc s m a j k.toNat)).1))

/-- FRND, FDOT2, F2I, F2N, I2F, N2F and F2H: one rounding for each element (R142, R144, R149 to R151); FDOT2 and F2H outside
F32. PK8 and UPK8 for every thread that reads a legal scale word, a READY fragment's threads whose scale word is not legal
raising OPERAND without a write (R152); QFPK and QFUPK (R153, R154). QFPK rounds a magnitude under RUP and RDN as log entry 12
says (DEDUCED); a whole fragment becomes the HANDLER (log entry 14), and threads outside the guard with it (log entry 17). -/
def Obligations.FloatConversions : Prop :=
  ∀ (s : State) (d a b : Opnd) (f : BitVec 3),
    let m := fmode s
    let w := m.fmt.width
    let n := 32 / w
    Rounds s (.frnd d a) d w n (fun v j e => match fsrc s m a j e with
      | .fin x => ((m.fmt.finish 1 false false 0 (.fin ⟨x.neg, (roundAt m.mode v x 0).1, 0, false⟩)).1,
          if (roundAt m.mode v x 0).2 then fNX else 0)
      | y => ((m.fmt.finish 1 false false 0 y).1, 0)) ∧
    Rounds s (.f2i d a) d w n (fun v j e =>
      let r := (fsrc s m a j e).toRange m.mode v m.sat (sMin w) (sMax w)
      (wrapN w r.1, r.2)) ∧
    Rounds s (.f2n d a) d w n (fun v j e =>
      let r := (fsrc s m a j e).toRange m.mode v m.sat 0 (2 ^ w - 1)
      (wrapN w r.1, r.2)) ∧
    Rounds s (.i2f d a) d w n (fun v j e => m.fmt.finish m.mode m.sat m.ftz v (Val.ofInt (sgn w (elem w e (src s .fp a j))))) ∧
    Rounds s (.n2f d a) d w n (fun v j e => m.fmt.finish m.mode m.sat m.ftz v (Val.ofInt (elem w e (src s .fp a j)))) ∧
    (mFtype (cf s).mode ≠ 0 →
      Rounds s (.fdot2 d a b) d 32 1 (fun v j _ =>
        let p := (fsrc s m a j 0).mul (fsrc s m b j 0)
        let q := (fsrc s m a j 1).mul (fsrc s m b j 1)
        let c := f32.dec m.ftz (srcAt s d 0 j).toNat
        let r := f32.finish m.mode false m.ftz v ((p.add m.mode q).add m.mode c)
        (r.1, r.2 ||| oppInf [p, q, c])) ∧
      Rounds s (.f2h d a b) d 16 2 (fun v j e =>
        m.fmt.finish m.mode m.sat m.ftz v (f32.dec m.ftz (src s .fp (if e = 0 then a else b) j).toNat))) ∧
    let ex := fun j => sgn 8 (bits (src s .fp b j).toNat 7 0)
    let code := fun j => bits (src s .fp b j).toNat 11 8
    let legal := fun j => (code j = 2 ∨ code j = 3 ∨ code j = 7 ∨ code j = 8) ∧ bits (src s .fp b j).toNat 7 0 ≠ 128
    let bad := badScale s d b
    (∀ r, b = .v r → uniform d = false → ∀ j, j < 32 →
      (bad.getLsbD j = true ↔ (selected s).getLsbD j = true ∧ ¬legal j)) ∧
    ((∀ r, b ≠ .v r) ∧ b ≠ .tid ∨ uniform d = true →
      ((∃ j ∈ execThreads s d, ¬legal j) → bad = active s) ∧ ((∀ j ∈ execThreads s d, legal j) → bad = 0#32)) ∧
    (∀ i ∈ [Instr.pk8 d a b, .upk8 d a b], (cf s).st = .ready → bad ≠ 0#32 →
      (bad = active s ∨ freeFrag (cg s) = none → ∃ t, exec i s = .next t ∧ Trapped s t cOPERAND bad 0#64) ∧
      -- the threads split off as a HANDLER, and the instruction runs for the others
      (bad ≠ active s → freeFrag (cg s) ≠ none →
        badScale (raiseSome s cOPERAND bad 0#64 [] id) d b = 0#32 ∧
        exec i s = exec i (raiseSome s cOPERAND bad 0#64 [] id))) ∧
    (bad = 0#32 →
      Rounds s (.pk8 d a b) d 8 4 (fun v j e => toByte m (code j) v ((f32.dec m.ftz (srcAt s a e j).toNat).scale (-(ex j)))) ∧
      ∃ t, exec (.upk8 d a b) s = .next t ∧ RoundedResults s t d 4 0 (fun j _ =>
        let rs := [0, 1, 2, 3].map fun i => f32.finish 0 m.sat m.ftz 0 ((elemVal (code j) (byteOf (src s .fp a j) i)).scale (ex j))
        (rs.map (fun r => w32 r.1), orFlags (rs.map (·.2))))) ∧
    (∃ t, exec (.qfpk d a f) s = .next t ∧ RoundedResults s t d (qfLen f) 16 (fun j k =>
      let r := qfEncode f.toNat m.mode (fun i => ((List.range 16).map fun i => drawn m.mode (cg s).srgen (k + i)).getD i 0)
        ((List.range 16).map fun i => f32.dec m.ftz (srcAt s a i j).toNat)
      (wordsUp (qfLen f) r.1, r.2))) ∧
    (qfBytes f.toNat ≠ 0 → ∃ t, exec (.qfupk d a f) s = .next t ∧ RoundedResults s t d 16 0 (fun j _ =>
      let bs := ((List.range (qfLen f)).map fun i => leBytes 4 (srcAt s a i j).toNat).flatten
      ((qfDecode f.toNat (bs.take (qfBytes f.toNat))).map fun v => w32 (f32.finish 0 false false 0 v).1, 0)))

/-- FRADD and FRMAX (R147): every executing thread takes the root of the tree over the leaves (R27, R137), FRADD rounding each
of its nodes, level by level and in ascending position; FRMAX of no leaf is minus infinity. That a leaf which meets no other
is read as any input is, with its subnormals flushed under FTZ and a canonical NaN, is the reading of log entry 132
(DEDUCED). -/
def Obligations.FloatReductions : Prop :=
  ∀ (s : State) (d a : Opnd),
    let m := fmode s
    let w := m.fmt.width
    let up := fun (x : List Node × Env) => faddLevel m x.1 x.2
    let tree := up (up (up (up (up ((List.range 32).map (fleaf s d a m), ⟨0, (cg s).srgen⟩)))))
    let top := fun x y => ((m.fmt.finish 0 false false 0 ((m.fmt.dec m.ftz x).max (m.fmt.dec m.ftz y))).1, 0)
    (∃ t, exec (.fradd d a) s = .next t ∧
      Wrote s t d 1 (fun _ _ => w32 (fromElems w ((tree.1.headD none).getD []))) ∧
      (cg t).flags = (cg s).flags ||| w32 tree.2.fl ∧ (cg t).srgen = tree.2.sr ∧ RegFrame s t) ∧
    Word1 s (.frmax d a) d (fun _ =>
      w32 (fromElems w ((nodeAt top (fleaf s d a m) 5 0).1.getD (List.replicate (32 / w) (m.fmt.infEnc true)))))

/-- FDOT2, F2H and H2F under F32 raise OPERAND for all threads of a READY fragment and write nothing (R144, R151); with no
thread to execute for they only go on (R57, R158). That the fragment itself becomes the HANDLER, and that threads outside the
guard trap with it, are the readings of log entries 14 and 17. -/
def Obligations.PackedTypeRequired : Prop :=
  ∀ (s : State) (d a b : Opnd) (k : BitVec 1), mFtype (cf s).mode = 0 →
    ∀ i ∈ [Instr.fdot2 d a b, .f2h d a b, .h2f d a k],
      ((cf s).st = .ready → execThreads s d ≠ [] → ∃ t, exec i s = .next t ∧ Trapped s t cOPERAND (active s) 0#64) ∧
      (execThreads s d = [] → ∃ t, exec i s = .next t ∧ OnlyGoesOn s t)

/-! Control instructions. -/

/-- NOP has no effect but to go on, and its only word is 0 (R113). -/
def Obligations.NopHasNoEffect : Prop :=
  (∀ s : State, ∃ t, exec .nop s = .next t ∧ OnlyGoesOn s t) ∧
  ∀ (w : Word) (ls rest : List Word), decode w ls = .ok (.nop, rest) ↔ w = 0#32 ∧ rest = ls

/-- BRA moves every active thread to the target, the offset counted from the instruction's fetch block; it pushes nothing
(R100, R101). -/
def Obligations.BranchAlways : Prop :=
  ∀ (s : State) (a : Opnd),
    let target := fblock (cf s).pc + (usrc s a).signExtend 64
    target.toNat % 64 = 0 → Becomes s (.bra a) { cf s with pc := target, mid := false, code := [] }

/-- BRC and BRX (R102 to R104): the whole fragment goes one way and pushes nothing, or the branch diverges where the pushes
fit: the deferred threads wait in PATH entries above the RECONV entry, unless that stands on top already, and the others go
on. In a READY fragment pushes that do not fit raise STACK and push nothing; a target or a join that it needs off a fetch
block raises ALIGN, and the threads of BRX on a v pair with such a target split off, the branch going on for the others. A
whole fragment becomes the HANDLER as log entry 14 says. -/
def Obligations.ConditionalBranches : Prop :=
  ∀ (s : State) (n : BitVec 1) (p : BitVec 3) (a b : Opnd) (taken : Word),
    let target := fblock (cf s).pc + (usrc s a).signExtend 64
    let join := if b = .zero then target else fblock (cf s).pc + (usrc s b).signExtend 64
    let pushed := fun (j : Quad) => if needRec s j then pushHere s ⟨0, j, active s, (cf s).mode⟩ else s
    let goTo := fun (q : Quad) => { cf s with pc := q, mid := false, code := [] }
    let Takes := fun (i : Instr) (cause : Nat) (flt : Word) (fadr : Quad) => ∃ t, exec i s = .next t ∧ Trapped s t cause flt fadr
    -- BRC
    ((∀ j, j < 32 → taken.getLsbD j = ((active s).getLsbD j && (pbit (cg s) p.toNat j != (n == 1#1)))) →
      (taken = active s → target.toNat % 64 = 0 → Becomes s (.brc n p a b) (goTo target)) ∧
      (taken = 0#32 → active s ≠ 0#32 → ∃ t, exec (.brc n p a b) s = .next t ∧ OnlyGoesOn s t) ∧
      (taken ≠ 0#32 → taken ≠ active s → target.toNat % 64 = 0 → join.toNat % 64 = 0 →
        roomFor s (b2n (needRec s join) + 1) = true →
        exec (.brc n p a b) s = .next (advance (updCF (pushHere (pushed join) ⟨1, target, taken, (cf s).mode⟩)
          fun f => { f with mask := active s &&& ~~~taken }))) ∧
      (taken ≠ 0#32 → (cf s).st = .ready →
        (target.toNat % 64 ≠ 0 → Takes (.brc n p a b) cALIGN (active s) target) ∧
        (taken ≠ active s → target.toNat % 64 = 0 → join.toNat % 64 ≠ 0 → Takes (.brc n p a b) cALIGN (active s) join) ∧
        (taken ≠ active s → target.toNat % 64 = 0 → join.toNat % 64 = 0 → roomFor s (b2n (needRec s join) + 1) = false →
          Takes (.brc n p a b) cSTACK (active s) 0#64))) ∧
    -- BRX on an s pair
    (∀ k, a = .s k → (w64 (rdPair (cg s) k)).toNat % 64 = 0 → Becomes s (.brx a b) (goTo (w64 (rdPair (cg s) k)))) ∧
    (∀ k, a = .s k → (w64 (rdPair (cg s) k)).toNat % 64 ≠ 0 → (cf s).st = .ready →
      Takes (.brx a b) cALIGN (active s) (w64 (rdPair (cg s) k))) ∧
    -- BRX on a v pair where threads have targets off a fetch block, the lowest of them x
    (∀ k off x, a = .v k → (cf s).st = .ready → lowest off = some x →
      let own := fun j => w64 ((rdV (cg s) k j).toNat + 2 ^ 32 * (rdV (cg s) (k + 1) j).toNat)
      (∀ j, j < 32 → (off.getLsbD j = true ↔ (active s).getLsbD j = true ∧ (own j).toNat % 64 ≠ 0)) →
      (off = active s ∨ freeFrag (cg s) = none → Takes (.brx a b) cALIGN off (own x)) ∧
      (off ≠ active s → freeFrag (cg s) ≠ none → exec (.brx a b) s = exec (.brx a b) (raiseSome s cALIGN off (own x) [] id))) ∧
    -- BRX on a v pair: x and then rest are the targets of the active threads, rising
    (∀ k x rest, a = .v k → (x :: rest).Pairwise (· < ·) → (∀ y ∈ x :: rest, y % 64 = 0) →
      (∀ y, y ∈ x :: rest ↔ ∃ j, (active s).getLsbD j = true ∧
        (w64 ((rdV (cg s) k j).toNat + 2 ^ 32 * (rdV (cg s) (k + 1) j).toNat)).toNat = y) →
      let of := fun y => maskOf ((threads (active s)).filter fun j =>
        (w64 ((rdV (cg s) k j).toNat + 2 ^ 32 * (rdV (cg s) (k + 1) j).toNat)).toNat == y)
      let joinX := fblock (cf s).pc + (usrc s b).signExtend 64
      (rest = [] → Becomes s (.brx a b) (goTo (w64 x))) ∧
      (rest ≠ [] → needRec s joinX = true → joinX.toNat % 64 ≠ 0 → (cf s).st = .ready →
        Takes (.brx a b) cALIGN (active s) joinX) ∧
      (rest ≠ [] → (needRec s joinX = true → joinX.toNat % 64 = 0) → (cf s).st = .ready →
        roomFor s (b2n (needRec s joinX) + rest.length) = false → Takes (.brx a b) cSTACK (active s) 0#64) ∧
      (rest ≠ [] → (needRec s joinX = true → joinX.toNat % 64 = 0) →
        roomFor s (b2n (needRec s joinX) + rest.length) = true →
        exec (.brx a b) s = .next (jump (updCF
          (rest.reverse.foldl (fun u y => pushHere u ⟨1, w64 y, of y, (cf s).mode⟩) (pushed joinX))
          fun f => { f with mask := of x }) (w64 x))))

/-- CALL, RET and SYNC (R106, R107): CALL pushes a RETURN entry to the next fetch block; RET and SYNC take their threads
(those in no other live fragment), MODE and PC from the entry they pop; SYNC at a RECONV entry goes on in place. On any
other entry, or none, a READY fragment takes STACK. A BRA or CALL to a target off a fetch block raises ALIGN (R39). The
taking out of other fragments' threads is the reading of log entry 15, the whole-fragment trap that of log entry 14; that
such a CALL raises ALIGN even where its push has no room is the model's choice (log entry 16). -/
def Obligations.CallsReturnsAndSync : Prop :=
  ∀ (s : State) (a : Opnd),
    let target := fblock (cf s).pc + (usrc s a).signExtend 64
    let took := fun (u : State) (e : StkEntry) => popHere (updCF u fun f => { f with mask := resumable u e, mode := e.mode })
    (target.toNat % 64 ≠ 0 → (cf s).st = .ready → ∀ i ∈ [Instr.bra a, .call a],
      ∃ t, exec i s = .next t ∧ Trapped s t cALIGN (active s) target) ∧
    (target.toNat % 64 = 0 → roomFor s 1 = true →
      exec (.call a) s = .next (jump (pushHere s ⟨2, fblock (cf s).pc + 64#64, active s, (cf s).mode⟩) target)) ∧
    (target.toNat % 64 = 0 → roomFor s 1 = false → (cf s).st = .ready →
      ∃ t, exec (.call a) s = .next t ∧ Trapped s t cSTACK (active s) 0#64) ∧
    (∀ e, topOf s = some e → e.kind = 2 → e.pc.toNat % 64 = 0 → exec .ret s = .next (jump (took s e) e.pc)) ∧
    ((∀ e, topOf s = some e → e.kind ≠ 2) → (cf s).st = .ready →
      ∃ t, exec .ret s = .next t ∧ Trapped s t cSTACK (active s) 0#64) ∧
    (∀ u e, popChain (fun e => e.kind == 1) 32 s = (u, .path e) → e.pc.toNat % 64 = 0 →
      exec .sync s = .next (jump (took u e) e.pc)) ∧
    (∀ u e, popChain (fun e => e.kind == 1) 32 s = (u, .recon e) → exec .sync s = .next (advance (took u e))) ∧
    (∀ e, topOf s = some e → e.kind = 1 → e.mask ≠ 0#32 → popChain (fun e => e.kind == 1) 32 s = (s, .path e)) ∧
    (∀ e, topOf s = some e → e.kind = 0 → popChain (fun e => e.kind == 1) 32 s = (s, .recon e)) ∧
    (topOf s = none ∨ (∃ e, topOf s = some e ∧ (e.kind = 2 ∨ e.kind = 3)) → (cf s).st = .ready →
      ∃ t, exec .sync s = .next t ∧ Trapped s t cSTACK (active s) 0#64)

/-- The reconvergence stack (R66, R104): an entry pushed is on top, one level deeper, and the entry under it comes back when
it is popped. The sixteenth and younger entries stay in hardware, an older one goes to its place in the stack area, and a pop
reads the newest of those back, the place's line meeting the L2 (R213, R405); a HANDLER fragment's pushes touch its private
stack alone. The stack area is written where it is mapped (log entry 13). -/
def Obligations.ReconvergenceStack : Prop :=
  ∀ (s : State) (e : StkEntry), topOf (pushHere s e) = some e ∧
    depthHere (pushHere s e) = depthHere s + 1 ∧
    ((cf s).st = .handler → OnlyFragment s (pushHere s e) ∧ cf (popHere (pushHere s e)) = cf s) ∧
    ((cf s).st ≠ .handler → (cg s).stk.length < 16 →
      OnlyGroup s (pushHere s e) ∧ cg (pushHere s e) = { cg s with stk := e :: (cg s).stk } ∧
      ((cg s).spilled = 0 → bits (cg s).rgnx.toNat 4 0 ≤ depthOf (cg s) → cg (popHere (pushHere s e)) = cg s)) ∧
    ((cf s).st ≠ .handler → (cg s).stk.length = 16 → ∀ old, (cg s).stk.getLast? = some old →
      cg (pushHere s e) = { cg s with stk := e :: (cg s).stk.dropLast, spilled := (cg s).spilled + 1 } ∧
      (pushHere s e).mem = (writeVa (meetStack s s.curG (cg s).spilled) (coreCaches (coreOf s.curG)) (cg s).ctx
        (hdrArea (cctx s).hdr + 512 * s.curG + 16 * (cg s).spilled) (leBytes 16 old.image)).mem) ∧
    -- a pop while entries are spilled, the newest of them standing in the stack area as `old`
    ((cf s).st ≠ .handler → (cg s).stk.length = 16 → ∀ k old, (cg s).spilled = k + 1 → old.kind < 4 → old.pc.toNat % 4 = 0 →
      readVa s (coreCaches (coreOf s.curG)) (cg s).ctx (hdrArea (cctx s).hdr + 512 * s.curG + 16 * k) 16 =
        some (leBytes 16 old.image) →
      OnlyGroup s { popHere s with l2 := s.l2, evmax := s.evmax, pmc := s.pmc, msix := s.msix, fresh := s.fresh } ∧
      cg (popHere s) = { cg s with
        stk := (cg s).stk.tail ++ [old], spilled := k
        rgnx := if 16 + k < bits (cg s).rgnx.toNat 4 0 then (cg s).rgnx &&& 0x7FFFFFFF#32 else (cg s).rgnx })

/-- EXIT, YIELD and SLEEP (R109 to R111). EXIT takes its threads out of every entry and every other fragment and goes to the
first entry that still holds threads; where none does, its fragment is free, and with the last fragment the group ends once
its operations are over. YIELD ends every fragment, one in the fence of its EVSIG or MBXDONE with that operation, which is
pending (R65). SLEEP waits from the time of its issue. Popped masks are read as log
entry 15 says, and an entry that names only threads of other fragments stays (log entry 126). -/
def Obligations.EndsAndSleeps : Prop :=
  ∀ (s u : State) (e : StkEntry) (a : Opnd),
    let start := popChain (fun _ => true) 32 (removeThreads s (active s))
    let took := popHere (updCF u fun f => { f with mask := resumable u e, mode := e.mode })
    let ended := updCF u fun _ => default
    let frees := start = (u, .empty) ∨ start = (u, .ret e) ∨
      ((start = (u, .path e) ∨ start = (u, .recon e)) ∧ e.pc.toNat % 64 = 0 ∧ resumable u e = 0#32)
    ((start = (u, .path e) ∨ start = (u, .recon e)) → e.pc.toNat % 64 = 0 → resumable u e ≠ 0#32 →
      exec .exit s = .next (endedDrop (jump took e.pc) s.curG)) ∧
    (frees → liveFrags (cg ended) ≠ [] → exec .exit s = .next (endedDrop ended s.curG)) ∧
    (frees → liveFrags (cg ended) = [] →
      exec .exit s = .next (rdvDrop (updCG ended fun g => { g with ending := true, yielded := false }) s.curG)) ∧
    exec .yield s = .next (rdvDrop (updCG s fun g =>
      { g with frags := g.frags.filter fun e => e.2.signals, stk := [], spilled := 0, ending := true, yielded := true }) s.curG) ∧
    Waits s (.sleep a) (.sleep s.gt (usrc s a).toNat)

/-- TRAP makes the fragment a HANDLER with cause SOFTWARE, the trap PC at the TRAP, and the code in FADR; RTE without a
target then goes on at the fetch block after the TRAP's, at the trap PC for any other cause, and with a target there (R112,
R420, R430). Outside a HANDLER fragment RTE raises OPERAND. The whole fragment becomes the HANDLER (log entry 14); the trap
registers stay after RTE (log entry 44). -/
def Obligations.TrapAndReturn : Prop :=
  ∀ (s : State) (a : Opnd) (k : Nat),
    let back := fun (pc : Quad) (mid : Bool) => { cf s with st := .ready, pstk := [], pc := pc, mid := mid, code := [] }
    ((cf s).st = .ready →
      (∃ t, exec (.trap a) s = .next t ∧ Trapped s t cSOFTWARE (active s) ((usrc s a).zeroExtend 64)) ∧
      ∃ t, exec (.rte a) s = .next t ∧ Trapped s t cOPERAND (active s) 0#64) ∧
    ((cf s).st = .handler →
      ((cf s).trap.cause = cSOFTWARE → Becomes s (.rte .zero) (back (fblock (cf s).trap.pc + 64#64) false)) ∧
      ((cf s).trap.cause ≠ cSOFTWARE → Becomes s (.rte .zero) (back (cf s).trap.pc true)) ∧
      ((w64 (rdPair (cg s) k)).toNat % 64 = 0 → Becomes s (.rte (.s k)) (back (w64 (rdPair (cg s) k)) false)))

/-- A trap of some of the threads of a READY fragment, with a fragment entry free, splits them off: the lowest free entry
becomes a HANDLER with those threads at TRAPENT, with the fragment's MODE and an empty stack, and the fragment goes on without
them (R69, R418), and OUAPC counts the access that traps (log entry 142, DEDUCED). A trap of a HANDLER fragment, such as its
TRAP, and a fifth push on its private stack, which is STACK, split nothing: the group freezes as a violating master with that
cause and the HANDLER's trap registers stay (R69, R419). What the group resumes at once it is unfrozen is the trap's PC
(R433). -/
def Obligations.TrapSplitsOrFreezes : Prop :=
  (∀ (s : State) (a : Opnd) (cause : Nat) (flt : Word) (fadr : Quad) (go : State → State),
    (cf s).st = .handler → s.curF < 8 → (∀ r ∈ s.rdvs, r.lists s.curG = false) →
      (flt ≠ 0#32 → Froze s (raiseSome s cause flt fadr [] go) cause flt) ∧
      (∃ t, exec (.trap a) s = .next t ∧ Froze s t cSOFTWARE (active s)) ∧
      ((fblock (cf s).pc + (usrc s a).signExtend 64).toNat % 64 = 0 → (cf s).pstk.length = 4 →
        ∃ t, exec (.call a) s = .next t ∧ Froze s t cSTACK (active s))) ∧
  ∀ (s : State) (cause : Nat) (flt : Word) (fadr : Quad) (i : Nat) (go : State → State) (own : Bool),
    (cf s).st = .ready → flt ≠ 0#32 → flt ≠ active s → freeFrag (cg s) = some i →
    ∃ t, raiseSome s cause flt fadr [] go own = go t ∧ OnlyGroup s t ∧ TrapNoted s t cause flt ∧
      cf t = { cf s with mask := active s &&& ~~~flt } ∧
      (∀ k, k ≠ s.curF → k ≠ i → fragAt t s.curG k = fragAt s s.curG k) ∧
      fragAt t s.curG i = { cf s with
        st := .handler, pc := w64 (hdrTrap (cctx s).hdr), mask := flt, mid := false, code := [], pstk := [], asks := 0
        trap := trapRegs s cause flt flt fadr own, wait := .no }

/-- SETM, GETM, MFS and MTS (R62, R74, R114, R115). SETM writes the fields that its mask selects, a value that R56 refuses
raises OPERAND; MTS to FLAGS clears, to MODE checks, elsewhere does nothing; GETM and MFS write every active thread whatever
the guard, and a read of GTLO takes the time latch. Traps are of the whole fragment (log entry 14). -/
def Obligations.ModeAndSystemRegisters : Prop :=
  ∀ (s : State) (m i : BitVec 8) (a d : Opnd),
    let field := fun (k : Nat) (x : Word) => if m.getLsbD k then x else 0#32
    let sel := field 0 0xF8000000#32 ||| field 1 0x07000000#32 ||| field 2 0x00E00000#32 ||| field 3 0x00180000#32 |||
      field 4 0x00040000#32 ||| field 5 0x00020000#32 ||| field 6 0x0001E000#32 ||| field 7 0x00001FF8#32
    let new := (cf s).mode &&& ~~~sel ||| usrc s a &&& sel
    let Moded := fun (i : Instr) (x : Word) =>
      (modeOk x = true → Becomes s i { (cf s).onward with mode := x }) ∧
      (modeOk x = false → (cf s).st = .ready → ∃ t, exec i s = .next t ∧ Trapped s t cOPERAND (active s) 0#64)
    Moded (.setm m a) new ∧ Moded (.mts 0#8 a) (usrc s a) ∧
    (∃ t, exec (.mts 1#8 a) s = .next t ∧ SameRegs s t ∧ (cg t).flags = (cg s).flags &&& ~~~usrc s a ∧
      (cg t).srgen = (cg s).srgen ∧ RegFrame s t) ∧
    (1 < i.toNat → ∃ t, exec (.mts i a) s = .next t ∧ OnlyGoesOn s t) ∧
    (∃ t, exec (.getm d) s = .next t ∧ WroteIn (active s) s t d 1 (fun _ _ => (cf s).mode) ∧ SameFlags s t ∧ RegFrame s t) ∧
    (i ≠ 0x0C#8 → ∃ t, exec (.mfs d i) s = .next t ∧ WroteIn (active s) s t d 1 (fun _ _ => sysReg s i.toNat) ∧
      SameFlags s t ∧ RegFrame s t) ∧
    ∃ t, exec (.mfs d 0x0C#8) s = .next t ∧ WroteIn (active s) s t d 1 (fun _ _ => w32 s.gt) ∧ SameFlags s t ∧
      (cg t).latch = some (w64 s.gt) ∧ RegFrame s (updCG t fun g => { g with latch := (cg s).latch })

/-- BAR, ARRIVE and AWAIT (R118 to R120): the completion step takes whole phases off COUNT; BAR refuses 0 and more than
65,535, ARRIVE more than 65,535, with OPERAND. ARRIVE counts once whatever the threads and reads PHASE after completion;
AWAIT goes on with PHASE once it is at or past the target, else it waits; a BAR or an ARRIVE that meets the condition of a
waiting AWAIT of the block ends it, whatever the barrier does later, and touches no other fragment. Traps are of the whole
fragment (log entry 14). -/
def Obligations.BlockBarriers : Prop :=
  ∀ (s : State) (k : BitVec 3) (b d : Opnd) (phase left : Nat),
    let x := barAt s k.toNat
    let n := (usrc s b).toNat
    let open_ := updCG s fun g => { g with rgnx := g.rgnx &&& 0x7FFFFFFF#32 }
    -- the barrier as it is now, and every waiting AWAIT of the block on it whose condition holds ended
    let met := fun (y : Bar) (x : Frag) => match x.wait with
      | .await d j t => if j = k.toNat ∧ (y.phase + 65536 - t % 65536) % 65536 < 32768 then { x with wait := .awaited d j } else x
      | _ => x
    let set := fun (y : Bar) =>
      let put := updB open_ (blkOf s.curG) fun c => { c with bars := Store.upd c.bars k.toNat fun _ => y }
      { put with groups := put.groups.map fun e => if blkOf e.1 = blkOf s.curG then
          (e.1, { e.2 with frags := e.2.frags.map fun x => (x.1, met y x.2) }) else e }
    let t := (usrc s b).toNat % 65536
    -- `phase` completed phases leave `left` arrivals
    (0 < n → n ≤ 65535 → x.count = phase * n + left → left < n →
      exec (.bar k b) s = .next (advance (set ⟨n, left, (x.phase + phase) % 65536⟩))) ∧
    (n = 0 ∨ 65535 < n → (cf s).st = .ready → ∃ t, exec (.bar k b) s = .next t ∧ Trapped open_ t cOPERAND (active s) 0#64) ∧
    (scratchWrites (cg s) = false →
      (n ≤ 65535 → x.count + n = phase * x.expect + left → left < x.expect →
        exec (.arrive d k b) s = .next (advance (updCG (set ⟨x.expect, left, (x.phase + phase) % 65536⟩) fun g =>
          wrDst g d [w32 ((x.phase + phase) % 65536)]))) ∧
      (65535 < n → (cf s).st = .ready → ∃ t, exec (.arrive d k b) s = .next t ∧ Trapped open_ t cOPERAND (active s) 0#64)) ∧
    (scratchWrites (cg s) = true → exec (.arrive d k b) s = .next s) ∧
    ((x.phase + 65536 - t) % 65536 < 32768 →
      ∃ u, exec (.await d k b) s = .next u ∧ WroteUniform s u d [w32 x.phase] ∧ SameFlags s u ∧ RegFrame s u) ∧
    (32768 ≤ (x.phase + 65536 - t) % 65536 → Waits s (.await d k b) (.await d k.toNat t))

/-- IPF, PIN and UNPIN (R122) go on and change only the code caches' contents and pins: IPF and PIN add contents as memory
holds them, IPF leaves the pins, PIN keeps each pin there was and every unit at or below half its lines, UNPIN removes
exactly the pins of its level in the range, whoever set them. A block comes to the code caches through its home, whose lines
and counters may follow (R213, R405). That cached code may be stale is the reading of log entry 41; when a block comes from
its home is that of log entry 145. -/
def Obligations.CodePrefetchAndPins : Prop :=
  ∀ (s : State) (l : BitVec 1) (a b : Opnd),
    let unit := codeUnit s l.toNat
    let lines := codeLines s (upair s a) (usrc s b).toNat
    let limit := if l = 0#1 then 256 else 4096
    let here := fun (v : CodeVer) => v.unit = unit ∧ v.ctx = (cg s).ctx ∧
      ∃ x ∈ lines, ∃ k, k < 3 ∧ v.pa = (x + k) * 64 ∧ v.bs = (List.range 64).map fun i => homeByte s (v.pa + i)
    let Cached := fun (i : Instr) (p : List CodePin → Prop) => ∃ t, exec i s = .next t ∧
      OnlyGoesOn s { t with code := s.code, pins := s.pins, l2 := s.l2, evmax := s.evmax, pmc := s.pmc, msix := s.msix, fresh := s.fresh } ∧ p t.pins ∧
      (∀ v ∈ s.code, v ∈ t.code) ∧ (∀ v ∈ t.code, v ∈ s.code ∨ here v)
    Cached (.ipf l a b) (fun q => q = s.pins) ∧
    Cached (.pin l a b) (fun q => (∀ p ∈ s.pins, p ∈ q) ∧
      (∀ p ∈ q, p ∈ s.pins ∨ p.unit = unit ∧ p.ctx = (cg s).ctx ∧ p.line ∈ lines) ∧
      ((s.pins.filter fun p => p.unit == unit).length ≤ limit → (q.filter fun p => p.unit == unit).length ≤ limit)) ∧
    ∃ t, exec (.unpin l a b) s = .next t ∧ OnlyGoesOn s { t with pins := s.pins } ∧
      ∀ p, p ∈ t.pins ↔ p ∈ s.pins ∧ ¬(p.unit = unit ∧ p.line ∈ lines)

/-! Memory instructions. -/

/-- LDB, LDBS, LDH, LDHS, LDW, LDD and LDQ become pending loads of 1, 1, 2, 2, 4, 8 and 16 bytes, LDBS and LDHS extending
the sign; under NRZ the operation carries the predicate NRP (R223 to R229). Nothing is written when they issue. Traps are
read as log entries 14 and 18 say. -/
def Obligations.LoadsIssue : Prop :=
  ∀ (s : State) (d a b : Opnd),
    let nrz := mNrz (cf s).mode
    let Loads := fun (i : Instr) (n : Nat) (sx : Bool) => Issues s i d 1 false .read a b nrz n fun q =>
      q.kind = .load ∧ q.dst = d ∧ q.uni = uniform d ∧ q.sx = sx ∧ q.nrp = if nrz then some (mNrp (cf s).mode) else none
    Loads (.ldb d a b) 1 false ∧ Loads (.ldbs d a b) 1 true ∧ Loads (.ldh d a b) 2 false ∧ Loads (.ldhs d a b) 2 true ∧
    Loads (.ldw d a b) 4 false ∧ Loads (.ldd d a b) 8 false ∧ Loads (.ldq d a b) 16 false

/-- STB, STH, STW, STD and STQ become pending stores of 1, 2, 4, 8 and 16 bytes; byte k of a thread's data is byte k of the
registers that D names, low register first (R230). Nothing is stored when they issue; a window access closes the region
(R416). Traps are read as log entries 14 and 18 say, those of stores to host frames as log entry 19 does. -/
def Obligations.StoresIssue : Prop :=
  ∀ (s : State) (x a b : Opnd),
    let Stores := fun (i : Instr) (n : Nat) => Issues s i .nul 2 (windowStore s a b) .write a b false n fun q =>
      q.kind = .store ∧ q.dst = .nul ∧
      ∀ c ∈ q.accs, c.bs.length = n ∧ ∀ k, k < n → (c.bs.getD k 0#8).toNat = byteOf (srcAt s x (k / 4) c.t) (k % 4)
    Stores (.stb x a b) 1 ∧ Stores (.sth x a b) 2 ∧ Stores (.stw x a b) 4 ∧ Stores (.std x a b) 8 ∧ Stores (.stq x a b) 16

/-- The twelve atomics become pending operations on words, with the operands of the registers D and D + 1, or the literals
where D is nul, under the FTYPE of their issue; they close the region (R232 to R235, R416). Traps are read as log entries 14
and 18 say. -/
def Obligations.AtomicsIssue : Prop :=
  ∀ (s : State) (d a b : Opnd) (u w : Word),
    let Atomics := fun (i : Instr) (op : Nat) (y : Word) =>
      Issues s i d (if d = .nul then 2 else 1) true .atomic a b false 4 fun q =>
        q.kind = .atomic ∧ q.dst = d ∧ q.uni = uniform d ∧ q.op = op ∧ q.ftype = mFtype (cf s).mode ∧
        ∀ c ∈ q.accs, c.x = (if d = .nul then u else srcAt s d 0 c.t) ∧ c.y = if d = .nul then y else srcAt s d 1 c.t
    Atomics (.atadd d a b u) 0x8E 0#32 ∧ Atomics (.atmin d a b u) 0x8F 0#32 ∧ Atomics (.atmax d a b u) 0x90 0#32 ∧
    Atomics (.atminn d a b u) 0x91 0#32 ∧ Atomics (.atmaxn d a b u) 0x92 0#32 ∧ Atomics (.atand d a b u) 0x93 0#32 ∧
    Atomics (.ator d a b u) 0x94 0#32 ∧ Atomics (.atxor d a b u) 0x95 0#32 ∧ Atomics (.atxch d a b u) 0x96 0#32 ∧
    Atomics (.atcas d a b u w) 0x97 w ∧ Atomics (.atfadd d a b u) 0x98 0#32 ∧ Atomics (.atfmax d a b u) 0x99 0#32 ∧
    -- each of the twelve completes its issue wherever every executing thread's access passes its check
    (execThreads s d ≠ [] → flagOpen s (if d = .nul then 2 else 1) →
      (∀ j ∈ execThreads s d, ∃ pa pl win, reach s .atomic a false (addrOf s a b j) 4 = .ok pa pl win) →
      ∀ i ∈ [Instr.atadd d a b u, .atmin d a b u, .atmax d a b u, .atminn d a b u, .atmaxn d a b u, .atand d a b u,
          .ator d a b u, .atxor d a b u, .atxch d a b u, .atcas d a b u w, .atfadd d a b u, .atfmax d a b u],
        ∃ t, exec i s = .next t ∧ Pended s t (if d = .nul then 2 else 1) fun q =>
          q.kind = .atomic ∧ q.accs.map (·.t) = execThreads s d ∧ q.sent = false ∧ q.done = false) ∧
    -- one thread's, on a word of scratch, in a group with nothing else pending: the word is then replaced
    (∀ (j pa : Nat) (pl : Bool) (win : Option Nat) (thr : Word), execThreads s d = [j] →
      flagOpen s (if d = .nul then 2 else 1) → (cg s).pend = [] → a = .ls →
      checkScratch s (addrOf s a b j) 4 = .ok pa pl win → draining s pa s.nextId = false →
      let x := if d = .nul then u else srcAt s d 0 j
      let y := fun v => if d = .nul then v else srcAt s d 1 j
      ∀ e ∈ [(Instr.atadd d a b u, 0x8E, 0#32), (.atmin d a b u, 0x8F, 0#32), (.atmax d a b u, 0x90, 0#32),
          (.atminn d a b u, 0x91, 0#32), (.atmaxn d a b u, 0x92, 0#32), (.atand d a b u, 0x93, 0#32),
          (.ator d a b u, 0x94, 0#32), (.atxor d a b u, 0x95, 0#32), (.atxch d a b u, 0x96, 0#32),
          (.atcas d a b u w, 0x97, w), (.atfadd d a b u, 0x98, 0#32), (.atfmax d a b u, 0x99, 0#32)],
        ∃ t z, exec e.1 s = .next t ∧ exec (.atomicComplete s.curG (s.nextId, thr)) t = .next z ∧
          lsBytes z pa 4 = leBytes 4
            (atomicNew e.2.1 (mFtype (cf s).mode) (w32 (leNat (lsBytes s pa 4))) x (y e.2.2)).1.toNat ∧
          ∀ k, k < pa ∨ pa + 4 ≤ k → Store.get z.ls k = Store.get s.ls k)

/-- SCALEQ and AMAXR on amax entries (R155 to R157): SCALEQ reads one entry for each executing thread; AMAXR makes one access
for each entry that its threads name, with the largest magnitude of their values, or advances it, and raises NV at issue for
a NaN. An id of 4,096 or more raises OPERAND. Both stall where an access would pass a full flag (R35). That the whole fragment
becomes the HANDLER is log entry 14 (DEDUCED), and that threads outside the guard trap with it log entry 17. -/
def Obligations.AmaxTables : Prop :=
  ∀ (s : State) (d x a : Opnd) (f : BitVec 3) (ts : List Nat) (as : List Acc),
    let id := fun j => (src s .fp a j).toNat
    let Named := ts ≠ [] ∧ as.map (·.t) = ts ∧ ∀ c ∈ as, id c.t < 4096 ∧
      ∃ pa pl win, checkGlobal s .atomic false (hdrAmax (cctx s).hdr + 96 * id c.t) 96 = .ok pa pl win ∧
        c = { (default : Acc) with
          t := c.t, va := hdrAmax (cctx s).hdr + 96 * id c.t, pa := pa, n := 96, pl := pl, win := win }
    let groups := amaxGroups (x == .nul) (src s .fp x) as
    let nan := x ≠ .nul ∧ ∃ j ∈ ts, (f32.val (src s .fp x j).toNat).isNan = true
    (ts = execThreads s d → Named → flagOpen s 1 →
      ∃ t, exec (.scaleq d a f) s = .next t ∧ Pended s t 1 fun q =>
        q.kind = .scaleq ∧ q.dst = d ∧ q.uni = uniform d ∧ q.op = f.toNat ∧ q.accs = as) ∧
    (ts = threads (selected s) → Named → flagOpen s 2 ∨ groups = [] →
      ∃ t s0, exec (.amaxr x a) s = .next t ∧ (nan → s0 = updCG s fun g => { g with flags := g.flags ||| 1#32 }) ∧
        (¬nan → s0 = s) ∧ (groups = [] → OnlyGoesOn s0 t) ∧
        (groups ≠ [] → Pended s0 t 2 fun q => q.kind = .amax ∧ q.dst = .nul ∧ q.accs = groups)) ∧
    ((cf s).st = .ready → active s ≠ 0#32 → selected s = active s → (∀ j, 4096 ≤ id j) →
      (∃ t, exec (.scaleq d a f) s = .next t ∧ Trapped s t cOPERAND (active s) 0#64) ∧
      ∃ t, exec (.amaxr x a) s = .next t ∧ Trapped s t cOPERAND (active s) 0#64) ∧
    (ts = execThreads s d → Named → ¬flagOpen s 1 → exec (.scaleq d a f) s = .next (stallHere s)) ∧
    (ts = threads (selected s) → Named → ¬flagOpen s 2 → groups ≠ [] → exec (.amaxr x a) s = .next (stallHere s))

/-- PRF and PGREQ (R237, R238) change no byte of memory and no register when they issue. PRF goes on and touches only the
caches, the homes and the counters; PGREQ becomes a pending operation whose result for each executing thread is 0 for a
resident page or scratch, 2 for an address out of range, 1 for a page that is not resident, and it offers fault records only
for those; on a full flag it stalls (R35). That a force-released page counts as resident is the reading of log entry 38. -/
def Obligations.PrefetchAndPageRequests : Prop :=
  ∀ (s : State) (l : BitVec 1) (d a b : Opnd),
    (∃ t, exec (.prf l a b) s = .next t ∧ t.mem = s.mem ∧ (a = .ls → OnlyGoesOn s t) ∧
      OnlyGoesOn s { t with
        l1 := s.l1, l2 := s.l2, ls := s.ls, hw := s.hw, nextId := s.nextId, evmax := s.evmax, fresh := s.fresh, pmc := s.pmc
        msix := s.msix }) ∧
    let js := execThreads s d
    let res := fun j => if vaEnd ≤ addrOf s a b j then none else
      some (translate s (coreCaches (coreOf s.curG)) (cg s).ctx (addrOf s a b j / frameBytes))
    (js = [] → ∃ t, exec (.pgreq d a b) s = .next t ∧ OnlyGoesOn s t) ∧
    (js ≠ [] → flagOpen s 1 → ∃ t, exec (.pgreq d a b) s = .next t ∧
      (Pended s { t with fq := s.fq, pmc := s.pmc, msix := s.msix } 1 fun q =>
        q.kind = .pgreq ∧ q.dst = d ∧ q.uni = uniform d ∧ q.accs.map (·.t) = js ∧ ∀ c ∈ q.accs, c.got = true ∧
          (a = .ls → c.bs = leBytes 4 0) ∧
          (a ≠ .ls → (res c.t = none → c.bs = leBytes 4 2) ∧ (res c.t = some .notResident → c.bs = leBytes 4 1) ∧
            (∀ x, res c.t = some x → x ≠ .notResident → c.bs = leBytes 4 0))) ∧
      ((a = .ls ∨ ∀ j ∈ js, res j ≠ some .notResident) → t.fq = s.fq)) ∧
    (js ≠ [] → ¬flagOpen s 1 → exec (.pgreq d a b) s = .next (stallHere s))

/-- FREL, FACQ, FSEQ, FRC, WTIME and FLUSH (R240 to R244): a fence whose earlier operations have completed and whose
write-backs have returned goes on, else its fragment waits; FRC ends with the status of the group's window writes, WTIME at
once when its time has come; FLUSH sends the dirty bytes of its block's L1 home, and with INV drops its lines; on a full flag it stalls (R35). A fence of
scope S writes the far sectors back that the block's writes touched as it ends. FACQ as a wait, scope S and the order of
statuses are log entries 39, 40 and 67. -/
def Obligations.FencesAndFlush : Prop :=
  ∀ (s : State) (sc : BitVec 2) (i : BitVec 1) (d a : Opnd), ((cf s).st = .ready ∨ (cf s).st = .handler) →
    let blk := blkOf s.curG
    let u := writeBackAll s blk
    let goesOn := afterWait s
    let wait := fun (rel acq : Bool) (n : Option Nat) => Wait.fence sc.toNat rel acq s.nextId n 0 0#32 0#32
    let Fence := fun (i : Instr) (rel acq : Bool) (early : Bool) =>
      (early = true → Waits s i (wait rel acq none)) ∧
      (early = false → sc.toNat < 2 → Becomes s i goesOn) ∧
      (early = false → 2 ≤ sc.toNat → ∃ t, exec i s = .next t ∧ t.mem = s.mem ∧ t.hw = u.hw ∧ t.l1 = u.l1 ∧ t.nextId = u.nextId ∧
        OnlyFragment s { t with hw := s.hw, l1 := s.l1, l2 := s.l2, nextId := s.nextId } ∧
        (sc = 2#2 → t.l2 = s.l2) ∧
        (wbPending u blk u.nextId = false → (bAt s blk).lct < s.gt →
          cf t = goesOn ∧ (sc = 3#2 → t.l2 = (farWriteBack s blk).l2)) ∧
        (wbPending u blk u.nextId = true ∨ s.gt ≤ (bAt s blk).lct → t.l2 = s.l2 ∧ cf t = { cf s with
          st := if (cf s).st = .handler then .handler else .waiting, wait := wait rel acq (some u.nextId) }))
    Fence (.frel sc) true false (pendBefore (cg s) s.nextId PendKind.counted) ∧
    Fence (.fseq sc) true true (pendBefore (cg s) s.nextId PendKind.counted || pendBefore (cg s) s.nextId PendKind.loads) ∧
    (pendBefore (cg s) s.nextId PendKind.loads = true → Waits s .facq (.fence 0 false true s.nextId none 0 0#32 0#32)) ∧
    (pendBefore (cg s) s.nextId PendKind.loads = false → Becomes s .facq goesOn) ∧
    (∀ c, frcStatus s s.curG s.nextId true = some c →
      ∃ t, exec (.frc d) s = .next t ∧ WroteUniform s t d [w32 c] ∧ SameFlags s t ∧ RegFrame s t) ∧
    (frcStatus s s.curG s.nextId true = none → Waits s (.frc d) (.frc d s.nextId)) ∧
    (frcLost s s.curG s.nextId = 0 → frcOpen s s.curG s.nextId = false → frcStatus s s.curG s.nextId true = some 0) ∧
    ((w64 (upair s a)).toNat ≤ s.gt → ∃ t, exec (.wtime a) s = .next t ∧ OnlyGoesOn s t) ∧
    (s.gt < (w64 (upair s a)).toNat → Waits s (.wtime a) (.wtime (w64 (upair s a)))) ∧
    (flagOpen s 2 → let v := if i = 1#1 then dropL1 u blk else u
      v.mem = s.mem ∧ ∃ t, exec (.flush i) s = .next t ∧ Pended v t 2 fun q => q.kind = .flush ∧ q.op = u.nextId) ∧
    (¬flagOpen s 2 → exec (.flush i) s = .next (stallHere s))

/-! Matrix and attention instructions. -/

/-- MDS and GANG (R70, R160 to R162): the slot takes eight words, GANG a mask, if they pass the checks; else OPERAND, or
GANG with the mask as fault address. Traps are of the whole fragment (log entry 14). -/
def Obligations.DescriptorsAndGangs : Prop :=
  ∀ (s : State) (j : BitVec 2) (a : Opnd),
    let ws := ublock s a 8
    (mdOk (ofWords ws) = true → ∃ t, exec (.mds j a) s = .next t ∧
      (∀ k, Store.get (cg t).md k = if 8 * j.toNat ≤ k ∧ k < 8 * j.toNat + 8 then ws.getD (k - 8 * j.toNat) 0#32
        else Store.get (cg s).md k) ∧
      RegFrame s (updCG t fun g => { g with md := (cg s).md }) ∧ SameRegs s t ∧ SameFlags s t) ∧
    (mdOk (ofWords ws) = false → Traps s s (.mds j a) cOPERAND 0#64) ∧
    (gangOk s (usrc s a) = true → ∃ t, exec (.gang a) s = .next t ∧ (cg t).gang = usrc s a ∧
      RegFrame s (updCG t fun g => { g with gang := (cg s).gang }) ∧ SameRegs s t ∧ SameFlags s t) ∧
    (gangOk s (usrc s a) = false → Traps s s (.gang a) cGANG ((usrc s a).zeroExtend 64))

/-- MMA, MMAS, ASCORE, AVACC, AFIN, ARST and AROW arrive at the Cinch with what they sample (R163, R173, R190 to R196) once
no pending read writes their registers; with GANG 0 they trap, and MMA and MMAS with OPERAND where a check fails (R181). MZRO,
which no gang shares, joins the engine queue, or stalls on a full flag or queue (R35, R174, R176). Traps are of the whole
fragment (log entry 14); GANG 0 comes before the other checks (log entry 131); an arrival that would open a seventeenth
rendezvous of its block is listed at once and waits for its release (log entry 50, DEDUCED). -/
def Obligations.GangedInstructions : Prop :=
  ∀ (s : State) (f d a b : Opnd) (j r : BitVec 2) (l : BitVec 1),
    let word := fun o => (List.range 32).map fun t => src s .plain o t
    let quiet := readPending (cg s) (fragRegs f) = false
    let M := fun op sel frag out regs o => arrival s op sel frag out regs o
    let sel := j.toNat + 4 * r.toNat
    ((cg s).gang ≠ 0#32 →
      (quiet → mmaOk (mdOf (cg s) j.toNat) (cf s).mode false = true →
        Arrives s s (.mma f a j) (M 0xA2 j.toNat (regNo f) none (fragRegs f) a)) ∧
      (quiet → mmaOk (mdOf (cg s) j.toNat) (cf s).mode true = true →
        Arrives s s (.mmas f a j) (M 0xA3 j.toNat (regNo f) none (fragRegs f) a)) ∧
      Arrives s (shut s) (.ascore d a r j)
        { M 0xA5 sel none none [] a with strip := if d = .nul then none else some (usrc s d).toNat } ∧
      (quiet → Arrives s (shut s) (.avacc f r j) (M 0xA6 sel (regNo f) none (fragRegs f) .nul)) ∧
      (quiet → Arrives s (if l = 1#1 then shut s else s) (.afin f a l r)
        (M 0xA7 (4 * r.toNat + 16 * l.toNat) (regNo f) (regNo a) (fragRegs f ++ (regNo a).toList) .nul)) ∧
      (Arrives s (shut s) (.arst r .zero b) { M 0xA8 (4 * r.toNat) none none (regNo b).toList .zero with xs := [], ys := [] }) ∧
      (a ≠ .zero → Arrives s (shut s) (.arst r a b)
        { M 0xA8 (4 * r.toNat) none none ((regNo a).toList ++ (regNo b).toList) a with xs := word a, ys := word b }) ∧
      ((∀ x ∈ s.rdvs, x.lists s.curG = false) →
        (mmaOk (mdOf (cg s) j.toNat) (cf s).mode false = false → Traps s s (.mma f a j) cOPERAND 0#64) ∧
        (mmaOk (mdOf (cg s) j.toNat) (cf s).mode true = false → Traps s s (.mmas f a j) cOPERAND 0#64)) ∧
      (∀ n, Arrives s s (.arow (.v n) r) (M 0xA9 (4 * r.toNat) none (some n) [n, n + 1] .nul))) ∧
    ((cg s).gang = 0#32 → (∀ x ∈ s.rdvs, x.lists s.curG = false) →
      Traps s s (.mma f a j) cGANG 0#64 ∧ Traps s s (.mmas f a j) cGANG 0#64 ∧ Traps s (shut s) (.ascore d a r j) cGANG 0#64 ∧
      Traps s (shut s) (.avacc f r j) cGANG 0#64 ∧ Traps s (if l = 1#1 then shut s else s) (.afin f a l r) cGANG 0#64 ∧
      Traps s (shut s) (.arst r a b) cGANG 0#64 ∧ Traps s s (.arow d r) cGANG 0#64) ∧
    (¬flagOpen s 2 ∨ 8 ≤ queueLen s (coreOf s.curG) → exec (.mzro f) s = .next (stallHere s)) ∧
    (flagOpen s 2 → queueLen s (coreOf s.curG) < 8 → ∃ t, exec (.mzro f) s = .next t ∧
      (Pended s { t with mxq := s.mxq, nextId := s.nextId + 1 } 2 fun q => q.kind = .matrix ∧ q.sent = true) ∧
      t.nextId = s.nextId + 2 ∧ t.mxq = s.mxq ++ [⟨s.nextId + 1, coreOf s.curG, 0xA4,
        [{ M 0xA4 0 (regNo f) none (fragRegs f) .nul with id := s.nextId }], false, [], []⟩])

/-! Streamer instructions. -/

/-- CPY, CPY2, CPYG, CPYC, CPYR and CPYZ (R283 to R286): one that fails a check traps; one that passes them stalls with its
group while its flag or its queue is full (R274), and else joins its queue's tail with the eight registers, the event, and the
block's banks, or is counted as cancelled while the block's queue is halted. QFNC puts one entry into each queue it names, or
stalls while its flag or one of them is full (R299). A fragment that traps becomes the HANDLER whole (log entry 14). -/
def Obligations.CopyCommands : Prop :=
  ∀ (s : State) (t x : BitVec 1) (r m : BitVec 4) (q : BitVec 2) (a b : Opnd),
    let c := coreOf s.curG
    let blk := blkOf s.curG
    let Copies := fun (i : Instr) (op sel : Nat) =>
      let k : Cmd := { (default : Cmd) with
        op := op, g := s.curG, sel := sel, regs := ublock s a 8, ev := usrc s b
        banks := scratchBanks s blk, fifo := fifoBanks s blk }
      (copyBad k (ringRec s blk k.ringNo) = true → Traps s (shut s) i cOPERAND 0#64) ∧
      (copyBad k (ringRec s blk k.ringNo) = false →
        (∀ e, copyOut k (scratchSize s blk) = some e → Traps s (shut s) i e.1 (w64 e.2)) ∧
        (copyOut k (scratchSize s blk) = none →
          (¬flagOpen s 2 ∨ queueRoom s c q.toNat = false → exec i s = .next (stallHere s)) ∧
          (flagOpen s 2 → queueRoom s c q.toNat = true →
            (qHalt (qstat s blk q.toNat) = false → Queued s (shut s) i q.toNat k) ∧
            (qHalt (qstat s blk q.toNat) = true → exec i s = .next (advance (qCancel (shut s) blk q.toNat 1))))))
    Copies (.cpy t x q a b) 0xB0 (q.toNat + 4 * x.toNat + 8 * t.toNat) ∧
    Copies (.cpy2 t x q a b) 0xB1 (q.toNat + 4 * x.toNat + 8 * t.toNat) ∧
    Copies (.cpyg t x q a b) 0xB2 (q.toNat + 4 * x.toNat + 8 * t.toNat) ∧
    Copies (.cpyc t x q a b) 0xB3 (q.toNat + 4 * x.toNat + 8 * t.toNat) ∧
    Copies (.cpyr r x q a b) 0xB4 (q.toNat + 4 * x.toNat + 16 * r.toNat) ∧
    Copies (.cpyz t q a b) 0xB5 (q.toNat + 8 * t.toNat) ∧
    (¬flagOpen s 2 ∨ (∃ k ∈ queuesOf m.toNat, queueRoom s c k = false) → exec (.qfnc m) s = .next (stallHere s)) ∧
    (flagOpen s 2 → (∀ k ∈ queuesOf m.toNat, queueRoom s c k = true) → ∃ u, exec (.qfnc m) s = .next u ∧
      (Pended (shut s) { u with strq := s.strq } 2 fun p => p.kind = .engine ∧ p.dst = .nul) ∧
      ∀ k, k < 4 → strQueue u c k = strQueue s c k ++ if bit m.toNat k then
        [{ (default : Cmd) with id := s.nextId, pend := s.nextId, op := 0xBA, g := s.curG }] else [])

/-- RNGI, RNGW, RNGR and RNGQ (R293, R294, R296 to R298): RNGI defines a ring with its indexes 0, or with a geometry of no
slots makes it invalid and clears its fault mask, or raises OPERAND; RNGW takes the next full slot's offset, with bit 31 set for a faulted fill, or waits; RNGR frees
slots; RNGQ reads sixteen bytes of the ring for each executing thread. The time at which RNGQ reads is log entry 72; that
the refusals of RNGI hold without slots too is log entry 137; the whole-fragment trap is log entry 14. -/
def Obligations.Rings : Prop :=
  ∀ (s : State) (r : BitVec 4) (d a b : Opnd),
    let blk := blkOf s.curG
    let x := ringRec s blk r.toNat
    let g := (usrc s b).toNat
    let base := (usrc s a).toNat
    let slots := g % 256
    let lines := g / 256
    let n := (usrc s a).toNat
    let js := execThreads s d
    let o := fun j => (src s .plain b j).toNat
    let good := g < 65536 ∧ (x.valid = false ∨ x.wp = x.rp) ∧ base % 192 = 0 ∧ 0 < lines ∧ slots ≤ 64 ∧
      base + 192 * lines * slots ≤ (fifoBanks s blk).length * 49152 ∧
      (slots = 0 ∨ ∀ e ∈ (bAt s blk).rings, e.1 ≠ r.toNat → e.2.valid = true →
        e.2.base + e.2.size ≤ base ∨ base + 192 * lines * slots ≤ e.2.base)
    (good → slots = 0 → exec (.rngi r a b) s = .next (advance (updRing (shut s) blk r.toNat fun y =>
      { y with valid := false, fmask := 0 }))) ∧
    (good → 0 < slots → exec (.rngi r a b) s = .next (advance (updRing (shut s) blk r.toNat fun _ =>
      ⟨0, 0, 0, 0, 0, true, slots, lines, base, 0⟩))) ∧
    (¬good → Traps s (shut s) (.rngi r a b) cOPERAND 0#64) ∧
    (x.valid = true → x.ap ≠ x.fp → ringQueued (shut s) blk r.toNat s.nextId = false →
      exec (.rngw d r) s = .next (advance (updCG
        (updRing (shut s) blk r.toNat fun y => { y with ap := (x.ap + 1) % 65536 })
        fun y => wrDst y d [w32 (x.slotBytes * (x.ap % x.nslot) + if bit x.fmask (x.ap % x.nslot) then 2 ^ 31 else 0)]))) ∧
    (x.valid = true → x.ap = x.fp ∨ ringQueued (shut s) blk r.toNat s.nextId = true → ∃ t, exec (.rngw d r) s = .next t ∧
      OnlyFragment (shut s) { t with nextId := s.nextId } ∧ t.nextId = s.nextId + 1 ∧
      cf t = { cf s with st := if (cf s).st = .handler then .handler else .waiting, wait := .rngw d r.toNat s.nextId }) ∧
    (x.valid = false → Traps s (shut s) (.rngw d r) cOPERAND 0#64) ∧
    ((∀ p ∈ (cg s).pend, ¬(p.kind = .value ∧ p.op = 0xB9)) → x.valid = true → 0 < n → n ≤ (x.ap + 65536 - x.rp) % 65536 →
      exec (.rngr r a) s = .next (advance (updRing (shut s) blk r.toNat fun y => { y with rp := (x.rp + n) % 65536 }))) ∧
    ((∀ p ∈ (cg s).pend, ¬(p.kind = .value ∧ p.op = 0xB9)) →
      (x.valid = false ∨ n = 0 ∨ (x.ap + 65536 - x.rp) % 65536 < n) → Traps s (shut s) (.rngr r a) cOPERAND 0#64) ∧
    (flagOpen s 1 → x.valid = true → js ≠ [] → (∀ j ∈ js, o j % 16 = 0 ∧ o j < x.size ∧
        draining s (offsetKey (coreOf s.curG) (fifoBanks s blk) (x.base + o j)) s.nextId = false) →
      ∃ t, exec (.rngq d r b) s = .next t ∧ Pended s t 1 fun q =>
        q.kind = .value ∧ q.op = 0xB9 ∧ q.dst = d ∧ q.uni = uniform d ∧ q.done = true ∧ q.accs.map (·.t) = js ∧
        ∀ c ∈ q.accs, c.n = 16 ∧ c.got = true ∧
          c.bs = lsBytes s (offsetKey (coreOf s.curG) (fifoBanks s blk) (x.base + o c.t)) 16)

/-- QWAIT, LBCL and BANKM (R205, R245, R292, R301): QWAIT reads and clears the halts of its queues once the group's copies in
them are over, LBCL reads and clears the queue's largest magnitude once its CPYCs are, else they wait; BANKM starts the exit
action of a bank of the block that holds no valid ring, raises OPERAND for another bank, of the whole fragment (log entry 14),
and waits for one that drains. -/
def Obligations.QueueWaitsAndBanks : Prop :=
  ∀ (s : State) (d a : Opnd) (m : BitVec 4) (l k : BitVec 2),
    let c := coreOf s.curG
    let blk := blkOf s.curG
    let halts := (queuesOf m.toNat).filter fun q => qHalt (qstat s blk q)
    let b := (usrc s a).toNat
    let x := bankAt s c b
    let Held := fun (i : Instr) (w : Wait) => ∃ t, exec i s = .next t ∧ OnlyFragment (shut s) t ∧
      cf t = { cf s with st := if (cf s).st = .handler then .handler else .waiting, wait := w }
    (copiesLeft s s.curG (queuesOf m.toNat) s.nextId (fun _ => true) = false →
      ∃ t, exec (.qwait d m) s = .next t ∧
        WroteUniform s t d [w32 ((halts.map (2 ^ ·)).sum + (halts.head?.map fun q => qCause (qstat s blk q) * 256).getD 0)] ∧
        (∀ q, q < 4 → qHalt (qstat t blk q) = (qHalt (qstat s blk q) && !bit m.toNat q)) ∧
        (∀ q, q < 4 → qCnt (qstat t blk q) = if bit m.toNat q then 0 else qCnt (qstat s blk q)) ∧
        SameFlags s t ∧ RegFrame (shut s) { t with blocks := s.blocks }) ∧
    (copiesLeft s s.curG (queuesOf m.toNat) s.nextId (fun _ => true) = true → Held (.qwait d m) (.qwait d m.toNat s.nextId)) ∧
    (copiesLeft s s.curG [l.toNat] s.nextId (fun m => m.op == 0xB3) = false →
      ∃ t, exec (.lbcl d l) s = .next t ∧ WroteUniform s t d [Store.get s.lbmax (4 * c + l.toNat)] ∧
        (∀ i, Store.get t.lbmax i = if i = 4 * c + l.toNat then 0#32 else Store.get s.lbmax i) ∧
        SameFlags s t ∧ RegFrame (shut s) { t with lbmax := s.lbmax }) ∧
    (copiesLeft s s.curG [l.toNat] s.nextId (fun m => m.op == 0xB3) = true → Held (.lbcl d l) (.lbcl d l.toNat s.nextId)) ∧
    (flagOpen s 2 → b < 32 → x.drain = false → x.owned = true → x.blk = blk % 4 →
      (x.mode = 2 → ringIn s blk (placeIn (fifoBanks s blk) b) = false) →
      ∃ t, exec (.bankm k a) s = .next t ∧ (Pended (shut s) { t with banks := s.banks } 2 fun p => p.kind = .bank) ∧
        bankAt t c b = { x with mode := k.toNat, drain := true, by_ := (s.curG, s.nextId), left := some x.mode } ∧
        ∀ i, i ≠ 32 * c + b → Store.get t.banks i = Store.get s.banks i) ∧
    (flagOpen s 2 → 32 ≤ b ∨ x.drain = false ∧ (x.owned = false ∨ x.blk ≠ blk % 4 ∨
        x.mode = 2 ∧ ringIn s blk (placeIn (fifoBanks s blk) b) = true) → Traps s (shut s) (.bankm k a) cOPERAND (w64 b)) ∧
    (b < 32 → x.drain = true → exec (.bankm k a) s = .next s)

/-! Events, mailboxes, operators, windows. -/

/-- EVSIG, EVWAIT and EVPOLL (R319 to R321): EVSIG pends on its flag while the fence before it runs, and once that is over
adds to its own entry, or sends the increment to the owner; where nothing of the group or its block is under way it adds at
once. EVWAIT goes on with the status and the counter when the threshold is reached, a frozen mirror or PREQ ends it, or
waits; EVPOLL reads the counter. EVSIG waits while a path that it writes to has no room (R267, R280). On a full flag EVSIG
and EVPOLL stall (R35). Log entries 20, 55, 57, 66 and 67 give the message, the lost message, the wait and the order of
statuses, log entry 14 the whole-fragment trap. -/
def Obligations.EventInstructions : Prop :=
  ∀ (s u : State) (d a b : Opnd) (pa e : Nat),
    let name := usrc s a
    let n := usrc s b
    let pended := (addPend (shut s) 2 { (default : Pend) with kind := .signal, dst := .nul }).1
    let fenced := fenceRound (waitFor pended (.fence 2 true false s.nextId none 1 name n)) s.curG s.curF
    let v := dropPend u s.curG s.nextId
    let slot := (gAt u s.curG).ctx
    let sent := sendMsg v slot (evChip name) s.curG u.nextId (eventMsg 1 (evIdx name) n)
    (flagOpen s 2 → n.toNat < 2 ^ 31 → evIndexOk (cctx s) (evIdx name) = true →
      (fenced = (u, true) → evChip name = u.chip → evAccess u slot (evIdx name) true = .ok pa e → evMirror e = false →
        (n = 0#32 ∨ subsRoom u slot (evIdx name) e 1 = true →
          exec (.evsig a b) s = .next (wakeWith (evAdd v slot (evIdx name) pa e n) s.curG s.curF .nul [])) ∧
        (n ≠ 0#32 → subsRoom u slot (evIdx name) e 1 = false → exec (.evsig a b) s = .next u)) ∧
      (fenced = (u, true) → evChip name ≠ u.chip → n = 0#32 →
        exec (.evsig a b) s = .next (wakeWith v s.curG s.curF .nul [])) ∧
      (fenced = (u, true) → evChip name ≠ u.chip → n ≠ 0#32 → egressRoom u (ctxidOf u slot) [evChip name] 1 = true →
        exec (.evsig a b) s = .next (wakeWith { sent with nextId := sent.nextId + 1 } s.curG s.curF .nul [])) ∧
      (fenced = (u, true) → evChip name ≠ u.chip → n ≠ 0#32 → egressRoom u (ctxidOf u slot) [evChip name] 1 = false →
        exec (.evsig a b) s = .next u) ∧
      (fenced = (u, false) → exec (.evsig a b) s = .next u) ∧
      (AtRest s → evChip name = s.chip → evAccess s (cg s).ctx (evIdx name) true = .ok pa e → evMirror e = false →
        n = 0#32 ∨ subsRoom s (cg s).ctx (evIdx name) e 1 = true → ∃ t, exec (.evsig a b) s = .next t ∧ cf t = afterWait s ∧ t.mem = (evAdd s (cg s).ctx (evIdx name) pa e n).mem ∧
          (cg t).pend = (cg s).pend.filter fun p => p.id != s.nextId)) ∧
    (¬flagOpen s 2 → exec (.evsig a b) s = .next (stallHere s)) ∧
    (¬flagOpen s 1 → exec (.evpoll d a) s = .next (stallHere s)) ∧
    (flagOpen s 1 → evLocal s name = none → Traps s s (.evpoll d a) cOPERAND 0#64) ∧
    (flagOpen s 2 → (2 ^ 31 ≤ n.toNat ∨ evIndexOk (cctx s) (evIdx name) = false) → Traps s (shut s) (.evsig a b) cOPERAND 0#64) ∧
    (evLocal s name = none → Traps s s (.evwait d a b) cOPERAND 0#64) ∧
    (evLocal s name = some (.ok pa e) →
      (0 ≤ serial (evCtr e) n → Uniform s s (.evwait d a b) d [0#32, evCtr e]) ∧
      (¬0 ≤ serial (evCtr e) n →
        (evDown e = true → Uniform s s (.evwait d a b) d [3#32, evCtr e]) ∧
        (evDown e = false → evClosed e = true → Uniform s s (.evwait d a b) d [2#32, evCtr e]) ∧
        (evDown e = false → evClosed e = false → bit (preqOf s s.curG) 1 = true →
          Uniform s s (.evwait d a b) d [1#32, evCtr e]) ∧
        (evDown e = false → evClosed e = false → bit (preqOf s s.curG) 1 = false →
          Waits s (.evwait d a b) (.evwait d name n))) ∧
      (flagOpen s 1 → Values s (.evpoll d a) d [evCtr e]))

/-- MBXRD, MBXDONE, MBXQ, FRQ and OPPUSH (R272, R322 to R325, R340): MBXRD takes the oldest entry that its block may take,
or waits; MBXDONE retires the point of its job once the fence before it is over; MBXQ answers the posted entries and whether
a YIELD is among them for this block; FRQ reads a slot's status or a line of its frontier; OPPUSH writes the pair to the
stream's shadow word and becomes a pending tail write. MBXDONE pends on its flag while its fence runs, and retires the point
at once where nothing of the group or its block is under way (R319, R323; log entry 66), but waits while a path that a signal
of the point goes to has no room (R267, R280). A full flag stalls (R35). The whole-fragment trap is log entry 14. -/
def Obligations.MailboxesAndOperators : Prop :=
  ∀ (s u : State) (d a b : Opnd) (m : Mail) (n l pa : Nat) (pl : Bool) (win : Option Nat),
    let blk := blkOf s.curG
    let box := mailOf s (blk / 4)
    let job := usrc s a
    let k := (usrc s a).toNat
    let pended := (addPend (shut s) 2 { (default : Pend) with kind := .signal, dst := .nul }).1
    let fenced := fenceRound (waitFor pended (.fence 2 true false s.nextId none 2 job 0#32)) s.curG s.curF
    let v := dropPend u s.curG s.nextId
    let pair := upair s b
    let put := performAll (shut s) (bytesAt pa (leBytes 8 pair))
    (mailFor s blk = some m → mailQueued (shut s) (blk / 4) s.nextId m = false →
      exec (.mbxrd d) s = .next (advance (updCG (takeMail (shut s) blk m) fun g => wrDst g d m.words))) ∧
    (mailFor s blk = none → ∃ t, exec (.mbxrd d) s = .next t ∧ OnlyFragment (shut s) { t with nextId := s.nextId } ∧
      t.nextId = s.nextId + 1 ∧
      cf t = { cf s with st := if (cf s).st = .handler then .handler else .waiting, wait := .mbxrd d s.nextId }) ∧
    (flagOpen s 2 → jobOf s blk job ≠ none →
      (fenced = (u, true) → jobOf u blk job = some (n, l) →
        (retireRoom u n = true →
          exec (.mbxdone a) s = .next (wakeWith (retirePoint v n l true s.curG) s.curG s.curF .nul [])) ∧
        (retireRoom u n = false → exec (.mbxdone a) s = .next u)) ∧
      (fenced = (u, false) → exec (.mbxdone a) s = .next u) ∧
      (AtRest s → jobOf s blk job = some (n, l) → retireRoom s n = true →
        ∃ t, exec (.mbxdone a) s = .next t ∧ cf t = afterWait s ∧ t.ops = (retirePoint s n l true s.curG).ops ∧
          t.mem = (retirePoint s n l true s.curG).mem ∧ (cg t).pend = (cg s).pend.filter fun p => p.id != s.nextId)) ∧
    (¬flagOpen s 2 → exec (.mbxdone a) s = .next (stallHere s) ∧ exec (.oppush a b) s = .next (stallHere s)) ∧
    (¬flagOpen s 1 → exec (.frq d a b) s = .next (stallHere s)) ∧
    (flagOpen s 2 → jobOf s blk job = none → Traps s (shut s) (.mbxdone a) cOPERAND 0#64) ∧
    Uniform s s (.mbxq d) d [w32 (box.length % 32 + if ∃ x ∈ box, x.kind ≠ 0 ∧ x.blk = blk % 4 then 256 else 0)] ∧
    (flagOpen s 1 →
      (∀ ws, frqWords s k (usrc s b) = some ws → Values s (.frq d a b) d ws) ∧
      (frqWords s k (usrc s b) = none → Traps s s (.frq d a b) cOPERAND 0#64)) ∧
    (flagOpen s 2 → k < 64 → checkGlobal s .write false (streamAt s (cg s).ctx k).shadow.toNat 8 = .ok pa pl win →
      ∃ t, exec (.oppush a b) s = .next t ∧ t.mem = put.1.mem ∧
        Pended (raiseLct put.1 (some blk) put.2) t 2 fun p => p.kind = .push ∧ p.op = k ∧ p.time = put.2 ∧
          p.accs.map (fun c => (c.x, c.y)) = [(w32 pair, w32 (pair / 2 ^ 32))]) ∧
    (flagOpen s 2 → 64 ≤ k → Traps s (shut s) (.oppush a b) cOPERAND 0#64)

/-- RXADD, RXFADD, RXBADD and RXMAX become pending window reductions of words, whose windows the check has found; they close
the region; without a thread they only do that, and on a full flag they stall (R35, R372). A reduction of one thread in a
group without another operation then leaves for its home as one request that carries its operand, under STORE_COMPLETE. WSTAT reads the state of an entry or of a path (R373); WMAPI applies its command or raises OPERAND
(R435), and waits while a subscription's path has no room (R267, R280). WMAPI's corners are log entries 65 and 144, the
whole-fragment trap is log entry 14. -/
def Obligations.WindowInstructions : Prop :=
  ∀ (s u : State) (d x a b : Opnd),
    let js := threads (selected s)
    let Reduces := fun (i : Instr) (op : Nat) =>
      (¬flagOpen s 2 → (∃ j ∈ js, ∀ c r, checkGlobal s .reduce false (addrOf s a b j) 4 ≠ .trap c r) →
        exec i s = .next (stallHere s)) ∧
      (js = [] → ∃ t, exec i s = .next t ∧ OnlyGoesOn (shut s) t) ∧
      (flagOpen s 2 → js ≠ [] → (∀ j ∈ js, ∃ pa pl w, checkGlobal s .reduce false (addrOf s a b j) 4 = .ok pa pl w) →
        ∃ t, exec i s = .next t ∧ Pended s t 2 fun q => q.kind = .rx ∧ q.op = op ∧ q.dst = .nul ∧ q.accs.map (·.t) = js ∧
          ∀ c ∈ q.accs, c.n = 4 ∧ c.va = addrOf s a b c.t ∧ c.x = src s .plain x c.t ∧
            checkGlobal s .reduce false c.va 4 = .ok c.pa c.pl c.win) ∧
      (flagOpen s 2 → ∀ j pa pl w, js = [j] → (cg s).pend = [] →
        checkGlobal s .reduce false (addrOf s a b j) 4 = .ok pa pl (some w) → l1Blocked s (blkOf s.curG) (lineOf pa) s.nextId = false →
        ∃ t v r, exec i s = .next t ∧ exec (.storeComplete s.curG s.nextId) t = .next v ∧ v.hw = s.hw ++ [r] ∧
          r.own = some (s.curG, s.nextId) ∧ r.kind = .masked ∧ r.op = op ∧ r.line = lineOf pa ∧
          r.win = some (w, addrOf s a b j - lineOff pa) ∧ r.accs.map (fun c => (c.t, c.pa, c.x)) = [(j, pa, src s .plain x j)])
    let a0 := wordsNat (ublock s a 8) % 2 ^ 32
    Reduces (.rxadd x a b) 0xD0 ∧ Reduces (.rxfadd x a b) 0xD1 ∧ Reduces (.rxbadd x a b) 0xD2 ∧ Reduces (.rxmax x a b) 0xD3 ∧
    (flagOpen s 1 →
      (∀ ws, wstatOf s (usrc s a).toNat (usrc s b) = some ws → Values s (.wstat d a b) d ws) ∧
      (wstatOf s (usrc s a).toNat (usrc s b) = none → Traps s s (.wstat d a b) cOPERAND 0#64)) ∧
    (¬flagOpen s 1 → exec (.wstat d a b) s = .next (stallHere s)) ∧
    (¬flagOpen s 2 → exec (.wmapi a) s = .next (stallHere s)) ∧
    (flagOpen s 2 →
      (wmapiApply (shut s) (cg s).ctx a0 (wordsNat (ublock s a 8)) = none → Traps s (shut s) (.wmapi a) cOPERAND (w64 a0)) ∧
      (wmapiApply (shut s) (cg s).ctx a0 (wordsNat (ublock s a 8)) = some u →
        (wmapiHeld s a0 (wordsNat (ublock s a 8)) = true → exec (.wmapi a) s = .next s) ∧
        (wmapiHeld s a0 (wordsNat (ublock s a 8)) = false → 2 < a0 / 2 ^ 28 ∨ wmapiWaits u (a0 % 2 ^ 10) u.nextId = false → exec (.wmapi a) s = .next (advance u)) ∧
        (a0 / 2 ^ 28 ≤ 2 → wmapiWaits u (a0 % 2 ^ 10) u.nextId = true → ∃ t, exec (.wmapi a) s = .next t ∧
          Pended u t 2 fun p => p.kind = .inval ∧ p.win = some (a0 % 2 ^ 10) ∧ p.op = u.nextId)))

/-- KVAPP, KVSEAL, KVEVICT, MFOLD and MDECAY join the queue of their die's Skiver with their registers and wait for its
acceptance; they stall while it or their flag is full (R35, R380, R381). Where the queue is empty and the Skiver may accept
the command, and its checks pass, the acceptance that follows lets the group go on, and the command keeps the writes it has
decided on; that a command decides them at its acceptance, MFOLD alone reading its rows as it performs them (R399), is the
reading of log entry 73 (DEDUCED). KVPOS answers each executing thread's position once no accepted command works on the
descriptor, whatever address names it (R381, R386); the lines it reads meet the L2 (R213, R405). The
traps of KVPOS are log entry 75. -/
def Obligations.KvInstructions : Prop :=
  ∀ (s : State) (d a b : Opnd) (desc : Nat) (ps : List Nat) (pages : List PageImg),
    let die := coreOf s.curG / 128
    let Sends := fun (i : Instr) (op words : Nat) =>
      let m : KvCmd := { (default : KvCmd) with
        id := s.nextId, op := op, g := s.curG, f := s.curF, pend := s.nextId, regs := ublock s a words
        banks := scratchBanks s (blkOf s.curG), ctx := (cg s).ctx }
      let sent := waitFor { (addPend (shut s) 2 { (default : Pend) with kind := .kv, dst := .nul }).1 with
        kvq := Store.upd s.kvq die fun l => l ++ [m] } .kv
      let run := kvRun m (kvStart sent m)
      (¬flagOpen s 2 → exec i s = .next (stallHere s)) ∧
      (flagOpen s 2 → 64 ≤ (Store.get s.kvq die).length → exec i s = .next s) ∧
      (flagOpen s 2 → (Store.get s.kvq die).length < 64 → exec i s = .next sent ∧
        (Pended (shut s) (updCF { sent with kvq := s.kvq } fun _ => (cf s).onward) 2 fun p => p.kind = .kv) ∧
        cf sent = { cf s with st := if (cf s).st = .handler then .handler else .waiting, wait := .kv } ∧
        Store.get sent.kvq die = Store.get s.kvq die ++ [m] ∧ ∀ k, k ≠ die → Store.get sent.kvq k = Store.get s.kvq k) ∧
      (flagOpen s 2 → Store.get s.kvq die = [] → ((cf s).st = .ready ∨ (cf s).st = .handler) → kvMay sent m = true →
        (∀ x, m.desc = some x → x % 64 = 0) → run.err = none →
        ∃ t, exec i s = .next sent ∧ exec (.kvAccept die) sent = .next t ∧ cf t = afterWait s ∧
          ∃ home, Store.get t.kvq die = [{ m with acc := true, plan := run.plan, fl := run.fl, home := home }])
    let va := upair s a
    let js := execThreads s d
    Sends (.kvapp a) 0xE0 8 ∧ Sends (.kvseal a) 0xE1 2 ∧ Sends (.kvevict a) 0xE3 8 ∧ Sends (.mfold a) 0xE4 8 ∧
    Sends (.mdecay a) 0xE5 8 ∧
    (js = [] → ∃ t, exec (.kvpos d a b) s = .next t ∧ OnlyGoesOn s t) ∧
    (js ≠ [] → ¬flagOpen s 1 → exec (.kvpos d a b) s = .next (stallHere s)) ∧
    (js ≠ [] → flagOpen s 1 → kvTaken s (coreCaches (coreOf s.curG)) (cg s).ctx va = false → va % 64 = 0 →
      kvPlaces s (coreCaches (coreOf s.curG)) (cg s).ctx va 64 false = .inl ps → desc = leNat (ps.map (homeByte s)) →
      dBusy desc = false → descOk desc = true → kvView s desc (dPcnt desc) 0 = .inl pages →
      ∃ t, exec (.kvpos d a b) s = .next t ∧ Pended (viewMeet s va desc pages) t 1 fun q =>
        q.kind = .value ∧ q.dst = d ∧ q.uni = uniform d ∧ q.done = true ∧ q.accs.map (·.t) = js ∧
        ∀ c ∈ q.accs, c.n = 4 ∧ c.bs = leBytes 4 (kvFind pages (src s .plain b c.t).toNat).toNat)

/-! Privileged instructions. -/

/-- GRD, GWR, GRES, GFRZ, TLBI, FRSV, FRLD, CTXSV and CTXLD (R429 to R437). GRD reads an item into D, GWR writes one that
may be written, the line of a spilled stack entry meeting the L2; GRES rolls another group back that has no operation left;
GFRZ freezes or releases its fragments; TLBI posts its request; FRSV and CTXSV write a record and free what it holds, a saved
group's violation being kept for its restore; FRLD and CTXLD restore what a record holds. A record off a multiple of 64 raises OPERAND, with its address for FRSV and FRLD
alone. Without privilege their words trap with PRIV (R413). On a full flag those that count on one stall (R35). GWR of a
barrier and of FLAGS, the stalls of FRSV, FRLD and CTXSV, the bindings that CTXSV frees, where a violation is kept and the
records that CTXLD takes are log entries 86, 121, 77, 89, 88 and 90; whole-fragment traps are log entry 14. -/
def Obligations.PrivilegedInstructions : Prop :=
  ∀ (s u : State) (d x a b : Opnd) (g n : Nat) (y : OpSlot) (i : Inv) (h bs : List Byte) (w v : Word) (ls ls' : List Word) (j : Instr),
    let sel := (usrc s b).toNat
    let cls := bits sel 31 28
    let item := fun s g => itemRead s g cls (bits sel 27 8) (bits sel 7 0)
    let k := (usrc s a).toNat
    let blk := blkOf s.curG
    let slot := (cg s).ctx
    let front := opAt s k
    let va := upair s a
    let re := (ublock s a 4)
    (itemGroup s a cls = some g → item s g = some w →
      Uniform s (itemMeet s g cls (bits sel 27 8)) (.grd d a b) d [w]) ∧
    (itemGroup s a cls = none → Traps s s (.grd d a b) cOPERAND 0#64) ∧
    (itemGroup s a cls = some g → item s g = none → Traps s s (.grd d a b) cOPERAND 0#64) ∧
    (itemGroup (shut s) a cls = some g → (12 ≤ cls ∨ g = s.curG ∨ allFrozen (gAt s g) = true) →
      itemWrite (shut s) g cls (bits sel 27 8) (bits sel 7 0) (usrc s x) = some u →
      ∃ t, exec (.gwr x a b) s = .next t ∧ t = advance u ∧ (cls ≤ 2 → item t g = some (usrc s x))) ∧
    (itemGroup (shut s) a cls = some g → cls < 12 → g ≠ s.curG → allFrozen (gAt s g) = false →
      Traps s (shut s) (.gwr x a b) cOPERAND 0#64) ∧
    (groupNamed s a = some g → regionOk (gAt s g) = true → g ≠ s.curG → (gAt s g).pend = [] →
      (∀ r ∈ s.rdvs, r.lists g = false) →
      exec (.gres a) s = .next (gresDone (rollback (updG (waitFor (shut s) (.quiet g)) g fun x =>
        mapFrags { x with roll := true } Frag.freeze) g) g)) ∧
    (groupNamed s a = some g → regionOk (gAt s g) = false → Traps s (shut s) (.gres a) cOPERAND 0#64) ∧
    (groupNamed (shut s) a = some g → g ≠ s.curG → (∀ r ∈ s.rdvs, r.lists g = false) →
      ∃ t, exec (.gfrz 0#1 a) s = .next t ∧ (∀ l, l < 8 → fragAt t g l = (fragAt s g l).freeze) ∧
        (∀ l, g ≠ l → s.curG ≠ l → gAt t l = gAt s l) ∧ cf t = (cf s).onward ∧ t = { s with groups := t.groups }) ∧
    (groupNamed (shut s) a = some s.curG → Traps s (shut s) (.gfrz 0#1 a) cOPERAND 0#64) ∧
    (groupNamed (shut s) a = some g →
      ∃ t, exec (.gfrz 1#1 a) s = .next t ∧ (gAt t g).viol = none ∧
        (∀ l, l < 8 → ¬(g = s.curG ∧ l = s.curF) → fragAt t g l = (fragAt s g l).unfreeze) ∧
        (∀ l, g ≠ l → s.curG ≠ l → gAt t l = gAt s l) ∧ t = { s with groups := t.groups }) ∧
    (flagOpen s 2 →
      (invOf (ofWords re) = some i → i.kind ≤ 1 → i.ctx = (cctx s).ctxid →
        ∃ t, exec (.tlbi a) s = .next t ∧
          (Pended (shut s) { t with invs := s.invs, nextId := s.nextId + 1 } 2 fun p => p.kind = .inval ∧ p.dst = .nul) ∧
          t.nextId = s.nextId + 2 ∧ t.invs = s.invs ++ [{ i with own := some (s.curG, s.nextId), id := s.nextId + 1 }]) ∧
      (invOf (ofWords re) = none → Traps s (shut s) (.tlbi a) cOPERAND 0#64) ∧
      (invOf (ofWords re) = some i → 1 < i.kind ∨ i.ctx ≠ (cctx s).ctxid → Traps s (shut s) (.tlbi a) cOPERAND 0#64) ∧
      (upair s b % 64 = 0 → k < 64 → front.used = true → front.ctx = slot → front.drain = true →
        (∀ p ∈ front.points, p.st = .forced) →
        Saves s (.frsv a b) (upair s b) (frontRec s k) fun t =>
          opAt t k = default ∧ ∀ l, l ≠ k → opAt t l = opAt s l) ∧
      (va % 64 = 0 → b = .mone → Saves s (.ctxsv a b) va (blockRec (shut s) blk) fun t =>
        ∀ l, l < 4 → (rowSlot t (blk / 4) l).bound = true → (rowSlot t (blk / 4) l).blk ≠ blk % 4) ∧
      (va % 64 = 0 → isBlockForm b = false → groupNamed s b = some g → g ≠ s.curG → allFrozen (gAt s g) = true →
        (gAt s g).pend = [] → Saves s (.ctxsv a b) va (groupRec (shut s) g) fun t => gAt t g = default ∧
          Store.get t.viols (violKey s (gAt s g).ctx g) = (gAt s g).viol.getD 0) ∧
      (va % 64 ≠ 0 → Traps s (shut s) (.ctxsv a b) cOPERAND 0#64 ∧ Traps s (shut s) (.ctxld a b) cOPERAND 0#64) ∧
      (upair s b % 64 ≠ 0 → Traps s (shut s) (.frsv a b) cOPERAND (w64 (upair s b))) ∧
      (va % 64 = 0 → b = .mone → loadRecord (shut s) va (56320 + 49152 * (dataBanks (shut s) blk).length) = .inl bs →
        recIs (shut s) bs 0x4252 blk slot = true → splitEqual (shut s) blk bs = true → rowTaken (shut s) blk bs = none →
        ∃ t, exec (.ctxld a b) s = .next t ∧
          Pended (freshCode (restoreBlock (shut s) blk bs) slot) t 2 fun p => p.kind = .record) ∧
      (va % 64 = 0 → isBlockForm b = false → (usrc s b).toNat < 32 → g = 32 * blk + (usrc s b).toNat →
        (gAt s g).present = false → loadRecord (shut s) va 1024 = .inl h → loadRecord (shut s) va (groupRecLen h) = .inl bs →
        groupRecOk (shut s) slot g bs = true → g ≠ s.curG →
        ∃ t, exec (.ctxld a b) s = .next t ∧
          Pended (takeForced (freshCode (restoreGroup (shut s) slot g bs true) slot) slot blk) t 2 fun p => p.kind = .record)) ∧
    (flagOpen s 1 → va % 64 = 0 → readFront s va = .inl y →
      (loadRecord s va 64 = .inl h → loadRecord s va (frontLen (leNat h)) = .inl bs → frontCheck s slot bs = some y) ∧
      (slotFor s (opLines y.ins) (cf s).asks = some n →
        ∃ t, exec (.frld d a) s = .next t ∧ (opAt t n).ins = y.ins ∧ (opAt t n).lines = y.lines ∧
          (opAt t n).points.map (fun p => p.l) = y.points.map (fun p => p.l) ∧
          Pended (loadFront (shut s) n { y with drain := decide ((cctx s).st = 2) }) t 1 fun p =>
            p.kind = .value ∧ p.dst = d ∧ p.accs.map (fun c => c.bs) = [leBytes 4 n]) ∧
      (slotFor s (opLines y.ins) (cf s).asks = none → exec (.frld d a) s = .next
        (if (cf s).asks = 0 then updCF { s with nextId := s.nextId + 1 } fun f => { f with asks := s.nextId + 1 } else s))) ∧
    (flagOpen s 1 → va % 64 = 0 → readFront s va = .inr (cOPERAND, 0, []) → Traps s (shut s) (.frld d a) cOPERAND 0#64) ∧
    (flagOpen s 1 → va % 64 ≠ 0 → Traps s (shut s) (.frld d a) cOPERAND (w64 va)) ∧
    (¬flagOpen s 1 → exec (.frld d a) s = .next (stallHere s)) ∧
    (¬flagOpen s 2 → ∀ i ∈ [Instr.tlbi a, .frsv a b, .ctxsv a b, .ctxld a b], exec i s = .next (stallHere s)) ∧
    (decode w ls = .ok (j, ls') → privWord w = true → wordFault false (roleNo v) (roleNvreg v) w ls = some cPRIV)

/-! Steps of groups. -/

/-- CLAUSE_START, FRAGMENT_MERGE and the end or the rollback of a group (R33, R41, R105, R108, R109, R110, R424): a clause
whose header and words are legal parks its fragment where YLD meets a request to yield and the block holds a job; else it is
entered once its flags are clear, its region opened. With CVG a READY fragment first waits in MERGING while another of its
group may still come (one MERGING at another header does not count); else the stack is acted on as R105 says, empty paths being discarded and the test repeated. A filler
passes on; a header, a word or a fetch that is refused traps with the address of its word; MERGING fragments of one header
become one with all their threads; an ended group is gone, its block with its last group, and its context keeps that it has
yielded; a rolled back group stands at its region entry. Which fragments merge, and the checks of a clause, are log entries 78
and 81; a popped mask is read as log entry 15 says, a PC in no clause as log entry 123, YLD as log entry 82, and whole-fragment
traps as log entry 14. -/
def Obligations.ClausesAndGroups : Prop :=
  ∀ (s u : State) (ws : List Word) (g i k c : Nat) (rest : List Nat),
    let f := cf s
    let w := wordIx f.pc
    let h := (ws[w]?).getD 0#32
    let body := (ws.drop (w + 1)).take (hdrLen h)
    let ready := f.wait = .no ∧ f.mid = false ∧ f.code = []
    let legal := hdrLen h ≠ 0 ∧ headerBad h w = false ∧ placeBad (hdrSeta h) 16 body = false
    let faults := wordsFault (privileged u) (roleNo (cg u).role) (roleNvreg (cg u).role) 16 1 body
    let at_ := updCF u fun f => { f with hdr := h, code := body }
    let merging := slots8.filter fun l => (fragAt s g l).st == .merging
    let parks := hdrYld h && bit (cctx at_).preq 0 && holdsJob at_ (cblk at_)
    let alone := ∀ l, l ≠ g → l / 32 = g / 32 → (gAt s l).present = false
    -- the clause is entered from a state x, or waits there for its flags
    let Enters := fun (x : State) =>
      (hdrWait h &&& flagMask (cg x) = 0 → hdrRgn h = false →
        exec .clauseStart s = .next (updCF x fun f => { f with pc := f.pc + 4#64, mid := true })) ∧
      (hdrWait h &&& flagMask (cg x) = 0 → hdrRgn h = true → (bAt x (blkOf x.curG)).saving = false →
        exec .clauseStart s = .next (updCF (updCG x fun g => { g with
          rgncnt := g.rgncnt + 1#32, rgnpc := f.pc, rgnx := w32 (2 ^ 31 + depthOf g % 32), rgnmsk := (cf x).mask
          rgnmode := (cf x).mode })
          fun f => { f with pc := f.pc + 4#64, mid := true })) ∧
      (hdrWait h &&& flagMask (cg x) ≠ 0 → exec .clauseStart s = .next x)
    let others := slots8.any fun l => l != s.curF &&
      ((fragAt u s.curG l).st == .ready || (fragAt u s.curG l).st == .waiting || (fragAt u s.curG l).st == .handler ||
        ((fragAt u s.curG l).st == .merging && (fragAt u s.curG l).pc == f.pc))
    -- Q of R105, and whether the top of the stack of x is a path without threads above it
    let recon := fun (x : State) => (wholeStack x).find? fun e => e.kind == 0
    let discards := fun (x : State) => (∃ o, recon x = some o ∧ o.pc = f.pc) ∧ ∃ e, topOf x = some e ∧ e.kind = 1 ∧ e.mask = 0#32
    let took := fun (x : State) (e : StkEntry) => popHere (updCF x fun f => { f with mask := resumable x e, mode := e.mode })
    ((f.st = .ready ∨ f.st = .handler) → ready → fetch s s.curG f.pc = (u, .words ws) →
      (legal → faults = none → parks = true →
        exec .clauseStart s = .next (waitFor (updCF at_ fun f => { f with code := [] }) .parked)) ∧
      (legal → faults = none → parks = false → hdrCvg h = false → Enters at_) ∧
      (legal → faults = none → parks = false → hdrCvg h = true → body ≠ [] →
        (f.st = .ready → others = true → exec .clauseStart s = .next (updCF at_ fun f => { f with st := .merging })) ∧
        (f.st = .handler ∨ others = false → ∀ n, n ≤ 31 → (∀ m, m < n → discards (Nat.repeat popHere m at_)) →
          let x := Nat.repeat popHere n at_
          ((∀ o, recon x = some o → o.pc ≠ f.pc) → Enters x) ∧
          ∀ o e, recon x = some o → o.pc = f.pc → topOf x = some e →
            (e.kind = 0 → Enters (took x e)) ∧ (e.kind = 2 → Enters x) ∧
            (e.kind = 1 → e.mask ≠ 0#32 → e.pc.toNat % 64 = 0 → exec .clauseStart s = .next (jump (took x e) e.pc)) ∧
            (f.st = .ready → e.kind = 1 → e.mask ≠ 0#32 → e.pc.toNat % 64 ≠ 0 →
              ∃ t, exec .clauseStart s = .next t ∧ Trapped x t cALIGN (active x) e.pc))) ∧
      (hdrLen h = 0 → bits h.toNat 2 0 = 0 → exec .clauseStart s = .next (jump u (fblock f.pc + 64#64))) ∧
      (f.st = .ready → (hdrLen h = 0 ∧ bits h.toNat 2 0 ≠ 0 ∨ hdrLen h ≠ 0 ∧ (headerBad h w = true ∨ placeBad (hdrSeta h) 16 body = true)) →
        ∃ t, exec .clauseStart s = .next t ∧ Trapped u t cILLEGAL_CLAUSE (active s) 0#64) ∧
      (legal → faults = some (c, k) →
        exec .clauseStart s = .next (raiseWord u c (f.pc + w64 (4 * k)) ((body[k - 1]?).getD 0#32))) ∧
      (f.st = .ready → legal → faults = some (c, k) → (∀ r ∈ u.rdvs, r.lists u.curG = false) →
        ∃ t, exec .clauseStart s = .next t ∧ (cf t).st = .handler ∧ (cf t).pc = w64 (hdrTrap (cctx s).hdr) ∧
          (cf t).trap.cause = c ∧ (cf t).trap.pc = f.pc + w64 (4 * k))) ∧
    (f.st = .ready → ready → fetch s s.curG f.pc = (u, .fault c) →
      ∃ t, exec .clauseStart s = .next t ∧ (cf t).st = .handler ∧ (cf t).trap.cause = c ∧ (cf t).trap.pc = f.pc ∧
        (cf t).trap.fadr = fblock f.pc) ∧
    (merging = i :: rest → (gAt s g).saved = false → (gAt s g).stk = [] → (gAt s g).spilled = 0 →
      (∀ l, l < 8 → (fragAt s g l).st = .merging ∨ (fragAt s g l).st = .free ∨ (fragAt s g l).st = .frozen) →
      (∀ l ∈ merging, (fragAt s g l).pc = (fragAt s g i).pc ∧ (fragAt s g l).code ≠ []) →
      ∃ t, exec (.fragmentMerge g) s = .next t ∧ (fragAt t g i).st = .ready ∧
        (rest ≠ [] → hdrRgn (fragAt s g i).hdr = false → bit (gAt t g).rgnx.toNat 31 = false) ∧
        (∀ b, b < 32 → ((fragAt t g i).mask.getLsbD b = true ↔ ∃ l ∈ merging, (fragAt s g l).mask.getLsbD b = true)) ∧
        ∀ l ∈ rest, fragAt t g l = default) ∧
    ((gAt s g).present = true → (gAt s g).ending = true → (gAt s g).quiet = true →
      ∃ t, exec (.groupEnd g) s = .next t ∧ gAt t g = default ∧ (∀ l, l ≠ g → gAt t l = gAt s l) ∧
        (alone → bAt t (g / 32) = default) ∧ (¬alone → bAt t (g / 32) = bAt s (g / 32)) ∧
        (ctxAt t (gAt s g).ctx).yielded =
          if (gAt s g).yielded then (ctxAt s (gAt s g).ctx).yielded ++ [g] else (ctxAt s (gAt s g).ctx).yielded) ∧
    ((gAt s g).present = true → (gAt s g).roll = true → (gAt s g).quiet = true →
      let r := rollback s g
      exec (.groupRollback g) s = .next (gresDone r g) ∧ (gAt r g).roll = false ∧ (gAt r g).viol = none ∧
      (gAt r g).frags = [(0, { (default : Frag) with
        st := .ready, mask := (gAt s g).rgnmsk, pc := (gAt s g).rgnpc, mode := (gAt s g).rgnmode })] ∧
      (gAt r g).v = (gAt s g).v ∧ (gAt r g).s = (gAt s g).s ∧ (gAt r g).p = (gAt s g).p)

/-- The wakes of waiting fragments (R111, R119, R242, R243, R276, R292, R296, R301, R321, R322, R418): each wait ends when
what it waits for has come, with the words that its instruction writes, in a group that no save has stopped. The order of
statuses is log entry 67; the signal of an EVSIG or MBXDONE whose group has ended comes first, and then its fragment is free
(R65, R110); that an EVSIG and an MBXDONE wait as fences do is log entry 66 (DEDUCED). -/
def Obligations.Wakes : Prop :=
  ∀ (s u : State) (g f t0 n k m scope pa e st after : Nat) (d : Opnd) (name target x y : Word) (q : Quad) (rel acq : Bool)
    (wb : Option Nat) (box : Mail),
    let w := (fragAt s g f).wait
    let blk := blkOf g
    let Ends := fun (i : Instr) (u : State) (d : Opnd) (ws : List Word) => ∃ t, exec i s = .next t ∧ Woken u t g f d ws
    let r := ringRec s blk k
    (gAt s g).saved = false →
      (w = .record → recWaiting s (g, f) = false →
        exec (.handlerStart g f) s = .next (updF s g f fun x => { x with wait := .no })) ∧
      (w = .await d k n → phaseReached (Store.get (bAt s blk).bars k) n = true →
        Ends (.fragmentWake g f) s d [w32 (Store.get (bAt s blk).bars k).phase]) ∧
      (w = .awaited d k → Ends (.fragmentWake g f) s d [w32 (Store.get (bAt s blk).bars k).phase]) ∧
      (w = .sleep t0 n → (t0 + n ≤ s.gt ∨ bit (ctxAt s (gAt s g).ctx).preq 0 = true) → Ends (.sleepWake g f) s .nul []) ∧
      (w = .wtime q → q.toNat ≤ s.gt → Ends (.wtimeWake g f) s .nul []) ∧
      (w = .evwait d name target → evAccess s (gAt s g).ctx (evIdx name) false = .ok pa e →
        (bit (preqOf s g) 1 = false → 0 ≤ serial (evCtr e) target → Ends (.evwaitWake g f) s d [0#32, evCtr e]) ∧
        (bit (preqOf s g) 1 = true → evFrozen e = false → Ends (.evwaitWake g f) s d [1#32, evCtr e]) ∧
        (¬0 ≤ serial (evCtr e) target → evDown e = true → Ends (.evwaitWake g f) s d [3#32, evCtr e])) ∧
      (w = .rngw d k n → r.valid = true → r.ap ≠ r.fp → ringQueued s blk k n = false →
        Ends (.rngwWake g f) (updRing s blk k fun y => { y with ap := (r.ap + 1) % 65536 }) d
          [w32 (r.slotBytes * (r.ap % r.nslot) + if bit r.fmask (r.ap % r.nslot) then 2 ^ 31 else 0)]) ∧
      (w = .mbxrd d n → mailFor s blk = some box → mailQueued s (coreOf g) n box = false →
        Ends (.mbxrdWake g f) (takeMail s blk box) d box.words) ∧
      (w = .qwait d m n → copiesLeft s g (queuesOf m) n (fun _ => true) = false → qwaitTake s blk m = (u, x) →
        Ends (.qwaitWake g f) u d [x]) ∧
      (w = .lbcl d k n → copiesLeft s g [k] n (fun c => c.op == 0xB3) = false →
        Ends (.lbclWake g f) { s with lbmax := Store.set s.lbmax (4 * coreOf g + k) 0#32 } d
          [Store.get s.lbmax (4 * coreOf g + k)]) ∧
      (w = .frc d n → frcStatus s g n false = some st → Ends (.frcWake g f) s d [w32 st]) ∧
      (w = .fence scope rel acq n wb after x y →
        (fenceRound s g f = (u, false) → exec (.fenceWake g f) s = .next u) ∧
        (fenceRound s g f = (u, true) → (gAt u g).ending = true → after = 1 ∨ after = 2 →
          exec (.fenceWake g f) s = .next (signalEnded u
            (if after = 1 then evsigFinish u g f n x y else mbxdoneFinish u g f n x) g f n)) ∧
        (fenceRound s g f = (u, true) → (gAt u g).ending = false →
          (after = 0 → Ends (.fenceWake g f) u .nul []) ∧
          (after = 1 → exec (.fenceWake g f) s = .next (evsigFinish u g f n x y)) ∧
          (after = 2 → exec (.fenceWake g f) s = .next (mbxdoneFinish u g f n x))))

/-! Memory. -/

/-- LOAD_COMPLETE, STORE_COMPLETE and ATOMIC_COMPLETE (R228, R230, R231, R235, R36, R62): returned data go into the registers
of the destination in any order of threads and of registers, and with the last of them the operation is complete; a store in
scratch puts its bytes there, the last thread's staying; another is performed in its L1, and what belongs to windows, to host
memory or to a block without L1 leaves for its homes, with what the same store writes to those lines, as one request for each
line at which they are performed (R220), and for each line of a window; an atomic in scratch leaves the new word and takes the old one; what all homes have
performed is complete. The last thread's store staying is log entry 61. -/
def Obligations.AccessesComplete : Prop :=
  ∀ (s : State) (g id regs : Nat) (thr : Word) (p : Pend) (a : Acc), findPend (gAt s g) id = some p →
    let all := p.accs.all fun c => c.got
    let pend := (gAt s g).pend.filter fun q => q.id != p.id
    let home := p.accs.filter fun a => p.accs.any fun c => toHome s g c && sameLine s (lineOf c.pa) (lineOf a.pa)
    let takes := ∀ c ∈ p.accs, c ∉ home → l1Takes s (blkOf g) (lineOf c.pa) = true
    -- nothing of the results is written yet, and all of them are now
    let whole := (∀ c ∈ p.accs, c.put = 0 ∧ resLen p c ≤ 16 ∧ (p.uni = true ∨ thr.getLsbD c.t = true)) ∧ (p.accs.map (·.t)).Nodup
    let Ends := fun (i : Instr) => ∃ t, exec i s = .next t ∧ Completed s t g p
    let Delivers := fun (i : Instr) => ∃ t, exec i s = .next t ∧ t = { s with groups := t.groups } ∧
      (∀ h, h ≠ g → gAt t h = gAt s h) ∧
      gAt t g = orFl { p.accs.foldl (fun x c => deliver x p allRegs c) (gAt s g) with pend := pend } p.fl
    let Leaves := fun (i : Instr) (as : List Acc) (q : State → Prop) => ∃ t, exec i s = .next t ∧ t.mem = s.mem ∧
      findPend (gAt t g) id = some { p with
        sent := true, accs := p.accs.map fun c => if as.contains c then c else { c with got := true } } ∧ q t
    let Requests := fun (i : Instr) (kind : HwKind) => Leaves i p.accs fun t =>
      ∀ l ∈ accLines s p.accs, ∃ r ∈ t.hw, r.line = l ∧ r.own = some (g, p.id) ∧ r.blk = some (blkOf g) ∧ r.kind = kind ∧
        r.op = p.op ∧ r.accs = p.accs.filter fun c => c.line s == l
    let at_ := homePa s
    let Writes := fun (as : List Acc) => Leaves (.storeComplete g id) as fun t =>
      ∀ w ∈ as.map (Acc.write s), ∃ r ∈ t.hw, r.line = w.1 ∧ r.win = w.2 ∧ r.own = some (g, p.id) ∧ r.blk = some (blkOf g) ∧
        r.kind = .masked ∧ (p.kind = .rx → r.op = p.op ∧ r.accs = as.filter fun c => c.write s == w) ∧
        -- a byte at home that several threads store is written by the highest-numbered of them alone; each access is in one line
        (p.kind = .store → (as.map (·.t)).Pairwise (· < ·) → (∀ c ∈ as, ∀ i, i < c.n → at_ (c.pa + i) = at_ c.pa + i) → ∀ x,
          (r.bytes.reverse.find? fun e => at_ e.1 == x).map (·.2) =
            match as.reverse.find? fun c => decide (at_ c.pa ≤ x) && decide (x < at_ c.pa + c.n) with
            | some c => if c.write s = w then some ((c.bs[x - at_ c.pa]?).getD 0#8) else none
            | none => none)
    let old := w32 (leNat (lsBytes s a.pa 4))
    let new := atomicNew p.op p.ftype old a.x a.y
    (p.kind = .load ∨ p.kind = .pgreq ∧ recWaiting s (g, 8 + id) = false ∨ p.kind = .value ∧ p.done = true → all = true →
      whole → Delivers (.loadComplete g id (thr, allRegs))) ∧
    (p.kind = .load → p.accs = [a] → a.got = true → a.put = 0 → p.uni = false → thr.getLsbD a.t = true → regs < 32 →
      accDone p { a with put := regs } = false →
      ∃ t, exec (.loadComplete g id (thr, regs)) s = .next t ∧ findPend (gAt t g) id = some { p with accs := [{ a with put := regs }] } ∧
        (gAt t g).v = (deliver (gAt s g) p regs a).v ∧ (gAt t g).p = (deliver (gAt s g) p regs a).p) ∧
    (p.kind = .load → p.accs = [a] → a.got = false → a.put = 0 → a.n ≤ 16 → p.scratch = true → p.uni = false →
      thr.getLsbD a.t = true → mayPerform s g p a = true → draining s a.pa p.id = false →
      ∃ t, exec (.loadComplete g id (thr, allRegs)) s = .next t ∧
        gAt t g = orFl { deliver (gAt s g) p allRegs { a with bs := lsBytes s a.pa a.n } with pend := pend } p.fl) ∧
    (p.kind = .store → p.sent = false → allMay s g p = true → p.scratch = true →
      ∃ t, exec (.storeComplete g id) s = .next t ∧
        Completed { s with ls := t.ls, mxq := t.mxq, strq := t.strq, kvq := t.kvq } t g p ∧
        ∀ k, Store.get t.ls k = match p.accs.reverse.find? fun c => decide (c.pa ≤ k) && decide (k < c.pa + c.bs.length) with
          | some c => c.bs.getD (k - c.pa) 0#8
          | none => Store.get s.ls k) ∧
    (p.kind = .store → p.sent = false → allMay s g p = true → p.scratch = false → home = [] → takes →
      ∃ t, exec (.storeComplete g id) s = .next t ∧ t.mem = s.mem ∧ findPend (gAt t g) id = none) ∧
    (p.kind = .store → p.sent = false → allMay s g p = true → p.scratch = false → home ≠ [] → takes → Writes home) ∧
    (p.kind = .rx → p.sent = false → allMay s g p = true → Writes p.accs) ∧
    (p.kind = .store ∨ p.kind = .rx → p.sent = true → all = true → Ends (.storeComplete g id)) ∧
    (p.kind = .amax → all = true → Ends (.storeComplete g id)) ∧
    (p.kind = .record → p.time < s.gt → Ends (.storeComplete g id)) ∧
    (p.kind = .flush → wbPending s (blkOf g) p.op = false → Ends (.storeComplete g id)) ∧
    (p.kind = .atomic → p.accs = [a] → a.got = false → p.sent = false → p.scratch = true → allMay s g p = true →
      ∃ t, exec (.atomicComplete g (id, thr)) s = .next t ∧ t.mem = s.mem ∧
        findPend (gAt t g) id = some { p with accs := [{ a with got := true, bs := leBytes 4 old.toNat }]
                                              fl := p.fl ||| new.2, done := true } ∧
        lsBytes t a.pa 4 = leBytes 4 new.1.toNat ∧
        ∀ k, k < a.pa ∨ a.pa + 4 ≤ k → Store.get t.ls k = Store.get s.ls k) ∧
    (p.kind = .atomic → all = false → p.sent = false → p.scratch = false → allMay s g p = true →
      Requests (.atomicComplete g (id, thr)) .atomic) ∧
    (p.kind = .amax ∨ p.kind = .scaleq → all = false → p.sent = false → p.scratch = false → allMay s g p = true →
      Requests (.atomicComplete g (id, thr)) .amax) ∧
    (p.kind = .atomic ∨ p.kind = .scaleq ∨ p.kind = .amax → all = true → whole → Delivers (.atomicComplete g (id, thr)))

/-- HOME_READ, HOME_WRITE, HOST_MEMORY_READ, HOST_MEMORY_WRITE, L1_LEASE_EXPIRY, PAGE_WALK and INVALIDATION_COMPLETE (R209,
R213, R248, R259, R350, R352, R452, R453): the home serves a load's misses in one line with the bytes it holds, under the dirty
bytes of the issuing L1; it performs a masked write, an atomic or a record, and returns a later time; the host's accesses
are served at the homes in their order, a write once the time of the one before has passed, those through BAR4 at APBASE,
and reads of BAR0 and BAR2 give the registers; a lease ends; a cache takes what a walk finds, while it has room, and loses
what an invalidation names. That a
completion time is the least that R248 admits is the model's choice (log entry 6), that only a walk fills a TLB log entry
42, where the host's apertures stand log entry 118. -/
def Obligations.HomesAndTranslation : Prop :=
  ∀ (s : State) (g id line c k cache slot page pa n : Nat) (p : Pend) (r : HomeReq) (a : Acc) (i : Inv) (bs : List Byte),
    let mine := missesIn s g p line
    let x := linePa r.line + lineOff a.pa
    let old := w32 (memNat s x 4)
    let Performs := fun (q : State → Prop) => ∃ t, exec (.homeWrite id) s = .next t ∧
      t.hw = s.hw.filter (fun q => q.id != r.id) ∧
      (∀ b, r.blk = some b → s.gt < (bAt t b).lct ∧ (bAt s b).lct ≤ (bAt t b).lct) ∧ q t
    let i' := { i with reached := true, bound := s.nextId }
    let keep := (walkFrom s cache slot page).keep
    let entry := fun (k : Nat × Nat × Nat) =>
      (⟨if 3 ≤ k.1 ∧ cache < 512 then 512 + cache / 16 else cache, ctxidOf s slot, k.1, k.2.1, k.2.2⟩ : TlbEnt)
    let tag := Store.get s.l1 (8192 * c + k)
    (findPend (gAt s g) id = some p → p.kind = .load → mine ≠ [] → inFlight s (blkOf g) line = false →
      l1Blocked s (blkOf g) line id = false →
      ∃ t, exec (.homeRead g id line) s = .next t ∧ t.mem = s.mem ∧
        findPend (gAt t g) id = some { p with accs := p.accs.map fun a => match mine.find? fun c => c.t == a.t with
          | some c => { c with got := true, bs := mergeDirty s (blkOf g) c.pa c.n }
          | none => a }) ∧
    ((s.hw.find? fun r => r.id == id) = some r → r.dest = none → homeBlocked s r = false → windowHeld s r = false → Plain s →
      (r.kind = .masked → r.op = 0 → r.win = none →
        Performs fun t => HoldsBytes s t (r.bytes.map fun e => (linePa r.line + lineOff e.1, e.2)) ∧
          ∀ h op q, r.own = some (h, op) → findPend (gAt s h) op = some q → (∀ a ∈ q.accs, ∃ c ∈ r.accs, c.t = a.t) →
            ∃ q', findPend (gAt t h) op = some q' ∧ (q'.accs.all fun a => a.got) = true) ∧
      (r.kind = .atomic → r.accs = [a] → Performs fun t =>
        memNat t x 4 = (atomicNew r.op r.ftype old a.x a.y).1.toNat ∧
        ∀ z, z < x ∨ x + 4 ≤ z → memByte t z = memByte s z) ∧
      (r.kind = .amax → r.accs = [a] → r.own = none → Performs fun t =>
        memBytes t x 96 = leBytes 96 (if a.y = 1#32 then amaxAdvance (memNat s x 96) else amaxRecord (memNat s x 96) a.x) ∧
        ∀ z, z < x ∨ x + 96 ≤ z → memByte t z = memByte s z)) ∧
    (hostRange s pa bs.length = true → Plain s → s.hostq = [] → s.hostT ≤ s.gt →
      ∃ t, exec (.hostMemoryWrite pa bs) s = .next t ∧ HoldsBytes s t (bytesAt pa bs) ∧ (bs ≠ [] → s.gt < t.hostT)) ∧
    (s.hostq ≠ [] ∨ s.gt < s.hostT →
      exec (.hostMemoryWrite pa bs) s = .next { s with hostq := s.hostq ++ [.write pa bs] }) ∧
    (hostRange s pa n = true → Plain s → s.hostq = [] →
      exec (.hostMemoryRead pa n) s = .next { s with out := s.out ++ [(96, memBytes s pa n)] }) ∧
    (s.hostq ≠ [] → exec (.hostMemoryRead pa n) s = .next { s with hostq := s.hostq ++ [.read pa n] }) ∧
    (pa < 2 ^ 36 → pa % 16 = 0 → s.apbase < 2 ^ 14 → s.hostq = [] →
      exec (.hostMemoryRead (2 ^ 52 + pa) 16) s = exec (.hostMemoryRead (s.apbase * 2 ^ 36 + pa) 16) s) ∧
    (s.hostq = [] → pa + n ≤ 2 ^ 24 →
      exec (.hostMemoryRead (2 ^ 53 + pa) n) s = .next { s with out := s.out ++ [(96, imageBytes (bar0Image s) pa n)] }) ∧
    (s.hostq = [] → pa + n ≤ 2 ^ 18 →
      exec (.hostMemoryRead (2 ^ 54 + pa) n) s = .next { s with out := s.out ++ [(96, imageBytes (bar2Image s) pa n)] }) ∧
    (tag.lease ≤ s.gt →
      exec (.l1LeaseExpiry c k) s = .next { s with l1 := Store.set s.l1 (8192 * c + k) { tag with sv := 0 } }) ∧
    (page < 2 ^ 36 → ∃ t, exec (.pageWalk cache slot page) s = .next t ∧ t = { s with tlb := t.tlb, fresh := t.fresh } ∧
      (∀ e ∈ t.tlb, e ∈ s.tlb ∨ ∃ k ∈ keep, e = entry k) ∧
      (s.tlb.length + keep.length ≤ 64 → (∀ e ∈ s.tlb, e ∈ t.tlb) ∧
        ∀ k ∈ keep, cacheRoom (entry k).cache k.1 ≠ 0 → entry k ∈ t.tlb)) ∧
    ((s.invs.find? fun i => i.id == id) = some i → i.reached = false → invPending s i' = false →
      ∃ t, exec (.invalidationComplete id) s = .next t ∧ t.tlb = s.tlb.filter (fun e => !i.drops e) ∧
        t.invs = s.invs.filter (fun j => j.id != id) ∧
        ∀ g op, i.own = some (g, op) → findPend (gAt t g) op = none)

/-- FAULT_BATCH_TIMEOUT, FAULT_BATCH_FULL, FAULT_DELIVERY, the writes of FQHEAD, VRHEAD and LERHEAD, and BANK_DRAIN_COMPLETE
(R205, R277 to R279, R422, R451): a due batch closes into ranges; a range goes to the tail of its ring and the last signals
vector 0; a freed ring takes a waiting record; a write of the host waits behind those that wait; a drained bank reads zero and its operation is complete. When a record
signals is log entry 43. -/
def Obligations.FaultQueuesAndDrains : Prop :=
  ∀ (s : State) (v : Word) (c k old : Nat) (r : FaultRec) (bs : List Byte),
    let one : Range := ⟨r.ctx, r.page, r.page, 1, kindBits r.kind⟩
    let Closes := fun (i : Instr) => ∃ t, exec i s = .next t ∧ t = { s with fq := t.fq } ∧
      t.fq.opened = [] ∧ t.fq.held = s.fq.opened.length ∧ t.fq.waiting = s.fq.waiting ∧
      (s.fq.opened = [r] → t.fq.deliver = [one.bytes s.gt])
    let place := fun (x : RecRing) => x.base.toNat + 32 * (x.tail.toNat % 2 ^ x.log)
    let Frees := fun (i : Instr) (n : Nat) => s.hostq = [] → ∃ t, exec i s = .next t ∧ (ringOf t n).head = v ∧
      ((ringOf s n).buf = [] → t = setRing s n { ringOf s n with head := v }) ∧
      ((ringOf s n).buf = [bs] → { ringOf s n with head := v }.room = true → s.migs = [] →
        place (ringOf s n) + bs.length ≤ 2 ^ 50 →
        HoldsBytes s t (bytesAt (place (ringOf s n)) bs) ∧
        (ringOf t n).tail = (ringOf s n).tail + 1#32 ∧ (ringOf t n).buf = [] ∧ bit t.msix n = true)
    let x := bankAt s c k
    (s.fq.deliver = [] →
      (s.fq.opened ≠ [] → s.fq.since + s.fq.tmr ≤ s.gt → Closes .faultBatchTimeout) ∧
      (s.fq.opened ≠ [] → s.fq.cnt ≤ s.fq.opened.length → Closes .faultBatchFull)) ∧
    (s.fq.deliver = [bs] → s.fring.room = true → s.fq.waiting = [] → s.fq.opened = [] → s.migs = [] →
      place s.fring + bs.length ≤ 2 ^ 50 →
      ∃ t, exec .faultDelivery s = .next t ∧ HoldsBytes s t (bytesAt (place s.fring) bs) ∧
        t.fring = { s.fring with tail := s.fring.tail + 1#32 } ∧ t.fq = { s.fq with deliver := [], held := 0 } ∧
        bit t.msix 0 = true ∧
        t = { s with mem := t.mem, fring := t.fring, fq := t.fq, msix := t.msix, l2 := t.l2, evmax := t.evmax, fresh := t.fresh }) ∧
    (s.hostq = [] → exec (.fqheadWrite v) s = .next { s with fring := { s.fring with head := v } }) ∧
    Frees (.vrheadWrite v) 1 ∧ Frees (.lerheadWrite v) 2 ∧
    (s.hostq ≠ [] → exec (.fqheadWrite v) s = .next { s with hostq := s.hostq ++ [.fqhead v] } ∧
      exec (.vrheadWrite v) s = .next { s with hostq := s.hostq ++ [.vrhead v] } ∧
      exec (.lerheadWrite v) s = .next { s with hostq := s.hostq ++ [.lerhead v] }) ∧
    (x.drain = true → x.left = some old → bankBusy s c k x.by_.2 = false →
      ∃ t, exec (.bankDrainComplete c k) s = .next t ∧ bankAt t c k = { x with left := none, bound := t.nextId } ∧
        t.mem = s.mem ∧ (old ≠ 0 → t.hw = s.hw ∧ t.l1 = s.l1) ∧
        (old = 0 → ∀ j, j / 256 = 32 * c + k → (Store.get t.l1 j).v = false)) ∧
    (x.drain = true → x.left = none → bankWb s (4 * c + x.blk) x.bound = false →
      ∃ t, exec (.bankDrainComplete c k) s = .next t ∧ bankAt t c k = { x with drain := false, by_ := (0, 0), bound := 0 } ∧
        (∀ j, Store.get t.ls j = if j / 49152 = 32 * c + k then 0#8 else Store.get s.ls j) ∧
        findPend (gAt t x.by_.1) x.by_.2 = none)

/-- MIGRATE, MIGRATION_RESULT and the steps of the Dynamic Capacity device (R2, R217 to R220): a command joins its engine's
queue; an idle engine begins the one at its head, marking its entry with MIG and copying the frame, or ends it as FAULT; when
no line is dirtied any more every line is redirected, unless a frame has gone, the entry takes FRAME and TIER of the
destination, and an invalidation goes out; once it is over and no L1 needs them (log entry 53, DEDUCED) the redirects end, and
once the writes' times have passed and the event's path has room the result is signalled. An extent at one
of the two far ports is added as whole frames or rejected; an orderly release writes back and ends, a forced one revokes its
frames and drops their translations. The kind of the invalidation, TIER and the lost sectors are log entries 54, 119 and 59,
the form of the responses log entry 135; that a command with a reserved bit ends as FAULT is log entry 153, and that nothing
changes at another port log entry 8. -/
def Obligations.MigrationAndCapacity : Prop :=
  ∀ (s : State) (tce slot port base len tag ext f : Nat) (cmd : BitVec 256) (c : TceCmd),
    let w := cmd.toNat
    let m := migAt s tce
    let new : Mig := { (default : Mig) with
      phase := 2, slot := slot, stier := bits w 78 78, sframe := bits w 115 79, dtier := bits w 153 153
      dframe := bits w 152 116, ptea := bits w 223 160, event := bits w 255 224, retry := bits w 159 156 }
    let s0 := updMig { s with tceq := Store.del s.tceq tce } tce fun _ => new
    let good := bits w 77 0 = 0 ∧ bits w 155 154 = 0 ∧ bit (migPte s0 tce) 7 = false ∧ migFrames s0 new = true
    let e := Store.get s.exts ext
    let n := len / 98304
    let full := 89478485 < s.exts.foldl (fun t e => t + e.2.n) 0 + n
    let rejects := exec (.dcdAddCapacity port base len tag) s = .next (dcdSay s 1 port base len 0 tag)
    (tce < 32 → m.phase = 0 → Store.get s.tceq tce = [] →
      (good → exec (.migrate tce slot cmd) s =
        .next (copyLines (putPte s0 tce (withMig (migPte s0 tce) true)) tce (List.range 512))) ∧
      (¬good → exec (.migrate tce slot cmd) s = .next (migEnd s0 tce 3))) ∧
    (tce < 32 → m.phase ≠ 0 → exec (.migrate tce slot cmd) s =
      .next { s with tceq := Store.upd s.tceq tce fun q => q ++ [⟨true, slot, 0, w⟩] }) ∧
    (m.phase = 0 → tceHead s tce = some c → c.mig = true →
      exec (.migrationResult tce) s = .next (migStart (tceNext s tce) tce c.slot c.cmd)) ∧
    (m.phase = 2 → exec (.migrationResult tce) s = .next (migRound s tce)) ∧
    (m.phase = 2 → migFrames s m = true → m.filter = 0 →
      exec (.migrationResult tce) s = .next (updMig s tce fun m => { m with phase := 3 })) ∧
    (m.phase = 2 → migFrames s m = true → m.filter ≠ 0 → m.tries = m.retry →
      ∃ t, exec (.migrationResult tce) s = .next t ∧ (migAt t tce).phase = 5 ∧ (migAt t tce).result = 2) ∧
    (m.phase = 3 → migFrames s m = false → exec (.migrationResult tce) s = .next (migStop s tce 3)) ∧
    (m.phase = 3 → migFrames s m = true → ∃ t i, exec (.migrationResult tce) s = .next t ∧ (migAt t tce).phase = 4 ∧
      (migAt t tce).moved = 2 ^ 512 - 1 ∧ (migAt t tce).inval = i.id ∧ t.invs = s.invs ++ [i] ∧ i.kind = 2) ∧
    (m.phase = 4 → s.invs.any (fun i => i.id == m.inval) = false → redirectNeeded s m = false →
      exec (.migrationResult tce) s = .next (endRedirects s tce)) ∧
    (m.phase = 4 → s.invs.any (fun i => i.id == m.inval) = true ∨ redirectNeeded s m = true →
      exec (.migrationResult tce) s = .next s) ∧
    (m.phase = 5 → m.time < s.gt → signalRoom s m.slot (w32 m.event) (w32 m.result) 1 = true →
      exec (.migrationResult tce) s = .next
        (engineSignal { s with migs := Store.set s.migs tce default } m.slot noGroup 0 (w32 m.event) (w32 m.result))) ∧
    (m.phase = 5 → s.gt ≤ m.time ∨ signalRoom s m.slot (w32 m.event) (w32 m.result) 1 = false →
      exec (.migrationResult tce) s = .next s) ∧
    (2 ≤ port → exec (.dcdAddCapacity port base len tag) s = .next s) ∧
    (port < 2 → (∀ k, k < 4096 → (Store.get s.exts k).st ≠ 0) ∨ farFirst s n = none ∨ full → rejects) ∧
    (port < 2 → ext < 4096 → (∀ k, k < ext → (Store.get s.exts k).st ≠ 0) → e.st = 0 → farFirst s n = some f → ¬full →
      exec (.dcdAddCapacity port base len tag) s = .next (dcdSay
        { s with exts := Store.set s.exts ext ⟨1, port, base, len, tag, f, n, false⟩ } 0 port base len (len % 98304) tag)) ∧
    (e.st = 1 →
      (e.going = false ∨ (extLines s e).any (fun l => l.2.dirty != 0) = true →
        ∃ t, exec (.dcdReleaseOrderly ext) s = .next t ∧ t = { s with l2 := t.l2, exts := t.exts } ∧
          Store.get t.exts ext = { e with going := true } ∧
          ∀ l ∈ t.l2, l.1 / 2 ^ 48 = 1 → e.first ≤ l.1 % 2 ^ 48 / 512 → l.1 % 2 ^ 48 / 512 < e.first + e.n → l.2.dirty = 0) ∧
      (e.going = true → (extLines s e).any (fun l => l.2.dirty != 0) = false →
        exec (.dcdReleaseOrderly ext) s = .next
          (dcdSay { dropLines s (extLines s e) with exts := Store.set s.exts ext default } 2 e.port e.base e.len 0 e.tag)) ∧
      ∃ t, exec (.dcdReleaseForced ext) s = .next t ∧ Store.get t.exts ext = { e with st := 2 } ∧
        t.out = s.out ++ [(98, leBytes 8 e.first ++ leBytes 8 e.n)] ∧ t.groups = s.groups ∧
        (∀ x ∈ t.tlb, x ∈ s.tlb ∧ ¬(x.kind = 0 ∧ pteTier x.ent = 1 ∧ e.first ≤ pteFrame x.ent ∧ pteFrame x.ent < e.first + e.n)) ∧
        ((∀ l ∈ s.l2, l.2.dirty = 0) → t.mem = s.mem))

/-! Engines. -/

/-- CINCH_RELEASE, MXE_QUEUE_PERFORM, MATRIX_OP_COMPLETE and ATTENTION_OP_COMPLETE (R163 to R166, R173 to R176, R193 to
R196, R199): a complete rendezvous whose members agree and pass their checks becomes one operation of the engine queue, and
every member goes on; the queue's next operation is performed; a member takes its results once its earlier ones are
complete. What a read finds that meets a write performed meanwhile is free (log entry 3); when an operation is performed is
the model's choice (log entry 46). That a gang uses the banks of its last arrival is log entry 47, that at most sixteen
rendezvous of a core are open log entry 50 (both DEDUCED), and that OPERAND comes before SCRATCH_RANGE log entry 149. -/
def Obligations.MatrixEngine : Prop :=
  ∀ (s : State) (c n g cause fadr : Nat) (r : Rdv) (o : MatOp) (m : Member) (ms : List Member) (p : Pend),
    let k := selRow ((o.mem.head?.map (·.sel)).getD 0)
    let u := if o.olds.isEmpty then s else spend s
    let Takes := fun (i : Instr) => ∃ t, exec i s = .next t ∧
      (∀ r j, j < 32 → rdV (gAt t g) r j = match m.res.find? fun e => e.1 == 32 * r + j with
        | some e => e.2
        | none => rdV (gAt s g) r j) ∧
      findPend (gAt t g) m.id = none ∧ (gAt t g).flags = (gAt s g).flags ||| w32 (p.fl ||| m.fl)
    ((s.rdvs.find? fun r => r.id == n) = some r → complete s c r = true → r.arrs = m :: ms →
      (agree (decide (m.op < 0xA7)) r.arrs = false → exec (.cinchRelease c n) s = .next (failRdvs s [r])) ∧
      (agree (decide (m.op < 0xA7)) r.arrs = true →
        (verdict s r = .trap cause fadr → exec (.cinchRelease c n) s = .next (failAll s r cause (w64 fadr))) ∧
        (verdict s r = .go → roomForAll s r = true → queueLen s c < 8 →
          ∃ t o, exec (.cinchRelease c n) s = .next t ∧ t.rdvs = s.rdvs.filter (fun x => x.id != r.id) ∧
            t.mxq = s.mxq ++ [o] ∧ o.core = r.blk / 4 ∧ o.op = m.op ∧ o.banks = r.banks ∧ o.perf = false ∧
            o.mem.length = r.arrs.length ∧
            ∀ x ∈ r.arrs, (fragAt t x.g x.f).wait = .no ∧ ∃ q ∈ (gAt t x.g).pend, q.kind = .matrix))) ∧
    ((s.mxq.find? fun o => o.core == c && !o.perf) = some o → engineHeld s o = false →
      ∃ t o', exec (.mxeQueuePerform c) s = .next t ∧ t.mxq = s.mxq.map (fun x => if x.id == o.id then o' else x) ∧
        o'.id = o.id ∧ o'.perf = true ∧
        (o.op = 0xA2 ∨ o.op = 0xA3 → o'.mem = o.mem.map (mmaTile u o)) ∧
        (o.op = 0xA4 → o'.mem = o.mem.map mzroTile) ∧
        (o.op = 0xA5 → t = markRead (performScore u o) o) ∧
        (o.op = 0xA6 → o'.mem = o.mem.map (vaccMember u o (rowSlot s c k))) ∧
        (o.op = 0xA7 → o'.mem = o.mem.map (finMember u (rowSlot s c k))) ∧
        (o.op = 0xA8 → (∀ x ∈ o.mem, x.xs = []) → ∀ r, r < 96 → (rowSlot t c k).m r = 0xFF800000#32 ∧
          (rowSlot t c k).l r = 0#32 ∧ (rowSlot t c k).alpha r = 0x3F800000#32) ∧
        (o.op = 0xA9 → ∀ x ∈ o.mem, ∃ y ∈ o'.mem, y.g = x.g ∧ ∀ q, q < 16 →
          Store.get y.res (32 * x.out.getD 0 + q) = (rowSlot s c k).m (16 * x.rank + q) ∧
          Store.get y.res (32 * (x.out.getD 0 + 1) + q) = (rowSlot s c k).l (16 * x.rank + q))) ∧
    ((s.mxq.find? fun o => o.id == n) = some o → (o.mem.find? fun m => m.g == g && !m.fin) = some m → o.perf = true →
      o.core = c → earlierOf s o g = false → findPend (gAt s g) m.id = some p → (m.res.map (·.1)).Nodup →
      (o.op ≤ 0xA4 → Takes (.matrixOpComplete c n g)) ∧ (0xA5 ≤ o.op → Takes (.attentionOpComplete c n g)))

/-- STREAMER_ACTIVATE, STREAMER_CHUNK, STREAMER_COMPLETE, QUEUE_FENCE_LEAVE, KV_ACCEPT and KV_COMPLETE (R206, R258, R274,
R276, R277, R287, R288, R295, R299, R300, R381, R383, R388): the CPYRs of a queue that wait for a slot claim theirs, or its
next command becomes ACTIVE; a chunk moves its bytes unless a draining bank holds it back, or its fault ends the command; a
command whose writes are over and whose records are accepted leaves its queue, as do the entries of a fence that stand at
their heads; a Skiver decides all of a command at its acceptance but what an MFOLD reads (R399), and performs its writes and completes
it after them; a trap makes a record for each page that failed (R277). What
reads find that meet a write is log entry 3; the order of two ACTIVE commands and the acceptance of Skiver commands are log
entries 106, 73 and 75; that a trap waits for an access performed in part is log entry 140, and that STREAMER_ACTIVATE without
a next command changes nothing log entry 8. -/
def Obligations.StreamersAndSkivers : Prop :=
  ∀ (s : State) (c q n die cause fadr va : Nat) (m e : Cmd) (km : KvCmd) (from_ to_ pages : List Nat) (stop : KvFault),
    let data := if m.srcScr then from_.map fun k => Store.get s.ls k else from_.map (homeByte s)
    let mine := (strQueue s c q).find? fun m => m.id == n
    -- a gather reads its index once for each row
    let read := if m.op = 0xB2 then { m with idx := some (m.index s) } else m
    let qs := [0, 1, 2, 3].filter fun q => (strQueue s c q).any fun m => m.id == n && m.op == 0xBA
    let claimed := ((strQueue s c q).filter Cmd.unclaimed).foldl (fun s m => cmdClaim s c q m) s
    let line := Store.get s.kvq die
    let k := kvRun km (kvStart s km)
    -- an MFOLD reads its scratch as it is performed (R399)
    let fresh := if km.olds.isEmpty ∨ km.op = 0xE4 then s else spend s
    let pinned := kvPin fresh k
    let keeps := updKv pinned die km.id fun m => { m with
      acc := true, plan := k.plan, fl := k.fl, olds := if m.op = 0xE4 then m.olds else [], home := m.desc.bind (descPlace pinned (dieCaches die) m.ctx) }
    let ended := fun (m : KvCmd) => m.acc && m.perf && decide (m.time < s.gt) && !recWaiting s (m.g, 8 + m.pend) &&
      (m.op != 0xE3 || signalRoom s m.ctx (w32 (m.reg 5)) 1#32 1)
    (claimed ≠ s → exec (.streamerActivate c q) s = .next claimed) ∧
    (claimed = s → nextCmd s c q = none → exec (.streamerActivate c q) s = .next s) ∧
    (claimed = s → nextCmd s c q = some m →
      (m.op ≠ 0xB4 →
        exec (.streamerActivate c q) s = .next (updCmd s c q m.id fun k => { k with active := true })) ∧
      (m.op = 0xB4 → exec (.streamerActivate c q) s =
        .next (cmdClaim (updCmd s c q m.id fun k => { k with active := true }) c q { m with active := true }))) ∧
    (mine = some m → mayMove s c q m = true →
      (cmdSource s read = .inr (cause, fadr, pages) →
        exec (.streamerChunk c q n) s = .next (cmdFault
          (cmdRecords s read (chunkPages (.inr (cause, fadr, pages)) (cmdDest s read))) c q read cause)) ∧
      (cmdSource s read = .inl from_ → cmdDest s read = .inr (cause, fadr, pages) →
        exec (.streamerChunk c q n) s = .next (cmdFault (cmdRecords s read (pages.map (·, 9))) c q read cause)) ∧
      (cmdSource s read = .inl from_ → cmdDest s read = .inl to_ → chunkHeld s read from_ to_ = true →
        exec (.streamerChunk c q n) s = .next s) ∧
      (cmdSource s read = .inl from_ → cmdDest s read = .inl to_ → chunkHeld s read from_ to_ = false →
        ∃ u, exec (.streamerChunk c q n) s = .next (cmdMove u c q read from_ to_) ∧
          u = { s with l2 := u.l2, evmax := u.evmax, fresh := u.fresh, pmc := u.pmc, msix := u.msix } ∧
          (m.usesSrc = true → m.olds = [] → m.op ≠ 0xB3 → m.op ≠ 0xB4 → m.local_ = true →
            ∀ x, Store.get (cmdMove u c q read from_ to_).ls x = match (zipBytes to_ data).reverse.find? fun b => b.1 == x with
              | some b => b.2
              | none => Store.get s.ls x) ∧
          (m.usesSrc = true → m.olds = [] → m.op ≠ 0xB3 → m.op ≠ 0xB4 → m.local_ = false → Plain s →
            (∀ x ∈ to_, x < 2 ^ 50) → HoldsBytes s (cmdMove u c q read from_ to_) (zipBytes to_ data)))) ∧
    (mine = some m → m.isCopy = true → m.moved = true → m.time < s.gt → recWaiting s (m.g, 8 + m.pend) = false →
      (m.fault = none → m.op ≠ 0xB2 → signalRoom s (gAt s m.g).ctx m.ev 1#32 1 = true) →
      ∃ t, exec (.streamerComplete c q n) s = .next t ∧
        strQueue t c q = (strQueue s c q).filter (fun k => k.id != n) ∧ findPend (gAt t m.g) m.pend = none) ∧
    (qs ≠ [] → (∀ q ∈ qs, (strQueue s c q).head? = some e) → e.id = n →
      ∃ t, exec (.queueFenceLeave c n) s = .next t ∧ findPend (gAt t e.g) n = none ∧
        ∀ q, q < 4 → strQueue t c q = if q ∈ qs then (strQueue s c q).tail else strQueue s c q) ∧
    (line.find? (kvMay s) = some km →
      (km.desc = some va → va % 64 ≠ 0 → inPart s km.g = true → exec (.kvAccept die) s = .next s) ∧
      (km.desc = some va → va % 64 ≠ 0 → inPart s km.g = false → exec (.kvAccept die) s =
        .next (kvTrap (dropPend (dropKv fresh die km.id) km.g km.pend) km ⟨cOPERAND, 0, []⟩)) ∧
      ((∀ va, km.desc = some va → va % 64 = 0) →
        (k.err = none → km.op ≠ 0xE3 → ∃ t, exec (.kvAccept die) s = .next t ∧ Woken keeps t km.g km.f .nul []) ∧
        (k.err = none → km.op = 0xE3 → exec (.kvAccept die) s = .next
          (wakeWith ((kvStart keeps km).upd (km.pair 0) 64 fun d => putBits d 362 362 1).s km.g km.f .nul [])) ∧
        (k.err = some stop → inPart s km.g = true → exec (.kvAccept die) s = .next s) ∧
        (k.err = some stop → inPart s km.g = false → stop.cause ≠ cKV_NO_FREE_PAGE ∨ k.plan = [] → exec (.kvAccept die) s =
          .next (kvTrap (dropPend (dropKv pinned die km.id) km.g km.pend) km stop)) ∧
        (k.err = some stop → inPart s km.g = false → stop.cause = cKV_NO_FREE_PAGE → k.plan ≠ [] →
          exec (.kvAccept die) s = .next (kvTrap keeps km stop)))) ∧
    (line.find? ended = some km →
      ∃ t, exec (.kvComplete die) s = .next t ∧ Store.get t.kvq die = line.filter (fun m => m.id != km.id) ∧
        findPend (gAt t km.g) km.pend = none) ∧
    (line.find? ended = none → (line.find? fun m => m.acc && !m.perf) = some km →
      exec (.kvComplete die) s = .next (kvPerform s die km))

/-! Streams and operators. -/

/-- The stream registers, the decoder of the operator scheduler, points, tokens, dispatch and the event window (R256, R269 to
R271, R273, R305, R308, R312 to R317, R325, R329 to R332, R371, R400). A signal or an event message that another chip must be
told of waits for room on its path (R267, R280). Resets of streams, frozen mirrors and jumps are log entries 25, 26 and 107;
that a STREAM_RECONCILE before its time changes nothing is log entry 8, and which earlier operators count as complete log
entry 139. -/
def Obligations.StreamsAndOperators : Prop :=
  ∀ (s : State) (slot k n l place prio path idx pa e ent : Nat) (v : Quad) (x : OpSlot) (pt : Point) (p : PendOp) (r : TokReq)
    (f : Flit) (val : Word) (ins : Nat) (bs payload : List Byte),
    let st := streamAt s slot k
    let seq := w32 (v.toNat / 2 ^ 32)
    let ti := w32 v.toNat
    let Sets := fun (i : Instr) (y : Stream) => ∃ t, exec i s = .next t ∧ t = { s with streams := t.streams } ∧
      streamAt t slot k = y ∧ ∀ j, j ≠ 64 * slot + k → Store.get t.streams j = Store.get s.streams j
    let Runs := fun (i : Instr) (y : Stream) (q : State → Prop) => ∃ t, exec i s = .next t ∧ streamAt t slot k = y ∧ q t
    let goes := { st with hi := st.hi + 1#32, held := false, waiting := 0 }
    let counts := { goes with dec := st.dec + 1 }
    let stopped := { st with st := 0, hi := 0#32, ti := 0#32, lseq := 0#32, cause := 0, waiting := 0, held := false }
    let op : OpSlot := { (default : OpSlot) with
      used := true, ctx := slot, stream := k, num := st.dec + 1, age := s.nextId, ins := ins, opa := w64 (opAddr st)
      drain := (ctxAt s slot).st == 2 }
    let u := askTokens s
    let y := askTokens (postYields s)
    let job := w32 (n * 2 ^ 26 + (ctxAt y x.ctx).serial % 2 ^ 26)
    let o := opAt s n
    let rx := rxClose (rxAck (cleanRx s path) path) path
    let due := (pathAt s path).used = true ∧ (pathAt s path).recv = true ∧ rxDue (cleanRx s path) path = true ∧
      (pathAt rx path).st < 2 ∧ rxEntry rx path f = .inl (ent, payload) ∧ slotOfCtx rx (pathAt s path).ctx = some slot ∧
      evIndexOk (ctxAt rx slot) idx = true ∧ osdAccess rx slot idx true = .ok pa e
    let sub := (ctxidOf rx slot, idx, (pathAt s path).peer)
    -- tail writes and the stream registers
    (pushDue s slot k v = none → s.hostq = [] → st.st = 1 ∨ st.st = 2 →
      (serial seq st.lseq ≤ 0 → Sets (.streamTailWrite slot k v) st) ∧
      (0 < serial seq st.lseq → st.size < idxSub ti st.hi → Sets (.streamTailWrite slot k v) { st with st := 3, cause := 1 }) ∧
      (0 < serial seq st.lseq → idxSub ti st.hi ≤ st.size → Sets (.streamTailWrite slot k v)
        { st with lseq := seq, ti := if idxSub st.ti st.hi < idxSub ti st.hi then ti else st.ti })) ∧
    (pushDue s slot k v = some (n, l) → exec (.streamTailWrite slot k v) s = .next (dropPend (tailValue s slot k v) n l)) ∧
    (s.gt < s.recon + 100000 → exec .streamReconcile s = .next s) ∧
    (s.recon + 100000 ≤ s.gt → s.streams = [(64 * slot + k, st)] → k < 64 → st.st = 1 →
      readVa s osdCaches slot st.shadow.toNat 8 = some bs →
      exec .streamReconcile s = .next (tailValue { s with recon := s.gt } slot k (w64 (leNat bs)))) ∧
    (s.hostq = [] → st.st = 0 → Sets (.streamCtlEn slot k) { st with st := 1 }) ∧
    (s.hostq = [] → (∀ e ∈ s.ops, ¬(e.2.used = true ∧ e.2.ctx = slot ∧ e.2.stream = k)) → Sets (.streamCtlRst slot k) stopped) ∧
    (s.hostq = [] → s.ops = [(n, x)] → x.used = true → x.ctx = slot → x.stream = k →
      ∃ t, exec (.streamCtlRst slot k) s = .next t ∧ streamAt t slot k = stopped ∧
        (x.bndfrz = true → (∀ q ∈ x.points, q.st = .fired) → opAt t n = default) ∧
        (x.bndfrz = false ∨ (∃ q ∈ x.points, q.st ≠ .fired) → opAt t n = { x with rst := true })) ∧
    (s.hostq ≠ [] →
      (pushDue s slot k v = none → exec (.streamTailWrite slot k v) s = .next { s with hostq := s.hostq ++ [.tail slot k v] }) ∧
      exec (.streamCtlEn slot k) s = .next { s with hostq := s.hostq ++ [.enable slot k] } ∧
      exec (.streamCtlRst slot k) s = .next { s with hostq := s.hostq ++ [.rst slot k] } ∧
      exec (.ptaPoolWrite v) s = .next { s with hostq := s.hostq ++ [.pool v] }) ∧
    -- decoding
    (st.st = 1 → st.ti ≠ st.hi → opFetch s slot k = some ins →
      (opFault s slot ins ≠ 0 → opFault s slot ins ≠ 3 →
        Sets (.oprun slot k) { st with st := 3, cause := opFault s slot ins, held := false, waiting := 0 }) ∧
      (opFault s slot ins = 3 → exec (.oprun slot k) s = .next (eventFail s slot)) ∧
      (opFault s slot ins = 0 →
        (opOpc ins = 1 → slotFor s (opLines ins) st.waiting = some n → Runs (.oprun slot k) counts fun t => opAt t n = op) ∧
        (opOpc ins = 2 → slotFor s (opLines ins) st.waiting = some n → readVa s osdCaches slot (opArg ins) 64 = some bs →
          copyDescOk (leNat bs) = true →
          Runs (.opcopy slot k) counts fun t => opAt t n = { op with copy := leNat bs }) ∧
        (opOpc ins = 3 → waitFails s slot (opWait0 ins) = false → waitFails s slot (opWait1 ins) = false →
          let reached := waitReached s slot (opWait0 ins) (opWt0 ins) && waitReached s slot (opWait1 ins) (opWt1 ins)
          (reached = true → Sets (.opwait slot k) goes ∧ (st.held = true → Sets (.decodeResume slot k) goes)) ∧
          (reached = false → Sets (.opwait slot k) { st with held := true })) ∧
        (opOpc ins = 4 → Runs (.opsig slot k) counts fun t => t.pops = s.pops ++ [⟨slot, k, st.dec + 1, ins⟩]) ∧
        (opOpc ins = 9 → Runs (.opamax slot k) counts fun t => t.pops = s.pops ++ [⟨slot, k, st.dec + 1, ins⟩]) ∧
        (opOpc ins = 5 → (earlierDone s slot k (st.dec + 1) = true → Sets (.opfence slot k) goes) ∧
          (earlierDone s slot k (st.dec + 1) = false → Sets (.opfence slot k) { st with held := true })) ∧
        (opOpc ins = 6 → waitFails s slot (opWait0 ins) = false →
          (waitReached s slot (opWait0 ins) (opWt0 ins) = false → Sets (.opjump slot k) goes) ∧
          (waitReached s slot (opWait0 ins) (opWt0 ins) = true →
            (opExtRaw ins 0 + 1 < idxSub st.ti st.hi →
              Sets (.opjump slot k) { goes with hi := st.hi + w32 (opExtRaw ins 0 + 1) }) ∧
            (idxSub st.ti st.hi ≤ opExtRaw ins 0 + 1 → Sets (.opjump slot k) { st with held := true }))) ∧
        (opOpc ins = 7 → Sets (.opend slot k) { goes with st := 0 }) ∧
        (opOpc ins = 8 → opSigend ins = false → Runs (.oppin slot k) goes fun t => t.mem = s.mem ∧ t.groups = s.groups))) ∧
    -- operators that follow earlier ones, points, tokens and jobs
    ((s.pops.find? fun p => p.ctx == slot && p.stream == k) = some p → earlierDone s slot k p.num = true →
      opOpc p.ins ≠ 9 →
      (opRoom s slot p.ins 1 = true →
        exec (.opsigSignal slot k) s = .next (opSignal { s with pops := s.pops.filter (· != p) } slot p.ins noGroup)) ∧
      (opRoom s slot p.ins 1 = false → exec (.opsigSignal slot k) s = .next s)) ∧
    -- a boundary mirror has frozen before some point that has not fired; its stream may have been reset before
    (o.used = true → o.bndfrz = false → bndFrozen s o = true → (∃ l ∈ unfiredPoints o, ptFate s o l = 2) →
      ∃ t, exec (.pointFire n) s = .next t ∧
        (o.rst = false ∨ (∃ q ∈ o.points, q.st ≠ .fired) → opAt t n = { o with bndfrz := true }) ∧
        (o.rst = true → (∀ q ∈ o.points, q.st = .fired) → opAt t n = default)) ∧
    (o.used = true → o.drain = false → o.bndfrz = false → heldForGood s o = false → bndFails s o = false →
      firesAfter s n = false → ((openPoints o).find? fun l => ptFate s o l == 0) = some l →
      ∃ t, exec (.pointFire n) s = .next t ∧ (opAt t n).points.map (fun q => q.l) = o.points.map (fun q => q.l) ++ [l] ∧
        let e := Store.get o.lines (ptLine o.ins l)
        Store.get (opAt t n).lines (ptLine o.ins l) = { e with fired := e.fired ||| 2 ^ (ptC0 o.ins l - e.h) }) ∧
    (headRequest u = some r → tooHot u = false → u.grant + r.pwr ≤ u.pool →
      ∃ t, exec .tokenGrant s = .next t ∧ t.grant = u.grant + r.pwr ∧ t.tokq = u.tokq.filter (· != r) ∧ t.pool = s.pool ∧
        ∀ q ∈ (opAt t r.slot).points, q.l = r.l → q.tok = 2) ∧
    (headRequest u = some r → u.pool < u.grant + r.pwr → exec .tokenGrant s = .next u) ∧
    (choosePrio y = some prio → chooseOp y prio = some (n, x) → firstReady x = some pt → placeOf y n x = some place →
      ∃ t, exec .jobDispatch s = .next t ∧ (ctxAt t x.ctx).serial = ((ctxAt y x.ctx).serial + 1) % 2 ^ 26 ∧
        (opOpc x.ins = 1 → Store.get t.mbox place = Store.get y.mbox place ++ [{ (default : Mail) with
          kind := 0, ctx := x.ctx, slot := n, l := pt.l, words := runWords n x pt.l job }]) ∧
        (opOpc x.ins ≠ 1 → Store.get t.tceq place = Store.get y.tceq place ++ [⟨false, n, pt.l, 0⟩]) ∧
        ∀ q ∈ (opAt t n).points, q.l = pt.l →
          q.jobid = job ∧ q.core = place ∧ q.st = if opOpc x.ins = 1 then .posted else .taken) ∧
    ((o.points.find? fun p => p.l == l && p.st == .taken) = some pt → o.used = true → opOpc o.ins = 2 →
      (pt.perf = false → copyNext s n pt = true →
        ∃ t, exec (.opcopyPointComplete n l) s = .next t ∧ ∀ q ∈ (opAt t n).points, q.l = l → q.perf = true) ∧
      (pt.perf = true → pt.time < s.gt → recWaiting s (tceOwner pt.core) = false → retireRoom s n = true →
        ∃ t, exec (.opcopyPointComplete n l) s = .next t ∧ t = tceStart (retirePoint s n l (!pt.flt) noGroup) pt.core ∧
          ∀ q ∈ (opAt t n).points, q.l ≠ l)) ∧
    -- event messages
    (due →
      (nextMsg rx path 1 = some (f, idx, val) → evMirror e = false →
        (val = 0#32 ∨ subsRoom s slot idx e 1 = true →
          exec (.eventInc path) s = .next (evAdd (rxTaken rx path f rx.gt) slot idx pa e val)) ∧
        (val ≠ 0#32 → subsRoom s slot idx e 1 = false → exec (.eventInc path) s = .next rx)) ∧
      (nextMsg rx path 2 = some (f, idx, val) → evMirror e = true → evFrozen e = false → 0 < serial val (evCtr e) →
        exec (.eventMir path) s = .next (evTell (evWrite (rxTaken rx path f rx.gt) pa (evSetCtr e val)) slot idx val)) ∧
      (nextMsg rx path 3 = some (f, idx, val) → val ≠ 0#32 → sub ∉ rx.subs → rx.subs.length < 16384 →
        egressRoom s (ctxidOf s slot) [(pathAt s path).peer] 1 = true → ∃ t, exec (.eventSub path) s = .next t ∧ t.subs = rx.subs ++ [sub]) ∧
      (nextMsg rx path 3 = some (f, idx, val) → val = 0#32 →
        ∃ t, exec (.eventSub path) s = .next t ∧ t.subs = rx.subs.filter (· != sub))) ∧
    (s.hostq = [] → exec (.ptaPoolWrite v) s = .next { s with pool := v.toNat % 8192 })

/-! Paths and links. -/

/-- The reflector, the paths, the optical ports with their replay, local links and the slot clock (R262, R263, R363 to R366,
R439, R441, R443 to R451, R462). A flit leaves a port with the wavelength of each of its beats; a port with nothing else to
send sends an idle flit. A rotation begins as soon as its time has come, before any later move (R449). That FSEQs start afresh
with each slot, that a flit in a guard is taken and not acknowledged, and that a disabled port's flits return to their queue are
log entry 157 (DEDUCED). The layouts of messages, words and acknowledgements, the values of hop keys, the limit of the reorder
buffer, the GEN of a forwarded message, the entry that a sealed flit belongs to, and the corners of paths, queues and slots are
the model's: log entries 3, 20, 22, 24, 27, 28, 29, 56, 57, 58, 62, 63, 64, 98, 99 and 146. -/
def Obligations.PathsAndLinks : Prop :=
  ∀ (s : State) (path slice chip port lanes fseq laser link tag ent b d n k slot pa : Nat) (num cap w0 : Word) (w : ReflWrite)
    (f : Flit) (leaf : Leaf) (payload bs : List Byte),
    let p := pathAt s path
    let x := portAt s port
    let fl := Flit.ofBytes bs
    let v := rxClose (rxAck (cleanRx s path) path) path
    let gen := if p.st = 0 && w.msg.isEmpty then txwGen w.img else p.gen
    let lost := x.txlive &&& moduleMask laser
    let t21 := flitTime (waves x.txlive)
    -- paths
    (nextWrite s p.ctx p.peer = some w → p.used = true → p.recv = false → p.st < 2 → allReported s w.time = true →
      canEmit s p.peer = true → pathUnacked s p.ctx p.peer < 2 ^ 20 →
      ∃ t, exec (.reflectorForward path) s = .next t ∧ (pathAt t path).st = 1 ∧ (pathAt t path).gen = gen ∧
        (pathAt t path).seqa = w32 (p.wcnt + 1) ∧ (pathAt t path).wcnt = (p.wcnt + 1) % 2 ^ 64 ∧
        (p.peer ≠ s.chip → p.peer / 32 = s.chip / 32 → t.out = s.out ++ [(linkTo s p.peer,
          (flitOf s { p with gen := gen } w (p.wcnt + 1)).image (hopKey s (64 + linkTo s p.peer)) 0)])) ∧
    (slice < 384 → exec (.sliceReport slice) s = .next { s with rep := Store.set s.rep slice s.gt }) ∧
    (p.used = true → p.recv = true → rxDue (cleanRx s path) path = true → nextFlit v path = some f → f.kind ≤ 2 →
      (pathAt v path).st ≤ 1 → rxEntry v path f = .inl (ent, payload) → recOff payload < txwNpage ent * 98304 →
      slotOfCtx v (pathAt v path).ctx = some slot → resolve v rflCaches slot (txwPage ent * 98304 + recOff payload) = some (leaf, pa) →
      leaf.w = true → (leaf.c = true → f.sealed = true) →
      ∃ t, exec (.rxWriteApply path) s = .next t ∧ (pathAt t path).seqa = f.pseq ∧
        (Plain v → pa % 192 = 0 → pa + 192 ≤ 2 ^ 50 → recOp payload = 0 → HoldsBytes v t
          (((List.range 192).filter fun i => bit (recMask payload) i).map fun i => (pa + i, recByte payload i)))) ∧
    (p.used = true → p.recv = false → p.st = 1 →
      (0 < serial num p.seqb → ∃ t, exec (.pathAckReceive path num) s = .next t ∧
        pathAt t path = { p with seqb := num, since := s.gt }) ∧
      (∃ t, exec (.pathDownReceive path num) s = .next t ∧ (pathAt t path).st = 2) ∧
      (0 < pathUnacked s p.ctx p.peer → p.since + s.ptmo ≤ s.gt →
        ∃ t, exec (.pathAckTimeout path) s = .next t ∧ (pathAt t path).st = 2)) ∧
    (p.used = true → p.recv = true → p.st < 2 →
      (rxDue s path = false → ∃ t, exec (.pathClosedReceive path num) s = .next t ∧ pathAt t path = { p with close := some num }) ∧
      (rxDue s path = true → serial num p.seqa ≤ 0 → ∃ t, exec (.pathClosedReceive path num) s = .next t ∧
        (pathAt t path).st = 3 ∧ (pathAt t path).seqb = num)) ∧
    (∃ t, exec (.peerUnreachable chip) s = .next t ∧ ∀ e ∈ s.paths, e.2.used = true → e.2.recv = false → e.2.st = 1 →
      e.2.peer = chip → (pathAt t e.1).st = 2) ∧
    -- optical ports
    (port < 64 →
      (x.st = 0 → x.rst = 0 → gscRuns s = true → exec (.portEnable port) s =
        .next (installKey (updPort s port fun y => { y with st := 1, rst := 1, txlive := 0xFFFF, rxlive := 0xFFFF }) port)) ∧
      (x.st = 4 ∨ x.rst = 4 → gscRuns s = true → ∃ t, exec (.portDisable port) s = .next t ∧ (portAt t port).st = 0 ∧
        (portAt t port).rst = 0 ∧ (portAt t port).replay = [] ∧
        -- what was not acknowledged goes back to the head of its queue
        (x.replay ≠ [] → (x.replay.any fun e => e.2.urgent) = false → s.slotCur = some n →
          let q := Store.get s.optq (optKey (port / 32) (slotPeer (slotEntry s n port)))
          (q.any fun f => f.urgent) = false →
          Store.get t.optq (optKey (port / 32) (slotPeer (slotEntry s n port))) = x.replay.map (·.2) ++ q)) ∧
      (gscRuns s = false → exec (.portEnable port) s = .next s ∧ exec (.portDisable port) s = .next s) ∧
      (x.st = 1 → s.lrcHold = false →
        (lanes = 16 → cap.toNat &&& 0x0101 = 0x0101 → ∃ t, exec (.linkTrained port lanes cap) s = .next t ∧
          (portAt t port).st = 2 ∧ (portAt t port).rst = 2 ∧ (portAt t port).rev = 1 ∧ (portAt t port).fseq = 0 ∧
          (portAt t port).rseq = 4095 ∧ (32 + port, leBytes 4 0x0101) ∈ t.out) ∧
        (cap.toNat &&& 0x0101 ≠ 0x0101 → ∃ t, exec (.linkTrained port lanes cap) s = .next t ∧ (portAt t port).st = 4)) ∧
      (laser < 4 → x.st = 2 → lost ≠ 0 → exec (.lossOfLight port laser false) s =
        .next (tellLive (updPort s port fun y => { y with st := 3, txlost := lost, txlive := y.txlive - lost }) port
          (x.txlive - lost))) ∧
      (imageOk bs = true → hopOk s port fl = true → x.rst = 2 → fl.kind ≠ 0 → fl.kind ≠ 7 → inGuard s = true →
        exec (.flitReceive port bs) s = .next (if roomOn s fl = true then emit s fl else s)) ∧
      (imageOk bs = true → hopOk s port fl = true → x.rst = 2 → fl.kind ≠ 0 → fl.kind ≠ 7 → inGuard s = false →
        (∀ y, x.accept (imageFseq bs) = some y →
          (roomOn s fl = true → exec (.flitReceive port bs) s =
            .next (owe (emit (updPort s port fun _ => y) fl) port (!y.miss.isEmpty))) ∧
          (roomOn s fl = false → exec (.flitReceive port bs) s = .next s)) ∧
        (x.accept (imageFseq bs) = none → exec (.flitReceive port bs) s = .next (owe s port false)) ∧
        -- the next flit in order, with none before it missing
        ((imageFseq bs + 4096 - x.rseq) % 4096 = 1 → x.miss = [] → roomOn s fl = true →
          ∃ t, exec (.flitReceive port bs) s = .next t ∧ (portAt t port).rseq = imageFseq bs ∧ (portAt t port).miss = [])) ∧
      (imageOk bs = false ∨ hopOk s port fl = false → x.rst = 2 → ∃ t, exec (.flitReceive port bs) s = .next t ∧
        (portAt t port).owed = some (w32 (x.accepted + 2 ^ 31)) ∧ t.rxq = s.rxq)) ∧
    (s.lrcHold = true → exec (.restripeDone port fseq) s = .next s) ∧
    (x.st = 3 → s.lrcHold = false →
      (8 ≤ waves x.txlive → ∃ t, exec (.restripeDone port fseq) s = .next t ∧ (portAt t port).st = 2 ∧
        (portAt t port).again = (portAt t port).replay.length ∧
        (portAt t port).replay = x.replay.filter fun e => !fseqLe e.1 fseq) ∧
      (waves x.txlive < 8 → ∃ t, exec (.restripeDone port fseq) s = .next t ∧ (portAt t port).st = 4)) ∧
    (x.st = 2 → x.replay ≠ [] → x.since + 2000 ≤ s.gt → exec (.flitReplayTimeout port) s =
      .next (updPort s port fun y => { y with again := y.replay.length, since := s.gt })) ∧
    (startAt21 s x = some b → s.lrcHold = false →
      (x.owed = some w0 → x.st = 1 ∨ x.st = 2 → slotsRun s = false → ∃ t, exec (.flitSend port) s = .next t ∧
        t.out = s.out ++ [(32 + port, (linkControl s port w0).image (hopKey s port) 0 ++ beatWaves x)] ∧
        (portAt t port).owed = none) ∧
      (x.owed = none → x.st = 2 → slotAllows s b t21 = true → x.again = 0 → nextData s port = some (d, f) →
        ∃ t, exec (.flitSend port) s = .next t ∧
          t.out = s.out ++ [(32 + port, f.image (hopKey s port) x.fseq ++ beatWaves x)] ∧
          (portAt t port).fseq = (x.fseq + 1) % 4096 ∧ (portAt t port).replay = x.replay ++ [(x.fseq, f)] ∧
          (portAt t port).busy = b + t21 ∧
          Store.get t.optq (optKey (port / 32) d) = (Store.get s.optq (optKey (port / 32) d)).tail) ∧
      (x.owed = none →
        x.st = 1 ∧ (slotsRun s = false ∨ slotAllows s b t21 = true) ∨ x.st = 2 ∧ slotsRun s = false ∨
          x.st = 2 ∧ slotAllows s b t21 = true ∧ x.again = 0 ∧ nextData s port = none →
        ∃ t, exec (.flitSend port) s = .next t ∧
          t.out = s.out ++ [(32 + port, (idleFlit s port).image (hopKey s port) 0 ++ beatWaves x)] ∧
          (portAt t port).replay = x.replay ∧ (portAt t port).fseq = x.fseq)) ∧
    -- local links
    (k < 31 → s.lrcHold = false → ∃ t, exec (.linkTrained (64 + k) lanes cap) s = .next t ∧
      (lanes < 4 → linkUp t k = false) ∧
      (4 ≤ lanes → (linkUp t k = true ↔ bit cap.toNat 8 = true) ∧ (k, leBytes 4 0x0100) ∈ t.out)) ∧
    (linkUp s link = true →
      (bs.length = 256 → imageOk bs = true → hopOk s (64 + link) fl = true → 1 ≤ fl.kind → fl.kind ≤ 6 →
        exec (.ualinkWriteReceive link bs) s = .next (if roomOn s fl = true then emit s fl else s)) ∧
      (s.lrcHold = false →
        (bs.length ≠ 256 → bs.length ≠ 8 → bs.length ≠ 10 →
          exec (.ualinkWriteReceive link bs) s = .next { s with out := s.out ++ [(link, leBytes 4 0 ++ [1#8])] }) ∧
        exec (.ualinkOtherRequest link tag) s = .next { s with out := s.out ++ [(link, leBytes 4 tag ++ [1#8])] }) ∧
      (s.lrcHold = true → exec (.ualinkOtherRequest link tag) s = .next s)) ∧
    -- the slot clock
    (slotsRun s = true → s.slotCur = none → ∃ t, exec .slotStart s = .next t ∧ t.slotCur = some (slotNow s) ∧ t.spent = [] ∧
      (∀ e ∈ t.ports, e.2.rseq = 4095 ∧ e.2.miss = [] ∧ e.2.owed = none) ∧
      (s.rot ≠ some (slotNow s / slotsPer s) → s.swap = true →
        t.slotAct = s.slotShd ∧ t.slotShd = s.slotAct ∧ t.swap = false)) ∧
    -- a rotation whose time has come starts after any move
    (slotsRun s = true → s.rot ≠ some (slotNow s / slotsPer s) →
      (settle s).rot = some (slotNow s / slotsPer s) ∧ (settle s).swap = false ∧
      (s.swap = true → (settle s).slotAct = s.slotShd ∧ (settle s).slotShd = s.slotAct)) ∧
    (s.slotCur = some n → slotBegin s (n + 1) ≤ s.gt → ∃ t, exec .slotEnd s = .next t ∧ t.slotCur = none ∧
      ∀ q, (portAt t q).replay = []) ∧
    (gscRuns s = true → exec .slotctlSwap s = .next { s with swap := true }) ∧
    (gscRuns s = false → exec .slotctlSwap s = .next s ∧ ∀ en, exec (.slotctlEn en) s = .next s) ∧
    (gscRuns s = true → s.slotEn = false → ∃ t, exec (.slotctlEn true) s = .next t ∧ t.slotEn = true ∧ t.ports = s.ports ∧ t.optq = s.optq) ∧
    (gscRuns s = true → s.slotEn = true → ∃ t, exec (.slotctlEn false) s = .next t ∧ t.slotEn = false ∧ t.slotAct = s.slotAct)

/-! Contexts. -/

/-- Launch, pre-emption, save, resume and teardown of a context, and the writes of the driver (R351, R406, R407, R410, R411,
R421, R423 to R428, R454): a launch that passes its checks creates the blocks and groups that the header places; a request
sets PREQ and holds the streams; a block is saved before the
deadline where a fragment has parked; the deadlines stop blocks, or fail the context; a save writes the header and the records
and frees the cores; a context that is saved, fails or is torn down signals vector 6; a write of the host waits behind those
that wait (R259). What a forced save takes, the causes and the times of write-backs are log entries 83, 84, 85, 91, 95,
108 and 109; the offsets of registers log entry 34, PTROOT that takes any value log entry 116, and the words of a STOP
descriptor log entry 122. -/
def Obligations.Contexts : Prop :=
  ∀ (s v : State) (slot c b k off size : Nat) (plan : Plan) (ps : List Placed) (x : Saved) (serial master : Nat) (i : Inv) (q : Quad)
    (w : Word),
    let z := ctxAt s slot
    let z' := updCtx s slot fun c => { c with hdr := plan.hdr, mask := plan.mask, evpages := plan.pages }
    let late := updCtx s slot fun c => { c with preq := 3 }
    let blk := 4 * c + b
    let gs := runningOf s blk
    let saved := (blocksOf s slot).foldl (fun s b => updB (writeBackAll s b) b fun x => { x with saved := true }) (forcePoints s slot)
    let recs := (saveRecords saved slot).flatten
    let qblk := 4 * bits w.toNat 8 0 + bits w.toNat 10 9
    let qq := bits w.toNat 13 12
    (s.hostq = [] → z.st = 0 ∨ z.st = 3 → launchPlan s slot = .inl k →
      exec (.ctxctlLaunch slot) s = .next (updCtx s slot fun c => { c with cause := k })) ∧
    (s.hostq = [] → z.st = 0 ∨ z.st = 3 → launchPlan s slot = .inr plan → placement plan.hdr = some ps →
      ∃ t, exec (.ctxctlLaunch slot) s = .next t ∧ ctxAt t slot = { z with
          st := 1, hdr := plan.hdr, mask := plan.mask, evpages := plan.pages, preq := 0, preAt := 0, preFor := 0
          hold := false, resuming := (0, 0), serial := 0, yielded := [] } ∧
        (∀ c ∈ coresOf plan.mask, ∀ b, b < hdrNblk plan.hdr →
          bAt t (4 * c + b) = { (default : Block) with present := true, ctx := slot, bars := freshBars }) ∧
        ((ps.map fun p => 32 * p.b + p.grp).Nodup → (∀ p ∈ ps, p.b < 4 ∧ p.grp < 32) → ∀ c ∈ coresOf plan.mask, ∀ p ∈ ps,
          gAt t (128 * c + 32 * p.b + p.grp) = freshGroup plan.hdr slot (128 * c + 32 * p.b + p.grp) p)) ∧
    (s.hostq = [] → z.st = 1 → ∃ t, exec (.ctxctlPre slot) s = .next t ∧
      ctxAt t slot = { z with st := 2, preq := 1, preAt := s.gt, preFor := z.deadln } ∧
      ∀ k, k < 64 → (streamAt s slot k).st = 1 → (streamAt t slot k).st = 2) ∧
    (b < 4 → (bAt s blk).present = true → (bAt s blk).saving = false → bit (ctxAt s (bAt s blk).ctx).preq 0 = true →
      holdsJob s blk = true → (∀ g ∈ gs, groupQuiet (gAt s g) = true) →
      ((∃ g ∈ gs, groupParked (gAt s g) = true) →
        ∃ t, exec (.forcedSaveDecision c b) s = .next t ∧ (bAt t blk).saving = true ∧ ∀ g ∈ gs, (gAt t g).saved = true) ∧
      ((∀ g ∈ gs, groupParked (gAt s g) = false) → exec (.forcedSaveDecision c b) s = .next s)) ∧
    (z.st = 2 →
      (z.preAt + z.preFor ≤ s.gt → bit z.preq 1 = false →
        exec (.preemptDeadline slot) s = .next ((blocksOf s slot).foldl
          (fun s b => if holdsJob s b && !(bAt s b).saving then forceBlock s b else s) late) ∧
        (blocksOf s slot = [blk] → holdsJob s blk = true →
          ∃ t, exec (.preemptDeadline slot) s = .next t ∧ (ctxAt t slot).preq = 3 ∧ (bAt t blk).saving = true)) ∧
      (z.preAt + 2 * z.preFor ≤ s.gt → bit z.preq 1 = true → blocksOf s slot = [blk] →
        ((lateBlock s blk).2 = true → ∃ t, exec (.preemptHardDeadline slot) s = .next t ∧ (ctxAt t slot).st = 4 ∧
          (ctxAt t slot).cause = 4 ∧ bit t.msix 6 = true) ∧
        ((lateBlock s blk).2 = false → exec (.preemptHardDeadline slot) s = .next (lateBlock s blk).1)) ∧
      (copyRuns s slot = false → (∀ b ∈ blocksOf s slot, blockStill s b = true) →
        (z.savesz.toNat < 64 + recs.length → ∃ t, exec (.contextSave slot) s = .next t ∧ (ctxAt t slot).st = 4 ∧
          (ctxAt t slot).cause = 3 ∧ bit t.msix 6 = true) ∧
        (64 + recs.length ≤ z.savesz.toNat → putSave saved slot z.savebase.toNat (saveHeader saved slot ++ recs) = some v →
          ∃ t, exec (.contextSave slot) s = .next t ∧ (ctxAt t slot).st = 3 ∧ t.mem = v.mem ∧ bit t.msix 6 = true ∧
            (∀ b, (bAt s b).present = true → (bAt s b).ctx = slot → bAt t b = default) ∧
            ∃ i, t.invs = v.invs ++ [i] ∧ i.kind = 1 ∧ i.ctx = ctxidOf s slot))) ∧
    (s.hostq = [] → z.st = 3 → launchPlan s slot = .inl k →
      exec (.ctxctlResume slot) s = .next (updCtx s slot fun c => { c with cause := k })) ∧
    (s.hostq = [] → z.st = 3 → launchPlan s slot = .inr plan →
      (readSave z' slot = none → ∃ t, exec (.ctxctlResume slot) s = .next t ∧ (ctxAt t slot).st = 4 ∧ (ctxAt t slot).cause = 5 ∧
        bit t.msix 6 = true) ∧
      (readSave z' slot = some (x, serial) →
        let u := x.grps.foldl (fun s e => restoreGroup s slot e.1 e.2 false)
          (x.blks.foldl (fun s e => restoreSaved s slot z.yielded e) (createCtx s slot plan))
        exec (.ctxctlResume slot) s = .next (resumeOn (updCtx u slot fun c => { c with
          serial := serial, hold := true, resuming := ((x.fronts.head?).getD 0, x.fronts.length) }) slot))) ∧
    (s.hostq = [] → z.st ≠ 0 → ∃ t, exec (.ctxctlKill slot) s = .next t ∧ (ctxAt t slot).st = 0 ∧ bit t.msix 6 = true ∧
      (∀ b, (bAt s b).present = true → (bAt s b).ctx = slot → bAt t b = default) ∧
      ∀ k, k < 64 → (streamAt t slot k).st = 0) ∧
    (s.hostq = [] → invOf (z.invlo.toNat + q.toNat * 2 ^ 64) = some i →
      exec (.invhiWrite slot q) s = .next { s with
        invs := s.invs ++ [{ i with slot := slot + 1, id := s.nextId }], nextId := s.nextId + 1 }) ∧
    (s.hostq = [] → invOf (z.invlo.toNat + q.toNat * 2 ^ 64) = none →
      exec (.invhiWrite slot q) s = .next (updCtx s slot fun c => { c with invref := true })) ∧
    (s.hostq = [] → bit w.toNat 31 = true → (bAt s qblk).present = true → (bAt s qblk).ctx = slot →
      ∃ t, exec (.qrelWrite slot w) s = .next t ∧ t = { s with blocks := t.blocks } ∧
        ∀ j, bit (bAt t qblk).qfrz j = (bit (bAt s qblk).qfrz j && j != qq)) ∧
    (b < 4 → (bAt s blk).present = true → (bAt s blk).ctx = slot → mailRoom s c = true →
      exec (.stopDescriptorPost slot c b) s = .next { s with mbox := Store.upd s.mbox c fun l => l ++ [{ (default : Mail) with
        kind := 2, blk := b, ctx := slot, words := 2#32 :: List.replicate 5 0#32 }] }) ∧
    (s.hostq ≠ [] →
      exec (.ctxctlLaunch slot) s = .next { s with hostq := s.hostq ++ [.launch slot] } ∧
      exec (.ctxctlPre slot) s = .next { s with hostq := s.hostq ++ [.preempt slot] } ∧
      exec (.ctxctlResume slot) s = .next { s with hostq := s.hostq ++ [.resume slot] } ∧
      exec (.ctxctlKill slot) s = .next { s with hostq := s.hostq ++ [.kill slot] } ∧
      exec (.invhiWrite slot q) s = .next { s with hostq := s.hostq ++ [.invhi slot q] } ∧
      exec (.qrelWrite slot w) s = .next { s with hostq := s.hostq ++ [.qrel slot w] } ∧
      exec (.registerWrite 0 off size q 0) s = .next { s with hostq := s.hostq ++ [.register 0 off size q] }) ∧
    (slot < 64 → master ≤ 1 → (master = 0 → s.hostq = []) → (master = 1 → gscRuns s = true) → z.st = 0 → exec (.registerWrite 0 (0x40008 + 0x1000 * slot) 8 q master) s =
      .next (updCtx s slot fun c => { c with ptroot := q })) ∧
    -- a leaf controller's write that R454 does not allow, of whatever size and place; one that is held writes nothing
    (2 ≤ master → lfcRuns s (master - 2) = true → mayWrite off master = false →
      exec (.registerWrite 0 off size q master) s = .next (violation s 5 0x51 0 off q.toNat (master - 2))) ∧
    (2 ≤ master → lfcRuns s (master - 2) = false → exec (.registerWrite 0 off size q master) s = .next s)

/-! Firmware, management, power. -/

/-- Probes, firmware command links, leaf controllers, the management port and the bad-frame register (R281, R282, R421,
R458, R459, R461, R467). A token passes along the queues on which the unit that drains its holder's queue is blocked, and
back at its origin makes one emergency admission; a message without a permit waits; a processor that is held or frozen sends
nothing. A message of the management port goes in packets of the negotiated unit, each announced by an in-band interrupt once the port has
a dynamic address, one of the session sealed, and the last chunk of a large request carries it out. What a signature decides stands in the conclusions: its check is not computed.
The times of probes are log entry 33, the bytes of SPDM messages the model's choice of log entry 37, free signatures log
entry 3, the Provisioned ID log entry 5, that an LFC_RESET keeps SEQ log entry 101 (DEDUCED), and the form of signed requests
log entry 104. -/
def Obligations.FirmwareAndManagement : Prop :=
  ∀ (s : State) (u link k code seq off len idx : Nat) (msg req chunk : List Byte) (p : Probe) (n : BitVec 256) (q : Quad)
    (offer : Word) (a b : BitVec 7) (eid : Byte),
    let x := linkAt s link
    let h := leNat (msg.take 8)
    let sends := fun (t : State) (type : Byte) (bs : List Byte) =>
      { t with out := t.out ++ (packets t.mgmt.unit (type :: bs)).flatMap fun p =>
          (if t.i3c = 0 then [] else [(99, leBytes 1 t.i3c)]) ++ [(97, p)] }
    let said := fun (t : State) (bs : List Byte) => sends t 5#8 bs
    -- a message of the session has come, and its answer leaves sealed
    let seals := fun (t : State) (bs : List Byte) =>
      sends { t with mgmt := { t.mgmt with came := t.mgmt.came + 1, gone := t.mgmt.gone + 1 } } 6#8
        (Config.sealGcm t.mgmt.key (2 * t.mgmt.gone + 1) [] bs)
    let opened := Config.openGcm s.mgmt.key (2 * s.mgmt.came) req
    let Says := fun (i : Instr) (t : State) (bs : List Byte) => exec i s = .next (said t bs)
    let Signed := fun (i : Instr) (t : State) (bs : List Byte) => ∃ sig, sig.length = 16608 ∧ Says i { t with
      fresh := t.fresh + 16608, chunkOut := bs ++ sig } [0x7F#8, 0x0F#8]
    let measured := fun i => leBytes 1 i ++ (measurement s i).getD []
    let part := (s.chunkOut.drop (1024 * seq)).take 1024
    let rest := if s.chunkOut.length ≤ 1024 * (seq + 1) then [] else s.chunkOut
    let reason := bits q.toNat 55 52
    let frame := bits q.toNat 35 0
    let op := bits q.toNat 63 62
    let clean := gscRuns s = true ∧ bit s.bfstat 0 = false ∧ bits q.toNat 61 56 = 0 ∧ bits q.toNat 51 36 = 0
    let refuses := 4096 ≤ s.bad.length ∨ reason = 0 ∨ 4 < reason ∨ 8388599 < frame
    let dup := if bit s.bfstat 2 = true then 4 else 0
    let large := (if seq = 0 then [] else s.chunkIn) ++ chunk
    let whole := said { s with chunkIn := [], chunkNext := 0 } (0x05#8 :: leBytes 2 seq)
    let others := s.probes.takeWhile (· != p) ++ (s.probes.dropWhile (· != p)).drop 1
    -- probes
    (probeBlocked s u = false → exec (.probeTimeout u) s = .next { s with blocked := Store.set s.blocked u 0 }) ∧
    (probeBlocked s u = true → Store.get s.blocked u = 0 →
      exec (.probeTimeout u) s = .next { s with blocked := Store.set s.blocked u (s.gt + 1) }) ∧
    (probeBlocked s u = true → Store.get s.blocked u ≠ 0 → Store.get s.blocked u + 2048 ≤ s.gt + 1 →
      (∀ p ∈ s.probes, p.origin ≠ u) → ∃ t, exec (.probeTimeout u) s = .next t ∧ t.probes = s.probes ++ [⟨u, u, 0⟩]) ∧
    ((s.probes.find? fun p => p.origin == u) = some p →
      (probeBlocked s p.at_ = false ∨ 64 ≤ p.hops → exec (.probeToken u) s = .next { s with probes := others }) ∧
      (probeBlocked s p.at_ = true → p.hops < 64 →
        (u ∉ probeNext s p.at_ → exec (.probeToken u) s =
          .next { s with probes := others ++ (probeNext s p.at_).map fun v => ⟨u, v, p.hops + 1⟩ }) ∧
        (u ∈ probeNext s p.at_ → (∀ r ∈ s.reserve, r % 8 ≠ u % 8) → ∃ t, exec (.probeToken u) s = .next t ∧
          t.reserve = s.reserve ++ [u] ∧ Store.get t.emerg (u % 8) = Nat.min (Store.get s.emerg (u % 8) + 1) 0xFFFFFFFF ∧
          t.probes = others ++ ((probeNext s p.at_).filter (· != u)).map fun v => ⟨u, v, p.hops + 1⟩) ∧
        (u ∈ probeNext s p.at_ → (∃ r ∈ s.reserve, r % 8 = u % 8) → exec (.probeToken u) s = .next { s with
          probes := others ++ ((probeNext s p.at_).filter (· != u)).map fun v => ⟨u, v, p.hops + 1⟩ }))) ∧
    -- command links
    (link < 64 → msg.length = 64 → senderRuns s link = false → exec (.firmwareMessage link msg) s = .next s) ∧
    (link < 64 → msg.length = 64 → senderRuns s link = true →
      (bits h 47 40 ≠ 0xFF → bits h 63 48 = x.seq → x.spent < permits s link → bits h 39 32 ≤ 56 →
        ∃ t, exec (.firmwareMessage link msg) s = .next t ∧ t.out = s.out ++ [(128 + link, msg)] ∧
          linkAt t link = { spent := x.spent + 1, seq := (x.seq + 1) % 2 ^ 16, msgs := x.msgs ++ [msg], want := false }) ∧
      (bits h 47 40 ≠ 0xFF → bits h 63 48 = x.seq → permits s link ≤ x.spent → bits h 39 32 ≤ 56 →
        exec (.firmwareMessage link msg) s = .next (updLink s link fun y => { y with want := true })) ∧
      (bits h 47 40 = 0xFF → exec (.firmwareMessage link msg) s =
        .next (permitBack s (if link % 2 = 0 then link + 1 else link - 1)))) ∧
    (link < 64 → receiverRuns s link = true → 0 < x.spent → ∃ t, exec (.permitReturn link) s = .next t ∧
      linkAt t link = { x with spent := x.spent - 1, msgs := x.msgs.drop 1 }) ∧
    (k < 32 →
      (lfcRuns s k = true → ∃ t, exec (.lfcWatchdog k) s = .next t ∧ lfcOff t k = true) ∧
      (gscRuns s = true → ∃ t, exec (.lfcReset k) s = .next t ∧ lfcOff t k = false ∧ (linkAt t (2 * k)).spent = 0 ∧
        (linkAt t (2 * k + 1)).spent = 0 ∧ (linkAt t (2 * k)).seq = (linkAt s (2 * k)).seq)) ∧
    -- the management port
    (0 < len → (packets len msg).flatten = msg ∧ ∀ p ∈ packets len msg, p.length ≤ len) ∧
    (s.power = true → 64 ≤ len → len ≤ 256 →
      takeTurn s (.mctpUnit len) = .next { s with mgmt := { s.mgmt with unit := len } }) ∧
    (s.power = true →
      Says (.nonce n) { s with nonce := n.toNat } [0x7E#8, 0x01#8] ∧
      (if reqSigned s 3 req = true then Says (.tenantKey req) { s with tenantKey := reqBody req } [0x7E#8, 0x03#8]
        else Says (.tenantKey req) s [0x7F#8, 0x01#8]) ∧
      Says .getVersion { s with
        spdmVer := true, spdmAlg := false, session := 0, chunkIn := [], chunkNext := 0, chunkOut := [] } [0x04#8, 0x12#8, 0x13#8] ∧
      (code / 256 = 0 → exec (.unsupportedRequest code) s = .next (sends s 0#8 (leBytes 1 code ++ [0x05#8]))) ∧
      (code / 256 = 5 ∨ code / 256 = 6 ∧ s.session = 0 →
        Says (.unsupportedRequest code) s ([0x7F#8, 0x07#8] ++ leBytes 1 code)) ∧
      (code / 256 = 6 → s.session ≠ 0 →
        exec (.unsupportedRequest code) s = .next (seals s ([0x7F#8, 0x07#8] ++ leBytes 1 code))) ∧
      (code / 256 ≠ 0 → code / 256 ≠ 5 → code / 256 ≠ 6 → exec (.unsupportedRequest code) s = .next s) ∧
      (s.i3c = 0 → exec (.entdaa a) s = .next { s with i3c := a.toNat, out := s.out ++ [(97, provisionedId)] }) ∧
      (s.i3c = 0 → exec (.setdasa 0x5C#7 b) s = .next { s with i3c := b.toNat }) ∧
      (eid ≠ 0#8 → eid ≠ 0xFF#8 → exec (.setEndpointId eid) s =
        .next (sends { s with eid := eid.toNat } 0#8 [0x01#8, 0x00#8, 0x00#8, eid, 0x00#8])) ∧
      (eid = 0#8 ∨ eid = 0xFF#8 → exec (.setEndpointId eid) s = .next (sends s 0#8 [0x01#8, 0x02#8])) ∧
      (s.spdmVer = true →
        (∃ bs, bs.length = 5 ∧ bs.head? = some 0x61#8 ∧ Says .getCapabilities s bs) ∧
        (offer.toNat % 64 ≠ 0 → Says (.negotiateAlgorithms offer) { s with spdmAlg := true }
          (0x63#8 :: leBytes 4 (offer.toNat % 64))) ∧
        (seq = s.chunkNext →
          Says (.chunkSend seq false chunk) { s with chunkIn := large, chunkNext := seq + 1 } (0x05#8 :: leBytes 2 seq) ∧
          (large = 0xFE#8 :: 0x02#8 :: req → exec (.chunkSend seq true chunk) s = exec (.leaseReset req) whole) ∧
          (large = 0xFE#8 :: 0x03#8 :: req → exec (.chunkSend seq true chunk) s = exec (.tenantKey req) whole) ∧
          (large = 0xE4#8 :: req → exec (.chunkSend seq true chunk) s = exec (.keyExchange req) whole) ∧
          (large = 0xE5#8 :: req → exec (.chunkSend seq true chunk) s = exec (.finish req) whole)) ∧
        (part ≠ [] → Says (.chunkGet seq) { s with chunkOut := rest }
          ([0x06#8] ++ leBytes 1 (if s.chunkOut.length ≤ 1024 * (seq + 1) then 1 else 0) ++ leBytes 2 seq ++ part))) ∧
      (s.spdmAlg = true →
        Says .getDigests s ([0x01#8, 0x01#8] ++ certDigest) ∧
        (len ≤ 1022 → Says (.getCertificate 0 off len) s ([0x02#8, 0x00#8] ++ (List.range len).map fun i => certByte (off + i))) ∧
        Signed (.challenge 0 n) s ([0x03#8, 0x00#8] ++ certDigest ++ leBytes 32 n.toNat) ∧
        Signed (.getMeasurements 0 n) s ([0x60#8, 0x05#8] ++ leBytes 32 n.toNat) ∧
        Signed (.getMeasurements 0xFF n) s ([0x60#8] ++ ([1, 2, 3, 4, 0xF0].flatMap measured) ++ leBytes 32 n.toNat) ∧
        (idx ∈ [1, 2, 3, 4, 0xF0] → Signed (.getMeasurements idx n) s ([0x60#8] ++ measured idx ++ leBytes 32 n.toNat)) ∧
        (s.session = 0 → req ≠ [] → ∃ data key, data.length = 96 ∧
          Signed (.keyExchange req) { s with session := 1, mgmt := ⟨s.mgmt.unit, key, 0, 0⟩, fresh := s.fresh + 97 }
            ([0x64#8] ++ data))) ∧
      (s.session = 1 →
        if Config.verifies (leBytes 32 s.mgmt.key ++ leBytes 12 (2 * s.mgmt.came) ++ req) = true then
          if Config.verifies opened = true then exec (.finish req) s = .next (seals { s with session := 2 } [0x65#8])
          else exec (.finish req) s = .next (seals { s with session := 0 } [0x7F#8, 0x06#8])
        else Says (.finish req) { s with session := 0 } [0x7F#8, 0x06#8]) ∧
      (s.session = 2 → exec .heartbeat s = .next (seals s [0x68#8]) ∧
        exec .endSession s = .next (seals { s with session := 0 } [0x6C#8]))) ∧
    -- the bad-frame register
    (clean →
      (op = 0 → badFrame s frame = false → ¬refuses →
        exec (.bfappAppend q) s = .next { s with bad := s.bad ++ [⟨true, false, reason, frame⟩], bfstat := 1 }) ∧
      (op = 1 → exec (.bfappCommit q) s =
        .next { s with bad := s.bad.map fun b => { b with pend := false }, bfstat := 1 + dup }) ∧
      (op = 2 → exec (.bfappDiscard q) s = .next { s with bad := s.bad.filter fun b => !b.pend, bfstat := 1 + dup }) ∧
      (op = 3 → exec (.bfappNop q) s = .next { s with bfstat := dup }) ∧
      (op = 0 → refuses ∨ badFrame s frame = true → ∃ t, exec (.bfappAppend q) s = .next { s with bfstat := t } ∧
        (bit t 0 = false) ∧ (bit t 1 = true ↔ refuses) ∧ bit t 2 = badFrame s frame)) ∧
    exec .bfappFlashDone s = .next { s with bfstat := s.bfstat / 2 * 2 }

/-- Power, boot, lease resets, errors, heat and the wrap of a counter (R246, R357, R405, R457, R460 to R465, R468). A group that
consumes data with an uncorrectable error, here of a bank of its core, be it scratch or a line of its L1, or of a line of the
L2, is frozen and takes none of it (log entry 133); one of an event table is met by the OSD's next access there (log entry 168,
DEDUCED). The nonce of a record is that of the request that began the reset. The boot of a
recovery image, what a lease reset leaves and the fields of an error's record are log entries 35, 36, 100, 85 and 102; the
bytes of the answer to a refused request log entry 37 (PRESUMED), that a boot needs an image for target 0 and the signed
requests log entry 104, which leaf controller takes which image log entry 147, and memory that reads 0 after a loss of power log
entry 2. -/
def Obligations.PowerAndErrors : Prop :=
  ∀ (s : State) (m rec_ req : List Byte) (mismatch : List Nat) (frame tier g die temp k : Nat),
    let u := if s.power then s else { freshState s with power := true }
    let whole := fun (m : List Byte) (target : Nat) => ∀ i, i < manNimg m → manTarget m i = target →
      Config.sha384 (manImage m i) = (manEntry m i).take 48
    let runs := manOk (loadBad u) m = true ∧ manHas m 0 = true ∧ whole m 0
    let recovers := manOk (loadBad u) rec_ = true ∧ manClass rec_ = 0 ∧ manHas rec_ 2 = true ∧ whole rec_ 2
    let Resets := fun (t : State) => t.scrubPend = true ∧ t.lrcHold = true ∧ t.lrcStart = s.gt ∧ t.reqcnt = 0 ∧
      ∀ e ∈ s.paths, e.2.used = true → e.2.st ≤ 1 → (pathAt t e.1).st = 3
    let n := Store.get s.ecc frame + 1
    let c := Store.get s.pmc k
    let therm := Store.set s.therm die (temp % 4096)
    ((s.power = false ∨ s.image = 0 ∧ s.lrcHold = false) →
      (s.scrubPend = false → ∃ t, exec (.powerOn m rec_) s = .next t ∧ t.power = true ∧
        (runs → t.image = 1 ∧ t.manHash = Config.sha384 (m.take (manLen m)) ∧ (whole m 1 → t.lfcUp = true)) ∧
        (¬runs → recovers → t.image = 2 ∧ ∀ c, c < 2 → Store.get t.svn c = Nat.max (Store.get s.svn c) (manSvn rec_)) ∧
        (¬runs → ¬recovers → t.image = 3 ∧ bit t.msix 7 = true)) ∧
      (s.scrubPend = true → ∃ t, exec (.powerOn m rec_) s = .next t ∧ t.lrcHold = true ∧ t.scrubPend = true)) ∧
    (∃ t, exec .lossOfPower s = .next t ∧ t = { freshState s with power := false } ∧ t.mem = [] ∧ t.groups = [] ∧
      t.bad = s.bad ∧ t.svn = s.svn ∧ t.scrubPend = s.scrubPend ∧ t.image = 0) ∧
    (s.power = true →
      (s.lrcHold = false → ∃ t, exec .lrstN s = .next t ∧ Resets t ∧ t.lrcNonce = s.nonce) ∧
      (s.lrcHold = true → exec .lrstN s = .next { s with reqcnt := s.reqcnt + 1 }) ∧
      ∃ t, exec (.leaseReset req) s = .next t ∧
        (reqSigned s 2 req = true → (reqBody req).length = 32 → s.lrcHold = false → Resets t ∧ t.lrcNonce = leNat (reqBody req)) ∧
        (reqSigned s 2 req = false ∨ (reqBody req).length ≠ 32 → t = { s with
          out := s.out ++ (packets s.mgmt.unit [0x05#8, 0x7F#8, 0x01#8]).flatMap fun p =>
            (if s.i3c = 0 then [] else [(99, leBytes 1 s.i3c)]) ++ [(97, p)] })) ∧
    (s.lrcHold = true → ∃ t, exec (.scrubComplete mismatch rec_) s = .next t ∧ t.lrcHold = false ∧ t.scrubPend = false ∧
      t.gt = s.gt ∧ t.groups = [] ∧ t.ls = [] ∧ t.keys = [] ∧ t.scrubRec.length = 256 + 16608 ∧
      (t.scrubRec.drop 24).take 32 = leBytes 32 s.lrcNonce ∧
      ∀ x, memByte t x = if paSpace x = 0 then 0#8 else memByte s x) ∧
    (∃ t, exec (.eccCorrected frame) s = .next t ∧ Store.get t.ecc frame = n ∧
      (s.cethr ≠ 0 → s.cethr ≤ n → frame ≤ 8388599 → badFrame s frame = false → s.bad.length < 4096 →
        t.bad = s.bad ++ [⟨true, false, 2, frame⟩]) ∧
      (s.cethr = 0 ∨ n < s.cethr → t.bad = s.bad)) ∧
    ((gAt s g).present = true → 2 ≤ tier → (∀ r ∈ s.rdvs, r.lists g = false) → ∃ t, exec (.uncorrectable 0 g frame tier) s = .next t ∧
      (gAt t g).viol = some 0x30 ∧ (∀ i, i < 8 → fragAt t g i = (fragAt s g i).freeze) ∧
      (gAt t g).v = (gAt s g).v ∧ (gAt t g).s = (gAt s g).s ∧ (gAt t g).p = (gAt s g).p ∧
      (∀ q ∈ (gAt t g).pend, q.kind = .load → ∀ a ∈ q.accs, inError s g tier frame q a = true → a.put = allRegs) ∧
      ∀ h, h ≠ g → gAt t h = gAt s h) ∧
    -- an error of the event table is met by the OSD's next access to it
    (2 ≤ tier → ∃ t, exec (.uncorrectable 7 k frame tier) s = .next t ∧ t = { s with evBad := s.evBad ++ [(k, tier, frame)] } ∧
      (tier ≠ 3 → ∀ idx wr pa e, evAccess t k idx wr = .ok pa e → osdAccess t k idx wr = .bad cUNCORRECTABLE)) ∧
    ((gAt s g).present = false → tier ≤ 1 → s.faqHead = s.faqTail → ∃ t, exec (.uncorrectable 0 g frame tier) s = .next t ∧
      Store.get t.faq (s.faqTail.toNat % 64) = ⟨s.gt, 1, tier, frame⟩ ∧ t.faqTail = s.faqTail + 1#32 ∧ bit t.msix 4 = true) ∧
    (die < 6 →
      ((4 ≤ die ∨ temp % 4096 ≤ s.tjhot) → exec (.tjhotExceeded die temp) s = .next { s with therm := therm }) ∧
      (die < 4 → s.tjhot < temp % 4096 → bit s.thstat 0 = false →
        exec (.tjhotExceeded die temp) s = .next { s with therm := therm, thstat := 1, msix := s.msix ||| 2 ^ 5 }) ∧
      (440 ≤ temp → exec (.thermalTrip die temp) s =
        .next { s with therm := therm, tripHold := true, msix := s.msix ||| 2 ^ 5 })) ∧
    (bit c.sel 31 = true → c.count = 2 ^ 48 - 1 → ∃ t, exec (.pmcWrap k) s = .next t ∧ (Store.get t.pmc k).count = 0 ∧
      bit (Store.get t.pmc k).sel 30 = true ∧ (bit c.sel 29 = true → bit t.msix 3 = true) ∧
      (bit c.sel 29 = false → t.msix = s.msix))
end

