-- ==== Sys2Proof/Laws/Bytes.lean ====
section
/-! SUPPORT. Bytes: lengths, and little-endian numbers written and read back. -/

namespace Sys2Proof.Machine

@[simp] theorem leBytes_length (n x : Nat) : (leBytes n x).length = n := by
  induction n generalizing x with
  | zero => rfl
  | succ n ih => simp [leBytes, ih]

theorem leNat_cons (b : Byte) (bs : List Byte) : leNat (b :: bs) = b.toNat + 256 * leNat bs := by simp [leNat]

/-- Reading back what was written (R4). -/
theorem leNat_leBytes (n x : Nat) : leNat (leBytes n x) = x % 256 ^ n := by
  induction n generalizing x with
  | zero => simp [leBytes, leNat, Nat.mod_one]
  | succ n ih =>
    rw [leBytes, leNat_cons, ih, Nat.pow_succ', Nat.mod_mul]
    simp

theorem leNat_lt (bs : List Byte) : leNat bs < 256 ^ bs.length := by
  induction bs with
  | nil => simp [leNat]
  | cons b bs ih =>
    rw [leNat_cons, List.length_cons, Nat.pow_succ']
    have := b.isLt
    omega

@[simp] theorem getList_length {α : Type} [Inhabited α] (m : Store α) (k n : Nat) : (Store.getList m k n).length = n := by
  simp [Store.getList]

@[simp] theorem zeros_length (n : Nat) : (zeros n).length = n := by simp [zeros]

theorem flatMap_length {α : Type} {k : Nat} (f : α → List Byte) (h : ∀ x, (f x).length = k) (l : List α) :
    (l.flatMap f).length = k * l.length := by
  induction l with
  | nil => rfl
  | cons x l ih => rw [List.flatMap_cons, List.length_append, ih, h, List.length_cons, Nat.mul_add, Nat.mul_one, Nat.add_comm]

@[simp] theorem wordsLe_length (ws : List Word) : (wordsLe ws).length = 4 * ws.length :=
  flatMap_length _ (fun _ => leBytes_length _ _) ws

@[simp] theorem padTo_length (n : Nat) (bs : List Byte) : (padTo n bs).length = max n bs.length := by
  simp only [padTo, List.length_append, zeros_length]
  omega

@[simp] theorem recHead_length (s : State) (magic grp b role ctx : Nat) : (recHead s magic grp b role ctx).length = 64 := by
  simp [recHead]

end Sys2Proof.Machine
end

