-- ==== Sys2Proof/Laws/Homes.lean ====
section
/-! SUPPORT. What a line's meeting with its home can do, once for each operation, and what an arrival at a barrier changes. -/

namespace Sys2Proof.Machine

/-- From s to t only the lines of the L2, their eviction maxima, the performance counters with their interrupt, and the count of
free values may differ (R213, R214, R405). -/
def OnlyHomes (s t : State) : Prop :=
  t = { s with l2 := t.l2, evmax := t.evmax, pmc := t.pmc, msix := t.msix, fresh := t.fresh }

theorem OnlyHomes.refl (s : State) : OnlyHomes s s := rfl

theorem OnlyHomes.trans {s t u : State} (h : OnlyHomes s t) (k : OnlyHomes t u) : OnlyHomes s u := by
  unfold OnlyHomes at *
  rw [k, h]

theorem OnlyHomes.mem {s t : State} (h : OnlyHomes s t) : t.mem = s.mem := by
  have e := congrArg State.mem (show t = _ from h)
  exact e
theorem OnlyHomes.groups {s t : State} (h : OnlyHomes s t) : t.groups = s.groups := by
  have e := congrArg State.groups (show t = _ from h)
  exact e
theorem OnlyHomes.blocks {s t : State} (h : OnlyHomes s t) : t.blocks = s.blocks := by
  have e := congrArg State.blocks (show t = _ from h)
  exact e
theorem OnlyHomes.ctxs {s t : State} (h : OnlyHomes s t) : t.ctxs = s.ctxs := by
  have e := congrArg State.ctxs (show t = _ from h)
  exact e
theorem OnlyHomes.migs {s t : State} (h : OnlyHomes s t) : t.migs = s.migs := by
  have e := congrArg State.migs (show t = _ from h)
  exact e

theorem OnlyHomes.foldl {α : Type} {f : State → α → State} (h : ∀ s a, OnlyHomes s (f s a)) (l : List α) (s : State) :
    OnlyHomes s (l.foldl f s) := by
  induction l generalizing s with
  | nil => exact .refl s
  | cons a l ih => exact (h s a).trans (ih _)

theorem pmcAdd_onlyHomes (s : State) (k n : Nat) : OnlyHomes s (pmcAdd s k n) := by
  unfold pmcAdd
  dsimp only
  split_ifs <;> rfl

theorem pmcCount_onlyHomes (s : State) (ks : List Nat) (code n : Nat) : OnlyHomes s (pmcCount s ks code n) := by
  unfold pmcCount
  split_ifs
  · exact .refl s
  · refine .foldl (fun s k => ?_) ks s
    dsimp only
    split_ifs
    · exact pmcAdd_onlyHomes s k n
    · exact .refl s

theorem l2Hold_onlyHomes (s : State) (line : Nat) : OnlyHomes s (l2Hold s line) := by
  unfold l2Hold
  dsimp only
  split_ifs
  all_goals try split
  all_goals try split_ifs
  all_goals rfl

theorem l2Meet_onlyHomes (s : State) (cl : Option Nat) (line : Nat) : OnlyHomes s (l2Meet s cl line) := by
  unfold l2Meet
  cases cl with
  | none => exact l2Hold_onlyHomes s line
  | some c =>
    dsimp only
    split_ifs
    · exact l2Hold_onlyHomes s line
    · exact (pmcCount_onlyHomes s _ _ _).trans (l2Hold_onlyHomes _ line)

theorem l2Pin_onlyHomes (s : State) (line slot page : Nat) : OnlyHomes s (l2Pin s line slot page).1 := by
  unfold l2Pin
  dsimp only
  split_ifs <;> rfl

theorem meetCore_onlyHomes (s : State) (core : Nat) (ps : List Nat) : OnlyHomes s (meetCore s core ps) := by
  refine .foldl (fun s l => ?_) _ s
  split_ifs
  · exact .refl s
  · exact l2Meet_onlyHomes s _ l

theorem meetVa_onlyHomes (s : State) (core ctx va n : Nat) : OnlyHomes s (meetVa s core ctx va n) := meetCore_onlyHomes s core _

theorem meetStack_onlyHomes (s : State) (g i : Nat) : OnlyHomes s (meetStack s g i) := meetVa_onlyHomes s _ _ _ _

theorem itemMeet_onlyHomes (s : State) (g cls idx : Nat) : OnlyHomes s (itemMeet s g cls idx) := by
  unfold itemMeet
  split_ifs
  · exact meetStack_onlyHomes s g idx
  · exact .refl s

theorem pinPl_onlyHomes (s : State) (cl : Option Nat) (line slot page : Nat) : OnlyHomes s (pinPl s cl line slot page) := by
  unfold pinPl
  have h := l2Pin_onlyHomes s line slot (page + 1)
  dsimp only
  split_ifs
  · exact h
  · exact h.trans (pmcCount_onlyHomes _ _ _ _)

theorem pinRange_onlyHomes (s : State) (cl : Option Nat) (caches : List Nat) (slot va n : Nat) :
    OnlyHomes s (pinRange s cl caches slot va n) := by
  refine .foldl (fun s i => ?_) _ s
  dsimp only
  split
  · split_ifs
    · exact (l2Meet_onlyHomes s _ _).trans (pinPl_onlyHomes _ _ _ _ _)
    · exact .refl s
  · exact .refl s

theorem viewMeet_onlyHomes (s : State) (va d : Nat) (pages : List PageImg) : OnlyHomes s (viewMeet s va d pages) :=
  .foldl (fun _ _ => (pinRange_onlyHomes _ _ _ _ _ _).trans (meetVa_onlyHomes _ _ _ _ _)) _ s

theorem meetPlaces_onlyHomes (s : State) (m : Cmd) (loc : Bool) (ps : List Nat) : OnlyHomes s (meetPlaces s m loc ps) := by
  unfold meetPlaces
  split_ifs
  · exact .refl s
  · exact meetCore_onlyHomes s _ ps

/-- An arrival at a barrier changes nothing but barriers of its block and the waits of fragments. -/
theorem arriveBar_frame (s : State) (k : Nat) (f : Bar → Bar) :
    arriveBar s k f = { s with blocks := (arriveBar s k f).blocks, groups := (arriveBar s k f).groups } := rfl

end Sys2Proof.Machine
end

