-- ==== Sys2Proof/Laws/Store.lean ====
section
/-! SUPPORT. What the operations on stores do: reads after writes, and the canonical form. -/

namespace Sys2Proof.Machine

variable {α : Type}

@[simp] theorem Store.get_nil [Inhabited α] (k : Nat) : Store.get ([] : Store α) k = default := rfl

theorem Store.get_ins [Inhabited α] (m : Store α) (k j : Nat) (v : α) :
    Store.get (Store.ins m k v) j = if j = k then v else Store.get m j := by
  induction m with
  | nil => simp [Store.ins, Store.get, eq_comm]
  | cons e r ih =>
    obtain ⟨a, b⟩ := e
    by_cases h1 : k < a
    · by_cases h2 : j = k
      · subst h2; simp [Store.ins, h1, Store.get]
      · simp [Store.ins, h1, Store.get, h2, Ne.symm h2]
    · by_cases h3 : k = a
      · subst h3
        by_cases h2 : j = k
        · subst h2; simp [Store.ins, Store.get]
        · simp [Store.ins, Store.get, h2, Ne.symm h2]
      · by_cases h2 : a = j
        · subst h2; simp [Store.ins, h1, h3, Store.get, Ne.symm h3]
        · simp [Store.ins, h1, h3, Store.get, h2, ih]

theorem Store.get_del [Inhabited α] (m : Store α) (k j : Nat) :
    Store.get (Store.del m k) j = if j = k then default else Store.get m j := by
  induction m with
  | nil => simp [Store.del, Store.get]
  | cons e r ih =>
    obtain ⟨a, b⟩ := e
    by_cases h1 : a = k
    · subst h1
      by_cases h2 : j = a
      · subst h2; simp [Store.del, ih]
      · simp [Store.del, ih, h2, Store.get, Ne.symm h2]
    · by_cases h2 : a = j
      · subst h2; simp [Store.del, h1, Store.get]
      · simp [Store.del, h1, h2, Store.get, ih]

/-- A read after a write. -/
theorem Store.get_set [Inhabited α] [DecidableEq α] (m : Store α) (k j : Nat) (v : α) :
    Store.get (Store.set m k v) j = if j = k then v else Store.get m j := by
  unfold Store.set
  split
  · rename_i h; rw [Store.get_del]; split <;> simp_all
  · exact Store.get_ins m k j v

@[simp] theorem Store.get_set_self [Inhabited α] [DecidableEq α] (m : Store α) (k : Nat) (v : α) :
    Store.get (Store.set m k v) k = v := by simp [Store.get_set]

theorem Store.get_set_ne [Inhabited α] [DecidableEq α] (m : Store α) {k j : Nat} (v : α) (h : j ≠ k) :
    Store.get (Store.set m k v) j = Store.get m j := by simp [Store.get_set, h]

/-- A read after a change of one entry. -/
theorem Store.get_upd [Inhabited α] [DecidableEq α] (m : Store α) (k j : Nat) (f : α → α) :
    Store.get (Store.upd m k f) j = if j = k then f (Store.get m k) else Store.get m j :=
  Store.get_set m k j _

@[simp] theorem Store.get_upd_self [Inhabited α] [DecidableEq α] (m : Store α) (k : Nat) (f : α → α) :
    Store.get (Store.upd m k f) k = f (Store.get m k) := by simp [Store.get_upd]

theorem Store.get_upd_ne [Inhabited α] [DecidableEq α] (m : Store α) {k j : Nat} (f : α → α) (h : j ≠ k) :
    Store.get (Store.upd m k f) j = Store.get m j := by simp [Store.get_upd, h]

theorem Store.get_setList [Inhabited α] [DecidableEq α] (l : List α) (m : Store α) (k j : Nat) :
    Store.get (Store.setList m k l) j = if k ≤ j ∧ j < k + l.length then l.getD (j - k) default else Store.get m j := by
  induction l generalizing m k with
  | nil => rw [if_neg (by simp only [List.length_nil]; omega)]; rfl
  | cons v r ih =>
    simp only [Store.setList, ih, Store.get_set, List.length_cons]
    by_cases h : j = k
    · subst h; rw [if_neg (by omega), if_pos rfl, if_pos (by omega)]; simp
    · by_cases h2 : k + 1 ≤ j ∧ j < k + 1 + r.length
      · rw [if_pos h2, if_pos (by omega)]
        obtain ⟨n, hn⟩ : ∃ n, j - k = n + 1 := ⟨j - k - 1, by omega⟩
        rw [hn, List.getD_cons_succ]; congr 1; omega
      · rw [if_neg h2, if_neg h, if_neg (by omega)]

/-! The canonical form. -/

theorem Store.wf_cons [Inhabited α] [DecidableEq α] (k : Nat) (v : α) (r : Store α) :
    Store.wf ((k, v) :: r) = true ↔ v ≠ default ∧ (∀ e ∈ r, k < e.1) ∧ Store.wf r = true := by
  simp [Store.wf, and_assoc]

theorem Store.mem_ins [Inhabited α] (m : Store α) (k : Nat) (v : α) (e : Nat × α) (h : e ∈ Store.ins m k v) :
    e = (k, v) ∨ e ∈ m := by
  induction m with
  | nil => simp [Store.ins] at h; simp [h]
  | cons x r ih =>
    obtain ⟨a, b⟩ := x
    simp only [Store.ins] at h
    split at h
    · simpa using h
    · split at h
      · rcases List.mem_cons.1 h with h | h
        · exact .inl h
        · exact .inr (List.mem_cons_of_mem _ h)
      · rcases List.mem_cons.1 h with h | h
        · exact .inr (h ▸ List.mem_cons_self)
        · exact (ih h).imp id (List.mem_cons_of_mem _)

theorem Store.mem_del [Inhabited α] (m : Store α) (k : Nat) (e : Nat × α) (h : e ∈ Store.del m k) : e ∈ m := by
  induction m with
  | nil => exact h
  | cons x r ih =>
    obtain ⟨a, b⟩ := x
    simp only [Store.del] at h
    split at h
    · exact List.mem_cons_of_mem _ (ih h)
    · rcases List.mem_cons.1 h with h | h
      · exact h ▸ List.mem_cons_self
      · exact List.mem_cons_of_mem _ (ih h)

theorem Store.wf_ins [Inhabited α] [DecidableEq α] (m : Store α) (k : Nat) (v : α) (hv : v ≠ default)
    (h : Store.wf m = true) : Store.wf (Store.ins m k v) = true := by
  induction m with
  | nil => simp [Store.ins, Store.wf, hv]
  | cons x r ih =>
    obtain ⟨a, b⟩ := x
    have h' := (Store.wf_cons a b r).1 h
    simp only [Store.ins]
    split
    · refine (Store.wf_cons _ _ _).2 ⟨hv, fun e he => ?_, h⟩
      rcases List.mem_cons.1 he with he | he
      · subst he; assumption
      · exact Nat.lt_trans (by assumption) (h'.2.1 e he)
    · split
      · subst_vars; exact (Store.wf_cons _ _ _).2 ⟨hv, h'.2.1, h'.2.2⟩
      · refine (Store.wf_cons _ _ _).2 ⟨h'.1, fun e he => ?_, ih h'.2.2⟩
        rcases Store.mem_ins r k v e he with he | he
        · subst he; simp only; omega
        · exact h'.2.1 e he

theorem Store.wf_del [Inhabited α] [DecidableEq α] (m : Store α) (k : Nat) (h : Store.wf m = true) :
    Store.wf (Store.del m k) = true := by
  induction m with
  | nil => exact h
  | cons x r ih =>
    obtain ⟨a, b⟩ := x
    have h' := (Store.wf_cons a b r).1 h
    simp only [Store.del]
    split
    · exact ih h'.2.2
    · exact (Store.wf_cons _ _ _).2 ⟨h'.1, fun e he => h'.2.1 e (Store.mem_del r k e he), ih h'.2.2⟩

/-- A write keeps the canonical form. -/
theorem Store.wf_set [Inhabited α] [DecidableEq α] (m : Store α) (k : Nat) (v : α) (h : Store.wf m = true) :
    Store.wf (Store.set m k v) = true := by
  unfold Store.set
  split
  · exact Store.wf_del m k h
  · exact Store.wf_ins m k v (by assumption) h

theorem Store.wf_upd [Inhabited α] [DecidableEq α] (m : Store α) (k : Nat) (f : α → α) (h : Store.wf m = true) :
    Store.wf (Store.upd m k f) = true := Store.wf_set m k _ h

theorem Store.wf_setList [Inhabited α] [DecidableEq α] (l : List α) (m : Store α) (k : Nat) (h : Store.wf m = true) :
    Store.wf (Store.setList m k l) = true := by
  induction l generalizing m k with
  | nil => exact h
  | cons v r ih => exact ih _ _ (Store.wf_set m k v h)

/-- Taking entries out keeps the canonical form. -/
theorem Store.wf_filter [Inhabited α] [DecidableEq α] (m : Store α) (p : Nat × α → Bool) (h : Store.wf m = true) :
    Store.wf (m.filter p) = true := by
  induction m with
  | nil => exact h
  | cons x r ih =>
    obtain ⟨a, b⟩ := x
    have h' := (Store.wf_cons a b r).1 h
    rw [List.filter_cons]
    split
    · exact (Store.wf_cons _ _ _).2 ⟨h'.1, fun e he => h'.2.1 e (List.mem_filter.1 he).1, ih h'.2.2⟩
    · exact ih h'.2.2

theorem Store.wf_keep [Inhabited α] [DecidableEq α] (m : Store α) (p : Nat → Bool) (h : Store.wf m = true) :
    Store.wf (Store.keep m p) = true := Store.wf_filter m _ h

end Sys2Proof.Machine
end

