-- ==== Sys2Proof/Laws/State.lean ====
section
/-! SUPPORT. What the named updates of the state leave alone, one lemma for each field, and what the accessors of groups
and fragments read after them. -/

namespace Sys2Proof.Machine

@[simp] theorem updG_gt (s : State) (g : Nat) (f : Group → Group) : (updG s g f).gt = s.gt := rfl
@[simp] theorem updG_fresh (s : State) (g : Nat) (f : Group → Group) : (updG s g f).fresh = s.fresh := rfl
@[simp] theorem updG_agenda (s : State) (g : Nat) (f : Group → Group) : (updG s g f).agenda = s.agenda := rfl
@[simp] theorem updG_curG (s : State) (g : Nat) (f : Group → Group) : (updG s g f).curG = s.curG := rfl
@[simp] theorem updG_curF (s : State) (g : Nat) (f : Group → Group) : (updG s g f).curF = s.curF := rfl
@[simp] theorem updG_nextId (s : State) (g : Nat) (f : Group → Group) : (updG s g f).nextId = s.nextId := rfl
@[simp] theorem updG_power (s : State) (g : Nat) (f : Group → Group) : (updG s g f).power = s.power := rfl
@[simp] theorem updG_chip (s : State) (g : Nat) (f : Group → Group) : (updG s g f).chip = s.chip := rfl
@[simp] theorem updG_mem (s : State) (g : Nat) (f : Group → Group) : (updG s g f).mem = s.mem := rfl
@[simp] theorem updG_ls (s : State) (g : Nat) (f : Group → Group) : (updG s g f).ls = s.ls := rfl
@[simp] theorem updG_banks (s : State) (g : Nat) (f : Group → Group) : (updG s g f).banks = s.banks := rfl
@[simp] theorem updG_l1 (s : State) (g : Nat) (f : Group → Group) : (updG s g f).l1 = s.l1 := rfl
@[simp] theorem updG_l2 (s : State) (g : Nat) (f : Group → Group) : (updG s g f).l2 = s.l2 := rfl
@[simp] theorem updG_evmax (s : State) (g : Nat) (f : Group → Group) : (updG s g f).evmax = s.evmax := rfl
@[simp] theorem updG_hw (s : State) (g : Nat) (f : Group → Group) : (updG s g f).hw = s.hw := rfl
@[simp] theorem updG_hostq (s : State) (g : Nat) (f : Group → Group) : (updG s g f).hostq = s.hostq := rfl
@[simp] theorem updG_hostT (s : State) (g : Nat) (f : Group → Group) : (updG s g f).hostT = s.hostT := rfl
@[simp] theorem updG_viols (s : State) (g : Nat) (f : Group → Group) : (updG s g f).viols = s.viols := rfl
@[simp] theorem updG_blocks (s : State) (g : Nat) (f : Group → Group) : (updG s g f).blocks = s.blocks := rfl
@[simp] theorem updG_rdvs (s : State) (g : Nat) (f : Group → Group) : (updG s g f).rdvs = s.rdvs := rfl
@[simp] theorem updG_mxq (s : State) (g : Nat) (f : Group → Group) : (updG s g f).mxq = s.mxq := rfl
@[simp] theorem updG_rows (s : State) (g : Nat) (f : Group → Group) : (updG s g f).rows = s.rows := rfl
@[simp] theorem updG_ctxs (s : State) (g : Nat) (f : Group → Group) : (updG s g f).ctxs = s.ctxs := rfl
@[simp] theorem updG_tlb (s : State) (g : Nat) (f : Group → Group) : (updG s g f).tlb = s.tlb := rfl
@[simp] theorem updG_code (s : State) (g : Nat) (f : Group → Group) : (updG s g f).code = s.code := rfl
@[simp] theorem updG_pins (s : State) (g : Nat) (f : Group → Group) : (updG s g f).pins = s.pins := rfl
@[simp] theorem updG_exts (s : State) (g : Nat) (f : Group → Group) : (updG s g f).exts = s.exts := rfl
@[simp] theorem updG_bad (s : State) (g : Nat) (f : Group → Group) : (updG s g f).bad = s.bad := rfl
@[simp] theorem updG_fq (s : State) (g : Nat) (f : Group → Group) : (updG s g f).fq = s.fq := rfl
@[simp] theorem updG_fring (s : State) (g : Nat) (f : Group → Group) : (updG s g f).fring = s.fring := rfl
@[simp] theorem updG_vring (s : State) (g : Nat) (f : Group → Group) : (updG s g f).vring = s.vring := rfl
@[simp] theorem updG_lring (s : State) (g : Nat) (f : Group → Group) : (updG s g f).lring = s.lring := rfl
@[simp] theorem updG_faq (s : State) (g : Nat) (f : Group → Group) : (updG s g f).faq = s.faq := rfl
@[simp] theorem updG_faqHead (s : State) (g : Nat) (f : Group → Group) : (updG s g f).faqHead = s.faqHead := rfl
@[simp] theorem updG_faqTail (s : State) (g : Nat) (f : Group → Group) : (updG s g f).faqTail = s.faqTail := rfl
@[simp] theorem updG_faqOvf (s : State) (g : Nat) (f : Group → Group) : (updG s g f).faqOvf = s.faqOvf := rfl
@[simp] theorem updG_msix (s : State) (g : Nat) (f : Group → Group) : (updG s g f).msix = s.msix := rfl
@[simp] theorem updG_msixTab (s : State) (g : Nat) (f : Group → Group) : (updG s g f).msixTab = s.msixTab := rfl
@[simp] theorem updG_txw (s : State) (g : Nat) (f : Group → Group) : (updG s g f).txw = s.txw := rfl
@[simp] theorem updG_rxw (s : State) (g : Nat) (f : Group → Group) : (updG s g f).rxw = s.rxw := rfl
@[simp] theorem updG_migs (s : State) (g : Nat) (f : Group → Group) : (updG s g f).migs = s.migs := rfl
@[simp] theorem updG_tceq (s : State) (g : Nat) (f : Group → Group) : (updG s g f).tceq = s.tceq := rfl
@[simp] theorem updG_refl (s : State) (g : Nat) (f : Group → Group) : (updG s g f).refl = s.refl := rfl
@[simp] theorem updG_rep (s : State) (g : Nat) (f : Group → Group) : (updG s g f).rep = s.rep := rfl
@[simp] theorem updG_paths (s : State) (g : Nat) (f : Group → Group) : (updG s g f).paths = s.paths := rfl
@[simp] theorem updG_rxq (s : State) (g : Nat) (f : Group → Group) : (updG s g f).rxq = s.rxq := rfl
@[simp] theorem updG_mcast (s : State) (g : Nat) (f : Group → Group) : (updG s g f).mcast = s.mcast := rfl
@[simp] theorem updG_keys (s : State) (g : Nat) (f : Group → Group) : (updG s g f).keys = s.keys := rfl
@[simp] theorem updG_subs (s : State) (g : Nat) (f : Group → Group) : (updG s g f).subs = s.subs := rfl
@[simp] theorem updG_evBad (s : State) (g : Nat) (f : Group → Group) : (updG s g f).evBad = s.evBad := rfl
@[simp] theorem updG_mirrors (s : State) (g : Nat) (f : Group → Group) : (updG s g f).mirrors = s.mirrors := rfl
@[simp] theorem updG_invs (s : State) (g : Nat) (f : Group → Group) : (updG s g f).invs = s.invs := rfl
@[simp] theorem updG_streams (s : State) (g : Nat) (f : Group → Group) : (updG s g f).streams = s.streams := rfl
@[simp] theorem updG_recon (s : State) (g : Nat) (f : Group → Group) : (updG s g f).recon = s.recon := rfl
@[simp] theorem updG_ops (s : State) (g : Nat) (f : Group → Group) : (updG s g f).ops = s.ops := rfl
@[simp] theorem updG_pops (s : State) (g : Nat) (f : Group → Group) : (updG s g f).pops = s.pops := rfl
@[simp] theorem updG_away (s : State) (g : Nat) (f : Group → Group) : (updG s g f).away = s.away := rfl
@[simp] theorem updG_tokq (s : State) (g : Nat) (f : Group → Group) : (updG s g f).tokq = s.tokq := rfl
@[simp] theorem updG_pool (s : State) (g : Nat) (f : Group → Group) : (updG s g f).pool = s.pool := rfl
@[simp] theorem updG_grant (s : State) (g : Nat) (f : Group → Group) : (updG s g f).grant = s.grant := rfl
@[simp] theorem updG_share (s : State) (g : Nat) (f : Group → Group) : (updG s g f).share = s.share := rfl
@[simp] theorem updG_mbox (s : State) (g : Nat) (f : Group → Group) : (updG s g f).mbox = s.mbox := rfl
@[simp] theorem updG_placeOff (s : State) (g : Nat) (f : Group → Group) : (updG s g f).placeOff = s.placeOff := rfl
@[simp] theorem updG_strq (s : State) (g : Nat) (f : Group → Group) : (updG s g f).strq = s.strq := rfl
@[simp] theorem updG_lbmax (s : State) (g : Nat) (f : Group → Group) : (updG s g f).lbmax = s.lbmax := rfl
@[simp] theorem updG_kvq (s : State) (g : Nat) (f : Group → Group) : (updG s g f).kvq = s.kvq := rfl
@[simp] theorem updG_ports (s : State) (g : Nat) (f : Group → Group) : (updG s g f).ports = s.ports := rfl
@[simp] theorem updG_hopKeys (s : State) (g : Nat) (f : Group → Group) : (updG s g f).hopKeys = s.hopKeys := rfl
@[simp] theorem updG_locs (s : State) (g : Nat) (f : Group → Group) : (updG s g f).locs = s.locs := rfl
@[simp] theorem updG_optq (s : State) (g : Nat) (f : Group → Group) : (updG s g f).optq = s.optq := rfl
@[simp] theorem updG_optw (s : State) (g : Nat) (f : Group → Group) : (updG s g f).optw = s.optw := rfl
@[simp] theorem updG_slotlen (s : State) (g : Nat) (f : Group → Group) : (updG s g f).slotlen = s.slotlen := rfl
@[simp] theorem updG_guard (s : State) (g : Nat) (f : Group → Group) : (updG s g f).guard = s.guard := rfl
@[simp] theorem updG_nslot (s : State) (g : Nat) (f : Group → Group) : (updG s g f).nslot = s.nslot := rfl
@[simp] theorem updG_swap (s : State) (g : Nat) (f : Group → Group) : (updG s g f).swap = s.swap := rfl
@[simp] theorem updG_slotEn (s : State) (g : Nat) (f : Group → Group) : (updG s g f).slotEn = s.slotEn := rfl
@[simp] theorem updG_epoch (s : State) (g : Nat) (f : Group → Group) : (updG s g f).epoch = s.epoch := rfl
@[simp] theorem updG_slotCur (s : State) (g : Nat) (f : Group → Group) : (updG s g f).slotCur = s.slotCur := rfl
@[simp] theorem updG_rot (s : State) (g : Nat) (f : Group → Group) : (updG s g f).rot = s.rot := rfl
@[simp] theorem updG_slotAct (s : State) (g : Nat) (f : Group → Group) : (updG s g f).slotAct = s.slotAct := rfl
@[simp] theorem updG_slotShd (s : State) (g : Nat) (f : Group → Group) : (updG s g f).slotShd = s.slotShd := rfl
@[simp] theorem updG_spent (s : State) (g : Nat) (f : Group → Group) : (updG s g f).spent = s.spent := rfl
@[simp] theorem updG_out (s : State) (g : Nat) (f : Group → Group) : (updG s g f).out = s.out := rfl
@[simp] theorem updG_fw (s : State) (g : Nat) (f : Group → Group) : (updG s g f).fw = s.fw := rfl
@[simp] theorem updG_lfcFrozen (s : State) (g : Nat) (f : Group → Group) : (updG s g f).lfcFrozen = s.lfcFrozen := rfl
@[simp] theorem updG_sram (s : State) (g : Nat) (f : Group → Group) : (updG s g f).sram = s.sram := rfl
@[simp] theorem updG_probes (s : State) (g : Nat) (f : Group → Group) : (updG s g f).probes = s.probes := rfl
@[simp] theorem updG_blocked (s : State) (g : Nat) (f : Group → Group) : (updG s g f).blocked = s.blocked := rfl
@[simp] theorem updG_reserve (s : State) (g : Nat) (f : Group → Group) : (updG s g f).reserve = s.reserve := rfl
@[simp] theorem updG_emerg (s : State) (g : Nat) (f : Group → Group) : (updG s g f).emerg = s.emerg := rfl
@[simp] theorem updG_pmc (s : State) (g : Nat) (f : Group → Group) : (updG s g f).pmc = s.pmc := rfl
@[simp] theorem updG_ptmo (s : State) (g : Nat) (f : Group → Group) : (updG s g f).ptmo = s.ptmo := rfl
@[simp] theorem updG_apbase (s : State) (g : Nat) (f : Group → Group) : (updG s g f).apbase = s.apbase := rfl
@[simp] theorem updG_cethr (s : State) (g : Nat) (f : Group → Group) : (updG s g f).cethr = s.cethr := rfl
@[simp] theorem updG_therm (s : State) (g : Nat) (f : Group → Group) : (updG s g f).therm = s.therm := rfl
@[simp] theorem updG_tjhot (s : State) (g : Nat) (f : Group → Group) : (updG s g f).tjhot = s.tjhot := rfl
@[simp] theorem updG_thstat (s : State) (g : Nat) (f : Group → Group) : (updG s g f).thstat = s.thstat := rfl
@[simp] theorem updG_lrcHold (s : State) (g : Nat) (f : Group → Group) : (updG s g f).lrcHold = s.lrcHold := rfl
@[simp] theorem updG_tripHold (s : State) (g : Nat) (f : Group → Group) : (updG s g f).tripHold = s.tripHold := rfl
@[simp] theorem updG_ecc (s : State) (g : Nat) (f : Group → Group) : (updG s g f).ecc = s.ecc := rfl
@[simp] theorem updG_bfstat (s : State) (g : Nat) (f : Group → Group) : (updG s g f).bfstat = s.bfstat := rfl
@[simp] theorem updG_scrubPend (s : State) (g : Nat) (f : Group → Group) : (updG s g f).scrubPend = s.scrubPend := rfl
@[simp] theorem updG_svn (s : State) (g : Nat) (f : Group → Group) : (updG s g f).svn = s.svn := rfl
@[simp] theorem updG_reqcnt (s : State) (g : Nat) (f : Group → Group) : (updG s g f).reqcnt = s.reqcnt := rfl
@[simp] theorem updG_lrcStart (s : State) (g : Nat) (f : Group → Group) : (updG s g f).lrcStart = s.lrcStart := rfl
@[simp] theorem updG_nonce (s : State) (g : Nat) (f : Group → Group) : (updG s g f).nonce = s.nonce := rfl
@[simp] theorem updG_lrcNonce (s : State) (g : Nat) (f : Group → Group) : (updG s g f).lrcNonce = s.lrcNonce := rfl
@[simp] theorem updG_scrubRec (s : State) (g : Nat) (f : Group → Group) : (updG s g f).scrubRec = s.scrubRec := rfl
@[simp] theorem updG_tenantKey (s : State) (g : Nat) (f : Group → Group) : (updG s g f).tenantKey = s.tenantKey := rfl
@[simp] theorem updG_manHash (s : State) (g : Nat) (f : Group → Group) : (updG s g f).manHash = s.manHash := rfl
@[simp] theorem updG_lfcHash (s : State) (g : Nat) (f : Group → Group) : (updG s g f).lfcHash = s.lfcHash := rfl
@[simp] theorem updG_image (s : State) (g : Nat) (f : Group → Group) : (updG s g f).image = s.image := rfl
@[simp] theorem updG_lfcUp (s : State) (g : Nat) (f : Group → Group) : (updG s g f).lfcUp = s.lfcUp := rfl
@[simp] theorem updG_i3c (s : State) (g : Nat) (f : Group → Group) : (updG s g f).i3c = s.i3c := rfl
@[simp] theorem updG_eid (s : State) (g : Nat) (f : Group → Group) : (updG s g f).eid = s.eid := rfl
@[simp] theorem updG_spdmVer (s : State) (g : Nat) (f : Group → Group) : (updG s g f).spdmVer = s.spdmVer := rfl
@[simp] theorem updG_spdmAlg (s : State) (g : Nat) (f : Group → Group) : (updG s g f).spdmAlg = s.spdmAlg := rfl
@[simp] theorem updG_session (s : State) (g : Nat) (f : Group → Group) : (updG s g f).session = s.session := rfl
@[simp] theorem updG_mgmt (s : State) (g : Nat) (f : Group → Group) : (updG s g f).mgmt = s.mgmt := rfl
@[simp] theorem updG_chunkIn (s : State) (g : Nat) (f : Group → Group) : (updG s g f).chunkIn = s.chunkIn := rfl
@[simp] theorem updG_chunkNext (s : State) (g : Nat) (f : Group → Group) : (updG s g f).chunkNext = s.chunkNext := rfl
@[simp] theorem updG_chunkOut (s : State) (g : Nat) (f : Group → Group) : (updG s g f).chunkOut = s.chunkOut := rfl

@[simp] theorem updB_gt (s : State) (b : Nat) (f : Block → Block) : (updB s b f).gt = s.gt := rfl
@[simp] theorem updB_fresh (s : State) (b : Nat) (f : Block → Block) : (updB s b f).fresh = s.fresh := rfl
@[simp] theorem updB_agenda (s : State) (b : Nat) (f : Block → Block) : (updB s b f).agenda = s.agenda := rfl
@[simp] theorem updB_curG (s : State) (b : Nat) (f : Block → Block) : (updB s b f).curG = s.curG := rfl
@[simp] theorem updB_curF (s : State) (b : Nat) (f : Block → Block) : (updB s b f).curF = s.curF := rfl
@[simp] theorem updB_nextId (s : State) (b : Nat) (f : Block → Block) : (updB s b f).nextId = s.nextId := rfl
@[simp] theorem updB_power (s : State) (b : Nat) (f : Block → Block) : (updB s b f).power = s.power := rfl
@[simp] theorem updB_chip (s : State) (b : Nat) (f : Block → Block) : (updB s b f).chip = s.chip := rfl
@[simp] theorem updB_mem (s : State) (b : Nat) (f : Block → Block) : (updB s b f).mem = s.mem := rfl
@[simp] theorem updB_ls (s : State) (b : Nat) (f : Block → Block) : (updB s b f).ls = s.ls := rfl
@[simp] theorem updB_banks (s : State) (b : Nat) (f : Block → Block) : (updB s b f).banks = s.banks := rfl
@[simp] theorem updB_l1 (s : State) (b : Nat) (f : Block → Block) : (updB s b f).l1 = s.l1 := rfl
@[simp] theorem updB_l2 (s : State) (b : Nat) (f : Block → Block) : (updB s b f).l2 = s.l2 := rfl
@[simp] theorem updB_evmax (s : State) (b : Nat) (f : Block → Block) : (updB s b f).evmax = s.evmax := rfl
@[simp] theorem updB_hw (s : State) (b : Nat) (f : Block → Block) : (updB s b f).hw = s.hw := rfl
@[simp] theorem updB_hostq (s : State) (b : Nat) (f : Block → Block) : (updB s b f).hostq = s.hostq := rfl
@[simp] theorem updB_hostT (s : State) (b : Nat) (f : Block → Block) : (updB s b f).hostT = s.hostT := rfl
@[simp] theorem updB_groups (s : State) (b : Nat) (f : Block → Block) : (updB s b f).groups = s.groups := rfl
@[simp] theorem updB_viols (s : State) (b : Nat) (f : Block → Block) : (updB s b f).viols = s.viols := rfl
@[simp] theorem updB_rdvs (s : State) (b : Nat) (f : Block → Block) : (updB s b f).rdvs = s.rdvs := rfl
@[simp] theorem updB_mxq (s : State) (b : Nat) (f : Block → Block) : (updB s b f).mxq = s.mxq := rfl
@[simp] theorem updB_rows (s : State) (b : Nat) (f : Block → Block) : (updB s b f).rows = s.rows := rfl
@[simp] theorem updB_ctxs (s : State) (b : Nat) (f : Block → Block) : (updB s b f).ctxs = s.ctxs := rfl
@[simp] theorem updB_tlb (s : State) (b : Nat) (f : Block → Block) : (updB s b f).tlb = s.tlb := rfl
@[simp] theorem updB_code (s : State) (b : Nat) (f : Block → Block) : (updB s b f).code = s.code := rfl
@[simp] theorem updB_pins (s : State) (b : Nat) (f : Block → Block) : (updB s b f).pins = s.pins := rfl
@[simp] theorem updB_exts (s : State) (b : Nat) (f : Block → Block) : (updB s b f).exts = s.exts := rfl
@[simp] theorem updB_bad (s : State) (b : Nat) (f : Block → Block) : (updB s b f).bad = s.bad := rfl
@[simp] theorem updB_fq (s : State) (b : Nat) (f : Block → Block) : (updB s b f).fq = s.fq := rfl
@[simp] theorem updB_fring (s : State) (b : Nat) (f : Block → Block) : (updB s b f).fring = s.fring := rfl
@[simp] theorem updB_vring (s : State) (b : Nat) (f : Block → Block) : (updB s b f).vring = s.vring := rfl
@[simp] theorem updB_lring (s : State) (b : Nat) (f : Block → Block) : (updB s b f).lring = s.lring := rfl
@[simp] theorem updB_faq (s : State) (b : Nat) (f : Block → Block) : (updB s b f).faq = s.faq := rfl
@[simp] theorem updB_faqHead (s : State) (b : Nat) (f : Block → Block) : (updB s b f).faqHead = s.faqHead := rfl
@[simp] theorem updB_faqTail (s : State) (b : Nat) (f : Block → Block) : (updB s b f).faqTail = s.faqTail := rfl
@[simp] theorem updB_faqOvf (s : State) (b : Nat) (f : Block → Block) : (updB s b f).faqOvf = s.faqOvf := rfl
@[simp] theorem updB_msix (s : State) (b : Nat) (f : Block → Block) : (updB s b f).msix = s.msix := rfl
@[simp] theorem updB_msixTab (s : State) (b : Nat) (f : Block → Block) : (updB s b f).msixTab = s.msixTab := rfl
@[simp] theorem updB_txw (s : State) (b : Nat) (f : Block → Block) : (updB s b f).txw = s.txw := rfl
@[simp] theorem updB_rxw (s : State) (b : Nat) (f : Block → Block) : (updB s b f).rxw = s.rxw := rfl
@[simp] theorem updB_migs (s : State) (b : Nat) (f : Block → Block) : (updB s b f).migs = s.migs := rfl
@[simp] theorem updB_tceq (s : State) (b : Nat) (f : Block → Block) : (updB s b f).tceq = s.tceq := rfl
@[simp] theorem updB_refl (s : State) (b : Nat) (f : Block → Block) : (updB s b f).refl = s.refl := rfl
@[simp] theorem updB_rep (s : State) (b : Nat) (f : Block → Block) : (updB s b f).rep = s.rep := rfl
@[simp] theorem updB_paths (s : State) (b : Nat) (f : Block → Block) : (updB s b f).paths = s.paths := rfl
@[simp] theorem updB_rxq (s : State) (b : Nat) (f : Block → Block) : (updB s b f).rxq = s.rxq := rfl
@[simp] theorem updB_mcast (s : State) (b : Nat) (f : Block → Block) : (updB s b f).mcast = s.mcast := rfl
@[simp] theorem updB_keys (s : State) (b : Nat) (f : Block → Block) : (updB s b f).keys = s.keys := rfl
@[simp] theorem updB_subs (s : State) (b : Nat) (f : Block → Block) : (updB s b f).subs = s.subs := rfl
@[simp] theorem updB_evBad (s : State) (b : Nat) (f : Block → Block) : (updB s b f).evBad = s.evBad := rfl
@[simp] theorem updB_mirrors (s : State) (b : Nat) (f : Block → Block) : (updB s b f).mirrors = s.mirrors := rfl
@[simp] theorem updB_invs (s : State) (b : Nat) (f : Block → Block) : (updB s b f).invs = s.invs := rfl
@[simp] theorem updB_streams (s : State) (b : Nat) (f : Block → Block) : (updB s b f).streams = s.streams := rfl
@[simp] theorem updB_recon (s : State) (b : Nat) (f : Block → Block) : (updB s b f).recon = s.recon := rfl
@[simp] theorem updB_ops (s : State) (b : Nat) (f : Block → Block) : (updB s b f).ops = s.ops := rfl
@[simp] theorem updB_pops (s : State) (b : Nat) (f : Block → Block) : (updB s b f).pops = s.pops := rfl
@[simp] theorem updB_away (s : State) (b : Nat) (f : Block → Block) : (updB s b f).away = s.away := rfl
@[simp] theorem updB_tokq (s : State) (b : Nat) (f : Block → Block) : (updB s b f).tokq = s.tokq := rfl
@[simp] theorem updB_pool (s : State) (b : Nat) (f : Block → Block) : (updB s b f).pool = s.pool := rfl
@[simp] theorem updB_grant (s : State) (b : Nat) (f : Block → Block) : (updB s b f).grant = s.grant := rfl
@[simp] theorem updB_share (s : State) (b : Nat) (f : Block → Block) : (updB s b f).share = s.share := rfl
@[simp] theorem updB_mbox (s : State) (b : Nat) (f : Block → Block) : (updB s b f).mbox = s.mbox := rfl
@[simp] theorem updB_placeOff (s : State) (b : Nat) (f : Block → Block) : (updB s b f).placeOff = s.placeOff := rfl
@[simp] theorem updB_strq (s : State) (b : Nat) (f : Block → Block) : (updB s b f).strq = s.strq := rfl
@[simp] theorem updB_lbmax (s : State) (b : Nat) (f : Block → Block) : (updB s b f).lbmax = s.lbmax := rfl
@[simp] theorem updB_kvq (s : State) (b : Nat) (f : Block → Block) : (updB s b f).kvq = s.kvq := rfl
@[simp] theorem updB_ports (s : State) (b : Nat) (f : Block → Block) : (updB s b f).ports = s.ports := rfl
@[simp] theorem updB_hopKeys (s : State) (b : Nat) (f : Block → Block) : (updB s b f).hopKeys = s.hopKeys := rfl
@[simp] theorem updB_locs (s : State) (b : Nat) (f : Block → Block) : (updB s b f).locs = s.locs := rfl
@[simp] theorem updB_optq (s : State) (b : Nat) (f : Block → Block) : (updB s b f).optq = s.optq := rfl
@[simp] theorem updB_optw (s : State) (b : Nat) (f : Block → Block) : (updB s b f).optw = s.optw := rfl
@[simp] theorem updB_slotlen (s : State) (b : Nat) (f : Block → Block) : (updB s b f).slotlen = s.slotlen := rfl
@[simp] theorem updB_guard (s : State) (b : Nat) (f : Block → Block) : (updB s b f).guard = s.guard := rfl
@[simp] theorem updB_nslot (s : State) (b : Nat) (f : Block → Block) : (updB s b f).nslot = s.nslot := rfl
@[simp] theorem updB_swap (s : State) (b : Nat) (f : Block → Block) : (updB s b f).swap = s.swap := rfl
@[simp] theorem updB_slotEn (s : State) (b : Nat) (f : Block → Block) : (updB s b f).slotEn = s.slotEn := rfl
@[simp] theorem updB_epoch (s : State) (b : Nat) (f : Block → Block) : (updB s b f).epoch = s.epoch := rfl
@[simp] theorem updB_slotCur (s : State) (b : Nat) (f : Block → Block) : (updB s b f).slotCur = s.slotCur := rfl
@[simp] theorem updB_rot (s : State) (b : Nat) (f : Block → Block) : (updB s b f).rot = s.rot := rfl
@[simp] theorem updB_slotAct (s : State) (b : Nat) (f : Block → Block) : (updB s b f).slotAct = s.slotAct := rfl
@[simp] theorem updB_slotShd (s : State) (b : Nat) (f : Block → Block) : (updB s b f).slotShd = s.slotShd := rfl
@[simp] theorem updB_spent (s : State) (b : Nat) (f : Block → Block) : (updB s b f).spent = s.spent := rfl
@[simp] theorem updB_out (s : State) (b : Nat) (f : Block → Block) : (updB s b f).out = s.out := rfl
@[simp] theorem updB_fw (s : State) (b : Nat) (f : Block → Block) : (updB s b f).fw = s.fw := rfl
@[simp] theorem updB_lfcFrozen (s : State) (b : Nat) (f : Block → Block) : (updB s b f).lfcFrozen = s.lfcFrozen := rfl
@[simp] theorem updB_sram (s : State) (b : Nat) (f : Block → Block) : (updB s b f).sram = s.sram := rfl
@[simp] theorem updB_probes (s : State) (b : Nat) (f : Block → Block) : (updB s b f).probes = s.probes := rfl
@[simp] theorem updB_blocked (s : State) (b : Nat) (f : Block → Block) : (updB s b f).blocked = s.blocked := rfl
@[simp] theorem updB_reserve (s : State) (b : Nat) (f : Block → Block) : (updB s b f).reserve = s.reserve := rfl
@[simp] theorem updB_emerg (s : State) (b : Nat) (f : Block → Block) : (updB s b f).emerg = s.emerg := rfl
@[simp] theorem updB_pmc (s : State) (b : Nat) (f : Block → Block) : (updB s b f).pmc = s.pmc := rfl
@[simp] theorem updB_ptmo (s : State) (b : Nat) (f : Block → Block) : (updB s b f).ptmo = s.ptmo := rfl
@[simp] theorem updB_apbase (s : State) (b : Nat) (f : Block → Block) : (updB s b f).apbase = s.apbase := rfl
@[simp] theorem updB_cethr (s : State) (b : Nat) (f : Block → Block) : (updB s b f).cethr = s.cethr := rfl
@[simp] theorem updB_therm (s : State) (b : Nat) (f : Block → Block) : (updB s b f).therm = s.therm := rfl
@[simp] theorem updB_tjhot (s : State) (b : Nat) (f : Block → Block) : (updB s b f).tjhot = s.tjhot := rfl
@[simp] theorem updB_thstat (s : State) (b : Nat) (f : Block → Block) : (updB s b f).thstat = s.thstat := rfl
@[simp] theorem updB_lrcHold (s : State) (b : Nat) (f : Block → Block) : (updB s b f).lrcHold = s.lrcHold := rfl
@[simp] theorem updB_tripHold (s : State) (b : Nat) (f : Block → Block) : (updB s b f).tripHold = s.tripHold := rfl
@[simp] theorem updB_ecc (s : State) (b : Nat) (f : Block → Block) : (updB s b f).ecc = s.ecc := rfl
@[simp] theorem updB_bfstat (s : State) (b : Nat) (f : Block → Block) : (updB s b f).bfstat = s.bfstat := rfl
@[simp] theorem updB_scrubPend (s : State) (b : Nat) (f : Block → Block) : (updB s b f).scrubPend = s.scrubPend := rfl
@[simp] theorem updB_svn (s : State) (b : Nat) (f : Block → Block) : (updB s b f).svn = s.svn := rfl
@[simp] theorem updB_reqcnt (s : State) (b : Nat) (f : Block → Block) : (updB s b f).reqcnt = s.reqcnt := rfl
@[simp] theorem updB_lrcStart (s : State) (b : Nat) (f : Block → Block) : (updB s b f).lrcStart = s.lrcStart := rfl
@[simp] theorem updB_nonce (s : State) (b : Nat) (f : Block → Block) : (updB s b f).nonce = s.nonce := rfl
@[simp] theorem updB_lrcNonce (s : State) (b : Nat) (f : Block → Block) : (updB s b f).lrcNonce = s.lrcNonce := rfl
@[simp] theorem updB_scrubRec (s : State) (b : Nat) (f : Block → Block) : (updB s b f).scrubRec = s.scrubRec := rfl
@[simp] theorem updB_tenantKey (s : State) (b : Nat) (f : Block → Block) : (updB s b f).tenantKey = s.tenantKey := rfl
@[simp] theorem updB_manHash (s : State) (b : Nat) (f : Block → Block) : (updB s b f).manHash = s.manHash := rfl
@[simp] theorem updB_lfcHash (s : State) (b : Nat) (f : Block → Block) : (updB s b f).lfcHash = s.lfcHash := rfl
@[simp] theorem updB_image (s : State) (b : Nat) (f : Block → Block) : (updB s b f).image = s.image := rfl
@[simp] theorem updB_lfcUp (s : State) (b : Nat) (f : Block → Block) : (updB s b f).lfcUp = s.lfcUp := rfl
@[simp] theorem updB_i3c (s : State) (b : Nat) (f : Block → Block) : (updB s b f).i3c = s.i3c := rfl
@[simp] theorem updB_eid (s : State) (b : Nat) (f : Block → Block) : (updB s b f).eid = s.eid := rfl
@[simp] theorem updB_spdmVer (s : State) (b : Nat) (f : Block → Block) : (updB s b f).spdmVer = s.spdmVer := rfl
@[simp] theorem updB_spdmAlg (s : State) (b : Nat) (f : Block → Block) : (updB s b f).spdmAlg = s.spdmAlg := rfl
@[simp] theorem updB_session (s : State) (b : Nat) (f : Block → Block) : (updB s b f).session = s.session := rfl
@[simp] theorem updB_mgmt (s : State) (b : Nat) (f : Block → Block) : (updB s b f).mgmt = s.mgmt := rfl
@[simp] theorem updB_chunkIn (s : State) (b : Nat) (f : Block → Block) : (updB s b f).chunkIn = s.chunkIn := rfl
@[simp] theorem updB_chunkNext (s : State) (b : Nat) (f : Block → Block) : (updB s b f).chunkNext = s.chunkNext := rfl
@[simp] theorem updB_chunkOut (s : State) (b : Nat) (f : Block → Block) : (updB s b f).chunkOut = s.chunkOut := rfl

@[simp] theorem updCtx_gt (s : State) (c : Nat) (f : Ctx → Ctx) : (updCtx s c f).gt = s.gt := rfl
@[simp] theorem updCtx_fresh (s : State) (c : Nat) (f : Ctx → Ctx) : (updCtx s c f).fresh = s.fresh := rfl
@[simp] theorem updCtx_agenda (s : State) (c : Nat) (f : Ctx → Ctx) : (updCtx s c f).agenda = s.agenda := rfl
@[simp] theorem updCtx_curG (s : State) (c : Nat) (f : Ctx → Ctx) : (updCtx s c f).curG = s.curG := rfl
@[simp] theorem updCtx_curF (s : State) (c : Nat) (f : Ctx → Ctx) : (updCtx s c f).curF = s.curF := rfl
@[simp] theorem updCtx_nextId (s : State) (c : Nat) (f : Ctx → Ctx) : (updCtx s c f).nextId = s.nextId := rfl
@[simp] theorem updCtx_power (s : State) (c : Nat) (f : Ctx → Ctx) : (updCtx s c f).power = s.power := rfl
@[simp] theorem updCtx_chip (s : State) (c : Nat) (f : Ctx → Ctx) : (updCtx s c f).chip = s.chip := rfl
@[simp] theorem updCtx_mem (s : State) (c : Nat) (f : Ctx → Ctx) : (updCtx s c f).mem = s.mem := rfl
@[simp] theorem updCtx_ls (s : State) (c : Nat) (f : Ctx → Ctx) : (updCtx s c f).ls = s.ls := rfl
@[simp] theorem updCtx_banks (s : State) (c : Nat) (f : Ctx → Ctx) : (updCtx s c f).banks = s.banks := rfl
@[simp] theorem updCtx_l1 (s : State) (c : Nat) (f : Ctx → Ctx) : (updCtx s c f).l1 = s.l1 := rfl
@[simp] theorem updCtx_l2 (s : State) (c : Nat) (f : Ctx → Ctx) : (updCtx s c f).l2 = s.l2 := rfl
@[simp] theorem updCtx_evmax (s : State) (c : Nat) (f : Ctx → Ctx) : (updCtx s c f).evmax = s.evmax := rfl
@[simp] theorem updCtx_hw (s : State) (c : Nat) (f : Ctx → Ctx) : (updCtx s c f).hw = s.hw := rfl
@[simp] theorem updCtx_hostq (s : State) (c : Nat) (f : Ctx → Ctx) : (updCtx s c f).hostq = s.hostq := rfl
@[simp] theorem updCtx_hostT (s : State) (c : Nat) (f : Ctx → Ctx) : (updCtx s c f).hostT = s.hostT := rfl
@[simp] theorem updCtx_groups (s : State) (c : Nat) (f : Ctx → Ctx) : (updCtx s c f).groups = s.groups := rfl
@[simp] theorem updCtx_viols (s : State) (c : Nat) (f : Ctx → Ctx) : (updCtx s c f).viols = s.viols := rfl
@[simp] theorem updCtx_blocks (s : State) (c : Nat) (f : Ctx → Ctx) : (updCtx s c f).blocks = s.blocks := rfl
@[simp] theorem updCtx_rdvs (s : State) (c : Nat) (f : Ctx → Ctx) : (updCtx s c f).rdvs = s.rdvs := rfl
@[simp] theorem updCtx_mxq (s : State) (c : Nat) (f : Ctx → Ctx) : (updCtx s c f).mxq = s.mxq := rfl
@[simp] theorem updCtx_rows (s : State) (c : Nat) (f : Ctx → Ctx) : (updCtx s c f).rows = s.rows := rfl
@[simp] theorem updCtx_tlb (s : State) (c : Nat) (f : Ctx → Ctx) : (updCtx s c f).tlb = s.tlb := rfl
@[simp] theorem updCtx_code (s : State) (c : Nat) (f : Ctx → Ctx) : (updCtx s c f).code = s.code := rfl
@[simp] theorem updCtx_pins (s : State) (c : Nat) (f : Ctx → Ctx) : (updCtx s c f).pins = s.pins := rfl
@[simp] theorem updCtx_exts (s : State) (c : Nat) (f : Ctx → Ctx) : (updCtx s c f).exts = s.exts := rfl
@[simp] theorem updCtx_bad (s : State) (c : Nat) (f : Ctx → Ctx) : (updCtx s c f).bad = s.bad := rfl
@[simp] theorem updCtx_fq (s : State) (c : Nat) (f : Ctx → Ctx) : (updCtx s c f).fq = s.fq := rfl
@[simp] theorem updCtx_fring (s : State) (c : Nat) (f : Ctx → Ctx) : (updCtx s c f).fring = s.fring := rfl
@[simp] theorem updCtx_vring (s : State) (c : Nat) (f : Ctx → Ctx) : (updCtx s c f).vring = s.vring := rfl
@[simp] theorem updCtx_lring (s : State) (c : Nat) (f : Ctx → Ctx) : (updCtx s c f).lring = s.lring := rfl
@[simp] theorem updCtx_faq (s : State) (c : Nat) (f : Ctx → Ctx) : (updCtx s c f).faq = s.faq := rfl
@[simp] theorem updCtx_faqHead (s : State) (c : Nat) (f : Ctx → Ctx) : (updCtx s c f).faqHead = s.faqHead := rfl
@[simp] theorem updCtx_faqTail (s : State) (c : Nat) (f : Ctx → Ctx) : (updCtx s c f).faqTail = s.faqTail := rfl
@[simp] theorem updCtx_faqOvf (s : State) (c : Nat) (f : Ctx → Ctx) : (updCtx s c f).faqOvf = s.faqOvf := rfl
@[simp] theorem updCtx_msix (s : State) (c : Nat) (f : Ctx → Ctx) : (updCtx s c f).msix = s.msix := rfl
@[simp] theorem updCtx_msixTab (s : State) (c : Nat) (f : Ctx → Ctx) : (updCtx s c f).msixTab = s.msixTab := rfl
@[simp] theorem updCtx_txw (s : State) (c : Nat) (f : Ctx → Ctx) : (updCtx s c f).txw = s.txw := rfl
@[simp] theorem updCtx_rxw (s : State) (c : Nat) (f : Ctx → Ctx) : (updCtx s c f).rxw = s.rxw := rfl
@[simp] theorem updCtx_migs (s : State) (c : Nat) (f : Ctx → Ctx) : (updCtx s c f).migs = s.migs := rfl
@[simp] theorem updCtx_tceq (s : State) (c : Nat) (f : Ctx → Ctx) : (updCtx s c f).tceq = s.tceq := rfl
@[simp] theorem updCtx_refl (s : State) (c : Nat) (f : Ctx → Ctx) : (updCtx s c f).refl = s.refl := rfl
@[simp] theorem updCtx_rep (s : State) (c : Nat) (f : Ctx → Ctx) : (updCtx s c f).rep = s.rep := rfl
@[simp] theorem updCtx_paths (s : State) (c : Nat) (f : Ctx → Ctx) : (updCtx s c f).paths = s.paths := rfl
@[simp] theorem updCtx_rxq (s : State) (c : Nat) (f : Ctx → Ctx) : (updCtx s c f).rxq = s.rxq := rfl
@[simp] theorem updCtx_mcast (s : State) (c : Nat) (f : Ctx → Ctx) : (updCtx s c f).mcast = s.mcast := rfl
@[simp] theorem updCtx_keys (s : State) (c : Nat) (f : Ctx → Ctx) : (updCtx s c f).keys = s.keys := rfl
@[simp] theorem updCtx_subs (s : State) (c : Nat) (f : Ctx → Ctx) : (updCtx s c f).subs = s.subs := rfl
@[simp] theorem updCtx_evBad (s : State) (c : Nat) (f : Ctx → Ctx) : (updCtx s c f).evBad = s.evBad := rfl
@[simp] theorem updCtx_mirrors (s : State) (c : Nat) (f : Ctx → Ctx) : (updCtx s c f).mirrors = s.mirrors := rfl
@[simp] theorem updCtx_invs (s : State) (c : Nat) (f : Ctx → Ctx) : (updCtx s c f).invs = s.invs := rfl
@[simp] theorem updCtx_streams (s : State) (c : Nat) (f : Ctx → Ctx) : (updCtx s c f).streams = s.streams := rfl
@[simp] theorem updCtx_recon (s : State) (c : Nat) (f : Ctx → Ctx) : (updCtx s c f).recon = s.recon := rfl
@[simp] theorem updCtx_ops (s : State) (c : Nat) (f : Ctx → Ctx) : (updCtx s c f).ops = s.ops := rfl
@[simp] theorem updCtx_pops (s : State) (c : Nat) (f : Ctx → Ctx) : (updCtx s c f).pops = s.pops := rfl
@[simp] theorem updCtx_away (s : State) (c : Nat) (f : Ctx → Ctx) : (updCtx s c f).away = s.away := rfl
@[simp] theorem updCtx_tokq (s : State) (c : Nat) (f : Ctx → Ctx) : (updCtx s c f).tokq = s.tokq := rfl
@[simp] theorem updCtx_pool (s : State) (c : Nat) (f : Ctx → Ctx) : (updCtx s c f).pool = s.pool := rfl
@[simp] theorem updCtx_grant (s : State) (c : Nat) (f : Ctx → Ctx) : (updCtx s c f).grant = s.grant := rfl
@[simp] theorem updCtx_share (s : State) (c : Nat) (f : Ctx → Ctx) : (updCtx s c f).share = s.share := rfl
@[simp] theorem updCtx_mbox (s : State) (c : Nat) (f : Ctx → Ctx) : (updCtx s c f).mbox = s.mbox := rfl
@[simp] theorem updCtx_placeOff (s : State) (c : Nat) (f : Ctx → Ctx) : (updCtx s c f).placeOff = s.placeOff := rfl
@[simp] theorem updCtx_strq (s : State) (c : Nat) (f : Ctx → Ctx) : (updCtx s c f).strq = s.strq := rfl
@[simp] theorem updCtx_lbmax (s : State) (c : Nat) (f : Ctx → Ctx) : (updCtx s c f).lbmax = s.lbmax := rfl
@[simp] theorem updCtx_kvq (s : State) (c : Nat) (f : Ctx → Ctx) : (updCtx s c f).kvq = s.kvq := rfl
@[simp] theorem updCtx_ports (s : State) (c : Nat) (f : Ctx → Ctx) : (updCtx s c f).ports = s.ports := rfl
@[simp] theorem updCtx_hopKeys (s : State) (c : Nat) (f : Ctx → Ctx) : (updCtx s c f).hopKeys = s.hopKeys := rfl
@[simp] theorem updCtx_locs (s : State) (c : Nat) (f : Ctx → Ctx) : (updCtx s c f).locs = s.locs := rfl
@[simp] theorem updCtx_optq (s : State) (c : Nat) (f : Ctx → Ctx) : (updCtx s c f).optq = s.optq := rfl
@[simp] theorem updCtx_optw (s : State) (c : Nat) (f : Ctx → Ctx) : (updCtx s c f).optw = s.optw := rfl
@[simp] theorem updCtx_slotlen (s : State) (c : Nat) (f : Ctx → Ctx) : (updCtx s c f).slotlen = s.slotlen := rfl
@[simp] theorem updCtx_guard (s : State) (c : Nat) (f : Ctx → Ctx) : (updCtx s c f).guard = s.guard := rfl
@[simp] theorem updCtx_nslot (s : State) (c : Nat) (f : Ctx → Ctx) : (updCtx s c f).nslot = s.nslot := rfl
@[simp] theorem updCtx_swap (s : State) (c : Nat) (f : Ctx → Ctx) : (updCtx s c f).swap = s.swap := rfl
@[simp] theorem updCtx_slotEn (s : State) (c : Nat) (f : Ctx → Ctx) : (updCtx s c f).slotEn = s.slotEn := rfl
@[simp] theorem updCtx_epoch (s : State) (c : Nat) (f : Ctx → Ctx) : (updCtx s c f).epoch = s.epoch := rfl
@[simp] theorem updCtx_slotCur (s : State) (c : Nat) (f : Ctx → Ctx) : (updCtx s c f).slotCur = s.slotCur := rfl
@[simp] theorem updCtx_rot (s : State) (c : Nat) (f : Ctx → Ctx) : (updCtx s c f).rot = s.rot := rfl
@[simp] theorem updCtx_slotAct (s : State) (c : Nat) (f : Ctx → Ctx) : (updCtx s c f).slotAct = s.slotAct := rfl
@[simp] theorem updCtx_slotShd (s : State) (c : Nat) (f : Ctx → Ctx) : (updCtx s c f).slotShd = s.slotShd := rfl
@[simp] theorem updCtx_spent (s : State) (c : Nat) (f : Ctx → Ctx) : (updCtx s c f).spent = s.spent := rfl
@[simp] theorem updCtx_out (s : State) (c : Nat) (f : Ctx → Ctx) : (updCtx s c f).out = s.out := rfl
@[simp] theorem updCtx_fw (s : State) (c : Nat) (f : Ctx → Ctx) : (updCtx s c f).fw = s.fw := rfl
@[simp] theorem updCtx_lfcFrozen (s : State) (c : Nat) (f : Ctx → Ctx) : (updCtx s c f).lfcFrozen = s.lfcFrozen := rfl
@[simp] theorem updCtx_sram (s : State) (c : Nat) (f : Ctx → Ctx) : (updCtx s c f).sram = s.sram := rfl
@[simp] theorem updCtx_probes (s : State) (c : Nat) (f : Ctx → Ctx) : (updCtx s c f).probes = s.probes := rfl
@[simp] theorem updCtx_blocked (s : State) (c : Nat) (f : Ctx → Ctx) : (updCtx s c f).blocked = s.blocked := rfl
@[simp] theorem updCtx_reserve (s : State) (c : Nat) (f : Ctx → Ctx) : (updCtx s c f).reserve = s.reserve := rfl
@[simp] theorem updCtx_emerg (s : State) (c : Nat) (f : Ctx → Ctx) : (updCtx s c f).emerg = s.emerg := rfl
@[simp] theorem updCtx_pmc (s : State) (c : Nat) (f : Ctx → Ctx) : (updCtx s c f).pmc = s.pmc := rfl
@[simp] theorem updCtx_ptmo (s : State) (c : Nat) (f : Ctx → Ctx) : (updCtx s c f).ptmo = s.ptmo := rfl
@[simp] theorem updCtx_apbase (s : State) (c : Nat) (f : Ctx → Ctx) : (updCtx s c f).apbase = s.apbase := rfl
@[simp] theorem updCtx_cethr (s : State) (c : Nat) (f : Ctx → Ctx) : (updCtx s c f).cethr = s.cethr := rfl
@[simp] theorem updCtx_therm (s : State) (c : Nat) (f : Ctx → Ctx) : (updCtx s c f).therm = s.therm := rfl
@[simp] theorem updCtx_tjhot (s : State) (c : Nat) (f : Ctx → Ctx) : (updCtx s c f).tjhot = s.tjhot := rfl
@[simp] theorem updCtx_thstat (s : State) (c : Nat) (f : Ctx → Ctx) : (updCtx s c f).thstat = s.thstat := rfl
@[simp] theorem updCtx_lrcHold (s : State) (c : Nat) (f : Ctx → Ctx) : (updCtx s c f).lrcHold = s.lrcHold := rfl
@[simp] theorem updCtx_tripHold (s : State) (c : Nat) (f : Ctx → Ctx) : (updCtx s c f).tripHold = s.tripHold := rfl
@[simp] theorem updCtx_ecc (s : State) (c : Nat) (f : Ctx → Ctx) : (updCtx s c f).ecc = s.ecc := rfl
@[simp] theorem updCtx_bfstat (s : State) (c : Nat) (f : Ctx → Ctx) : (updCtx s c f).bfstat = s.bfstat := rfl
@[simp] theorem updCtx_scrubPend (s : State) (c : Nat) (f : Ctx → Ctx) : (updCtx s c f).scrubPend = s.scrubPend := rfl
@[simp] theorem updCtx_svn (s : State) (c : Nat) (f : Ctx → Ctx) : (updCtx s c f).svn = s.svn := rfl
@[simp] theorem updCtx_reqcnt (s : State) (c : Nat) (f : Ctx → Ctx) : (updCtx s c f).reqcnt = s.reqcnt := rfl
@[simp] theorem updCtx_lrcStart (s : State) (c : Nat) (f : Ctx → Ctx) : (updCtx s c f).lrcStart = s.lrcStart := rfl
@[simp] theorem updCtx_nonce (s : State) (c : Nat) (f : Ctx → Ctx) : (updCtx s c f).nonce = s.nonce := rfl
@[simp] theorem updCtx_lrcNonce (s : State) (c : Nat) (f : Ctx → Ctx) : (updCtx s c f).lrcNonce = s.lrcNonce := rfl
@[simp] theorem updCtx_scrubRec (s : State) (c : Nat) (f : Ctx → Ctx) : (updCtx s c f).scrubRec = s.scrubRec := rfl
@[simp] theorem updCtx_tenantKey (s : State) (c : Nat) (f : Ctx → Ctx) : (updCtx s c f).tenantKey = s.tenantKey := rfl
@[simp] theorem updCtx_manHash (s : State) (c : Nat) (f : Ctx → Ctx) : (updCtx s c f).manHash = s.manHash := rfl
@[simp] theorem updCtx_lfcHash (s : State) (c : Nat) (f : Ctx → Ctx) : (updCtx s c f).lfcHash = s.lfcHash := rfl
@[simp] theorem updCtx_image (s : State) (c : Nat) (f : Ctx → Ctx) : (updCtx s c f).image = s.image := rfl
@[simp] theorem updCtx_lfcUp (s : State) (c : Nat) (f : Ctx → Ctx) : (updCtx s c f).lfcUp = s.lfcUp := rfl
@[simp] theorem updCtx_i3c (s : State) (c : Nat) (f : Ctx → Ctx) : (updCtx s c f).i3c = s.i3c := rfl
@[simp] theorem updCtx_eid (s : State) (c : Nat) (f : Ctx → Ctx) : (updCtx s c f).eid = s.eid := rfl
@[simp] theorem updCtx_spdmVer (s : State) (c : Nat) (f : Ctx → Ctx) : (updCtx s c f).spdmVer = s.spdmVer := rfl
@[simp] theorem updCtx_spdmAlg (s : State) (c : Nat) (f : Ctx → Ctx) : (updCtx s c f).spdmAlg = s.spdmAlg := rfl
@[simp] theorem updCtx_session (s : State) (c : Nat) (f : Ctx → Ctx) : (updCtx s c f).session = s.session := rfl
@[simp] theorem updCtx_mgmt (s : State) (c : Nat) (f : Ctx → Ctx) : (updCtx s c f).mgmt = s.mgmt := rfl
@[simp] theorem updCtx_chunkIn (s : State) (c : Nat) (f : Ctx → Ctx) : (updCtx s c f).chunkIn = s.chunkIn := rfl
@[simp] theorem updCtx_chunkNext (s : State) (c : Nat) (f : Ctx → Ctx) : (updCtx s c f).chunkNext = s.chunkNext := rfl
@[simp] theorem updCtx_chunkOut (s : State) (c : Nat) (f : Ctx → Ctx) : (updCtx s c f).chunkOut = s.chunkOut := rfl

@[simp] theorem memPut_gt (s : State) (pa : Nat) (bs : List Byte) : (memPut s pa bs).gt = s.gt := rfl
@[simp] theorem memPut_fresh (s : State) (pa : Nat) (bs : List Byte) : (memPut s pa bs).fresh = s.fresh := rfl
@[simp] theorem memPut_agenda (s : State) (pa : Nat) (bs : List Byte) : (memPut s pa bs).agenda = s.agenda := rfl
@[simp] theorem memPut_curG (s : State) (pa : Nat) (bs : List Byte) : (memPut s pa bs).curG = s.curG := rfl
@[simp] theorem memPut_curF (s : State) (pa : Nat) (bs : List Byte) : (memPut s pa bs).curF = s.curF := rfl
@[simp] theorem memPut_nextId (s : State) (pa : Nat) (bs : List Byte) : (memPut s pa bs).nextId = s.nextId := rfl
@[simp] theorem memPut_power (s : State) (pa : Nat) (bs : List Byte) : (memPut s pa bs).power = s.power := rfl
@[simp] theorem memPut_chip (s : State) (pa : Nat) (bs : List Byte) : (memPut s pa bs).chip = s.chip := rfl
@[simp] theorem memPut_ls (s : State) (pa : Nat) (bs : List Byte) : (memPut s pa bs).ls = s.ls := rfl
@[simp] theorem memPut_banks (s : State) (pa : Nat) (bs : List Byte) : (memPut s pa bs).banks = s.banks := rfl
@[simp] theorem memPut_l1 (s : State) (pa : Nat) (bs : List Byte) : (memPut s pa bs).l1 = s.l1 := rfl
@[simp] theorem memPut_l2 (s : State) (pa : Nat) (bs : List Byte) : (memPut s pa bs).l2 = s.l2 := rfl
@[simp] theorem memPut_evmax (s : State) (pa : Nat) (bs : List Byte) : (memPut s pa bs).evmax = s.evmax := rfl
@[simp] theorem memPut_hw (s : State) (pa : Nat) (bs : List Byte) : (memPut s pa bs).hw = s.hw := rfl
@[simp] theorem memPut_hostq (s : State) (pa : Nat) (bs : List Byte) : (memPut s pa bs).hostq = s.hostq := rfl
@[simp] theorem memPut_hostT (s : State) (pa : Nat) (bs : List Byte) : (memPut s pa bs).hostT = s.hostT := rfl
@[simp] theorem memPut_groups (s : State) (pa : Nat) (bs : List Byte) : (memPut s pa bs).groups = s.groups := rfl
@[simp] theorem memPut_viols (s : State) (pa : Nat) (bs : List Byte) : (memPut s pa bs).viols = s.viols := rfl
@[simp] theorem memPut_blocks (s : State) (pa : Nat) (bs : List Byte) : (memPut s pa bs).blocks = s.blocks := rfl
@[simp] theorem memPut_rdvs (s : State) (pa : Nat) (bs : List Byte) : (memPut s pa bs).rdvs = s.rdvs := rfl
@[simp] theorem memPut_mxq (s : State) (pa : Nat) (bs : List Byte) : (memPut s pa bs).mxq = s.mxq := rfl
@[simp] theorem memPut_rows (s : State) (pa : Nat) (bs : List Byte) : (memPut s pa bs).rows = s.rows := rfl
@[simp] theorem memPut_ctxs (s : State) (pa : Nat) (bs : List Byte) : (memPut s pa bs).ctxs = s.ctxs := rfl
@[simp] theorem memPut_tlb (s : State) (pa : Nat) (bs : List Byte) : (memPut s pa bs).tlb = s.tlb := rfl
@[simp] theorem memPut_code (s : State) (pa : Nat) (bs : List Byte) : (memPut s pa bs).code = s.code := rfl
@[simp] theorem memPut_pins (s : State) (pa : Nat) (bs : List Byte) : (memPut s pa bs).pins = s.pins := rfl
@[simp] theorem memPut_exts (s : State) (pa : Nat) (bs : List Byte) : (memPut s pa bs).exts = s.exts := rfl
@[simp] theorem memPut_bad (s : State) (pa : Nat) (bs : List Byte) : (memPut s pa bs).bad = s.bad := rfl
@[simp] theorem memPut_fq (s : State) (pa : Nat) (bs : List Byte) : (memPut s pa bs).fq = s.fq := rfl
@[simp] theorem memPut_fring (s : State) (pa : Nat) (bs : List Byte) : (memPut s pa bs).fring = s.fring := rfl
@[simp] theorem memPut_vring (s : State) (pa : Nat) (bs : List Byte) : (memPut s pa bs).vring = s.vring := rfl
@[simp] theorem memPut_lring (s : State) (pa : Nat) (bs : List Byte) : (memPut s pa bs).lring = s.lring := rfl
@[simp] theorem memPut_faq (s : State) (pa : Nat) (bs : List Byte) : (memPut s pa bs).faq = s.faq := rfl
@[simp] theorem memPut_faqHead (s : State) (pa : Nat) (bs : List Byte) : (memPut s pa bs).faqHead = s.faqHead := rfl
@[simp] theorem memPut_faqTail (s : State) (pa : Nat) (bs : List Byte) : (memPut s pa bs).faqTail = s.faqTail := rfl
@[simp] theorem memPut_faqOvf (s : State) (pa : Nat) (bs : List Byte) : (memPut s pa bs).faqOvf = s.faqOvf := rfl
@[simp] theorem memPut_msix (s : State) (pa : Nat) (bs : List Byte) : (memPut s pa bs).msix = s.msix := rfl
@[simp] theorem memPut_msixTab (s : State) (pa : Nat) (bs : List Byte) : (memPut s pa bs).msixTab = s.msixTab := rfl
@[simp] theorem memPut_txw (s : State) (pa : Nat) (bs : List Byte) : (memPut s pa bs).txw = s.txw := rfl
@[simp] theorem memPut_rxw (s : State) (pa : Nat) (bs : List Byte) : (memPut s pa bs).rxw = s.rxw := rfl
@[simp] theorem memPut_migs (s : State) (pa : Nat) (bs : List Byte) : (memPut s pa bs).migs = s.migs := rfl
@[simp] theorem memPut_tceq (s : State) (pa : Nat) (bs : List Byte) : (memPut s pa bs).tceq = s.tceq := rfl
@[simp] theorem memPut_refl (s : State) (pa : Nat) (bs : List Byte) : (memPut s pa bs).refl = s.refl := rfl
@[simp] theorem memPut_rep (s : State) (pa : Nat) (bs : List Byte) : (memPut s pa bs).rep = s.rep := rfl
@[simp] theorem memPut_paths (s : State) (pa : Nat) (bs : List Byte) : (memPut s pa bs).paths = s.paths := rfl
@[simp] theorem memPut_rxq (s : State) (pa : Nat) (bs : List Byte) : (memPut s pa bs).rxq = s.rxq := rfl
@[simp] theorem memPut_mcast (s : State) (pa : Nat) (bs : List Byte) : (memPut s pa bs).mcast = s.mcast := rfl
@[simp] theorem memPut_keys (s : State) (pa : Nat) (bs : List Byte) : (memPut s pa bs).keys = s.keys := rfl
@[simp] theorem memPut_subs (s : State) (pa : Nat) (bs : List Byte) : (memPut s pa bs).subs = s.subs := rfl
@[simp] theorem memPut_evBad (s : State) (pa : Nat) (bs : List Byte) : (memPut s pa bs).evBad = s.evBad := rfl
@[simp] theorem memPut_mirrors (s : State) (pa : Nat) (bs : List Byte) : (memPut s pa bs).mirrors = s.mirrors := rfl
@[simp] theorem memPut_invs (s : State) (pa : Nat) (bs : List Byte) : (memPut s pa bs).invs = s.invs := rfl
@[simp] theorem memPut_streams (s : State) (pa : Nat) (bs : List Byte) : (memPut s pa bs).streams = s.streams := rfl
@[simp] theorem memPut_recon (s : State) (pa : Nat) (bs : List Byte) : (memPut s pa bs).recon = s.recon := rfl
@[simp] theorem memPut_ops (s : State) (pa : Nat) (bs : List Byte) : (memPut s pa bs).ops = s.ops := rfl
@[simp] theorem memPut_pops (s : State) (pa : Nat) (bs : List Byte) : (memPut s pa bs).pops = s.pops := rfl
@[simp] theorem memPut_away (s : State) (pa : Nat) (bs : List Byte) : (memPut s pa bs).away = s.away := rfl
@[simp] theorem memPut_tokq (s : State) (pa : Nat) (bs : List Byte) : (memPut s pa bs).tokq = s.tokq := rfl
@[simp] theorem memPut_pool (s : State) (pa : Nat) (bs : List Byte) : (memPut s pa bs).pool = s.pool := rfl
@[simp] theorem memPut_grant (s : State) (pa : Nat) (bs : List Byte) : (memPut s pa bs).grant = s.grant := rfl
@[simp] theorem memPut_share (s : State) (pa : Nat) (bs : List Byte) : (memPut s pa bs).share = s.share := rfl
@[simp] theorem memPut_mbox (s : State) (pa : Nat) (bs : List Byte) : (memPut s pa bs).mbox = s.mbox := rfl
@[simp] theorem memPut_placeOff (s : State) (pa : Nat) (bs : List Byte) : (memPut s pa bs).placeOff = s.placeOff := rfl
@[simp] theorem memPut_strq (s : State) (pa : Nat) (bs : List Byte) : (memPut s pa bs).strq = s.strq := rfl
@[simp] theorem memPut_lbmax (s : State) (pa : Nat) (bs : List Byte) : (memPut s pa bs).lbmax = s.lbmax := rfl
@[simp] theorem memPut_kvq (s : State) (pa : Nat) (bs : List Byte) : (memPut s pa bs).kvq = s.kvq := rfl
@[simp] theorem memPut_ports (s : State) (pa : Nat) (bs : List Byte) : (memPut s pa bs).ports = s.ports := rfl
@[simp] theorem memPut_hopKeys (s : State) (pa : Nat) (bs : List Byte) : (memPut s pa bs).hopKeys = s.hopKeys := rfl
@[simp] theorem memPut_locs (s : State) (pa : Nat) (bs : List Byte) : (memPut s pa bs).locs = s.locs := rfl
@[simp] theorem memPut_optq (s : State) (pa : Nat) (bs : List Byte) : (memPut s pa bs).optq = s.optq := rfl
@[simp] theorem memPut_optw (s : State) (pa : Nat) (bs : List Byte) : (memPut s pa bs).optw = s.optw := rfl
@[simp] theorem memPut_slotlen (s : State) (pa : Nat) (bs : List Byte) : (memPut s pa bs).slotlen = s.slotlen := rfl
@[simp] theorem memPut_guard (s : State) (pa : Nat) (bs : List Byte) : (memPut s pa bs).guard = s.guard := rfl
@[simp] theorem memPut_nslot (s : State) (pa : Nat) (bs : List Byte) : (memPut s pa bs).nslot = s.nslot := rfl
@[simp] theorem memPut_swap (s : State) (pa : Nat) (bs : List Byte) : (memPut s pa bs).swap = s.swap := rfl
@[simp] theorem memPut_slotEn (s : State) (pa : Nat) (bs : List Byte) : (memPut s pa bs).slotEn = s.slotEn := rfl
@[simp] theorem memPut_epoch (s : State) (pa : Nat) (bs : List Byte) : (memPut s pa bs).epoch = s.epoch := rfl
@[simp] theorem memPut_slotCur (s : State) (pa : Nat) (bs : List Byte) : (memPut s pa bs).slotCur = s.slotCur := rfl
@[simp] theorem memPut_rot (s : State) (pa : Nat) (bs : List Byte) : (memPut s pa bs).rot = s.rot := rfl
@[simp] theorem memPut_slotAct (s : State) (pa : Nat) (bs : List Byte) : (memPut s pa bs).slotAct = s.slotAct := rfl
@[simp] theorem memPut_slotShd (s : State) (pa : Nat) (bs : List Byte) : (memPut s pa bs).slotShd = s.slotShd := rfl
@[simp] theorem memPut_spent (s : State) (pa : Nat) (bs : List Byte) : (memPut s pa bs).spent = s.spent := rfl
@[simp] theorem memPut_out (s : State) (pa : Nat) (bs : List Byte) : (memPut s pa bs).out = s.out := rfl
@[simp] theorem memPut_fw (s : State) (pa : Nat) (bs : List Byte) : (memPut s pa bs).fw = s.fw := rfl
@[simp] theorem memPut_lfcFrozen (s : State) (pa : Nat) (bs : List Byte) : (memPut s pa bs).lfcFrozen = s.lfcFrozen := rfl
@[simp] theorem memPut_sram (s : State) (pa : Nat) (bs : List Byte) : (memPut s pa bs).sram = s.sram := rfl
@[simp] theorem memPut_probes (s : State) (pa : Nat) (bs : List Byte) : (memPut s pa bs).probes = s.probes := rfl
@[simp] theorem memPut_blocked (s : State) (pa : Nat) (bs : List Byte) : (memPut s pa bs).blocked = s.blocked := rfl
@[simp] theorem memPut_reserve (s : State) (pa : Nat) (bs : List Byte) : (memPut s pa bs).reserve = s.reserve := rfl
@[simp] theorem memPut_emerg (s : State) (pa : Nat) (bs : List Byte) : (memPut s pa bs).emerg = s.emerg := rfl
@[simp] theorem memPut_pmc (s : State) (pa : Nat) (bs : List Byte) : (memPut s pa bs).pmc = s.pmc := rfl
@[simp] theorem memPut_ptmo (s : State) (pa : Nat) (bs : List Byte) : (memPut s pa bs).ptmo = s.ptmo := rfl
@[simp] theorem memPut_apbase (s : State) (pa : Nat) (bs : List Byte) : (memPut s pa bs).apbase = s.apbase := rfl
@[simp] theorem memPut_cethr (s : State) (pa : Nat) (bs : List Byte) : (memPut s pa bs).cethr = s.cethr := rfl
@[simp] theorem memPut_therm (s : State) (pa : Nat) (bs : List Byte) : (memPut s pa bs).therm = s.therm := rfl
@[simp] theorem memPut_tjhot (s : State) (pa : Nat) (bs : List Byte) : (memPut s pa bs).tjhot = s.tjhot := rfl
@[simp] theorem memPut_thstat (s : State) (pa : Nat) (bs : List Byte) : (memPut s pa bs).thstat = s.thstat := rfl
@[simp] theorem memPut_lrcHold (s : State) (pa : Nat) (bs : List Byte) : (memPut s pa bs).lrcHold = s.lrcHold := rfl
@[simp] theorem memPut_tripHold (s : State) (pa : Nat) (bs : List Byte) : (memPut s pa bs).tripHold = s.tripHold := rfl
@[simp] theorem memPut_ecc (s : State) (pa : Nat) (bs : List Byte) : (memPut s pa bs).ecc = s.ecc := rfl
@[simp] theorem memPut_bfstat (s : State) (pa : Nat) (bs : List Byte) : (memPut s pa bs).bfstat = s.bfstat := rfl
@[simp] theorem memPut_scrubPend (s : State) (pa : Nat) (bs : List Byte) : (memPut s pa bs).scrubPend = s.scrubPend := rfl
@[simp] theorem memPut_svn (s : State) (pa : Nat) (bs : List Byte) : (memPut s pa bs).svn = s.svn := rfl
@[simp] theorem memPut_reqcnt (s : State) (pa : Nat) (bs : List Byte) : (memPut s pa bs).reqcnt = s.reqcnt := rfl
@[simp] theorem memPut_lrcStart (s : State) (pa : Nat) (bs : List Byte) : (memPut s pa bs).lrcStart = s.lrcStart := rfl
@[simp] theorem memPut_nonce (s : State) (pa : Nat) (bs : List Byte) : (memPut s pa bs).nonce = s.nonce := rfl
@[simp] theorem memPut_lrcNonce (s : State) (pa : Nat) (bs : List Byte) : (memPut s pa bs).lrcNonce = s.lrcNonce := rfl
@[simp] theorem memPut_scrubRec (s : State) (pa : Nat) (bs : List Byte) : (memPut s pa bs).scrubRec = s.scrubRec := rfl
@[simp] theorem memPut_tenantKey (s : State) (pa : Nat) (bs : List Byte) : (memPut s pa bs).tenantKey = s.tenantKey := rfl
@[simp] theorem memPut_manHash (s : State) (pa : Nat) (bs : List Byte) : (memPut s pa bs).manHash = s.manHash := rfl
@[simp] theorem memPut_lfcHash (s : State) (pa : Nat) (bs : List Byte) : (memPut s pa bs).lfcHash = s.lfcHash := rfl
@[simp] theorem memPut_image (s : State) (pa : Nat) (bs : List Byte) : (memPut s pa bs).image = s.image := rfl
@[simp] theorem memPut_lfcUp (s : State) (pa : Nat) (bs : List Byte) : (memPut s pa bs).lfcUp = s.lfcUp := rfl
@[simp] theorem memPut_i3c (s : State) (pa : Nat) (bs : List Byte) : (memPut s pa bs).i3c = s.i3c := rfl
@[simp] theorem memPut_eid (s : State) (pa : Nat) (bs : List Byte) : (memPut s pa bs).eid = s.eid := rfl
@[simp] theorem memPut_spdmVer (s : State) (pa : Nat) (bs : List Byte) : (memPut s pa bs).spdmVer = s.spdmVer := rfl
@[simp] theorem memPut_spdmAlg (s : State) (pa : Nat) (bs : List Byte) : (memPut s pa bs).spdmAlg = s.spdmAlg := rfl
@[simp] theorem memPut_session (s : State) (pa : Nat) (bs : List Byte) : (memPut s pa bs).session = s.session := rfl
@[simp] theorem memPut_mgmt (s : State) (pa : Nat) (bs : List Byte) : (memPut s pa bs).mgmt = s.mgmt := rfl
@[simp] theorem memPut_chunkIn (s : State) (pa : Nat) (bs : List Byte) : (memPut s pa bs).chunkIn = s.chunkIn := rfl
@[simp] theorem memPut_chunkNext (s : State) (pa : Nat) (bs : List Byte) : (memPut s pa bs).chunkNext = s.chunkNext := rfl
@[simp] theorem memPut_chunkOut (s : State) (pa : Nat) (bs : List Byte) : (memPut s pa bs).chunkOut = s.chunkOut := rfl

@[simp] theorem lsPut_gt (s : State) (k : Nat) (bs : List Byte) : (lsPut s k bs).gt = s.gt := rfl
@[simp] theorem lsPut_fresh (s : State) (k : Nat) (bs : List Byte) : (lsPut s k bs).fresh = s.fresh := rfl
@[simp] theorem lsPut_agenda (s : State) (k : Nat) (bs : List Byte) : (lsPut s k bs).agenda = s.agenda := rfl
@[simp] theorem lsPut_curG (s : State) (k : Nat) (bs : List Byte) : (lsPut s k bs).curG = s.curG := rfl
@[simp] theorem lsPut_curF (s : State) (k : Nat) (bs : List Byte) : (lsPut s k bs).curF = s.curF := rfl
@[simp] theorem lsPut_nextId (s : State) (k : Nat) (bs : List Byte) : (lsPut s k bs).nextId = s.nextId := rfl
@[simp] theorem lsPut_power (s : State) (k : Nat) (bs : List Byte) : (lsPut s k bs).power = s.power := rfl
@[simp] theorem lsPut_chip (s : State) (k : Nat) (bs : List Byte) : (lsPut s k bs).chip = s.chip := rfl
@[simp] theorem lsPut_mem (s : State) (k : Nat) (bs : List Byte) : (lsPut s k bs).mem = s.mem := rfl
@[simp] theorem lsPut_banks (s : State) (k : Nat) (bs : List Byte) : (lsPut s k bs).banks = s.banks := rfl
@[simp] theorem lsPut_l1 (s : State) (k : Nat) (bs : List Byte) : (lsPut s k bs).l1 = s.l1 := rfl
@[simp] theorem lsPut_l2 (s : State) (k : Nat) (bs : List Byte) : (lsPut s k bs).l2 = s.l2 := rfl
@[simp] theorem lsPut_evmax (s : State) (k : Nat) (bs : List Byte) : (lsPut s k bs).evmax = s.evmax := rfl
@[simp] theorem lsPut_hw (s : State) (k : Nat) (bs : List Byte) : (lsPut s k bs).hw = s.hw := rfl
@[simp] theorem lsPut_hostq (s : State) (k : Nat) (bs : List Byte) : (lsPut s k bs).hostq = s.hostq := rfl
@[simp] theorem lsPut_hostT (s : State) (k : Nat) (bs : List Byte) : (lsPut s k bs).hostT = s.hostT := rfl
@[simp] theorem lsPut_groups (s : State) (k : Nat) (bs : List Byte) : (lsPut s k bs).groups = s.groups := rfl
@[simp] theorem lsPut_viols (s : State) (k : Nat) (bs : List Byte) : (lsPut s k bs).viols = s.viols := rfl
@[simp] theorem lsPut_blocks (s : State) (k : Nat) (bs : List Byte) : (lsPut s k bs).blocks = s.blocks := rfl
@[simp] theorem lsPut_rdvs (s : State) (k : Nat) (bs : List Byte) : (lsPut s k bs).rdvs = s.rdvs := rfl
@[simp] theorem lsPut_mxq (s : State) (k : Nat) (bs : List Byte) : (lsPut s k bs).mxq = s.mxq := rfl
@[simp] theorem lsPut_rows (s : State) (k : Nat) (bs : List Byte) : (lsPut s k bs).rows = s.rows := rfl
@[simp] theorem lsPut_ctxs (s : State) (k : Nat) (bs : List Byte) : (lsPut s k bs).ctxs = s.ctxs := rfl
@[simp] theorem lsPut_tlb (s : State) (k : Nat) (bs : List Byte) : (lsPut s k bs).tlb = s.tlb := rfl
@[simp] theorem lsPut_code (s : State) (k : Nat) (bs : List Byte) : (lsPut s k bs).code = s.code := rfl
@[simp] theorem lsPut_pins (s : State) (k : Nat) (bs : List Byte) : (lsPut s k bs).pins = s.pins := rfl
@[simp] theorem lsPut_exts (s : State) (k : Nat) (bs : List Byte) : (lsPut s k bs).exts = s.exts := rfl
@[simp] theorem lsPut_bad (s : State) (k : Nat) (bs : List Byte) : (lsPut s k bs).bad = s.bad := rfl
@[simp] theorem lsPut_fq (s : State) (k : Nat) (bs : List Byte) : (lsPut s k bs).fq = s.fq := rfl
@[simp] theorem lsPut_fring (s : State) (k : Nat) (bs : List Byte) : (lsPut s k bs).fring = s.fring := rfl
@[simp] theorem lsPut_vring (s : State) (k : Nat) (bs : List Byte) : (lsPut s k bs).vring = s.vring := rfl
@[simp] theorem lsPut_lring (s : State) (k : Nat) (bs : List Byte) : (lsPut s k bs).lring = s.lring := rfl
@[simp] theorem lsPut_faq (s : State) (k : Nat) (bs : List Byte) : (lsPut s k bs).faq = s.faq := rfl
@[simp] theorem lsPut_faqHead (s : State) (k : Nat) (bs : List Byte) : (lsPut s k bs).faqHead = s.faqHead := rfl
@[simp] theorem lsPut_faqTail (s : State) (k : Nat) (bs : List Byte) : (lsPut s k bs).faqTail = s.faqTail := rfl
@[simp] theorem lsPut_faqOvf (s : State) (k : Nat) (bs : List Byte) : (lsPut s k bs).faqOvf = s.faqOvf := rfl
@[simp] theorem lsPut_msix (s : State) (k : Nat) (bs : List Byte) : (lsPut s k bs).msix = s.msix := rfl
@[simp] theorem lsPut_msixTab (s : State) (k : Nat) (bs : List Byte) : (lsPut s k bs).msixTab = s.msixTab := rfl
@[simp] theorem lsPut_txw (s : State) (k : Nat) (bs : List Byte) : (lsPut s k bs).txw = s.txw := rfl
@[simp] theorem lsPut_rxw (s : State) (k : Nat) (bs : List Byte) : (lsPut s k bs).rxw = s.rxw := rfl
@[simp] theorem lsPut_migs (s : State) (k : Nat) (bs : List Byte) : (lsPut s k bs).migs = s.migs := rfl
@[simp] theorem lsPut_tceq (s : State) (k : Nat) (bs : List Byte) : (lsPut s k bs).tceq = s.tceq := rfl
@[simp] theorem lsPut_refl (s : State) (k : Nat) (bs : List Byte) : (lsPut s k bs).refl = s.refl := rfl
@[simp] theorem lsPut_rep (s : State) (k : Nat) (bs : List Byte) : (lsPut s k bs).rep = s.rep := rfl
@[simp] theorem lsPut_paths (s : State) (k : Nat) (bs : List Byte) : (lsPut s k bs).paths = s.paths := rfl
@[simp] theorem lsPut_rxq (s : State) (k : Nat) (bs : List Byte) : (lsPut s k bs).rxq = s.rxq := rfl
@[simp] theorem lsPut_mcast (s : State) (k : Nat) (bs : List Byte) : (lsPut s k bs).mcast = s.mcast := rfl
@[simp] theorem lsPut_keys (s : State) (k : Nat) (bs : List Byte) : (lsPut s k bs).keys = s.keys := rfl
@[simp] theorem lsPut_subs (s : State) (k : Nat) (bs : List Byte) : (lsPut s k bs).subs = s.subs := rfl
@[simp] theorem lsPut_evBad (s : State) (k : Nat) (bs : List Byte) : (lsPut s k bs).evBad = s.evBad := rfl
@[simp] theorem lsPut_mirrors (s : State) (k : Nat) (bs : List Byte) : (lsPut s k bs).mirrors = s.mirrors := rfl
@[simp] theorem lsPut_invs (s : State) (k : Nat) (bs : List Byte) : (lsPut s k bs).invs = s.invs := rfl
@[simp] theorem lsPut_streams (s : State) (k : Nat) (bs : List Byte) : (lsPut s k bs).streams = s.streams := rfl
@[simp] theorem lsPut_recon (s : State) (k : Nat) (bs : List Byte) : (lsPut s k bs).recon = s.recon := rfl
@[simp] theorem lsPut_ops (s : State) (k : Nat) (bs : List Byte) : (lsPut s k bs).ops = s.ops := rfl
@[simp] theorem lsPut_pops (s : State) (k : Nat) (bs : List Byte) : (lsPut s k bs).pops = s.pops := rfl
@[simp] theorem lsPut_away (s : State) (k : Nat) (bs : List Byte) : (lsPut s k bs).away = s.away := rfl
@[simp] theorem lsPut_tokq (s : State) (k : Nat) (bs : List Byte) : (lsPut s k bs).tokq = s.tokq := rfl
@[simp] theorem lsPut_pool (s : State) (k : Nat) (bs : List Byte) : (lsPut s k bs).pool = s.pool := rfl
@[simp] theorem lsPut_grant (s : State) (k : Nat) (bs : List Byte) : (lsPut s k bs).grant = s.grant := rfl
@[simp] theorem lsPut_share (s : State) (k : Nat) (bs : List Byte) : (lsPut s k bs).share = s.share := rfl
@[simp] theorem lsPut_mbox (s : State) (k : Nat) (bs : List Byte) : (lsPut s k bs).mbox = s.mbox := rfl
@[simp] theorem lsPut_placeOff (s : State) (k : Nat) (bs : List Byte) : (lsPut s k bs).placeOff = s.placeOff := rfl
@[simp] theorem lsPut_strq (s : State) (k : Nat) (bs : List Byte) : (lsPut s k bs).strq = s.strq := rfl
@[simp] theorem lsPut_lbmax (s : State) (k : Nat) (bs : List Byte) : (lsPut s k bs).lbmax = s.lbmax := rfl
@[simp] theorem lsPut_kvq (s : State) (k : Nat) (bs : List Byte) : (lsPut s k bs).kvq = s.kvq := rfl
@[simp] theorem lsPut_ports (s : State) (k : Nat) (bs : List Byte) : (lsPut s k bs).ports = s.ports := rfl
@[simp] theorem lsPut_hopKeys (s : State) (k : Nat) (bs : List Byte) : (lsPut s k bs).hopKeys = s.hopKeys := rfl
@[simp] theorem lsPut_locs (s : State) (k : Nat) (bs : List Byte) : (lsPut s k bs).locs = s.locs := rfl
@[simp] theorem lsPut_optq (s : State) (k : Nat) (bs : List Byte) : (lsPut s k bs).optq = s.optq := rfl
@[simp] theorem lsPut_optw (s : State) (k : Nat) (bs : List Byte) : (lsPut s k bs).optw = s.optw := rfl
@[simp] theorem lsPut_slotlen (s : State) (k : Nat) (bs : List Byte) : (lsPut s k bs).slotlen = s.slotlen := rfl
@[simp] theorem lsPut_guard (s : State) (k : Nat) (bs : List Byte) : (lsPut s k bs).guard = s.guard := rfl
@[simp] theorem lsPut_nslot (s : State) (k : Nat) (bs : List Byte) : (lsPut s k bs).nslot = s.nslot := rfl
@[simp] theorem lsPut_swap (s : State) (k : Nat) (bs : List Byte) : (lsPut s k bs).swap = s.swap := rfl
@[simp] theorem lsPut_slotEn (s : State) (k : Nat) (bs : List Byte) : (lsPut s k bs).slotEn = s.slotEn := rfl
@[simp] theorem lsPut_epoch (s : State) (k : Nat) (bs : List Byte) : (lsPut s k bs).epoch = s.epoch := rfl
@[simp] theorem lsPut_slotCur (s : State) (k : Nat) (bs : List Byte) : (lsPut s k bs).slotCur = s.slotCur := rfl
@[simp] theorem lsPut_rot (s : State) (k : Nat) (bs : List Byte) : (lsPut s k bs).rot = s.rot := rfl
@[simp] theorem lsPut_slotAct (s : State) (k : Nat) (bs : List Byte) : (lsPut s k bs).slotAct = s.slotAct := rfl
@[simp] theorem lsPut_slotShd (s : State) (k : Nat) (bs : List Byte) : (lsPut s k bs).slotShd = s.slotShd := rfl
@[simp] theorem lsPut_spent (s : State) (k : Nat) (bs : List Byte) : (lsPut s k bs).spent = s.spent := rfl
@[simp] theorem lsPut_out (s : State) (k : Nat) (bs : List Byte) : (lsPut s k bs).out = s.out := rfl
@[simp] theorem lsPut_fw (s : State) (k : Nat) (bs : List Byte) : (lsPut s k bs).fw = s.fw := rfl
@[simp] theorem lsPut_lfcFrozen (s : State) (k : Nat) (bs : List Byte) : (lsPut s k bs).lfcFrozen = s.lfcFrozen := rfl
@[simp] theorem lsPut_sram (s : State) (k : Nat) (bs : List Byte) : (lsPut s k bs).sram = s.sram := rfl
@[simp] theorem lsPut_probes (s : State) (k : Nat) (bs : List Byte) : (lsPut s k bs).probes = s.probes := rfl
@[simp] theorem lsPut_blocked (s : State) (k : Nat) (bs : List Byte) : (lsPut s k bs).blocked = s.blocked := rfl
@[simp] theorem lsPut_reserve (s : State) (k : Nat) (bs : List Byte) : (lsPut s k bs).reserve = s.reserve := rfl
@[simp] theorem lsPut_emerg (s : State) (k : Nat) (bs : List Byte) : (lsPut s k bs).emerg = s.emerg := rfl
@[simp] theorem lsPut_pmc (s : State) (k : Nat) (bs : List Byte) : (lsPut s k bs).pmc = s.pmc := rfl
@[simp] theorem lsPut_ptmo (s : State) (k : Nat) (bs : List Byte) : (lsPut s k bs).ptmo = s.ptmo := rfl
@[simp] theorem lsPut_apbase (s : State) (k : Nat) (bs : List Byte) : (lsPut s k bs).apbase = s.apbase := rfl
@[simp] theorem lsPut_cethr (s : State) (k : Nat) (bs : List Byte) : (lsPut s k bs).cethr = s.cethr := rfl
@[simp] theorem lsPut_therm (s : State) (k : Nat) (bs : List Byte) : (lsPut s k bs).therm = s.therm := rfl
@[simp] theorem lsPut_tjhot (s : State) (k : Nat) (bs : List Byte) : (lsPut s k bs).tjhot = s.tjhot := rfl
@[simp] theorem lsPut_thstat (s : State) (k : Nat) (bs : List Byte) : (lsPut s k bs).thstat = s.thstat := rfl
@[simp] theorem lsPut_lrcHold (s : State) (k : Nat) (bs : List Byte) : (lsPut s k bs).lrcHold = s.lrcHold := rfl
@[simp] theorem lsPut_tripHold (s : State) (k : Nat) (bs : List Byte) : (lsPut s k bs).tripHold = s.tripHold := rfl
@[simp] theorem lsPut_ecc (s : State) (k : Nat) (bs : List Byte) : (lsPut s k bs).ecc = s.ecc := rfl
@[simp] theorem lsPut_bfstat (s : State) (k : Nat) (bs : List Byte) : (lsPut s k bs).bfstat = s.bfstat := rfl
@[simp] theorem lsPut_scrubPend (s : State) (k : Nat) (bs : List Byte) : (lsPut s k bs).scrubPend = s.scrubPend := rfl
@[simp] theorem lsPut_svn (s : State) (k : Nat) (bs : List Byte) : (lsPut s k bs).svn = s.svn := rfl
@[simp] theorem lsPut_reqcnt (s : State) (k : Nat) (bs : List Byte) : (lsPut s k bs).reqcnt = s.reqcnt := rfl
@[simp] theorem lsPut_lrcStart (s : State) (k : Nat) (bs : List Byte) : (lsPut s k bs).lrcStart = s.lrcStart := rfl
@[simp] theorem lsPut_nonce (s : State) (k : Nat) (bs : List Byte) : (lsPut s k bs).nonce = s.nonce := rfl
@[simp] theorem lsPut_lrcNonce (s : State) (k : Nat) (bs : List Byte) : (lsPut s k bs).lrcNonce = s.lrcNonce := rfl
@[simp] theorem lsPut_scrubRec (s : State) (k : Nat) (bs : List Byte) : (lsPut s k bs).scrubRec = s.scrubRec := rfl
@[simp] theorem lsPut_tenantKey (s : State) (k : Nat) (bs : List Byte) : (lsPut s k bs).tenantKey = s.tenantKey := rfl
@[simp] theorem lsPut_manHash (s : State) (k : Nat) (bs : List Byte) : (lsPut s k bs).manHash = s.manHash := rfl
@[simp] theorem lsPut_lfcHash (s : State) (k : Nat) (bs : List Byte) : (lsPut s k bs).lfcHash = s.lfcHash := rfl
@[simp] theorem lsPut_image (s : State) (k : Nat) (bs : List Byte) : (lsPut s k bs).image = s.image := rfl
@[simp] theorem lsPut_lfcUp (s : State) (k : Nat) (bs : List Byte) : (lsPut s k bs).lfcUp = s.lfcUp := rfl
@[simp] theorem lsPut_i3c (s : State) (k : Nat) (bs : List Byte) : (lsPut s k bs).i3c = s.i3c := rfl
@[simp] theorem lsPut_eid (s : State) (k : Nat) (bs : List Byte) : (lsPut s k bs).eid = s.eid := rfl
@[simp] theorem lsPut_spdmVer (s : State) (k : Nat) (bs : List Byte) : (lsPut s k bs).spdmVer = s.spdmVer := rfl
@[simp] theorem lsPut_spdmAlg (s : State) (k : Nat) (bs : List Byte) : (lsPut s k bs).spdmAlg = s.spdmAlg := rfl
@[simp] theorem lsPut_session (s : State) (k : Nat) (bs : List Byte) : (lsPut s k bs).session = s.session := rfl
@[simp] theorem lsPut_mgmt (s : State) (k : Nat) (bs : List Byte) : (lsPut s k bs).mgmt = s.mgmt := rfl
@[simp] theorem lsPut_chunkIn (s : State) (k : Nat) (bs : List Byte) : (lsPut s k bs).chunkIn = s.chunkIn := rfl
@[simp] theorem lsPut_chunkNext (s : State) (k : Nat) (bs : List Byte) : (lsPut s k bs).chunkNext = s.chunkNext := rfl
@[simp] theorem lsPut_chunkOut (s : State) (k : Nat) (bs : List Byte) : (lsPut s k bs).chunkOut = s.chunkOut := rfl

@[simp] theorem spend_gt (s : State) : (spend s).gt = s.gt := rfl
@[simp] theorem spend_agenda (s : State) : (spend s).agenda = s.agenda := rfl
@[simp] theorem spend_curG (s : State) : (spend s).curG = s.curG := rfl
@[simp] theorem spend_curF (s : State) : (spend s).curF = s.curF := rfl
@[simp] theorem spend_nextId (s : State) : (spend s).nextId = s.nextId := rfl
@[simp] theorem spend_power (s : State) : (spend s).power = s.power := rfl
@[simp] theorem spend_chip (s : State) : (spend s).chip = s.chip := rfl
@[simp] theorem spend_mem (s : State) : (spend s).mem = s.mem := rfl
@[simp] theorem spend_ls (s : State) : (spend s).ls = s.ls := rfl
@[simp] theorem spend_banks (s : State) : (spend s).banks = s.banks := rfl
@[simp] theorem spend_l1 (s : State) : (spend s).l1 = s.l1 := rfl
@[simp] theorem spend_l2 (s : State) : (spend s).l2 = s.l2 := rfl
@[simp] theorem spend_evmax (s : State) : (spend s).evmax = s.evmax := rfl
@[simp] theorem spend_hw (s : State) : (spend s).hw = s.hw := rfl
@[simp] theorem spend_hostq (s : State) : (spend s).hostq = s.hostq := rfl
@[simp] theorem spend_hostT (s : State) : (spend s).hostT = s.hostT := rfl
@[simp] theorem spend_groups (s : State) : (spend s).groups = s.groups := rfl
@[simp] theorem spend_viols (s : State) : (spend s).viols = s.viols := rfl
@[simp] theorem spend_blocks (s : State) : (spend s).blocks = s.blocks := rfl
@[simp] theorem spend_rdvs (s : State) : (spend s).rdvs = s.rdvs := rfl
@[simp] theorem spend_mxq (s : State) : (spend s).mxq = s.mxq := rfl
@[simp] theorem spend_rows (s : State) : (spend s).rows = s.rows := rfl
@[simp] theorem spend_ctxs (s : State) : (spend s).ctxs = s.ctxs := rfl
@[simp] theorem spend_tlb (s : State) : (spend s).tlb = s.tlb := rfl
@[simp] theorem spend_code (s : State) : (spend s).code = s.code := rfl
@[simp] theorem spend_pins (s : State) : (spend s).pins = s.pins := rfl
@[simp] theorem spend_exts (s : State) : (spend s).exts = s.exts := rfl
@[simp] theorem spend_bad (s : State) : (spend s).bad = s.bad := rfl
@[simp] theorem spend_fq (s : State) : (spend s).fq = s.fq := rfl
@[simp] theorem spend_fring (s : State) : (spend s).fring = s.fring := rfl
@[simp] theorem spend_vring (s : State) : (spend s).vring = s.vring := rfl
@[simp] theorem spend_lring (s : State) : (spend s).lring = s.lring := rfl
@[simp] theorem spend_faq (s : State) : (spend s).faq = s.faq := rfl
@[simp] theorem spend_faqHead (s : State) : (spend s).faqHead = s.faqHead := rfl
@[simp] theorem spend_faqTail (s : State) : (spend s).faqTail = s.faqTail := rfl
@[simp] theorem spend_faqOvf (s : State) : (spend s).faqOvf = s.faqOvf := rfl
@[simp] theorem spend_msix (s : State) : (spend s).msix = s.msix := rfl
@[simp] theorem spend_msixTab (s : State) : (spend s).msixTab = s.msixTab := rfl
@[simp] theorem spend_txw (s : State) : (spend s).txw = s.txw := rfl
@[simp] theorem spend_rxw (s : State) : (spend s).rxw = s.rxw := rfl
@[simp] theorem spend_migs (s : State) : (spend s).migs = s.migs := rfl
@[simp] theorem spend_tceq (s : State) : (spend s).tceq = s.tceq := rfl
@[simp] theorem spend_refl (s : State) : (spend s).refl = s.refl := rfl
@[simp] theorem spend_rep (s : State) : (spend s).rep = s.rep := rfl
@[simp] theorem spend_paths (s : State) : (spend s).paths = s.paths := rfl
@[simp] theorem spend_rxq (s : State) : (spend s).rxq = s.rxq := rfl
@[simp] theorem spend_mcast (s : State) : (spend s).mcast = s.mcast := rfl
@[simp] theorem spend_keys (s : State) : (spend s).keys = s.keys := rfl
@[simp] theorem spend_subs (s : State) : (spend s).subs = s.subs := rfl
@[simp] theorem spend_evBad (s : State) : (spend s).evBad = s.evBad := rfl
@[simp] theorem spend_mirrors (s : State) : (spend s).mirrors = s.mirrors := rfl
@[simp] theorem spend_invs (s : State) : (spend s).invs = s.invs := rfl
@[simp] theorem spend_streams (s : State) : (spend s).streams = s.streams := rfl
@[simp] theorem spend_recon (s : State) : (spend s).recon = s.recon := rfl
@[simp] theorem spend_ops (s : State) : (spend s).ops = s.ops := rfl
@[simp] theorem spend_pops (s : State) : (spend s).pops = s.pops := rfl
@[simp] theorem spend_away (s : State) : (spend s).away = s.away := rfl
@[simp] theorem spend_tokq (s : State) : (spend s).tokq = s.tokq := rfl
@[simp] theorem spend_pool (s : State) : (spend s).pool = s.pool := rfl
@[simp] theorem spend_grant (s : State) : (spend s).grant = s.grant := rfl
@[simp] theorem spend_share (s : State) : (spend s).share = s.share := rfl
@[simp] theorem spend_mbox (s : State) : (spend s).mbox = s.mbox := rfl
@[simp] theorem spend_placeOff (s : State) : (spend s).placeOff = s.placeOff := rfl
@[simp] theorem spend_strq (s : State) : (spend s).strq = s.strq := rfl
@[simp] theorem spend_lbmax (s : State) : (spend s).lbmax = s.lbmax := rfl
@[simp] theorem spend_kvq (s : State) : (spend s).kvq = s.kvq := rfl
@[simp] theorem spend_ports (s : State) : (spend s).ports = s.ports := rfl
@[simp] theorem spend_hopKeys (s : State) : (spend s).hopKeys = s.hopKeys := rfl
@[simp] theorem spend_locs (s : State) : (spend s).locs = s.locs := rfl
@[simp] theorem spend_optq (s : State) : (spend s).optq = s.optq := rfl
@[simp] theorem spend_optw (s : State) : (spend s).optw = s.optw := rfl
@[simp] theorem spend_slotlen (s : State) : (spend s).slotlen = s.slotlen := rfl
@[simp] theorem spend_guard (s : State) : (spend s).guard = s.guard := rfl
@[simp] theorem spend_nslot (s : State) : (spend s).nslot = s.nslot := rfl
@[simp] theorem spend_swap (s : State) : (spend s).swap = s.swap := rfl
@[simp] theorem spend_slotEn (s : State) : (spend s).slotEn = s.slotEn := rfl
@[simp] theorem spend_epoch (s : State) : (spend s).epoch = s.epoch := rfl
@[simp] theorem spend_slotCur (s : State) : (spend s).slotCur = s.slotCur := rfl
@[simp] theorem spend_rot (s : State) : (spend s).rot = s.rot := rfl
@[simp] theorem spend_slotAct (s : State) : (spend s).slotAct = s.slotAct := rfl
@[simp] theorem spend_slotShd (s : State) : (spend s).slotShd = s.slotShd := rfl
@[simp] theorem spend_spent (s : State) : (spend s).spent = s.spent := rfl
@[simp] theorem spend_out (s : State) : (spend s).out = s.out := rfl
@[simp] theorem spend_fw (s : State) : (spend s).fw = s.fw := rfl
@[simp] theorem spend_lfcFrozen (s : State) : (spend s).lfcFrozen = s.lfcFrozen := rfl
@[simp] theorem spend_sram (s : State) : (spend s).sram = s.sram := rfl
@[simp] theorem spend_probes (s : State) : (spend s).probes = s.probes := rfl
@[simp] theorem spend_blocked (s : State) : (spend s).blocked = s.blocked := rfl
@[simp] theorem spend_reserve (s : State) : (spend s).reserve = s.reserve := rfl
@[simp] theorem spend_emerg (s : State) : (spend s).emerg = s.emerg := rfl
@[simp] theorem spend_pmc (s : State) : (spend s).pmc = s.pmc := rfl
@[simp] theorem spend_ptmo (s : State) : (spend s).ptmo = s.ptmo := rfl
@[simp] theorem spend_apbase (s : State) : (spend s).apbase = s.apbase := rfl
@[simp] theorem spend_cethr (s : State) : (spend s).cethr = s.cethr := rfl
@[simp] theorem spend_therm (s : State) : (spend s).therm = s.therm := rfl
@[simp] theorem spend_tjhot (s : State) : (spend s).tjhot = s.tjhot := rfl
@[simp] theorem spend_thstat (s : State) : (spend s).thstat = s.thstat := rfl
@[simp] theorem spend_lrcHold (s : State) : (spend s).lrcHold = s.lrcHold := rfl
@[simp] theorem spend_tripHold (s : State) : (spend s).tripHold = s.tripHold := rfl
@[simp] theorem spend_ecc (s : State) : (spend s).ecc = s.ecc := rfl
@[simp] theorem spend_bfstat (s : State) : (spend s).bfstat = s.bfstat := rfl
@[simp] theorem spend_scrubPend (s : State) : (spend s).scrubPend = s.scrubPend := rfl
@[simp] theorem spend_svn (s : State) : (spend s).svn = s.svn := rfl
@[simp] theorem spend_reqcnt (s : State) : (spend s).reqcnt = s.reqcnt := rfl
@[simp] theorem spend_lrcStart (s : State) : (spend s).lrcStart = s.lrcStart := rfl
@[simp] theorem spend_nonce (s : State) : (spend s).nonce = s.nonce := rfl
@[simp] theorem spend_lrcNonce (s : State) : (spend s).lrcNonce = s.lrcNonce := rfl
@[simp] theorem spend_scrubRec (s : State) : (spend s).scrubRec = s.scrubRec := rfl
@[simp] theorem spend_tenantKey (s : State) : (spend s).tenantKey = s.tenantKey := rfl
@[simp] theorem spend_manHash (s : State) : (spend s).manHash = s.manHash := rfl
@[simp] theorem spend_lfcHash (s : State) : (spend s).lfcHash = s.lfcHash := rfl
@[simp] theorem spend_image (s : State) : (spend s).image = s.image := rfl
@[simp] theorem spend_lfcUp (s : State) : (spend s).lfcUp = s.lfcUp := rfl
@[simp] theorem spend_i3c (s : State) : (spend s).i3c = s.i3c := rfl
@[simp] theorem spend_eid (s : State) : (spend s).eid = s.eid := rfl
@[simp] theorem spend_spdmVer (s : State) : (spend s).spdmVer = s.spdmVer := rfl
@[simp] theorem spend_spdmAlg (s : State) : (spend s).spdmAlg = s.spdmAlg := rfl
@[simp] theorem spend_session (s : State) : (spend s).session = s.session := rfl
@[simp] theorem spend_mgmt (s : State) : (spend s).mgmt = s.mgmt := rfl
@[simp] theorem spend_chunkIn (s : State) : (spend s).chunkIn = s.chunkIn := rfl
@[simp] theorem spend_chunkNext (s : State) : (spend s).chunkNext = s.chunkNext := rfl
@[simp] theorem spend_chunkOut (s : State) : (spend s).chunkOut = s.chunkOut := rfl

@[simp] theorem interrupt_gt (s : State) (v : Nat) : (interrupt s v).gt = s.gt := rfl
@[simp] theorem interrupt_fresh (s : State) (v : Nat) : (interrupt s v).fresh = s.fresh := rfl
@[simp] theorem interrupt_agenda (s : State) (v : Nat) : (interrupt s v).agenda = s.agenda := rfl
@[simp] theorem interrupt_curG (s : State) (v : Nat) : (interrupt s v).curG = s.curG := rfl
@[simp] theorem interrupt_curF (s : State) (v : Nat) : (interrupt s v).curF = s.curF := rfl
@[simp] theorem interrupt_nextId (s : State) (v : Nat) : (interrupt s v).nextId = s.nextId := rfl
@[simp] theorem interrupt_power (s : State) (v : Nat) : (interrupt s v).power = s.power := rfl
@[simp] theorem interrupt_chip (s : State) (v : Nat) : (interrupt s v).chip = s.chip := rfl
@[simp] theorem interrupt_mem (s : State) (v : Nat) : (interrupt s v).mem = s.mem := rfl
@[simp] theorem interrupt_ls (s : State) (v : Nat) : (interrupt s v).ls = s.ls := rfl
@[simp] theorem interrupt_banks (s : State) (v : Nat) : (interrupt s v).banks = s.banks := rfl
@[simp] theorem interrupt_l1 (s : State) (v : Nat) : (interrupt s v).l1 = s.l1 := rfl
@[simp] theorem interrupt_l2 (s : State) (v : Nat) : (interrupt s v).l2 = s.l2 := rfl
@[simp] theorem interrupt_evmax (s : State) (v : Nat) : (interrupt s v).evmax = s.evmax := rfl
@[simp] theorem interrupt_hw (s : State) (v : Nat) : (interrupt s v).hw = s.hw := rfl
@[simp] theorem interrupt_hostq (s : State) (v : Nat) : (interrupt s v).hostq = s.hostq := rfl
@[simp] theorem interrupt_hostT (s : State) (v : Nat) : (interrupt s v).hostT = s.hostT := rfl
@[simp] theorem interrupt_groups (s : State) (v : Nat) : (interrupt s v).groups = s.groups := rfl
@[simp] theorem interrupt_viols (s : State) (v : Nat) : (interrupt s v).viols = s.viols := rfl
@[simp] theorem interrupt_blocks (s : State) (v : Nat) : (interrupt s v).blocks = s.blocks := rfl
@[simp] theorem interrupt_rdvs (s : State) (v : Nat) : (interrupt s v).rdvs = s.rdvs := rfl
@[simp] theorem interrupt_mxq (s : State) (v : Nat) : (interrupt s v).mxq = s.mxq := rfl
@[simp] theorem interrupt_rows (s : State) (v : Nat) : (interrupt s v).rows = s.rows := rfl
@[simp] theorem interrupt_ctxs (s : State) (v : Nat) : (interrupt s v).ctxs = s.ctxs := rfl
@[simp] theorem interrupt_tlb (s : State) (v : Nat) : (interrupt s v).tlb = s.tlb := rfl
@[simp] theorem interrupt_code (s : State) (v : Nat) : (interrupt s v).code = s.code := rfl
@[simp] theorem interrupt_pins (s : State) (v : Nat) : (interrupt s v).pins = s.pins := rfl
@[simp] theorem interrupt_exts (s : State) (v : Nat) : (interrupt s v).exts = s.exts := rfl
@[simp] theorem interrupt_bad (s : State) (v : Nat) : (interrupt s v).bad = s.bad := rfl
@[simp] theorem interrupt_fq (s : State) (v : Nat) : (interrupt s v).fq = s.fq := rfl
@[simp] theorem interrupt_fring (s : State) (v : Nat) : (interrupt s v).fring = s.fring := rfl
@[simp] theorem interrupt_vring (s : State) (v : Nat) : (interrupt s v).vring = s.vring := rfl
@[simp] theorem interrupt_lring (s : State) (v : Nat) : (interrupt s v).lring = s.lring := rfl
@[simp] theorem interrupt_faq (s : State) (v : Nat) : (interrupt s v).faq = s.faq := rfl
@[simp] theorem interrupt_faqHead (s : State) (v : Nat) : (interrupt s v).faqHead = s.faqHead := rfl
@[simp] theorem interrupt_faqTail (s : State) (v : Nat) : (interrupt s v).faqTail = s.faqTail := rfl
@[simp] theorem interrupt_faqOvf (s : State) (v : Nat) : (interrupt s v).faqOvf = s.faqOvf := rfl
@[simp] theorem interrupt_msixTab (s : State) (v : Nat) : (interrupt s v).msixTab = s.msixTab := rfl
@[simp] theorem interrupt_txw (s : State) (v : Nat) : (interrupt s v).txw = s.txw := rfl
@[simp] theorem interrupt_rxw (s : State) (v : Nat) : (interrupt s v).rxw = s.rxw := rfl
@[simp] theorem interrupt_migs (s : State) (v : Nat) : (interrupt s v).migs = s.migs := rfl
@[simp] theorem interrupt_tceq (s : State) (v : Nat) : (interrupt s v).tceq = s.tceq := rfl
@[simp] theorem interrupt_refl (s : State) (v : Nat) : (interrupt s v).refl = s.refl := rfl
@[simp] theorem interrupt_rep (s : State) (v : Nat) : (interrupt s v).rep = s.rep := rfl
@[simp] theorem interrupt_paths (s : State) (v : Nat) : (interrupt s v).paths = s.paths := rfl
@[simp] theorem interrupt_rxq (s : State) (v : Nat) : (interrupt s v).rxq = s.rxq := rfl
@[simp] theorem interrupt_mcast (s : State) (v : Nat) : (interrupt s v).mcast = s.mcast := rfl
@[simp] theorem interrupt_keys (s : State) (v : Nat) : (interrupt s v).keys = s.keys := rfl
@[simp] theorem interrupt_subs (s : State) (v : Nat) : (interrupt s v).subs = s.subs := rfl
@[simp] theorem interrupt_evBad (s : State) (v : Nat) : (interrupt s v).evBad = s.evBad := rfl
@[simp] theorem interrupt_mirrors (s : State) (v : Nat) : (interrupt s v).mirrors = s.mirrors := rfl
@[simp] theorem interrupt_invs (s : State) (v : Nat) : (interrupt s v).invs = s.invs := rfl
@[simp] theorem interrupt_streams (s : State) (v : Nat) : (interrupt s v).streams = s.streams := rfl
@[simp] theorem interrupt_recon (s : State) (v : Nat) : (interrupt s v).recon = s.recon := rfl
@[simp] theorem interrupt_ops (s : State) (v : Nat) : (interrupt s v).ops = s.ops := rfl
@[simp] theorem interrupt_pops (s : State) (v : Nat) : (interrupt s v).pops = s.pops := rfl
@[simp] theorem interrupt_away (s : State) (v : Nat) : (interrupt s v).away = s.away := rfl
@[simp] theorem interrupt_tokq (s : State) (v : Nat) : (interrupt s v).tokq = s.tokq := rfl
@[simp] theorem interrupt_pool (s : State) (v : Nat) : (interrupt s v).pool = s.pool := rfl
@[simp] theorem interrupt_grant (s : State) (v : Nat) : (interrupt s v).grant = s.grant := rfl
@[simp] theorem interrupt_share (s : State) (v : Nat) : (interrupt s v).share = s.share := rfl
@[simp] theorem interrupt_mbox (s : State) (v : Nat) : (interrupt s v).mbox = s.mbox := rfl
@[simp] theorem interrupt_placeOff (s : State) (v : Nat) : (interrupt s v).placeOff = s.placeOff := rfl
@[simp] theorem interrupt_strq (s : State) (v : Nat) : (interrupt s v).strq = s.strq := rfl
@[simp] theorem interrupt_lbmax (s : State) (v : Nat) : (interrupt s v).lbmax = s.lbmax := rfl
@[simp] theorem interrupt_kvq (s : State) (v : Nat) : (interrupt s v).kvq = s.kvq := rfl
@[simp] theorem interrupt_ports (s : State) (v : Nat) : (interrupt s v).ports = s.ports := rfl
@[simp] theorem interrupt_hopKeys (s : State) (v : Nat) : (interrupt s v).hopKeys = s.hopKeys := rfl
@[simp] theorem interrupt_locs (s : State) (v : Nat) : (interrupt s v).locs = s.locs := rfl
@[simp] theorem interrupt_optq (s : State) (v : Nat) : (interrupt s v).optq = s.optq := rfl
@[simp] theorem interrupt_optw (s : State) (v : Nat) : (interrupt s v).optw = s.optw := rfl
@[simp] theorem interrupt_slotlen (s : State) (v : Nat) : (interrupt s v).slotlen = s.slotlen := rfl
@[simp] theorem interrupt_guard (s : State) (v : Nat) : (interrupt s v).guard = s.guard := rfl
@[simp] theorem interrupt_nslot (s : State) (v : Nat) : (interrupt s v).nslot = s.nslot := rfl
@[simp] theorem interrupt_swap (s : State) (v : Nat) : (interrupt s v).swap = s.swap := rfl
@[simp] theorem interrupt_slotEn (s : State) (v : Nat) : (interrupt s v).slotEn = s.slotEn := rfl
@[simp] theorem interrupt_epoch (s : State) (v : Nat) : (interrupt s v).epoch = s.epoch := rfl
@[simp] theorem interrupt_slotCur (s : State) (v : Nat) : (interrupt s v).slotCur = s.slotCur := rfl
@[simp] theorem interrupt_rot (s : State) (v : Nat) : (interrupt s v).rot = s.rot := rfl
@[simp] theorem interrupt_slotAct (s : State) (v : Nat) : (interrupt s v).slotAct = s.slotAct := rfl
@[simp] theorem interrupt_slotShd (s : State) (v : Nat) : (interrupt s v).slotShd = s.slotShd := rfl
@[simp] theorem interrupt_spent (s : State) (v : Nat) : (interrupt s v).spent = s.spent := rfl
@[simp] theorem interrupt_out (s : State) (v : Nat) : (interrupt s v).out = s.out := rfl
@[simp] theorem interrupt_fw (s : State) (v : Nat) : (interrupt s v).fw = s.fw := rfl
@[simp] theorem interrupt_lfcFrozen (s : State) (v : Nat) : (interrupt s v).lfcFrozen = s.lfcFrozen := rfl
@[simp] theorem interrupt_sram (s : State) (v : Nat) : (interrupt s v).sram = s.sram := rfl
@[simp] theorem interrupt_probes (s : State) (v : Nat) : (interrupt s v).probes = s.probes := rfl
@[simp] theorem interrupt_blocked (s : State) (v : Nat) : (interrupt s v).blocked = s.blocked := rfl
@[simp] theorem interrupt_reserve (s : State) (v : Nat) : (interrupt s v).reserve = s.reserve := rfl
@[simp] theorem interrupt_emerg (s : State) (v : Nat) : (interrupt s v).emerg = s.emerg := rfl
@[simp] theorem interrupt_pmc (s : State) (v : Nat) : (interrupt s v).pmc = s.pmc := rfl
@[simp] theorem interrupt_ptmo (s : State) (v : Nat) : (interrupt s v).ptmo = s.ptmo := rfl
@[simp] theorem interrupt_apbase (s : State) (v : Nat) : (interrupt s v).apbase = s.apbase := rfl
@[simp] theorem interrupt_cethr (s : State) (v : Nat) : (interrupt s v).cethr = s.cethr := rfl
@[simp] theorem interrupt_therm (s : State) (v : Nat) : (interrupt s v).therm = s.therm := rfl
@[simp] theorem interrupt_tjhot (s : State) (v : Nat) : (interrupt s v).tjhot = s.tjhot := rfl
@[simp] theorem interrupt_thstat (s : State) (v : Nat) : (interrupt s v).thstat = s.thstat := rfl
@[simp] theorem interrupt_lrcHold (s : State) (v : Nat) : (interrupt s v).lrcHold = s.lrcHold := rfl
@[simp] theorem interrupt_tripHold (s : State) (v : Nat) : (interrupt s v).tripHold = s.tripHold := rfl
@[simp] theorem interrupt_ecc (s : State) (v : Nat) : (interrupt s v).ecc = s.ecc := rfl
@[simp] theorem interrupt_bfstat (s : State) (v : Nat) : (interrupt s v).bfstat = s.bfstat := rfl
@[simp] theorem interrupt_scrubPend (s : State) (v : Nat) : (interrupt s v).scrubPend = s.scrubPend := rfl
@[simp] theorem interrupt_svn (s : State) (v : Nat) : (interrupt s v).svn = s.svn := rfl
@[simp] theorem interrupt_reqcnt (s : State) (v : Nat) : (interrupt s v).reqcnt = s.reqcnt := rfl
@[simp] theorem interrupt_lrcStart (s : State) (v : Nat) : (interrupt s v).lrcStart = s.lrcStart := rfl
@[simp] theorem interrupt_nonce (s : State) (v : Nat) : (interrupt s v).nonce = s.nonce := rfl
@[simp] theorem interrupt_lrcNonce (s : State) (v : Nat) : (interrupt s v).lrcNonce = s.lrcNonce := rfl
@[simp] theorem interrupt_scrubRec (s : State) (v : Nat) : (interrupt s v).scrubRec = s.scrubRec := rfl
@[simp] theorem interrupt_tenantKey (s : State) (v : Nat) : (interrupt s v).tenantKey = s.tenantKey := rfl
@[simp] theorem interrupt_manHash (s : State) (v : Nat) : (interrupt s v).manHash = s.manHash := rfl
@[simp] theorem interrupt_lfcHash (s : State) (v : Nat) : (interrupt s v).lfcHash = s.lfcHash := rfl
@[simp] theorem interrupt_image (s : State) (v : Nat) : (interrupt s v).image = s.image := rfl
@[simp] theorem interrupt_lfcUp (s : State) (v : Nat) : (interrupt s v).lfcUp = s.lfcUp := rfl
@[simp] theorem interrupt_i3c (s : State) (v : Nat) : (interrupt s v).i3c = s.i3c := rfl
@[simp] theorem interrupt_eid (s : State) (v : Nat) : (interrupt s v).eid = s.eid := rfl
@[simp] theorem interrupt_spdmVer (s : State) (v : Nat) : (interrupt s v).spdmVer = s.spdmVer := rfl
@[simp] theorem interrupt_spdmAlg (s : State) (v : Nat) : (interrupt s v).spdmAlg = s.spdmAlg := rfl
@[simp] theorem interrupt_session (s : State) (v : Nat) : (interrupt s v).session = s.session := rfl
@[simp] theorem interrupt_mgmt (s : State) (v : Nat) : (interrupt s v).mgmt = s.mgmt := rfl
@[simp] theorem interrupt_chunkIn (s : State) (v : Nat) : (interrupt s v).chunkIn = s.chunkIn := rfl
@[simp] theorem interrupt_chunkNext (s : State) (v : Nat) : (interrupt s v).chunkNext = s.chunkNext := rfl
@[simp] theorem interrupt_chunkOut (s : State) (v : Nat) : (interrupt s v).chunkOut = s.chunkOut := rfl

/-! Groups, blocks, contexts. -/

theorem gAt_updG (s : State) (g j : Nat) (f : Group → Group) :
    gAt (updG s g f) j = if j = g then f (gAt s g) else gAt s j := Store.get_upd _ _ _ _

@[simp] theorem gAt_updG_self (s : State) (g : Nat) (f : Group → Group) : gAt (updG s g f) g = f (gAt s g) := by
  simp [gAt_updG]

theorem gAt_updG_ne (s : State) {g j : Nat} (f : Group → Group) (h : j ≠ g) : gAt (updG s g f) j = gAt s j := by
  simp [gAt_updG, h]

theorem bAt_updB (s : State) (b j : Nat) (f : Block → Block) :
    bAt (updB s b f) j = if j = b then f (bAt s b) else bAt s j := Store.get_upd _ _ _ _

@[simp] theorem bAt_updB_self (s : State) (b : Nat) (f : Block → Block) : bAt (updB s b f) b = f (bAt s b) := by
  simp [bAt_updB]

theorem ctxAt_updCtx (s : State) (c j : Nat) (f : Ctx → Ctx) :
    ctxAt (updCtx s c f) j = if j = c then f (ctxAt s c) else ctxAt s j := Store.get_upd _ _ _ _

@[simp] theorem ctxAt_updCtx_self (s : State) (c : Nat) (f : Ctx → Ctx) : ctxAt (updCtx s c f) c = f (ctxAt s c) := by
  simp [ctxAt_updCtx]

@[simp] theorem bAt_updG (s : State) (g b : Nat) (f : Group → Group) : bAt (updG s g f) b = bAt s b := rfl
@[simp] theorem ctxAt_updG (s : State) (g c : Nat) (f : Group → Group) : ctxAt (updG s g f) c = ctxAt s c := rfl
@[simp] theorem gAt_updB (s : State) (b g : Nat) (f : Block → Block) : gAt (updB s b f) g = gAt s g := rfl
@[simp] theorem ctxAt_updB (s : State) (b c : Nat) (f : Block → Block) : ctxAt (updB s b f) c = ctxAt s c := rfl
@[simp] theorem gAt_updCtx (s : State) (c g : Nat) (f : Ctx → Ctx) : gAt (updCtx s c f) g = gAt s g := rfl
@[simp] theorem bAt_updCtx (s : State) (c b : Nat) (f : Ctx → Ctx) : bAt (updCtx s c f) b = bAt s b := rfl

/-! Memory. -/

/-- A byte of memory after a write. -/
theorem memByte_memPut (s : State) (pa : Nat) (bs : List Byte) (a : Nat) :
    memByte (memPut s pa bs) a = if pa ≤ a ∧ a < pa + bs.length then bs.getD (a - pa) default else memByte s a :=
  Store.get_setList _ _ _ _

/-- A byte of the local store after a write. -/
theorem ls_lsPut (s : State) (k : Nat) (bs : List Byte) (a : Nat) :
    Store.get (lsPut s k bs).ls a = if k ≤ a ∧ a < k + bs.length then bs.getD (a - k) default else Store.get s.ls a :=
  Store.get_setList _ _ _ _

/-- A write keeps memory in its canonical form. -/
theorem memPut_wf (s : State) (pa : Nat) (bs : List Byte) (h : Memory.wf s.mem = true) : Memory.wf (memPut s pa bs).mem = true :=
  Store.wf_setList _ _ _ h

/-! The acting group and fragment. -/

@[simp] theorem updCG_curG (s : State) (f : Group → Group) : (updCG s f).curG = s.curG := rfl
@[simp] theorem updCG_curF (s : State) (f : Group → Group) : (updCG s f).curF = s.curF := rfl
@[simp] theorem updCF_curG (s : State) (h : Frag → Frag) : (updCF s h).curG = s.curG := rfl
@[simp] theorem updCF_curF (s : State) (h : Frag → Frag) : (updCF s h).curF = s.curF := rfl

@[simp] theorem cg_updCG (s : State) (f : Group → Group) : cg (updCG s f) = f (cg s) := by
  simp [cg, updCG]

theorem fragAt_updF (s : State) (g i j : Nat) (h : Frag → Frag) :
    fragAt (updF s g i h) g j = if j = i then h (fragAt s g i) else fragAt s g j := by
  simp [fragAt, updF, Store.get_upd]

@[simp] theorem fragAt_updF_self (s : State) (g i : Nat) (h : Frag → Frag) : fragAt (updF s g i h) g i = h (fragAt s g i) := by
  simp [fragAt_updF]

@[simp] theorem cf_updCF (s : State) (h : Frag → Frag) : cf (updCF s h) = h (cf s) := by
  simp [cf, updCF, updF, fragAt]

@[simp] theorem cg_updCF (s : State) (h : Frag → Frag) :
    cg (updCF s h) = { cg s with frags := Store.upd (cg s).frags s.curF h } := by
  simp [cg, updCF, updF, updG, gAt]

/-- A change of the acting group that keeps its fragments keeps the acting fragment. -/
theorem cf_updCG (s : State) (f : Group → Group) (h : (f (cg s)).frags = (cg s).frags) : cf (updCG s f) = cf s := by
  unfold cf fragAt
  rw [show gAt (updCG s f) (updCG s f).curG = f (cg s) from cg_updCG s f, h]; rfl

/-- Going on after an instruction (R33) keeps every register of the group. -/
@[simp] theorem cf_advance (s : State) : cf (advance s) = (cf s).onward := cf_updCF s _

@[simp] theorem cg_advance (s : State) :
    cg (advance s) = { cg s with frags := Store.upd (cg s).frags s.curF Frag.onward } := cg_updCF s _

/-! Registers. -/

/-- A vector register after a write; threads are below 32 (R51). -/
theorem rdV_wrV (g : Group) (r q t j : Nat) (w : Word) (ht : t < 32) (hj : j < 32) :
    rdV (wrV g r t w) q j = if q = r ∧ j = t then w else rdV g q j := by
  unfold rdV wrV
  rw [Store.get_set]
  by_cases h : q = r ∧ j = t
  · obtain ⟨rfl, rfl⟩ := h; simp
  · rw [if_neg h, if_neg (by omega)]

theorem rdS_wrS (g : Group) (r q : Nat) (w : Word) : rdS (wrS g r w) q = if q = r then w else rdS g q :=
  Store.get_set _ _ _ _

theorem rdP_wrP (g : Group) (r q : Nat) (w : Word) : rdP (wrP g r w) q = if q = r then w else rdP g q :=
  Store.get_set _ _ _ _

end Sys2Proof.Machine
end

