-- ==== Sys2Proof/Laws/Operands.lean ====
section
/-! SUPPORT. One lemma for each shared way of writing a result: everything that `done`, `runOver`, `perThread` and `perPred`
can do. -/

namespace Sys2Proof.Machine

/-! Masks and threads. -/

theorem mem_threads (m : Word) (j : Nat) : j ∈ threads m ↔ m.getLsbD j = true := by
  simp only [threads, List.mem_filter, List.mem_range, and_iff_right_iff_imp]
  intro h
  by_contra hj
  rw [BitVec.getLsbD_of_ge m j (by omega)] at h
  exact absurd h (by simp)

theorem nodup_threads (m : Word) : (threads m).Nodup := List.Nodup.filter _ List.nodup_range

theorem lt_of_mem_threads {m : Word} {j : Nat} (h : j ∈ threads m) : j < 32 :=
  List.mem_range.1 (List.mem_filter.1 h).1

/-- A word with one bit replaced. -/
theorem getLsbD_setBit (w : Word) (t j : Nat) (b : Bool) (hj : j < 32) :
    (setBit w t b).getLsbD j = if j = t then b else w.getLsbD j := by
  unfold setBit
  cases b
  · simp only [Bool.false_eq_true, if_false, BitVec.getLsbD_and, BitVec.getLsbD_not, BitVec.getLsbD_shiftLeft, BitVec.getLsbD_one]
    by_cases h : j = t
    · subst h; simp [hj]
    · simp only [h, if_false]
      by_cases h2 : j < t
      · simp [h2, hj]
      · simp [h2, hj, show j - t ≠ 0 by omega]
  · simp only [if_true, BitVec.getLsbD_or, BitVec.getLsbD_shiftLeft, BitVec.getLsbD_one]
    by_cases h : j = t
    · subst h; simp [hj]
    · simp only [h, if_false]
      by_cases h2 : j < t
      · simp [h2]
      · simp [h2, hj, show j - t ≠ 0 by omega]

theorem getLsbD_foldl_setBit (l : List Nat) (f : Nat → Bool) (w : Word) (j : Nat) (hj : j < 32) :
    (l.foldl (fun w t => setBit w t (f t)) w).getLsbD j = if j ∈ l then f j else w.getLsbD j := by
  induction l generalizing w with
  | nil => simp
  | cons t r ih =>
    simp only [List.foldl_cons, ih, getLsbD_setBit w t j _ hj, List.mem_cons]
    by_cases h1 : j ∈ r <;> by_cases h2 : j = t <;> simp_all

/-! Register writes. -/

@[simp] theorem wrS_v (g : Group) (r : Nat) (w : Word) : (wrS g r w).v = g.v := rfl
@[simp] theorem wrS_p (g : Group) (r : Nat) (w : Word) : (wrS g r w).p = g.p := rfl

/-- Consecutive writes change only the s file. -/
theorem wrSs_eq (g : Group) (r : Nat) (ws : List Word) : wrSs g r ws = { g with s := (wrSs g r ws).s } := by
  induction ws generalizing g r with
  | nil => rfl
  | cons w ws ih => simp only [wrSs]; rw [ih]; rfl

theorem rdS_wrSs (g : Group) (r q : Nat) (ws : List Word) :
    rdS (wrSs g r ws) q = if r ≤ q ∧ q < r + ws.length then ws.getD (q - r) 0#32 else rdS g q := by
  induction ws generalizing g r with
  | nil => rw [if_neg (by simp only [List.length_nil]; omega)]; rfl
  | cons w ws ih =>
    simp only [wrSs, ih, rdS_wrS, List.length_cons]
    by_cases h : q = r
    · subst h; rw [if_neg (by omega), if_pos rfl, if_pos (by omega)]; simp
    · by_cases h2 : r + 1 ≤ q ∧ q < r + 1 + ws.length
      · rw [if_pos h2, if_pos (by omega)]
        obtain ⟨n, hn⟩ : ∃ n, q - r = n + 1 := ⟨q - r - 1, by omega⟩
        rw [hn, List.getD_cons_succ]; congr 1; omega
      · rw [if_neg h2, if_neg h, if_neg (by omega)]

theorem wrVs_eq (g : Group) (n t : Nat) (ws : List Word) : wrVs g n t ws = { g with v := (wrVs g n t ws).v } := by
  induction ws generalizing g n with
  | nil => rfl
  | cons w ws ih => simp only [wrVs]; rw [ih]; rfl

theorem rdV_wrVs (g : Group) (n t q j : Nat) (ws : List Word) (ht : t < 32) (hj : j < 32) :
    rdV (wrVs g n t ws) q j = if j = t ∧ n ≤ q ∧ q < n + ws.length then ws.getD (q - n) 0#32 else rdV g q j := by
  induction ws generalizing g n with
  | nil => rw [if_neg (by simp only [List.length_nil]; omega)]; rfl
  | cons w ws ih =>
    simp only [wrVs, ih, rdV_wrV _ _ _ _ _ _ ht hj, List.length_cons]
    by_cases h : j = t
    · by_cases h1 : q = n
      · subst h1; rw [if_neg (by omega), if_pos ⟨rfl, h⟩, if_pos (by omega)]; simp
      · by_cases h2 : n + 1 ≤ q ∧ q < n + 1 + ws.length
        · rw [if_pos (by omega), if_pos (by omega)]
          obtain ⟨m, hm⟩ : ∃ m, q - n = m + 1 := ⟨q - n - 1, by omega⟩
          rw [hm, List.getD_cons_succ]; congr 1; omega
        · rw [if_neg (by omega), if_neg (by omega), if_neg (by omega)]
    · rw [if_neg (by omega), if_neg (by omega), if_neg (by omega)]

/-- The results of a vector-class instruction change only the v file. -/
theorem wrThreads_eq (g : Group) (d : Opnd) (rs : List (Nat × List Word)) :
    wrThreads g d rs = { g with v := (wrThreads g d rs).v } := by
  unfold wrThreads
  split
  · induction rs generalizing g with
    | nil => rfl
    | cons r rs ih => simp only [List.foldl_cons]; rw [ih, wrVs_eq]
  · rfl

theorem rdV_wrThreads (g : Group) (n q j k : Nat) (rs : List (Nat × List Word)) (hj : j < 32)
    (hl : ∀ r ∈ rs, r.1 < 32 ∧ r.2.length = k) (hn : (rs.map (·.1)).Nodup) :
    rdV (wrThreads g (.v n) rs) q j =
      if n ≤ q ∧ q < n + k then ((rs.find? fun r => r.1 == j).map fun r => r.2.getD (q - n) 0#32).getD (rdV g q j)
      else rdV g q j := by
  unfold wrThreads
  induction rs generalizing g with
  | nil => simp
  | cons r rs ih =>
    have h1 := hl r (by simp)
    have h2 : ∀ x ∈ rs, x.1 < 32 ∧ x.2.length = k := fun x hx => hl x (by simp [hx])
    simp only [List.map_cons, List.nodup_cons] at hn
    simp only [List.foldl_cons] at ih ⊢
    rw [ih _ h2 hn.2, rdV_wrVs _ _ _ _ _ _ h1.1 hj, h1.2]
    by_cases hq : n ≤ q ∧ q < n + k
    · simp only [hq, and_self, and_true, if_true, List.find?_cons]
      by_cases he : j = r.1
      · have : rs.find? (fun x => x.1 == j) = none := by
          simp only [List.find?_eq_none, beq_iff_eq]
          intro x hx hxj
          exact hn.1 (List.mem_map.2 ⟨x, hx, by rw [hxj, he]⟩)
        simp [he]
        subst he; simp [this]
      · have : (r.1 == j) = false := by simp; omega
        simp [he, this]
    · simp only [hq, if_false]
      rw [if_neg (by tauto)]

theorem wrDst_eq (g : Group) (d : Opnd) (ws : List Word) : wrDst g d ws = { g with s := (wrDst g d ws).s } := by
  unfold wrDst
  split
  · exact wrSs_eq g _ ws
  · rfl

/-! Frames. -/

/-- A change of the acting group to its register files, FLAGS and SRGEN, after which the fragment goes on. -/
theorem regFrame_of (s : State) (f : Group → Group)
    (h : f (cg s) = { cg s with v := (f (cg s)).v, s := (f (cg s)).s, p := (f (cg s)).p, flags := (f (cg s)).flags
                                srgen := (f (cg s)).srgen }) :
    RegFrame s (advance (updCG s f)) := by
  have hf : (f (cg s)).frags = (cg s).frags := by rw [h]
  refine ⟨⟨rfl, fun g hg => ?_, fun _ => rfl, fun _ => rfl⟩, ?_, fun i hi => ?_, ?_⟩
  · have h1 : gAt (advance (updCG s f)) g = gAt (updCG s f) g := gAt_updG_ne _ _ hg
    rw [h1]; exact gAt_updG_ne _ _ hg
  · rw [cg_advance, cg_updCG]
    exact congrArg (fun x : Group => { x with frags := Store.upd (f (cg s)).frags s.curF Frag.onward }) h
  · have h1 : fragAt (advance (updCG s f)) s.curG i = fragAt (updCG s f) s.curG i :=
      (fragAt_updF _ _ _ _ _).trans (if_neg hi)
    rw [h1]; unfold fragAt
    rw [show gAt (updCG s f) s.curG = f (cg s) from cg_updCG s f, hf]; rfl
  · rw [cf_advance, cf_updCG s f hf]

/-- Going on alone is in the frame. -/
theorem regFrame_advance (s : State) : RegFrame s (advance s) :=
  ⟨⟨rfl, fun _ hg => gAt_updG_ne _ _ hg, fun _ => rfl, fun _ => rfl⟩, by rw [cg_advance],
    fun _ hi => (fragAt_updF _ _ _ _ _).trans (if_neg hi), cf_advance s⟩

/-! Results over threads. -/

/-- How many elements of a list come before one. -/
theorem turn_cons_ne (t j : Nat) (r : List Nat) (h : t ≠ j) :
    ((t :: r).takeWhile (· != j)).length = (r.takeWhile (· != j)).length + 1 := by
  simp [h]

/-- `overThreads` in closed form, for a step that reads the generator and moves it on by the same amount for every
thread. -/
theorem overThreads_closed (f : Nat → Env → List Word × Env) (h : Nat → Word → List Word × Nat) (adv : Word → Word)
    (hf : ∀ t e, f t e = ((h t e.sr).1, ⟨e.fl ||| (h t e.sr).2, adv e.sr⟩)) (ts : List Nat) (hn : ts.Nodup) (e : Env) :
    overThreads f ts e =
      (ts.map (fun j => (j, (h j (adv^[(ts.takeWhile (· != j)).length] e.sr)).1)),
        ⟨(ts.map fun j => (h j (adv^[(ts.takeWhile (· != j)).length] e.sr)).2).foldl (· ||| ·) e.fl, adv^[ts.length] e.sr⟩) := by
  induction ts generalizing e with
  | nil => rfl
  | cons t r ih =>
    obtain ⟨ht, hr⟩ := List.nodup_cons.1 hn
    have hne : ∀ j ∈ r, t ≠ j := fun j hj e => ht (e ▸ hj)
    simp only [overThreads, hf, ih hr, List.map_cons, List.foldl_cons, List.length_cons, Function.iterate_succ_apply]
    have h0 : ((t :: r).takeWhile (· != t)).length = 0 := by simp
    have h1 : ∀ {β : Type} (F : Nat → Word → β), r.map (fun j => F j (adv^[((t :: r).takeWhile (· != j)).length] e.sr)) =
        r.map (fun j => F j (adv^[(r.takeWhile (· != j)).length] (adv e.sr))) := fun F =>
      List.map_congr_left fun j hj => by rw [turn_cons_ne t j r (hne j hj), Function.iterate_succ_apply]
    rw [h0, h1 (fun j w => (j, (h j w).1)), h1 (fun j w => (h j w).2)]
    rfl

theorem find_map_self {β : Type} (ts : List Nat) (F : Nat → β) (j : Nat) :
    (ts.map fun x => (x, F x)).find? (fun r => r.1 == j) = if j ∈ ts then some (j, F j) else none := by
  induction ts with
  | nil => simp
  | cons t r ih =>
    by_cases h : t = j
    · subst h; simp
    · simp [h, ih, Ne.symm h]

theorem orFlags_toList (o : Option Nat) (F : Nat → Nat) : orFlags (o.toList.map F) = (o.map F).getD 0 := by
  cases o <;> simp [orFlags]

/-- Everything that an instruction run over its threads does, when its step reads the generator and moves it on by the
same amount for every thread. -/
theorem runOver_spec (s : State) (d : Opnd) (f : Nat → Env → List Word × Env) (h : Nat → Word → List Word × Nat)
    (adv : Word → Word) (k : Nat)
    (hf : ∀ t e, f t e = ((h t e.sr).1, ⟨e.fl ||| (h t e.sr).2, adv e.sr⟩)) (hk : ∀ t w, (h t w).1.length = k) :
    Wrote s (advance (runOver s d f)) d k (fun j i => (h j (adv^[turnOf s d j] (cg s).srgen)).1.getD i 0#32) ∧
    RaisedFlags s (advance (runOver s d f)) d (fun j => (h j (adv^[turnOf s d j] (cg s).srgen)).2) ∧
    (cg (advance (runOver s d f))).srgen = adv^[(execThreads s d).length] (cg s).srgen ∧
    RegFrame s (advance (runOver s d f)) := by
  have key : ∀ d : Opnd, (∀ n, d ≠ .s n) →
      runOver s d f = updCG s fun g =>
        orFl { wrThreads g d (overThreads f (threads (selected s)) ⟨0, (cg s).srgen⟩).1 with
          srgen := (overThreads f (threads (selected s)) ⟨0, (cg s).srgen⟩).2.sr }
          (overThreads f (threads (selected s)) ⟨0, (cg s).srgen⟩).2.fl := by
    intro d hd
    cases d <;> first | rfl | exact absurd rfl (hd _)
  by_cases hd : ∃ n, d = .s n
  · obtain ⟨n, rfl⟩ := hd
    cases hl : lowest (active s) with
    | none =>
      have h0 : runOver s (.s n) f = s := by simp [runOver, hl]
      rw [h0]
      refine ⟨?_, ?_, ?_, regFrame_advance s⟩
      · simp [Wrote, WroteIn, hl, rdS]
      · simp [RaisedFlags, execThreads, hl, orFlags, w32]
      · simp [execThreads, hl]
    | some l =>
      have h0 : runOver s (.s n) f = updCG s fun g =>
          orFl { wrSs g n (h l (cg s).srgen).1 with srgen := adv (cg s).srgen } (0 ||| (h l (cg s).srgen).2) := by
        simp [runOver, hl, hf]
      have h1 : turnOf s (.s n) l = 0 := by simp [turnOf, execThreads, hl]
      rw [h0]
      refine ⟨?_, ?_, ?_, regFrame_of _ _ ?_⟩
      · refine ⟨fun r => ?_, ?_, ?_⟩
        · simp only [cg_advance, cg_updCG, hl, h1, Function.iterate_zero, id]
          exact (rdS_wrSs (cg s) n r _).trans (by rw [hk])
        · simp only [cg_advance, cg_updCG, orFl]; rw [wrSs_eq]
        · simp only [cg_advance, cg_updCG, orFl]; rw [wrSs_eq]
      · simp only [RaisedFlags, cg_advance, cg_updCG, orFl, execThreads, hl, orFlags_toList, Option.map_some, Option.getD_some, h1,
          Function.iterate_zero, id, Nat.zero_or]
        rw [wrSs_eq]
      · simp [cg_advance, cg_updCG, orFl, execThreads, hl]
      · simp only [orFl]; rw [wrSs_eq]
  · have hd' : ∀ n, d ≠ .s n := fun n e => hd ⟨n, e⟩
    have ht : execThreads s d = threads (selected s) := by
      cases d <;> first | rfl | exact absurd rfl (hd' _)
    have hturn : ∀ j, turnOf s d j = ((threads (selected s)).takeWhile (· != j)).length := fun j => by rw [turnOf, ht]
    rw [key d hd', overThreads_closed f h adv hf _ (nodup_threads _)]
    refine ⟨?_, ?_, ?_, regFrame_of _ _ ?_⟩
    · cases d with
      | v n =>
        refine ⟨fun r j hj => ?_, ?_, ?_⟩
        · simp only [cg_advance, cg_updCG, orFl]
          have := rdV_wrThreads (cg s) n r j k
            ((threads (selected s)).map fun j => (j, (h j (adv^[turnOf s (.v n) j] (cg s).srgen)).1)) hj
            (by simp only [List.mem_map]; rintro x ⟨t, ht, rfl⟩; exact ⟨lt_of_mem_threads ht, hk _ _⟩)
            (by simpa [Function.comp_def] using nodup_threads (selected s))
          simp only [hturn] at this ⊢
          refine Eq.trans ?_ (this.trans ?_)
          · rfl
          · rw [find_map_self]
            simp only [mem_threads]
            by_cases h1 : n ≤ r ∧ r < n + k
            · by_cases h2 : (selected s).getLsbD j = true
              · simp [h1, h2]
              · simp [h1, h2]
            · rw [if_neg h1, if_neg (by tauto)]
        · simp only [cg_advance, cg_updCG, orFl]; rw [wrThreads_eq]
        · simp only [cg_advance, cg_updCG, orFl]; rw [wrThreads_eq]
      | s n => exact absurd rfl (hd' n)
      | _ => simp [Wrote, WroteIn, SameRegs, cg_advance, cg_updCG, orFl, wrThreads]
    · simp only [RaisedFlags, cg_advance, cg_updCG, orFl, ht, hturn, orFlags]
      rw [wrThreads_eq]
    · simp [cg_advance, cg_updCG, orFl, ht]
    · simp only [orFl]; rw [wrThreads_eq]

/-- Everything that an instruction with one result word per thread does. -/
theorem perThread_spec (s : State) (d : Opnd) (f : Nat → Word × Nat) :
    ∃ t, perThread s d f = .next t ∧ Wrote s t d 1 (fun j _ => (f j).1) ∧ RaisedFlags s t d (fun j => (f j).2) ∧
      (cg t).srgen = (cg s).srgen ∧ RegFrame s t := by
  have h := runOver_spec s d (fun t e => ([(f t).1], e.flag (f t).2)) (fun t _ => ([(f t).1], (f t).2)) id 1
    (fun _ _ => rfl) (fun _ _ => rfl)
  refine ⟨_, rfl, ?_, h.2.1, by simpa using h.2.2.1, h.2.2.2⟩
  have h1 := h.1
  cases d <;> simp only [Wrote, WroteIn] at h1 ⊢ <;> try exact h1
  · refine ⟨fun r j hj => (h1.1 r j hj).trans ?_, h1.2⟩
    split
    · rename_i hc; rw [show r - _ = 0 by omega]; rfl
    · rfl
  · refine ⟨fun r => (h1.1 r).trans ?_, h1.2⟩
    cases lowest (active s) with
    | none => rfl
    | some l =>
      simp only
      split
      · rename_i hc; rw [show r - _ = 0 by omega]; rfl
      · rfl

/-- Everything that an instruction that writes one predicate does. -/
theorem perPred_spec (s : State) (p : Nat) (f : Nat → Bool) :
    ∃ t, perPred s p f = .next t ∧ WrotePred s t p f ∧ SameFlags s t ∧ RegFrame s t := by
  refine ⟨_, rfl, ⟨fun j hj => ?_, fun q hq => ?_, ?_, ?_⟩, ⟨?_, ?_⟩, regFrame_of _ _ rfl⟩ <;>
    simp only [setPred, cg_advance, cg_updCG, wrP, rdP, pbit]
  · simp only [Store.get_set_self]
    rw [getLsbD_foldl_setBit _ _ _ _ hj]
    simp only [mem_threads]
  · exact Store.get_set_ne _ _ hq

end Sys2Proof.Machine
end

