-- ==== Sys2Proof/Laws/PerInstr.lean ====
section
/-! SUPPORT. Statements made instruction by instruction. -/

namespace Sys2Proof.Laws.Encoding

open Sys2Proof Sys2Proof.Machine

/-- A well-formed instruction takes its word and at most two literal words; a step of the part takes none (R24, R28). -/
def Statement (i : Instr) : Prop := wellFormed i = true → (encode i).length ≤ 3

/-- The statement for any instruction. -/
theorem length_le (i : Instr) : Statement i := by
  intro h
  cases hf : form i with
  | none => simp [encode, hf]
  | some f =>
    simp only [wellFormed, hf, Form.legal, Bool.and_eq_true, decide_eq_true_eq] at h
    simp only [encode, hf, List.length_cons]
    omega

end Sys2Proof.Laws.Encoding

open Sys2Proof

theorem Sys2Proof.Laws.Encoding.nop : Statement .nop := length_le _
theorem Sys2Proof.Laws.Encoding.bra (a : Opnd) : Statement (.bra a) := length_le _
theorem Sys2Proof.Laws.Encoding.brc (n : BitVec 1) (p : BitVec 3) (a : Opnd) (b : Opnd) : Statement (.brc n p a b) := length_le _
theorem Sys2Proof.Laws.Encoding.brx (a : Opnd) (b : Opnd) : Statement (.brx a b) := length_le _
theorem Sys2Proof.Laws.Encoding.call (a : Opnd) : Statement (.call a) := length_le _
theorem Sys2Proof.Laws.Encoding.ret : Statement .ret := length_le _
theorem Sys2Proof.Laws.Encoding.sync : Statement .sync := length_le _
theorem Sys2Proof.Laws.Encoding.exit : Statement .exit := length_le _
theorem Sys2Proof.Laws.Encoding.yield : Statement .yield := length_le _
theorem Sys2Proof.Laws.Encoding.sleep (a : Opnd) : Statement (.sleep a) := length_le _
theorem Sys2Proof.Laws.Encoding.trap (a : Opnd) : Statement (.trap a) := length_le _
theorem Sys2Proof.Laws.Encoding.setm (m : BitVec 8) (a : Opnd) : Statement (.setm m a) := length_le _
theorem Sys2Proof.Laws.Encoding.getm (d : Opnd) : Statement (.getm d) := length_le _
theorem Sys2Proof.Laws.Encoding.mfs (d : Opnd) (i : BitVec 8) : Statement (.mfs d i) := length_le _
theorem Sys2Proof.Laws.Encoding.mts (i : BitVec 8) (b : Opnd) : Statement (.mts i b) := length_le _
theorem Sys2Proof.Laws.Encoding.bar (k : BitVec 3) (b : Opnd) : Statement (.bar k b) := length_le _
theorem Sys2Proof.Laws.Encoding.arrive (d : Opnd) (k : BitVec 3) (b : Opnd) : Statement (.arrive d k b) := length_le _
theorem Sys2Proof.Laws.Encoding.await (d : Opnd) (k : BitVec 3) (b : Opnd) : Statement (.await d k b) := length_le _
theorem Sys2Proof.Laws.Encoding.vote (d : Opnd) (k : BitVec 2) (n : BitVec 1) (p : BitVec 3) : Statement (.vote d k n p) := length_le _
theorem Sys2Proof.Laws.Encoding.ipf (l : BitVec 1) (a : Opnd) (b : Opnd) : Statement (.ipf l a b) := length_le _
theorem Sys2Proof.Laws.Encoding.pin (l : BitVec 1) (a : Opnd) (b : Opnd) : Statement (.pin l a b) := length_le _
theorem Sys2Proof.Laws.Encoding.unpin (l : BitVec 1) (a : Opnd) (b : Opnd) : Statement (.unpin l a b) := length_le _
theorem Sys2Proof.Laws.Encoding.add (d : Opnd) (a : Opnd) (b : Opnd) : Statement (.add d a b) := length_le _
theorem Sys2Proof.Laws.Encoding.sub (d : Opnd) (a : Opnd) (b : Opnd) : Statement (.sub d a b) := length_le _
theorem Sys2Proof.Laws.Encoding.addc (d : Opnd) (a : Opnd) (b : Opnd) : Statement (.addc d a b) := length_le _
theorem Sys2Proof.Laws.Encoding.subb (d : Opnd) (a : Opnd) (b : Opnd) : Statement (.subb d a b) := length_le _
theorem Sys2Proof.Laws.Encoding.mul (d : Opnd) (a : Opnd) (b : Opnd) : Statement (.mul d a b) := length_le _
theorem Sys2Proof.Laws.Encoding.mulh (d : Opnd) (a : Opnd) (b : Opnd) : Statement (.mulh d a b) := length_le _
theorem Sys2Proof.Laws.Encoding.mulhn (d : Opnd) (a : Opnd) (b : Opnd) : Statement (.mulhn d a b) := length_le _
theorem Sys2Proof.Laws.Encoding.mad (d : Opnd) (a : Opnd) (b : Opnd) : Statement (.mad d a b) := length_le _
theorem Sys2Proof.Laws.Encoding.div (d : Opnd) (a : Opnd) (b : Opnd) : Statement (.div d a b) := length_le _
theorem Sys2Proof.Laws.Encoding.divn (d : Opnd) (a : Opnd) (b : Opnd) : Statement (.divn d a b) := length_le _
theorem Sys2Proof.Laws.Encoding.rem (d : Opnd) (a : Opnd) (b : Opnd) : Statement (.rem d a b) := length_le _
theorem Sys2Proof.Laws.Encoding.remn (d : Opnd) (a : Opnd) (b : Opnd) : Statement (.remn d a b) := length_le _
theorem Sys2Proof.Laws.Encoding.and (d : Opnd) (a : Opnd) (b : Opnd) : Statement (.and d a b) := length_le _
theorem Sys2Proof.Laws.Encoding.or (d : Opnd) (a : Opnd) (b : Opnd) : Statement (.or d a b) := length_le _
theorem Sys2Proof.Laws.Encoding.xor (d : Opnd) (a : Opnd) (b : Opnd) : Statement (.xor d a b) := length_le _
theorem Sys2Proof.Laws.Encoding.andn (d : Opnd) (a : Opnd) (b : Opnd) : Statement (.andn d a b) := length_le _
theorem Sys2Proof.Laws.Encoding.shl (d : Opnd) (a : Opnd) (b : Opnd) : Statement (.shl d a b) := length_le _
theorem Sys2Proof.Laws.Encoding.shr (d : Opnd) (a : Opnd) (b : Opnd) : Statement (.shr d a b) := length_le _
theorem Sys2Proof.Laws.Encoding.sar (d : Opnd) (a : Opnd) (b : Opnd) : Statement (.sar d a b) := length_le _
theorem Sys2Proof.Laws.Encoding.rot (d : Opnd) (a : Opnd) (b : Opnd) : Statement (.rot d a b) := length_le _
theorem Sys2Proof.Laws.Encoding.min (d : Opnd) (a : Opnd) (b : Opnd) : Statement (.min d a b) := length_le _
theorem Sys2Proof.Laws.Encoding.max (d : Opnd) (a : Opnd) (b : Opnd) : Statement (.max d a b) := length_le _
theorem Sys2Proof.Laws.Encoding.minn (d : Opnd) (a : Opnd) (b : Opnd) : Statement (.minn d a b) := length_le _
theorem Sys2Proof.Laws.Encoding.maxn (d : Opnd) (a : Opnd) (b : Opnd) : Statement (.maxn d a b) := length_le _
theorem Sys2Proof.Laws.Encoding.abs (d : Opnd) (a : Opnd) : Statement (.abs d a) := length_le _
theorem Sys2Proof.Laws.Encoding.clz (d : Opnd) (a : Opnd) : Statement (.clz d a) := length_le _
theorem Sys2Proof.Laws.Encoding.popc (d : Opnd) (a : Opnd) : Statement (.popc d a) := length_le _
theorem Sys2Proof.Laws.Encoding.brev (d : Opnd) (a : Opnd) : Statement (.brev d a) := length_le _
theorem Sys2Proof.Laws.Encoding.bfe (d : Opnd) (a : Opnd) (b : Opnd) : Statement (.bfe d a b) := length_le _
theorem Sys2Proof.Laws.Encoding.bfi (d : Opnd) (a : Opnd) (b : Opnd) : Statement (.bfi d a b) := length_le _
theorem Sys2Proof.Laws.Encoding.sel (d : Opnd) (a : Opnd) (b : Opnd) : Statement (.sel d a b) := length_le _
theorem Sys2Proof.Laws.Encoding.mov (d : Opnd) (a : Opnd) : Statement (.mov d a) := length_le _
theorem Sys2Proof.Laws.Encoding.cmp (c : BitVec 3) (p : BitVec 3) (a : Opnd) (b : Opnd) : Statement (.cmp c p a b) := length_le _
theorem Sys2Proof.Laws.Encoding.cmpn (c : BitVec 3) (p : BitVec 3) (a : Opnd) (b : Opnd) : Statement (.cmpn c p a b) := length_le _
theorem Sys2Proof.Laws.Encoding.fcmp (c : BitVec 3) (p : BitVec 3) (a : Opnd) (b : Opnd) : Statement (.fcmp c p a b) := length_le _
theorem Sys2Proof.Laws.Encoding.pand (p : BitVec 3) (n : BitVec 1) (q : BitVec 3) (m : BitVec 1) (r : BitVec 3) : Statement (.pand p n q m r) := length_le _
theorem Sys2Proof.Laws.Encoding.por (p : BitVec 3) (n : BitVec 1) (q : BitVec 3) (m : BitVec 1) (r : BitVec 3) : Statement (.por p n q m r) := length_le _
theorem Sys2Proof.Laws.Encoding.pxor (p : BitVec 3) (n : BitVec 1) (q : BitVec 3) (m : BitVec 1) (r : BitVec 3) : Statement (.pxor p n q m r) := length_le _
theorem Sys2Proof.Laws.Encoding.pset (p : BitVec 3) (a : Opnd) : Statement (.pset p a) := length_le _
theorem Sys2Proof.Laws.Encoding.pget (d : Opnd) (p : BitVec 3) : Statement (.pget d p) := length_le _
theorem Sys2Proof.Laws.Encoding.shfl (d : Opnd) (a : Opnd) (b : Opnd) : Statement (.shfl d a b) := length_le _
theorem Sys2Proof.Laws.Encoding.shup (d : Opnd) (a : Opnd) (b : Opnd) : Statement (.shup d a b) := length_le _
theorem Sys2Proof.Laws.Encoding.shdn (d : Opnd) (a : Opnd) (b : Opnd) : Statement (.shdn d a b) := length_le _
theorem Sys2Proof.Laws.Encoding.qswz (d : Opnd) (a : Opnd) (b : Opnd) : Statement (.qswz d a b) := length_le _
theorem Sys2Proof.Laws.Encoding.qxh (d : Opnd) (a : Opnd) : Statement (.qxh d a) := length_le _
theorem Sys2Proof.Laws.Encoding.qxv (d : Opnd) (a : Opnd) : Statement (.qxv d a) := length_le _
theorem Sys2Proof.Laws.Encoding.qxd (d : Opnd) (a : Opnd) : Statement (.qxd d a) := length_le _
theorem Sys2Proof.Laws.Encoding.nibl (d : Opnd) (a : Opnd) (b : Opnd) : Statement (.nibl d a b) := length_le _
theorem Sys2Proof.Laws.Encoding.nibh (d : Opnd) (a : Opnd) (b : Opnd) : Statement (.nibh d a b) := length_le _
theorem Sys2Proof.Laws.Encoding.prmt (d : Opnd) (a : Opnd) (b : Opnd) : Statement (.prmt d a b) := length_le _
theorem Sys2Proof.Laws.Encoding.radd (d : Opnd) (a : Opnd) : Statement (.radd d a) := length_le _
theorem Sys2Proof.Laws.Encoding.rmax (d : Opnd) (a : Opnd) : Statement (.rmax d a) := length_le _
theorem Sys2Proof.Laws.Encoding.rmin (d : Opnd) (a : Opnd) : Statement (.rmin d a) := length_le _
theorem Sys2Proof.Laws.Encoding.fradd (d : Opnd) (a : Opnd) : Statement (.fradd d a) := length_le _
theorem Sys2Proof.Laws.Encoding.frmax (d : Opnd) (a : Opnd) : Statement (.frmax d a) := length_le _
theorem Sys2Proof.Laws.Encoding.psum (d : Opnd) (a : Opnd) : Statement (.psum d a) := length_le _
theorem Sys2Proof.Laws.Encoding.psumx (d : Opnd) (a : Opnd) : Statement (.psumx d a) := length_le _
theorem Sys2Proof.Laws.Encoding.fadd (d : Opnd) (a : Opnd) (b : Opnd) : Statement (.fadd d a b) := length_le _
theorem Sys2Proof.Laws.Encoding.fsub (d : Opnd) (a : Opnd) (b : Opnd) : Statement (.fsub d a b) := length_le _
theorem Sys2Proof.Laws.Encoding.fmul (d : Opnd) (a : Opnd) (b : Opnd) : Statement (.fmul d a b) := length_le _
theorem Sys2Proof.Laws.Encoding.fma (d : Opnd) (a : Opnd) (b : Opnd) : Statement (.fma d a b) := length_le _
theorem Sys2Proof.Laws.Encoding.fms (d : Opnd) (a : Opnd) (b : Opnd) : Statement (.fms d a b) := length_le _
theorem Sys2Proof.Laws.Encoding.fmin (d : Opnd) (a : Opnd) (b : Opnd) : Statement (.fmin d a b) := length_le _
theorem Sys2Proof.Laws.Encoding.fmax (d : Opnd) (a : Opnd) (b : Opnd) : Statement (.fmax d a b) := length_le _
theorem Sys2Proof.Laws.Encoding.fabs (d : Opnd) (a : Opnd) : Statement (.fabs d a) := length_le _
theorem Sys2Proof.Laws.Encoding.fneg (d : Opnd) (a : Opnd) : Statement (.fneg d a) := length_le _
theorem Sys2Proof.Laws.Encoding.frcp (d : Opnd) (a : Opnd) : Statement (.frcp d a) := length_le _
theorem Sys2Proof.Laws.Encoding.frsq (d : Opnd) (a : Opnd) : Statement (.frsq d a) := length_le _
theorem Sys2Proof.Laws.Encoding.fsqrt (d : Opnd) (a : Opnd) : Statement (.fsqrt d a) := length_le _
theorem Sys2Proof.Laws.Encoding.fexp2 (d : Opnd) (a : Opnd) : Statement (.fexp2 d a) := length_le _
theorem Sys2Proof.Laws.Encoding.flog2 (d : Opnd) (a : Opnd) : Statement (.flog2 d a) := length_le _
theorem Sys2Proof.Laws.Encoding.fsin (d : Opnd) (a : Opnd) : Statement (.fsin d a) := length_le _
theorem Sys2Proof.Laws.Encoding.fcos (d : Opnd) (a : Opnd) : Statement (.fcos d a) := length_le _
theorem Sys2Proof.Laws.Encoding.ftanh (d : Opnd) (a : Opnd) : Statement (.ftanh d a) := length_le _
theorem Sys2Proof.Laws.Encoding.fscal (d : Opnd) (a : Opnd) (b : Opnd) : Statement (.fscal d a b) := length_le _
theorem Sys2Proof.Laws.Encoding.frnd (d : Opnd) (a : Opnd) : Statement (.frnd d a) := length_le _
theorem Sys2Proof.Laws.Encoding.fdot2 (d : Opnd) (a : Opnd) (b : Opnd) : Statement (.fdot2 d a b) := length_le _
theorem Sys2Proof.Laws.Encoding.scaleq (d : Opnd) (a : Opnd) (f : BitVec 3) : Statement (.scaleq d a f) := length_le _
theorem Sys2Proof.Laws.Encoding.f2i (d : Opnd) (a : Opnd) : Statement (.f2i d a) := length_le _
theorem Sys2Proof.Laws.Encoding.f2n (d : Opnd) (a : Opnd) : Statement (.f2n d a) := length_le _
theorem Sys2Proof.Laws.Encoding.i2f (d : Opnd) (a : Opnd) : Statement (.i2f d a) := length_le _
theorem Sys2Proof.Laws.Encoding.n2f (d : Opnd) (a : Opnd) : Statement (.n2f d a) := length_le _
theorem Sys2Proof.Laws.Encoding.f2h (d : Opnd) (a : Opnd) (b : Opnd) : Statement (.f2h d a b) := length_le _
theorem Sys2Proof.Laws.Encoding.h2f (d : Opnd) (a : Opnd) (e : BitVec 1) : Statement (.h2f d a e) := length_le _
theorem Sys2Proof.Laws.Encoding.pk8 (d : Opnd) (a : Opnd) (b : Opnd) : Statement (.pk8 d a b) := length_le _
theorem Sys2Proof.Laws.Encoding.upk8 (d : Opnd) (a : Opnd) (b : Opnd) : Statement (.upk8 d a b) := length_le _
theorem Sys2Proof.Laws.Encoding.qfpk (d : Opnd) (a : Opnd) (f : BitVec 3) : Statement (.qfpk d a f) := length_le _
theorem Sys2Proof.Laws.Encoding.qfupk (d : Opnd) (a : Opnd) (f : BitVec 3) : Statement (.qfupk d a f) := length_le _
theorem Sys2Proof.Laws.Encoding.amaxr (d : Opnd) (a : Opnd) : Statement (.amaxr d a) := length_le _
theorem Sys2Proof.Laws.Encoding.ldb (d : Opnd) (a : Opnd) (b : Opnd) : Statement (.ldb d a b) := length_le _
theorem Sys2Proof.Laws.Encoding.ldbs (d : Opnd) (a : Opnd) (b : Opnd) : Statement (.ldbs d a b) := length_le _
theorem Sys2Proof.Laws.Encoding.ldh (d : Opnd) (a : Opnd) (b : Opnd) : Statement (.ldh d a b) := length_le _
theorem Sys2Proof.Laws.Encoding.ldhs (d : Opnd) (a : Opnd) (b : Opnd) : Statement (.ldhs d a b) := length_le _
theorem Sys2Proof.Laws.Encoding.ldw (d : Opnd) (a : Opnd) (b : Opnd) : Statement (.ldw d a b) := length_le _
theorem Sys2Proof.Laws.Encoding.ldd (d : Opnd) (a : Opnd) (b : Opnd) : Statement (.ldd d a b) := length_le _
theorem Sys2Proof.Laws.Encoding.ldq (d : Opnd) (a : Opnd) (b : Opnd) : Statement (.ldq d a b) := length_le _
theorem Sys2Proof.Laws.Encoding.stb (x : Opnd) (a : Opnd) (b : Opnd) : Statement (.stb x a b) := length_le _
theorem Sys2Proof.Laws.Encoding.sth (x : Opnd) (a : Opnd) (b : Opnd) : Statement (.sth x a b) := length_le _
theorem Sys2Proof.Laws.Encoding.stw (x : Opnd) (a : Opnd) (b : Opnd) : Statement (.stw x a b) := length_le _
theorem Sys2Proof.Laws.Encoding.std (x : Opnd) (a : Opnd) (b : Opnd) : Statement (.std x a b) := length_le _
theorem Sys2Proof.Laws.Encoding.stq (x : Opnd) (a : Opnd) (b : Opnd) : Statement (.stq x a b) := length_le _
theorem Sys2Proof.Laws.Encoding.prf (l : BitVec 1) (a : Opnd) (b : Opnd) : Statement (.prf l a b) := length_le _
theorem Sys2Proof.Laws.Encoding.pgreq (d : Opnd) (a : Opnd) (b : Opnd) : Statement (.pgreq d a b) := length_le _
theorem Sys2Proof.Laws.Encoding.atadd (d : Opnd) (a : Opnd) (b : Opnd) (u : Word) : Statement (.atadd d a b u) := length_le _
theorem Sys2Proof.Laws.Encoding.atmin (d : Opnd) (a : Opnd) (b : Opnd) (u : Word) : Statement (.atmin d a b u) := length_le _
theorem Sys2Proof.Laws.Encoding.atmax (d : Opnd) (a : Opnd) (b : Opnd) (u : Word) : Statement (.atmax d a b u) := length_le _
theorem Sys2Proof.Laws.Encoding.atminn (d : Opnd) (a : Opnd) (b : Opnd) (u : Word) : Statement (.atminn d a b u) := length_le _
theorem Sys2Proof.Laws.Encoding.atmaxn (d : Opnd) (a : Opnd) (b : Opnd) (u : Word) : Statement (.atmaxn d a b u) := length_le _
theorem Sys2Proof.Laws.Encoding.atand (d : Opnd) (a : Opnd) (b : Opnd) (u : Word) : Statement (.atand d a b u) := length_le _
theorem Sys2Proof.Laws.Encoding.ator (d : Opnd) (a : Opnd) (b : Opnd) (u : Word) : Statement (.ator d a b u) := length_le _
theorem Sys2Proof.Laws.Encoding.atxor (d : Opnd) (a : Opnd) (b : Opnd) (u : Word) : Statement (.atxor d a b u) := length_le _
theorem Sys2Proof.Laws.Encoding.atxch (d : Opnd) (a : Opnd) (b : Opnd) (u : Word) : Statement (.atxch d a b u) := length_le _
theorem Sys2Proof.Laws.Encoding.atcas (d : Opnd) (a : Opnd) (b : Opnd) (u : Word) (w : Word) : Statement (.atcas d a b u w) := length_le _
theorem Sys2Proof.Laws.Encoding.atfadd (d : Opnd) (a : Opnd) (b : Opnd) (u : Word) : Statement (.atfadd d a b u) := length_le _
theorem Sys2Proof.Laws.Encoding.atfmax (d : Opnd) (a : Opnd) (b : Opnd) (u : Word) : Statement (.atfmax d a b u) := length_le _
theorem Sys2Proof.Laws.Encoding.frel (s : BitVec 2) : Statement (.frel s) := length_le _
theorem Sys2Proof.Laws.Encoding.facq : Statement .facq := length_le _
theorem Sys2Proof.Laws.Encoding.fseq (s : BitVec 2) : Statement (.fseq s) := length_le _
theorem Sys2Proof.Laws.Encoding.frc (d : Opnd) : Statement (.frc d) := length_le _
theorem Sys2Proof.Laws.Encoding.wtime (a : Opnd) : Statement (.wtime a) := length_le _
theorem Sys2Proof.Laws.Encoding.flush (i : BitVec 1) : Statement (.flush i) := length_le _
theorem Sys2Proof.Laws.Encoding.mds (j : BitVec 2) (a : Opnd) : Statement (.mds j a) := length_le _
theorem Sys2Proof.Laws.Encoding.gang (a : Opnd) : Statement (.gang a) := length_le _
theorem Sys2Proof.Laws.Encoding.mma (f : Opnd) (a : Opnd) (j : BitVec 2) : Statement (.mma f a j) := length_le _
theorem Sys2Proof.Laws.Encoding.mmas (f : Opnd) (a : Opnd) (j : BitVec 2) : Statement (.mmas f a j) := length_le _
theorem Sys2Proof.Laws.Encoding.mzro (f : Opnd) : Statement (.mzro f) := length_le _
theorem Sys2Proof.Laws.Encoding.ascore (d : Opnd) (a : Opnd) (r : BitVec 2) (j : BitVec 2) : Statement (.ascore d a r j) := length_le _
theorem Sys2Proof.Laws.Encoding.avacc (f : Opnd) (r : BitVec 2) (j : BitVec 2) : Statement (.avacc f r j) := length_le _
theorem Sys2Proof.Laws.Encoding.afin (f : Opnd) (a : Opnd) (l : BitVec 1) (r : BitVec 2) : Statement (.afin f a l r) := length_le _
theorem Sys2Proof.Laws.Encoding.arst (r : BitVec 2) (a : Opnd) (b : Opnd) : Statement (.arst r a b) := length_le _
theorem Sys2Proof.Laws.Encoding.arow (d : Opnd) (r : BitVec 2) : Statement (.arow d r) := length_le _
theorem Sys2Proof.Laws.Encoding.cpy (t : BitVec 1) (s : BitVec 1) (q : BitVec 2) (a : Opnd) (b : Opnd) : Statement (.cpy t s q a b) := length_le _
theorem Sys2Proof.Laws.Encoding.cpy2 (t : BitVec 1) (s : BitVec 1) (q : BitVec 2) (a : Opnd) (b : Opnd) : Statement (.cpy2 t s q a b) := length_le _
theorem Sys2Proof.Laws.Encoding.cpyg (t : BitVec 1) (s : BitVec 1) (q : BitVec 2) (a : Opnd) (b : Opnd) : Statement (.cpyg t s q a b) := length_le _
theorem Sys2Proof.Laws.Encoding.cpyc (t : BitVec 1) (s : BitVec 1) (q : BitVec 2) (a : Opnd) (b : Opnd) : Statement (.cpyc t s q a b) := length_le _
theorem Sys2Proof.Laws.Encoding.cpyr (r : BitVec 4) (s : BitVec 1) (q : BitVec 2) (a : Opnd) (b : Opnd) : Statement (.cpyr r s q a b) := length_le _
theorem Sys2Proof.Laws.Encoding.cpyz (t : BitVec 1) (q : BitVec 2) (a : Opnd) (b : Opnd) : Statement (.cpyz t q a b) := length_le _
theorem Sys2Proof.Laws.Encoding.rngi (r : BitVec 4) (a : Opnd) (b : Opnd) : Statement (.rngi r a b) := length_le _
theorem Sys2Proof.Laws.Encoding.rngw (d : Opnd) (r : BitVec 4) : Statement (.rngw d r) := length_le _
theorem Sys2Proof.Laws.Encoding.rngr (r : BitVec 4) (a : Opnd) : Statement (.rngr r a) := length_le _
theorem Sys2Proof.Laws.Encoding.rngq (d : Opnd) (r : BitVec 4) (b : Opnd) : Statement (.rngq d r b) := length_le _
theorem Sys2Proof.Laws.Encoding.qfnc (m : BitVec 4) : Statement (.qfnc m) := length_le _
theorem Sys2Proof.Laws.Encoding.qwait (d : Opnd) (m : BitVec 4) : Statement (.qwait d m) := length_le _
theorem Sys2Proof.Laws.Encoding.lbcl (d : Opnd) (l : BitVec 2) : Statement (.lbcl d l) := length_le _
theorem Sys2Proof.Laws.Encoding.bankm (m : BitVec 2) (a : Opnd) : Statement (.bankm m a) := length_le _
theorem Sys2Proof.Laws.Encoding.evsig (a : Opnd) (b : Opnd) : Statement (.evsig a b) := length_le _
theorem Sys2Proof.Laws.Encoding.evwait (d : Opnd) (a : Opnd) (b : Opnd) : Statement (.evwait d a b) := length_le _
theorem Sys2Proof.Laws.Encoding.evpoll (d : Opnd) (a : Opnd) : Statement (.evpoll d a) := length_le _
theorem Sys2Proof.Laws.Encoding.mbxrd (d : Opnd) : Statement (.mbxrd d) := length_le _
theorem Sys2Proof.Laws.Encoding.mbxdone (a : Opnd) : Statement (.mbxdone a) := length_le _
theorem Sys2Proof.Laws.Encoding.mbxq (d : Opnd) : Statement (.mbxq d) := length_le _
theorem Sys2Proof.Laws.Encoding.frq (d : Opnd) (a : Opnd) (b : Opnd) : Statement (.frq d a b) := length_le _
theorem Sys2Proof.Laws.Encoding.oppush (a : Opnd) (b : Opnd) : Statement (.oppush a b) := length_le _
theorem Sys2Proof.Laws.Encoding.rxadd (x : Opnd) (a : Opnd) (b : Opnd) : Statement (.rxadd x a b) := length_le _
theorem Sys2Proof.Laws.Encoding.rxfadd (x : Opnd) (a : Opnd) (b : Opnd) : Statement (.rxfadd x a b) := length_le _
theorem Sys2Proof.Laws.Encoding.rxbadd (x : Opnd) (a : Opnd) (b : Opnd) : Statement (.rxbadd x a b) := length_le _
theorem Sys2Proof.Laws.Encoding.rxmax (x : Opnd) (a : Opnd) (b : Opnd) : Statement (.rxmax x a b) := length_le _
theorem Sys2Proof.Laws.Encoding.wstat (d : Opnd) (a : Opnd) (b : Opnd) : Statement (.wstat d a b) := length_le _
theorem Sys2Proof.Laws.Encoding.kvapp (a : Opnd) : Statement (.kvapp a) := length_le _
theorem Sys2Proof.Laws.Encoding.kvseal (a : Opnd) : Statement (.kvseal a) := length_le _
theorem Sys2Proof.Laws.Encoding.kvpos (d : Opnd) (a : Opnd) (b : Opnd) : Statement (.kvpos d a b) := length_le _
theorem Sys2Proof.Laws.Encoding.kvevict (a : Opnd) : Statement (.kvevict a) := length_le _
theorem Sys2Proof.Laws.Encoding.mfold (a : Opnd) : Statement (.mfold a) := length_le _
theorem Sys2Proof.Laws.Encoding.mdecay (a : Opnd) : Statement (.mdecay a) := length_le _
theorem Sys2Proof.Laws.Encoding.rte (a : Opnd) : Statement (.rte a) := length_le _
theorem Sys2Proof.Laws.Encoding.grd (d : Opnd) (a : Opnd) (b : Opnd) : Statement (.grd d a b) := length_le _
theorem Sys2Proof.Laws.Encoding.gwr (x : Opnd) (a : Opnd) (b : Opnd) : Statement (.gwr x a b) := length_le _
theorem Sys2Proof.Laws.Encoding.gres (a : Opnd) : Statement (.gres a) := length_le _
theorem Sys2Proof.Laws.Encoding.gfrz (u : BitVec 1) (a : Opnd) : Statement (.gfrz u a) := length_le _
theorem Sys2Proof.Laws.Encoding.tlbi (a : Opnd) : Statement (.tlbi a) := length_le _
theorem Sys2Proof.Laws.Encoding.wmapi (a : Opnd) : Statement (.wmapi a) := length_le _
theorem Sys2Proof.Laws.Encoding.frsv (a : Opnd) (b : Opnd) : Statement (.frsv a b) := length_le _
theorem Sys2Proof.Laws.Encoding.frld (d : Opnd) (a : Opnd) : Statement (.frld d a) := length_le _
theorem Sys2Proof.Laws.Encoding.ctxsv (a : Opnd) (b : Opnd) : Statement (.ctxsv a b) := length_le _
theorem Sys2Proof.Laws.Encoding.ctxld (a : Opnd) (b : Opnd) : Statement (.ctxld a b) := length_le _
theorem Sys2Proof.Laws.Encoding.clauseStart : Statement .clauseStart := length_le _
theorem Sys2Proof.Laws.Encoding.fragmentMerge (g : Nat) : Statement (.fragmentMerge g) := length_le _
theorem Sys2Proof.Laws.Encoding.handlerStart (g f : Nat) : Statement (.handlerStart g f) := length_le _
theorem Sys2Proof.Laws.Encoding.fragmentWake (g f : Nat) : Statement (.fragmentWake g f) := length_le _
theorem Sys2Proof.Laws.Encoding.sleepWake (g f : Nat) : Statement (.sleepWake g f) := length_le _
theorem Sys2Proof.Laws.Encoding.wtimeWake (g f : Nat) : Statement (.wtimeWake g f) := length_le _
theorem Sys2Proof.Laws.Encoding.evwaitWake (g f : Nat) : Statement (.evwaitWake g f) := length_le _
theorem Sys2Proof.Laws.Encoding.rngwWake (g f : Nat) : Statement (.rngwWake g f) := length_le _
theorem Sys2Proof.Laws.Encoding.mbxrdWake (g f : Nat) : Statement (.mbxrdWake g f) := length_le _
theorem Sys2Proof.Laws.Encoding.qwaitWake (g f : Nat) : Statement (.qwaitWake g f) := length_le _
theorem Sys2Proof.Laws.Encoding.lbclWake (g f : Nat) : Statement (.lbclWake g f) := length_le _
theorem Sys2Proof.Laws.Encoding.frcWake (g f : Nat) : Statement (.frcWake g f) := length_le _
theorem Sys2Proof.Laws.Encoding.fenceWake (g f : Nat) : Statement (.fenceWake g f) := length_le _
theorem Sys2Proof.Laws.Encoding.groupEnd (g : Nat) : Statement (.groupEnd g) := length_le _
theorem Sys2Proof.Laws.Encoding.loadComplete (g id : Nat) (thr : Word × Nat) : Statement (.loadComplete g id thr) := length_le _
theorem Sys2Proof.Laws.Encoding.l1LeaseExpiry (c k : Nat) : Statement (.l1LeaseExpiry c k) := length_le _
theorem Sys2Proof.Laws.Encoding.storeComplete (g id : Nat) : Statement (.storeComplete g id) := length_le _
theorem Sys2Proof.Laws.Encoding.atomicComplete (g : Nat) (id : Nat × Word) : Statement (.atomicComplete g id) := length_le _
theorem Sys2Proof.Laws.Encoding.homeRead (g id line : Nat) : Statement (.homeRead g id line) := length_le _
theorem Sys2Proof.Laws.Encoding.homeWrite (id : Nat) : Statement (.homeWrite id) := length_le _
theorem Sys2Proof.Laws.Encoding.pageWalk (cache slot page : Nat) : Statement (.pageWalk cache slot page) := length_le _
theorem Sys2Proof.Laws.Encoding.invalidationComplete (id : Nat) : Statement (.invalidationComplete id) := length_le _
theorem Sys2Proof.Laws.Encoding.faultBatchTimeout : Statement .faultBatchTimeout := length_le _
theorem Sys2Proof.Laws.Encoding.faultBatchFull : Statement .faultBatchFull := length_le _
theorem Sys2Proof.Laws.Encoding.faultDelivery : Statement .faultDelivery := length_le _
theorem Sys2Proof.Laws.Encoding.fqheadWrite (v : Word) : Statement (.fqheadWrite v) := length_le _
theorem Sys2Proof.Laws.Encoding.vrheadWrite (v : Word) : Statement (.vrheadWrite v) := length_le _
theorem Sys2Proof.Laws.Encoding.lerheadWrite (v : Word) : Statement (.lerheadWrite v) := length_le _
theorem Sys2Proof.Laws.Encoding.migrate (tce slot : Nat) (cmd : BitVec 256) : Statement (.migrate tce slot cmd) := length_le _
theorem Sys2Proof.Laws.Encoding.migrationResult (tce : Nat) : Statement (.migrationResult tce) := length_le _
theorem Sys2Proof.Laws.Encoding.dcdAddCapacity (port base len tag : Nat) : Statement (.dcdAddCapacity port base len tag) := length_le _
theorem Sys2Proof.Laws.Encoding.dcdReleaseOrderly (ext : Nat) : Statement (.dcdReleaseOrderly ext) := length_le _
theorem Sys2Proof.Laws.Encoding.dcdReleaseForced (ext : Nat) : Statement (.dcdReleaseForced ext) := length_le _
theorem Sys2Proof.Laws.Encoding.bankDrainComplete (c k : Nat) : Statement (.bankDrainComplete c k) := length_le _
theorem Sys2Proof.Laws.Encoding.cinchRelease (c n : Nat) : Statement (.cinchRelease c n) := length_le _
theorem Sys2Proof.Laws.Encoding.mxeQueuePerform (c : Nat) : Statement (.mxeQueuePerform c) := length_le _
theorem Sys2Proof.Laws.Encoding.matrixOpComplete (c n g : Nat) : Statement (.matrixOpComplete c n g) := length_le _
theorem Sys2Proof.Laws.Encoding.attentionOpComplete (c n g : Nat) : Statement (.attentionOpComplete c n g) := length_le _
theorem Sys2Proof.Laws.Encoding.streamerActivate (c q : Nat) : Statement (.streamerActivate c q) := length_le _
theorem Sys2Proof.Laws.Encoding.streamerChunk (c q n : Nat) : Statement (.streamerChunk c q n) := length_le _
theorem Sys2Proof.Laws.Encoding.streamerComplete (c q n : Nat) : Statement (.streamerComplete c q n) := length_le _
theorem Sys2Proof.Laws.Encoding.queueFenceLeave (c n : Nat) : Statement (.queueFenceLeave c n) := length_le _
theorem Sys2Proof.Laws.Encoding.streamTailWrite (slot k : Nat) (v : Quad) : Statement (.streamTailWrite slot k v) := length_le _
theorem Sys2Proof.Laws.Encoding.streamReconcile : Statement .streamReconcile := length_le _
theorem Sys2Proof.Laws.Encoding.streamCtlEn (slot k : Nat) : Statement (.streamCtlEn slot k) := length_le _
theorem Sys2Proof.Laws.Encoding.streamCtlRst (slot k : Nat) : Statement (.streamCtlRst slot k) := length_le _
theorem Sys2Proof.Laws.Encoding.oprun (slot k : Nat) : Statement (.oprun slot k) := length_le _
theorem Sys2Proof.Laws.Encoding.opcopy (slot k : Nat) : Statement (.opcopy slot k) := length_le _
theorem Sys2Proof.Laws.Encoding.opwait (slot k : Nat) : Statement (.opwait slot k) := length_le _
theorem Sys2Proof.Laws.Encoding.opsig (slot k : Nat) : Statement (.opsig slot k) := length_le _
theorem Sys2Proof.Laws.Encoding.opfence (slot k : Nat) : Statement (.opfence slot k) := length_le _
theorem Sys2Proof.Laws.Encoding.opjump (slot k : Nat) : Statement (.opjump slot k) := length_le _
theorem Sys2Proof.Laws.Encoding.opend (slot k : Nat) : Statement (.opend slot k) := length_le _
theorem Sys2Proof.Laws.Encoding.oppin (slot k : Nat) : Statement (.oppin slot k) := length_le _
theorem Sys2Proof.Laws.Encoding.opamax (slot k : Nat) : Statement (.opamax slot k) := length_le _
theorem Sys2Proof.Laws.Encoding.decodeResume (slot k : Nat) : Statement (.decodeResume slot k) := length_le _
theorem Sys2Proof.Laws.Encoding.opsigSignal (slot k : Nat) : Statement (.opsigSignal slot k) := length_le _
theorem Sys2Proof.Laws.Encoding.pointFire (n : Nat) : Statement (.pointFire n) := length_le _
theorem Sys2Proof.Laws.Encoding.tokenGrant : Statement .tokenGrant := length_le _
theorem Sys2Proof.Laws.Encoding.jobDispatch : Statement .jobDispatch := length_le _
theorem Sys2Proof.Laws.Encoding.opcopyPointComplete (n l : Nat) : Statement (.opcopyPointComplete n l) := length_le _
theorem Sys2Proof.Laws.Encoding.eventInc (path : Nat) : Statement (.eventInc path) := length_le _
theorem Sys2Proof.Laws.Encoding.eventMir (path : Nat) : Statement (.eventMir path) := length_le _
theorem Sys2Proof.Laws.Encoding.eventSub (path : Nat) : Statement (.eventSub path) := length_le _
theorem Sys2Proof.Laws.Encoding.ctxctlLaunch (slot : Nat) : Statement (.ctxctlLaunch slot) := length_le _
theorem Sys2Proof.Laws.Encoding.ctxctlPre (slot : Nat) : Statement (.ctxctlPre slot) := length_le _
theorem Sys2Proof.Laws.Encoding.forcedSaveDecision (c b : Nat) : Statement (.forcedSaveDecision c b) := length_le _
theorem Sys2Proof.Laws.Encoding.preemptDeadline (slot : Nat) : Statement (.preemptDeadline slot) := length_le _
theorem Sys2Proof.Laws.Encoding.preemptHardDeadline (slot : Nat) : Statement (.preemptHardDeadline slot) := length_le _
theorem Sys2Proof.Laws.Encoding.groupRollback (g : Nat) : Statement (.groupRollback g) := length_le _
theorem Sys2Proof.Laws.Encoding.contextSave (slot : Nat) : Statement (.contextSave slot) := length_le _
theorem Sys2Proof.Laws.Encoding.ctxctlResume (slot : Nat) : Statement (.ctxctlResume slot) := length_le _
theorem Sys2Proof.Laws.Encoding.ctxctlKill (slot : Nat) : Statement (.ctxctlKill slot) := length_le _
theorem Sys2Proof.Laws.Encoding.invhiWrite (slot : Nat) (v : Quad) : Statement (.invhiWrite slot v) := length_le _
theorem Sys2Proof.Laws.Encoding.qrelWrite (slot : Nat) (v : Word) : Statement (.qrelWrite slot v) := length_le _
theorem Sys2Proof.Laws.Encoding.kvAccept (die : Nat) : Statement (.kvAccept die) := length_le _
theorem Sys2Proof.Laws.Encoding.kvComplete (die : Nat) : Statement (.kvComplete die) := length_le _
theorem Sys2Proof.Laws.Encoding.reflectorForward (path : Nat) : Statement (.reflectorForward path) := length_le _
theorem Sys2Proof.Laws.Encoding.sliceReport (slice : Nat) : Statement (.sliceReport slice) := length_le _
theorem Sys2Proof.Laws.Encoding.rxWriteApply (path : Nat) : Statement (.rxWriteApply path) := length_le _
theorem Sys2Proof.Laws.Encoding.pathAckReceive (path : Nat) (n : Word) : Statement (.pathAckReceive path n) := length_le _
theorem Sys2Proof.Laws.Encoding.pathClosedReceive (path : Nat) (n : Word) : Statement (.pathClosedReceive path n) := length_le _
theorem Sys2Proof.Laws.Encoding.pathDownReceive (path : Nat) (n : Word) : Statement (.pathDownReceive path n) := length_le _
theorem Sys2Proof.Laws.Encoding.pathAckTimeout (path : Nat) : Statement (.pathAckTimeout path) := length_le _
theorem Sys2Proof.Laws.Encoding.peerUnreachable (chip : Nat) : Statement (.peerUnreachable chip) := length_le _
theorem Sys2Proof.Laws.Encoding.portEnable (port : Nat) : Statement (.portEnable port) := length_le _
theorem Sys2Proof.Laws.Encoding.portDisable (port : Nat) : Statement (.portDisable port) := length_le _
theorem Sys2Proof.Laws.Encoding.linkTrained (port lanes : Nat) (cap : Word) : Statement (.linkTrained port lanes cap) := length_le _
theorem Sys2Proof.Laws.Encoding.flitSend (port : Nat) : Statement (.flitSend port) := length_le _
theorem Sys2Proof.Laws.Encoding.flitReceive (port : Nat) (flit : List Byte) : Statement (.flitReceive port flit) := length_le _
theorem Sys2Proof.Laws.Encoding.flitReplayTimeout (port : Nat) : Statement (.flitReplayTimeout port) := length_le _
theorem Sys2Proof.Laws.Encoding.lossOfLight (port laser : Nat) (rx : Bool) : Statement (.lossOfLight port laser rx) := length_le _
theorem Sys2Proof.Laws.Encoding.restripeDone (port fseq : Nat) : Statement (.restripeDone port fseq) := length_le _
theorem Sys2Proof.Laws.Encoding.ualinkWriteReceive (link : Nat) (flit : List Byte) : Statement (.ualinkWriteReceive link flit) := length_le _
theorem Sys2Proof.Laws.Encoding.ualinkOtherRequest (link tag : Nat) : Statement (.ualinkOtherRequest link tag) := length_le _
theorem Sys2Proof.Laws.Encoding.slotStart : Statement .slotStart := length_le _
theorem Sys2Proof.Laws.Encoding.slotEnd : Statement .slotEnd := length_le _
theorem Sys2Proof.Laws.Encoding.slotctlSwap : Statement .slotctlSwap := length_le _
theorem Sys2Proof.Laws.Encoding.slotctlEn (en : Bool) : Statement (.slotctlEn en) := length_le _
theorem Sys2Proof.Laws.Encoding.probeTimeout (u : Nat) : Statement (.probeTimeout u) := length_le _
theorem Sys2Proof.Laws.Encoding.probeToken (u : Nat) : Statement (.probeToken u) := length_le _
theorem Sys2Proof.Laws.Encoding.firmwareMessage (link : Nat) (msg : List Byte) : Statement (.firmwareMessage link msg) := length_le _
theorem Sys2Proof.Laws.Encoding.permitReturn (link : Nat) : Statement (.permitReturn link) := length_le _
theorem Sys2Proof.Laws.Encoding.lfcWatchdog (k : Nat) : Statement (.lfcWatchdog k) := length_le _
theorem Sys2Proof.Laws.Encoding.lfcReset (k : Nat) : Statement (.lfcReset k) := length_le _
theorem Sys2Proof.Laws.Encoding.powerOn (manifest recovery : List Byte) : Statement (.powerOn manifest recovery) := length_le _
theorem Sys2Proof.Laws.Encoding.lrstN : Statement .lrstN := length_le _
theorem Sys2Proof.Laws.Encoding.leaseReset (req : List Byte) : Statement (.leaseReset req) := length_le _
theorem Sys2Proof.Laws.Encoding.scrubComplete (mismatch : List Nat) (recovery : List Byte) : Statement (.scrubComplete mismatch recovery) := length_le _
theorem Sys2Proof.Laws.Encoding.nonce (v : BitVec 256) : Statement (.nonce v) := length_le _
theorem Sys2Proof.Laws.Encoding.tenantKey (req : List Byte) : Statement (.tenantKey req) := length_le _
theorem Sys2Proof.Laws.Encoding.getVersion : Statement .getVersion := length_le _
theorem Sys2Proof.Laws.Encoding.getCapabilities : Statement .getCapabilities := length_le _
theorem Sys2Proof.Laws.Encoding.negotiateAlgorithms (offer : Word) : Statement (.negotiateAlgorithms offer) := length_le _
theorem Sys2Proof.Laws.Encoding.getDigests : Statement .getDigests := length_le _
theorem Sys2Proof.Laws.Encoding.getCertificate (certSlot off len : Nat) : Statement (.getCertificate certSlot off len) := length_le _
theorem Sys2Proof.Laws.Encoding.challenge (certSlot : Nat) (v : BitVec 256) : Statement (.challenge certSlot v) := length_le _
theorem Sys2Proof.Laws.Encoding.getMeasurements (idx : Nat) (v : BitVec 256) : Statement (.getMeasurements idx v) := length_le _
theorem Sys2Proof.Laws.Encoding.keyExchange (req : List Byte) : Statement (.keyExchange req) := length_le _
theorem Sys2Proof.Laws.Encoding.finish (req : List Byte) : Statement (.finish req) := length_le _
theorem Sys2Proof.Laws.Encoding.heartbeat : Statement .heartbeat := length_le _
theorem Sys2Proof.Laws.Encoding.endSession : Statement .endSession := length_le _
theorem Sys2Proof.Laws.Encoding.chunkSend (seq : Nat) (last : Bool) (chunk : List Byte) : Statement (.chunkSend seq last chunk) := length_le _
theorem Sys2Proof.Laws.Encoding.chunkGet (seq : Nat) : Statement (.chunkGet seq) := length_le _
theorem Sys2Proof.Laws.Encoding.unsupportedRequest (code : Nat) : Statement (.unsupportedRequest code) := length_le _
theorem Sys2Proof.Laws.Encoding.entdaa (addr : BitVec 7) : Statement (.entdaa addr) := length_le _
theorem Sys2Proof.Laws.Encoding.setdasa (stat addr : BitVec 7) : Statement (.setdasa stat addr) := length_le _
theorem Sys2Proof.Laws.Encoding.setEndpointId (eid : Byte) : Statement (.setEndpointId eid) := length_le _
theorem Sys2Proof.Laws.Encoding.bfappAppend (v : Quad) : Statement (.bfappAppend v) := length_le _
theorem Sys2Proof.Laws.Encoding.bfappCommit (v : Quad) : Statement (.bfappCommit v) := length_le _
theorem Sys2Proof.Laws.Encoding.bfappDiscard (v : Quad) : Statement (.bfappDiscard v) := length_le _
theorem Sys2Proof.Laws.Encoding.bfappNop (v : Quad) : Statement (.bfappNop v) := length_le _
theorem Sys2Proof.Laws.Encoding.bfappFlashDone : Statement .bfappFlashDone := length_le _
theorem Sys2Proof.Laws.Encoding.ptaPoolWrite (v : Quad) : Statement (.ptaPoolWrite v) := length_le _
theorem Sys2Proof.Laws.Encoding.eccCorrected (frame : Nat) : Statement (.eccCorrected frame) := length_le _
theorem Sys2Proof.Laws.Encoding.uncorrectable (kind unit frame tier : Nat) : Statement (.uncorrectable kind unit frame tier) := length_le _
theorem Sys2Proof.Laws.Encoding.tjhotExceeded (die temp : Nat) : Statement (.tjhotExceeded die temp) := length_le _
theorem Sys2Proof.Laws.Encoding.thermalTrip (die temp : Nat) : Statement (.thermalTrip die temp) := length_le _
theorem Sys2Proof.Laws.Encoding.pmcWrap (k : Nat) : Statement (.pmcWrap k) := length_le _
theorem Sys2Proof.Laws.Encoding.hostMemoryWrite (pa : Nat) (bs : List Byte) : Statement (.hostMemoryWrite pa bs) := length_le _
theorem Sys2Proof.Laws.Encoding.hostMemoryRead (pa n : Nat) : Statement (.hostMemoryRead pa n) := length_le _
theorem Sys2Proof.Laws.Encoding.registerWrite (bar off size : Nat) (v : Quad) (master : Nat) : Statement (.registerWrite bar off size v master) := length_le _
theorem Sys2Proof.Laws.Encoding.lossOfPower : Statement .lossOfPower := length_le _
theorem Sys2Proof.Laws.Encoding.stopDescriptorPost (slot c b : Nat) : Statement (.stopDescriptorPost slot c b) := length_le _
end

