-- ==== Sys2Proof/Tests/Slice0.lean ====
section
/-! SUPPORT. The model's own tests: words decoded, one step on a small state, and a state and operands that meet the
hypotheses of each clause of each statement. -/

namespace Sys2Proof.Tests

set_option Elab.async false

open Sys2Proof Sys2Proof.Machine Sys2Proof.Claim

/-! States. -/

/-- One group with one READY fragment of 32 threads at the word after a clause header. -/
def base : State := { withInstr State.reset [] with agenda := [] }

/-- The same with the pages 0 to 4,095 mapped to the frames of the same number for the core and the OSD. -/
def mapped : State := { base with tlb := [⟨0, 0, 2, 0, 13⟩, ⟨548, 0, 2, 0, 13⟩] }

/-- The state after an instruction. -/
def after (i : Instr) (s : State) : State := stateOf (exec i s) s

def withMode (m : Word) : State := updCF base fun f => { f with mode := m }
def withS (r : Nat) (w : Word) : State := updCG base fun g => wrS g r w
def withP (r : Nat) (w : Word) : State := updCG base fun g => { g with p := Store.set g.p r w }
def withV (r t : Nat) (w : Word) : State := updCG base fun g => wrV g r t w

/-- The acting group with full flags 0 and 1. -/
def full : State := updCG mapped fun g => { g with
  pend := List.replicate 63 { (default : Pend) with flag := some 0 } ++ List.replicate 63 { (default : Pend) with flag := some 1 } }

/-! Ill-formed terms, one for each check of `wellFormed`. -/

theorem test_illFormed_vector_register_192 : wellFormed (.add (.v 192) (.v 0) (.v 0)) = false := by decide
theorem test_illFormed_s_register_48 : wellFormed (.add (.s 48) (.v 0) (.v 0)) = false := by decide
theorem test_illFormed_literal_destination : wellFormed (.add (.lit 0#32) (.v 0) (.v 0)) = false := by decide
theorem test_illFormed_nul_source : wellFormed (.add (.v 0) .nul (.v 0)) = false := by decide
theorem test_illFormed_reserved_operand : wellFormed (.add (.v 0) (.rsv 0xF8) (.v 0)) = false := by decide
theorem test_illFormed_odd_pair : wellFormed (.ldd (.v 3) (.s 4) (.v 0)) = false := by decide
theorem test_illFormed_quad_alignment : wellFormed (.ldq (.v 2) (.s 4) (.v 0)) = false := by decide
theorem test_illFormed_three_literals : wellFormed (.stw (.lit 0#32) (.lit 0#32) (.lit 0#32)) = false := by decide
theorem test_illFormed_literal_span : wellFormed (.nibl (.v 0) (.v 0) (.lit 0#32)) = false := by decide
theorem test_illFormed_exchange_into_s : wellFormed (.qxh (.s 4) (.v 0)) = false := by decide
theorem test_illFormed_brx_vector_without_join : wellFormed (.brx (.v 0) .zero) = false := by decide
theorem test_illFormed_arst_mixed_sources : wellFormed (.arst 0#2 .zero (.v 0)) = false := by decide
theorem test_illFormed_system_register : wellFormed (.mfs (.v 0) 0x1A#8) = false := by decide
theorem test_illFormed_setm_without_field : wellFormed (.setm 0#8 .zero) = false := by decide
theorem test_illFormed_returning_atomic_with_literals : wellFormed (.atadd (.v 0) (.s 4) .zero 5#32) = false := by decide
theorem test_wellFormed_boundaries : wellFormed (.add (.v 191) (.s 47) (.lit 0xFFFFFFFF#32)) = true ∧
    wellFormed (.ldq (.v 188) (.s 46) (.v 191)) = true ∧ wellFormed (.mfs .nul 0x19#8) = true := by decide

/-! Words written out from the encoding tables and examples of the manual. -/

def reads (w : Word) (r : List Word) : Option (Instr × List Word) := (decode w r).toOption
def refuses (w : Word) (r : List Word) : Option DecodeError :=
  match decode w r with
  | .ok _ => none
  | .error e => some e

theorem test_decode_nop : reads 0x00000000#32 [] = some (.nop, []) := by decide
theorem test_decode_nop_only_word : refuses 0x00000001#32 [] = some .operand := by decide
/-- R103: an s pair in A, B unused. -/
theorem test_decode_brx : reads 0x0300C400#32 [] = some (.brx (.s 4) (.v 0), []) := by decide
/-- R114, the example. -/
theorem test_decode_setm : reads 0x0B14FF00#32 [0x00A40000#32] = some (.setm 0x14#8 (.lit 0x00A40000#32), []) := by decide
/-- The clause of R129. -/
theorem test_decode_pset_addc : reads 0x4607F000#32 [] = some (.pset 7#3 .zero, []) ∧
    reads 0x22040002#32 [] = some (.addc (.v 4) (.v 0) (.v 2), []) := by decide
/-- R135 and R136, the examples. -/
theorem test_decode_exchanges : reads 0x4F0504C8#32 [] = some (.nibl (.v 5) (.v 4) (.s 8), []) ∧
    reads 0x490100F1#32 [] = some (.shup (.v 1) (.v 0) .one, []) ∧
    reads 0x510100FF#32 [7#32] = some (.prmt (.v 1) (.v 0) (.lit 7#32), []) := by decide
theorem test_decode_reduction : reads 0x52C40500#32 [] = some (.radd (.s 4) (.v 5), []) := by decide
theorem test_decode_float : reads 0x63060405#32 [] = some (.fma (.v 6) (.v 4) (.v 5), []) := by decide
theorem test_decode_conversion : reads 0x75060400#32 [] = some (.f2i (.v 6) (.v 4), []) := by decide
/-- R224: LDW v4, [s4 + v2]; R238: PGREQ. -/
theorem test_decode_memory : reads 0x8404C402#32 [] = some (.ldw (.v 4) (.s 4) (.v 2), []) ∧
    reads 0x8D03C402#32 [] = some (.pgreq (.v 3) (.s 4) (.v 2), []) ∧
    reads 0x8EFEC402#32 [5#32] = some (.atadd .nul (.s 4) (.v 2) 5#32, []) := by decide
theorem test_decode_fence : reads 0x9A020000#32 [] = some (.frel 2#2, []) := by decide
/-- R188: ARST rs1, and with sources. -/
theorem test_decode_attention : reads 0xA804F0F0#32 [] = some (.arst 1#2 .zero .zero, []) ∧
    reads 0xA8040A0B#32 [] = some (.arst 1#2 (.v 10) (.v 11), []) := by decide
/-- The streamer's examples: CPY.GS q1, s8, s20; CPYR.G q0, ring3; CPYC.SG q2; RNGI ring2 with a literal; RNGQ; QWAIT. -/
theorem test_decode_streamer : reads 0xB009C8D4#32 [] = some (.cpy 1#1 0#1 1#2 (.s 8) (.s 20), []) ∧
    reads 0xB430C8F0#32 [] = some (.cpyr 3#4 0#1 0#2 (.s 8) .zero, []) ∧
    reads 0xB306D0F0#32 [] = some (.cpyc 0#1 1#1 2#2 (.s 16) .zero, []) ∧
    reads 0xB602C4FF#32 [0x403#32] = some (.rngi 2#4 (.s 4) (.lit 0x403#32), []) ∧
    reads 0xB9080209#32 [] = some (.rngq (.v 8) 2#4 (.v 9), []) ∧
    reads 0xBBC70300#32 [] = some (.qwait (.s 7) 3#4, []) := by decide
theorem test_decode_events : reads 0xC000C4C5#32 [] = some (.evsig (.s 4) (.s 5), []) := by decide
theorem test_decode_windows : reads 0xD004C402#32 [] = some (.rxadd (.v 4) (.s 4) (.v 2), []) := by decide
/-- R388: KVEVICT s24. -/
theorem test_decode_kv : reads 0xE300D800#32 [] = some (.kvevict (.s 24), []) := by decide
theorem test_decode_privileged : reads 0xF000F000#32 [] = some (.rte .zero, []) ∧
    reads 0xF500C800#32 [] = some (.tlbi (.s 8), []) := by decide
/-- R42: reserved opcodes; R28: a literal beyond the clause. -/
theorem test_decode_refusals : refuses 0x16000000#32 [] = some .illegalOpcode ∧ refuses 0xFF000000#32 [] = some .illegalOpcode ∧
    refuses 0x3F04FF00#32 [] = some .illegalClause ∧ refuses 0x2004FE06#32 [] = some .operand := by decide
theorem test_table_word : decodeTableWord 32 0x20040506 = some (.add (.v 4) (.v 5) (.v 6)) ∧ decodeTableWord 0 0 = none := by decide
theorem test_bytes_are_little_endian : (decodeBytes [0x06#8, 0x05#8, 0x04#8, 0x20#8]).toOption = some (.add (.v 4) (.v 5) (.v 6), []) := by decide
/-- The machine's first step after reset runs a placed instruction: MOV v4, one. -/
theorem test_step_runs_placed : (match step (State.reset.withFetchWord 32 0x3F04F100) with
    | .next t => decide (rdV (gAt t 0) 4 31 = 1#32)
    | _ => false) = true := by decide +kernel

/-! One step on a small state. The expected values come from the tables and examples of the manual. -/

/-- Thread t of v register r after an instruction. -/
def vAfter (i : Instr) (s : State) (r t : Nat) : Word := rdV (cg (after i s)) r t
def sAfter (i : Instr) (s : State) (r : Nat) : Word := rdS (cg (after i s)) r

/-- R125: the sum wraps, and under SAT it clamps and raises SAT. -/
theorem test_add_wraps : vAfter (.add (.v 1) (.lit 0x7FFFFFFF#32) .one) base 1 31 = 0x80000000#32 ∧
    (cg (after (.add (.v 1) (.lit 0x7FFFFFFF#32) .one) base)).flags = 0#32 := by decide
theorem test_add_saturates : vAfter (.add (.v 1) (.lit 0x7FFFFFFF#32) .one) (withMode 0x00040000#32) 1 0 = 0x7FFFFFFF#32 ∧
    (cg (after (.add (.v 1) (.lit 0x7FFFFFFF#32) .one) (withMode 0x00040000#32))).flags = w32 fSAT := by decide
/-- R123: the source is also the destination. -/
theorem test_sub_own_destination : vAfter (.sub (.v 1) .zero (.v 1)) (withV 1 5 1#32) 1 5 = 0xFFFFFFFF#32 := by decide
/-- R126, the table: −7 and 2. -/
theorem test_div_signed : vAfter (.div (.v 1) (.lit 0xFFFFFFF9#32) (.lit 2#32)) base 1 0 = 0xFFFFFFFD#32 := by decide
theorem test_divn : vAfter (.divn (.v 1) (.lit 0xFFFFFFF9#32) (.lit 2#32)) base 1 0 = 0x7FFFFFFC#32 := by decide
theorem test_rem_signed : vAfter (.rem (.v 1) (.lit 0xFFFFFFF9#32) (.lit 2#32)) base 1 0 = 0xFFFFFFFF#32 := by decide
theorem test_remn : vAfter (.remn (.v 1) (.lit 0xFFFFFFF9#32) (.lit 2#32)) base 1 0 = 1#32 := by decide
theorem test_div_by_zero : vAfter (.div (.v 1) (.lit 0xFFFFFFF9#32) .zero) base 1 0 = 0x80000000#32 ∧
    (cg (after (.div (.v 1) .one .zero) base)).flags = w32 fDZ := by decide
/-- R127, the example: 0x0000_0000_FFFF_FFFF and 1 carry into the upper word. -/
theorem test_addc_carries : let s := after (.addc (.v 4) (.lit 0xFFFFFFFF#32) .one) base
    rdV (cg s) 4 0 = 0#32 ∧ pbit (cg s) 7 0 = true ∧ vAfter (.addc (.v 5) .zero .one) s 5 0 = 2#32 := by decide
theorem test_subb_borrows : let s := after (.subb (.v 4) .zero .one) base
    rdV (cg s) 4 0 = 0xFFFFFFFF#32 ∧ pbit (cg s) 7 0 = true := by decide
/-- R125: a shift by the width. -/
theorem test_shl_by_width : vAfter (.shl (.v 1) .mone (.lit 32#32)) base 1 0 = 0#32 := by decide
theorem test_sar_by_width : vAfter (.sar (.v 1) (.lit 0x80000000#32) (.lit 33#32)) base 1 0 = 0xFFFFFFFF#32 := by decide
theorem test_rot_left : vAfter (.rot (.v 1) (.lit 0x80000001#32) .one) base 1 0 = 3#32 := by decide
theorem test_clz_of_zero : vAfter (.clz (.v 1) .zero) base 1 0 = 32#32 := by decide
theorem test_brev : vAfter (.brev (.v 1) .one) base 1 0 = 0x80000000#32 := by decide
/-- R128: a field cut at bit 31, and its sign. -/
theorem test_bfe_signed : vAfter (.bfe (.v 1) (.lit 0x80000000#32) (.lit 0x891C#32)) base 1 0 = 0xFFFFFFF8#32 := by decide
theorem test_bfi_cut : vAfter (.bfi (.v 1) .mone (.lit 0x81E#32)) base 1 0 = 0xC0000000#32 := by decide
/-- R129: threads that the guard does not select take B. -/
theorem test_sel_guard : let s := updCF (withP 0 2#32) fun f => { f with mode := 0x80000000#32 }
    vAfter (.sel (.v 1) .one .mone) s 1 1 = 1#32 ∧ vAfter (.sel (.v 1) .one .mone) s 1 0 = 0xFFFFFFFF#32 := by decide
/-- R57: a thread that the guard does not select is not written. -/
theorem test_mov_guard : vAfter (.mov (.v 1) .one) (updCF (withP 0 2#32) fun f => { f with mode := 0x80000000#32 }) 1 0 = 0#32 := by
  decide
/-- R26: tid gives each thread its number, and a uniform destination that of the lowest active thread. -/
theorem test_tid : vAfter (.mov (.v 1) .tid) base 1 31 = 31#32 ∧ sAfter (.mov (.s 4) .tid) base 4 = 0#32 := by decide
/-- R130: 0x8000_0000 is below 1 as a signed number only. -/
theorem test_cmp_signed : pbit (cg (after (.cmp 2#3 1#3 (.lit 0x80000000#32) .one) base)) 1 0 ≠
    pbit (cg (after (.cmpn 2#3 1#3 (.lit 0x80000000#32) .one) base)) 1 0 := by decide
/-- R121: the ballot of the inverted predicate. -/
theorem test_vote_mask : sAfter (.vote (.s 4) 0#2 1#1 0#3) (withP 0 0xFFFFFFFE#32) 4 = 1#32 := by decide
/-- R134: thread 0 of SHUP has no source. -/
theorem test_shup_edge : vAfter (.shup (.v 1) .tid .one) base 1 0 = 0#32 ∧ vAfter (.shup (.v 1) .tid .one) base 1 31 = 30#32 := by decide
theorem test_qxd : vAfter (.qxd (.v 1) .tid) base 1 5 = 6#32 := by decide
/-- R135, the example: the digit table and 0x1F2E_A5C0. -/
def digits : State := updCG base fun g =>
  wrS (wrS (wrS (wrS g 8 0x33323130#32) 9 0x37363534#32) 10 0x42413938#32) 11 0x46454443#32
theorem test_nibl : vAfter (.nibl (.v 5) (.lit 0x1F2EA5C0#32) (.s 8)) digits 5 0 = 0x46453530#32 := by decide
theorem test_nibh : vAfter (.nibh (.v 6) (.lit 0x1F2EA5C0#32) (.s 8)) digits 6 0 = 0x31324143#32 := by decide
/-- R136, the example: 0x6867_6665 with the old D 0x6463_6261 under selector 7. -/
theorem test_prmt : vAfter (.prmt (.v 1) (.lit 0x68676665#32) (.lit 7#32)) (withV 1 1 0x64636261#32) 1 1 = 0x67666564#32 := by decide
/-- R137: 0 + 1 + … + 31. R27: in the uniform class tid is the lowest active thread's, in each leaf. -/
theorem test_radd : vAfter (.radd (.v 1) .tid) base 1 7 = 496#32 ∧
    sAfter (.radd (.s 4) .tid) (updCF base fun f => { f with mask := 0xC#32 }) 4 = 4#32 := by decide
theorem test_psumx : vAfter (.psumx (.v 1) .one) base 1 3 = 3#32 := by decide +kernel
/-- R83 and R142: 1.0 + 1.0, and 1.0 + 2^−24 rounded to even with NX. -/
theorem test_fadd : vAfter (.fadd (.v 1) .fone .fone) base 1 0 = 0x40000000#32 ∧
    vAfter (.fadd (.v 1) .fone (.lit 0x33800000#32)) base 1 0 = 0x3F800000#32 ∧
    (cg (after (.fadd (.v 1) .fone (.lit 0x33800000#32)) base)).flags = w32 fNX := by decide
theorem test_fsqrt : vAfter (.fsqrt (.v 1) (.lit 0x40800000#32)) base 1 0 = 0x40000000#32 := by decide +kernel
theorem test_fma_one_rounding : vAfter (.fma (.v 1) (.lit 0x3F800001#32) (.lit 0x3F800001#32)) (withV 1 0 0xBF800002#32) 1 0 = 0x28800000#32 := by
  decide
/-- R149: a NaN converts to 0 with NV, and 3.5 rounds to the even 4. -/
theorem test_f2i : vAfter (.f2i (.v 1) (.lit 0x40600000#32)) base 1 0 = 4#32 := by decide
theorem test_i2f : vAfter (.i2f (.v 1) .mone) base 1 0 = 0xBF800000#32 := by decide
/-- R101: a branch goes from the fetch block, and R39 asks for a fetch block. -/
theorem test_bra : (cf (after (.bra (.lit 0xFFFFFFC0#32)) base)).pc = 0xFFFFFFFFFFFFFFC0#64 ∧
    (cf (after (.bra (.lit 4#32)) base)).trap.cause = cALIGN := by decide
/-- R102: a divergent branch goes on with the threads that do not take it. -/
theorem test_brc_diverges : let s := after (.brc 0#1 0#3 (.lit 64#32) .zero) (withP 0 1#32)
    active s = 0xFFFFFFFE#32 ∧ depthOf (cg s) = 2 := by decide
theorem test_call_ret : let s := after (.call (.lit 64#32)) base
    (cf s).pc = 64#64 ∧ (cf (after .ret s)).pc = 64#64 ∧ depthOf (cg (after .ret s)) = 0 := by decide
theorem test_ret_without_entry : (cf (after .ret base)).trap.cause = cSTACK := by decide
theorem test_exit_ends_group : (cg (after .exit base)).ending = true := by decide
theorem test_trap_code : let f := cf (after (.trap (.lit 7#32)) base)
    f.st = .handler ∧ f.trap.fadr = 7#64 ∧ f.trap.cause = 0x20 := by decide
/-- R114, the example: ROUND 5 and SAT 1. -/
theorem test_setm : (cf (after (.setm 0x14#8 (.lit 0x00A40000#32)) (withMode 0x00020000#32))).mode = 0x00A60000#32 := by decide
theorem test_setm_refused : (cf (after (.setm 0x04#8 (.lit 0x00E00000#32)) base)).trap.cause = cOPERAND := by decide
/-- R118: two arrivals complete a phase of two. -/
theorem test_barrier : let s := after (.arrive (.s 4) 0#3 (.lit 5#32)) (after (.bar 0#3 (.lit 2#32)) base)
    (barAt s 0).phase = 2 ∧ (barAt s 0).count = 1 ∧ rdS (cg s) 4 = 2#32 := by decide
theorem test_await_waits : (cf (after (.await .nul 0#3 .one) base)).wait = .await .nul 0 1 := by decide
/-- R223 to R230: an access becomes pending; a misaligned one traps with its address. -/
theorem test_ldw_issues : (cg (after (.ldw (.v 4) (.s 4) .zero) mapped)).pend.length = 1 := by decide
theorem test_ldw_misaligned : let f := cf (after (.ldw (.v 4) (.s 4) (.lit 2#32)) mapped)
    f.trap.cause = cDATA_ALIGN ∧ f.trap.fadr = 2#64 := by decide
theorem test_stw_page : (cf (after (.stw .one (.s 4) .zero) base)).trap.cause = cPAGE := by decide
/-- R430: RTE resumes after the TRAP's fetch block. -/
theorem test_rte : (cf (after (.rte .zero) (after (.trap .zero) base))).pc = 64#64 := by decide
/-- R429: GRD reads an s register of the own group. -/
theorem test_grd : sAfter (.grd (.s 4) .zero (.lit 0x10000500#32)) (withS 5 9#32) 4 = 9#32 := by decide
/-- R447: SLOTCTL.SWAP asks for the exchange of the banks. -/
theorem test_slotctl_swap : (after .slotctlSwap base).swap = true := by decide
/-- R407: CTXCTL.PRE sets PREQ. -/
theorem test_pre : (ctxAt (after (.ctxctlPre 0) base) 0).preq = 1 := by decide
/-- R357: an error in a tier-0 frame enters the fault-address queue. -/
theorem test_faq : (after (.uncorrectable 9 0 5 0) base).faqTail = 1#32 := by decide
/-- R458: the first append of a frame. -/
theorem test_bfapp : (after (.bfappAppend 0x0010000000000007#64) base).bad = [⟨true, false, 1, 7⟩] := by decide
/-- R452: the host writes device memory, low byte first. -/
theorem test_host_aperture : memNat (after (.hostMemoryWrite (2 ^ 52 + 192) ([0x78#8] ++ List.replicate 15 0#8)) base) 192 1 = 0x78 := by decide
theorem test_host_write : memNat (after (.hostMemoryWrite 192 ([0x78#8, 0x56#8] ++ List.replicate 14 0#8)) base) 192 2 = 0x5678 := by decide

/-! For each clause of each statement, a state and operands that meet its hypotheses together. -/

theorem witness_EncodeDecode : wellFormed (.stq (.v 188) (.s 46) (.lit 0xFFFFFFFF#32)) = true ∧
    encode (.stq (.v 188) (.s 46) (.lit 0xFFFFFFFF#32)) = 0x8BBCEEFF#32 :: [0xFFFFFFFF#32] := by decide

/-- Does a step answer a next state? -/
def goesOn (r : Res) : Bool :=
  match r with
  | .next _ => true
  | _ => false

theorem next_of_goesOn {r : Res} (h : goesOn r = true) : ∃ t, r = .next t := by
  unfold goesOn at h
  split at h
  · exact ⟨_, rfl⟩
  · cases h

def placed (ws : List Word) (q : List Turn) : State := { withInstr State.reset ws with agenda := q }

theorem witness_StepRunsDecoded : let s := placed [0#32] [.lane 0 0]
    s.agenda = .lane 0 0 :: [] ∧ coresRun { s with agenda := [] } = true ∧
    byChoice { s with agenda := [] } (laneReady { s with agenda := [] } 0 0) = (0, 0) :: [] ∧
    (fragAt s 0 0).mid = true ∧ (fragAt s 0 0).code = 0#32 :: [] ∧ reads 0#32 [] = some (.nop, []) ∧
    heldByStall { s with agenda := [] } 0 0 = false ∧ faultAt { s with agenda := [] } 0 0 = none ∧
    ¬(uniformInstr .nop = true ∧ active (readyTo { s with agenda := [] } 0 0 1) = 0#32) ∧
    trapEarly { s with agenda := [] } (after .nop (readyTo { s with agenda := [] } 0 0 1)) 0 = false ∧
    stalled { s with agenda := [] } (after .nop (readyTo { s with agenda := [] } 0 0 1)) 0 0 = false := by decide +kernel
/-- The same with no thread active, at an instruction of the uniform class. -/
theorem witness_StepSkips : let s := updCF (placed [0#32] []) fun f => { f with mask := 0#32 }
    uniformInstr (.and (.s 4) (.s 5) (.s 6)) = true ∧ active (readyTo s 0 0 1) = 0#32 := by decide +kernel
theorem witness_StepRunsDecoded_next : ∃ t, exec .nop (readyTo (placed [0#32] []) 0 0 1) = .next t :=
  (fun _ => ⟨_, rfl⟩ : ∀ u, ∃ t, exec .nop u = .next t) _

theorem witness_StepRunsAgenda : let s := placed [] [.act .slotctlSwap]
    s.agenda = .act .slotctlSwap :: [] ∧ s.power = true ∧ isPartStep .slotctlSwap = true ∧
    coreStep .slotctlSwap = false ∧ coreStep (.cinchRelease 0 0) = true ∧ isPartStep (.cinchRelease 0 0) = true ∧
    coresRun { s with agenda := [] } = true ∧ coresRun { s with agenda := [], lrcHold := true } = false := by decide

theorem witness_StepKeepsMemoryCanonical : MemCanonical (placed [] [.time 1]) ∧ ∃ t, step (placed [] [.time 1]) = .next t :=
  ⟨by unfold MemCanonical; decide, next_of_goesOn (by decide)⟩

/-- MODE with FTYPE other than F32; a scale word of the largest code; a format that FQFPK knows. -/
theorem witness_FloatTypes : mFtype (cf (withMode 0x01000000#32)).mode ≠ 0 ∧
    emptyMask (badScale base (.v 4) (.lit 0x0000027F#32)) = true ∧ qfBytes (0#3).toNat ≠ 0 := by decide

/-- R152: the scale words of all threads but thread 5 are bad; one literal is bad for all. -/
def scaled : State := withV 1 5 0x27F#32
theorem witness_FloatConversions_bad : (cf scaled).st = .ready ∧ freeFrag (cg scaled) = some 1 ∧
    badScale scaled (.v 4) (.v 1) ≠ 0#32 ∧ badScale scaled (.v 4) (.v 1) ≠ active scaled ∧
    (badScale scaled (.v 4) (.lit 0x280#32) = active scaled ∧ badScale scaled (.s 4) .tid = active scaled) ∧
    (∃ j ∈ execThreads scaled (.s 4), bits (src scaled .fp (.lit 0x280#32) j).toNat 7 0 = 128) ∧
    (∀ j ∈ execThreads scaled (.v 4), bits (src scaled .fp (.lit 0x881#32) j).toNat 11 8 = 8 ∧
      bits (src scaled .fp (.lit 0x881#32) j).toNat 7 0 ≠ 128) := by decide

theorem witness_PackedTypeRequired : mFtype (cf base).mode = 0 ∧ (cf base).st = .ready ∧ execThreads base (.v 0) ≠ [] ∧
    execThreads (withMode 0x80000000#32) (.v 0) = [] := by decide

theorem witness_NopHasNoEffect : decode 0#32 [5#32] = .ok (.nop, [5#32]) := rfl

theorem witness_BranchAlways : (fblock (cf base).pc + (usrc base (.lit 0xFFFFFFC0#32)).signExtend 64).toNat % 64 = 0 := by decide

theorem witness_BrcWhole : let s := base
    (∀ j, j < 32 → (0xFFFFFFFF#32).getLsbD j = ((active s).getLsbD j && (pbit (cg s) 0 j != (1#1 == 1#1)))) ∧
    0xFFFFFFFF#32 = active s ∧ (fblock (cf s).pc + (usrc s (.lit 64#32)).signExtend 64).toNat % 64 = 0 := by decide
theorem witness_BrcNone : let s := base
    (∀ j, j < 32 → (0#32).getLsbD j = ((active s).getLsbD j && (pbit (cg s) 0 j != (0#1 == 1#1)))) ∧ active s ≠ 0#32 := by decide
theorem witness_BrcDiverges : let s := withP 0 0x80000000#32
    let target := fblock (cf s).pc + (usrc s (.lit 64#32)).signExtend 64
    (∀ j, j < 32 → (0x80000000#32).getLsbD j = ((active s).getLsbD j && (pbit (cg s) 0 j != (0#1 == 1#1)))) ∧
    0x80000000#32 ≠ 0#32 ∧ 0x80000000#32 ≠ active s ∧ target.toNat % 64 = 0 ∧ roomFor s (b2n (needRec s target) + 1) = true := by
  decide
theorem witness_BrxPair : (w64 (rdPair (cg base) 4)).toNat % 64 = 0 ∧ (w64 (rdPair (cg (withS 4 4#32)) 4)).toNat % 64 ≠ 0 := by decide

/-- The target of thread j in the v pair 0. -/
def target (s : State) (j : Nat) : Nat := (w64 ((rdV (cg s) 0 j).toNat + 2 ^ 32 * (rdV (cg s) (0 + 1) j).toNat)).toNat

theorem targets_of (s : State) (l : List Nat) (ha : active s = 0xFFFFFFFF#32)
    (h1 : ∀ j, j < 32 → target s j ∈ l) (h2 : ∀ y ∈ l, ∃ j, j < 32 ∧ target s j = y) :
    ∀ y, y ∈ l ↔ ∃ j, (active s).getLsbD j = true ∧ target s j = y := by
  intro y
  constructor
  · intro h
    obtain ⟨j, hj, e⟩ := h2 y h
    refine ⟨j, ?_, e⟩
    rw [ha]
    exact (by decide : ∀ j, j < 32 → (0xFFFFFFFF#32).getLsbD j = true) j hj
  · rintro ⟨j, hj, e⟩
    exact e ▸ h1 j (BitVec.lt_of_getLsbD hj)

theorem witness_BrxOne : (0 :: []).Pairwise (· < ·) ∧ (∀ y ∈ 0 :: [], y % 64 = 0) ∧
    ∀ y, y ∈ 0 :: [] ↔ ∃ j, (active base).getLsbD j = true ∧ target base j = y :=
  ⟨by decide, by decide, targets_of base [0] (by decide) (by decide) (fun y h => ⟨0, by decide, by simp at h; subst h; decide⟩)⟩
theorem witness_BrxTwo : let s := withV 0 31 64#32
    (0 :: [64]).Pairwise (· < ·) ∧ (∀ y ∈ 0 :: [64], y % 64 = 0) ∧
    (∀ y, y ∈ 0 :: [64] ↔ ∃ j, (active s).getLsbD j = true ∧ target s j = y) ∧ [64] ≠ [] ∧
    (fblock (cf s).pc + (usrc s (.lit 128#32)).signExtend 64).toNat % 64 = 0 ∧
    roomFor s (b2n (needRec s (fblock (cf s).pc + (usrc s (.lit 128#32)).signExtend 64)) + [64].length) = true :=
  ⟨by decide, by decide, targets_of _ [0, 64] (by decide) (by decide) (fun y h => by
    simp at h; rcases h with rfl | rfl
    · exact ⟨0, by decide, by decide⟩
    · exact ⟨31, by decide, by decide⟩), by decide, by decide, by decide⟩

/-- A stack with room for one entry more. -/
def nearly : State := updCG base fun g => { g with stk := List.replicate 16 ⟨2, 64#64, 1#32, 0#32⟩, spilled := 14 }
theorem witness_BranchTraps : (cf base).st = .ready ∧
    (fblock (cf base).pc + (usrc base (.lit 4#32)).signExtend 64).toNat % 64 ≠ 0 ∧
    (let s := updCG nearly fun g => { g with p := Store.set g.p 0 0x80000000#32 };
      (∀ j, j < 32 → (0x80000000#32).getLsbD j = ((active s).getLsbD j && (pbit (cg s) 0 j != (0#1 == 1#1)))) ∧
      0x80000000#32 ≠ 0#32 ∧ 0x80000000#32 ≠ active s ∧ (cf s).st = .ready ∧
      needRec s (fblock (cf s).pc + 128#64) = true ∧
      roomFor s (b2n (needRec s (fblock (cf s).pc + 128#64)) + 1) = false) := by decide
/-- Thread 31 of the v pair 0 has a target off a fetch block; all threads have. -/
theorem witness_BrxOff : let s := withV 0 31 4#32
    let own := fun j => w64 ((rdV (cg s) 0 j).toNat + 2 ^ 32 * (rdV (cg s) (0 + 1) j).toNat)
    (cf s).st = .ready ∧ lowest 0x80000000#32 = some 31 ∧
    (∀ j, j < 32 → ((0x80000000#32).getLsbD j = true ↔ (active s).getLsbD j = true ∧ (own j).toNat % 64 ≠ 0)) ∧
    0x80000000#32 ≠ active s ∧ freeFrag (cg s) ≠ none ∧
    (let u := updCF s fun f => { f with mask := 0x80000000#32 };
      active u = 0x80000000#32 ∧ ∀ j, j < 32 → ((0x80000000#32).getLsbD j = true ↔
        (active u).getLsbD j = true ∧ (w64 ((rdV (cg u) 0 j).toNat + 2 ^ 32 * (rdV (cg u) (0 + 1) j).toNat)).toNat % 64 ≠ 0)) := by decide
/-- The targets of `witness_BrxTwo` with a join off a fetch block, and with no room for both entries. -/
theorem witness_BrxTwo_traps : (let s := withV 0 31 64#32
      let join := fblock (cf s).pc + (usrc s (.lit 132#32)).signExtend 64
      [64] ≠ [] ∧ needRec s join = true ∧ join.toNat % 64 ≠ 0 ∧ (cf s).st = .ready ∧ active s = 0xFFFFFFFF#32) ∧
    (let s := updCG (withV 0 31 64#32) fun g => { g with stk := List.replicate 16 ⟨2, 64#64, 1#32, 0#32⟩, spilled := 14 }
      let join := fblock (cf s).pc + (usrc s (.lit 128#32)).signExtend 64
      join.toNat % 64 = 0 ∧ roomFor s (b2n (needRec s join) + [64].length) = false ∧ active s = 0xFFFFFFFF#32 ∧
        ∀ j, j < 32 → target s j ∈ [0, 64]) := by decide

def called : State := after (.call (.lit 64#32)) base
def stacked (kind : Nat) : State := updCG base fun g => { g with stk := [⟨kind, 64#64, 1#32, 0#32⟩] }
/-- A stack of 31 entries: no room for one more. -/
def deep : State := updCG base fun g => { g with stk := List.replicate 16 ⟨0, 64#64, 1#32, 0#32⟩, spilled := 15 }

theorem witness_CallsReturnsAndSync :
    ((fblock (cf base).pc + (usrc base (.lit 4#32)).signExtend 64).toNat % 64 ≠ 0 ∧ (cf base).st = .ready) ∧
    ((fblock (cf base).pc + (usrc base (.lit 64#32)).signExtend 64).toNat % 64 = 0 ∧ roomFor base 1 = true) ∧
    ((fblock (cf deep).pc + (usrc deep (.lit 64#32)).signExtend 64).toNat % 64 = 0 ∧ roomFor deep 1 = false ∧ (cf deep).st = .ready) ∧
    (topOf (stacked 2) = some ⟨2, 64#64, 1#32, 0#32⟩ ∧ (64#64).toNat % 64 = 0) ∧
    ((topOf (stacked 1)).all (fun e => e.kind != 2) = true ∧ (cf (stacked 1)).st = .ready) ∧
    (topOf (stacked 1) = some ⟨1, 64#64, 1#32, 0#32⟩ ∧ (1#32) ≠ 0#32) ∧
    topOf (stacked 0) = some ⟨0, 64#64, 1#32, 0#32⟩ ∧
    ((topOf base = none ∧ (cf base).st = .ready) ∧ topOf (stacked 3) = some ⟨3, 64#64, 1#32, 0#32⟩) := by decide
theorem witness_SyncPath : popChain (fun e => e.kind == 1) 32 (stacked 1) = (stacked 1, .path ⟨1, 64#64, 1#32, 0#32⟩) := by rfl
theorem witness_SyncRecon : popChain (fun e => e.kind == 1) 32 (stacked 0) = (stacked 0, .recon ⟨0, 64#64, 1#32, 0#32⟩) := by rfl

def handler : State := updCF base fun f => { f with st := .handler, trap := { f.trap with cause := cSOFTWARE } }

theorem witness_ReconvergenceStack : (cf handler).st = .handler ∧
    ((cf base).st ≠ .handler ∧ (cg base).stk.length < 16 ∧ (cg base).spilled = 0 ∧ bits (cg base).rgnx.toNat 4 0 ≤ depthOf (cg base)) ∧
    ((cf deep).st ≠ .handler ∧ (cg deep).stk.length = 16 ∧ (cg deep).stk.getLast? = some ⟨0, 64#64, 1#32, 0#32⟩) := by decide
/-- One spilled entry, in the stack area at address 0. -/
def spilled1 : State := { updCG mapped fun g => { g with stk := List.replicate 16 ⟨0, 64#64, 1#32, 0#32⟩, spilled := 0 + 1 } with
  mem := [(0, 65#8), (8, 3#8)] }
theorem witness_ReconvergenceStack_fill : let old : StkEntry := ⟨1, 64#64, 3#32, 0#32⟩
    (cf spilled1).st ≠ .handler ∧ (cg spilled1).stk.length = 16 ∧ (cg spilled1).spilled = 0 + 1 ∧ old.kind < 4 ∧ old.pc.toNat % 4 = 0 ∧
    readVa spilled1 (coreCaches (coreOf spilled1.curG)) (cg spilled1).ctx
      (hdrArea (cctx spilled1).hdr + 512 * spilled1.curG + 16 * 0) 16 = some (leBytes 16 old.image) := by decide +kernel

/-- A fragment of the upper half of the threads, the lower half deferred in a PATH entry. -/
def half : State := updCG (updCF base fun f => { f with mask := 0xFFFF0000#32 }) fun g => { g with
  stk := [⟨1, 64#64, 0xFFFF#32, 0#32⟩] }
def twoFrags : State := updCG (updCF base fun f => { f with mask := 0xFFFF0000#32 }) fun g => { g with
  frags := Store.set g.frags 1 { (default : Frag) with st := .ready, mask := 0xFFFF#32 } }

theorem witness_ExitResumes : ∃ u e, popChain (fun _ => true) 32 (removeThreads half (active half)) = (u, .path e) ∧
    e.pc.toNat % 64 = 0 ∧ resumable u e ≠ 0#32 := ⟨_, _, rfl, by decide, by decide⟩
theorem witness_ExitLeavesOthers : ∃ u, popChain (fun _ => true) 32 (removeThreads twoFrags (active twoFrags)) = (u, .empty) ∧
    liveFrags (cg (updCF u fun _ => default)) ≠ [] := ⟨_, rfl, by decide⟩
theorem witness_ExitEnds : ∃ u, popChain (fun _ => true) 32 (removeThreads base (active base)) = (u, .empty) ∧
    liveFrags (cg (updCF u fun _ => default)) = [] := ⟨_, rfl, by decide⟩

theorem witness_TrapAndReturn : (cf base).st = .ready ∧ ((cf handler).st = .handler ∧ (cf handler).trap.cause = cSOFTWARE) ∧
    (let s := updCF handler fun f => { f with trap := { f.trap with cause := cOPERAND } };
      (cf s).st = .handler ∧ (cf s).trap.cause ≠ cSOFTWARE) ∧ (w64 (rdPair (cg handler) 4)).toNat % 64 = 0 := by decide

theorem witness_TrapFreezes : let s := updCF handler fun f => { f with pstk := List.replicate 4 ⟨0, 64#64, 1#32, 0#32⟩ }
    (cf s).st = .handler ∧ s.curF < 8 ∧ (∀ r ∈ s.rdvs, r.lists s.curG = false) ∧ active s ≠ 0#32 ∧
    (fblock (cf s).pc + (usrc s (.lit 64#32)).signExtend 64).toNat % 64 = 0 ∧ (cf s).pstk.length = 4 := by decide
theorem witness_TrapSplits : (cf base).st = .ready ∧ 1#32 ≠ 0#32 ∧ 1#32 ≠ active base ∧ freeFrag (cg base) = some 1 := by decide

theorem witness_ModeAndSystemRegisters : modeOk 0x00A40000#32 = true ∧ (modeOk 0x00E00000#32 = false ∧ (cf base).st = .ready) ∧
    1 < (2#8).toNat ∧ 2#8 ≠ 0x0C#8 := by decide

def barred (c e p : Nat) : State := updB base 0 fun b => { b with bars := Store.set b.bars 0 ⟨e, c, p⟩ }
theorem witness_BlockBarriers :
    (0 < 65535 ∧ 65535 ≤ 65535 ∧ (barAt (barred 65535 1 0) 0).count = 1 * 65535 + 0 ∧ 0 < 65535 ∧ (usrc base (.lit 65535#32)).toNat = 65535) ∧
    ((usrc base (.lit 65536#32)).toNat = 65536 ∧ 65535 < 65536 ∧ (cf base).st = .ready) ∧
    (scratchWrites (cg base) = false ∧ (barAt (barred 1 2 0) 0).count + 65535 = 32768 * (barAt (barred 1 2 0) 0).expect + 0 ∧
      0 < (barAt (barred 1 2 0) 0).expect) ∧
    scratchWrites (cg (updCG base fun g => { g with pend := [{ (default : Pend) with kind := .store, scratch := true }] })) = true ∧
    ((barAt (barred 0 1 32767) 0).phase + 65536 - 0) % 65536 < 32768 ∧
    32768 ≤ ((barAt (barred 0 1 32768) 0).phase + 65536 - 0) % 65536 := by decide
/-- R119: an ARRIVE of 32,769 ends the AWAIT of phase 1 that another fragment waits in, though it is past it by then; one of
phase 2 of another barrier goes on waiting. -/
theorem test_arrive_ends_awaits :
    let two := fun (k : Nat) => updCG (barred 0 1 0) fun g => { g with
      frags := Store.set g.frags 1 { (default : Frag) with st := .waiting, mask := 1#32, wait := .await .nul k 1 } }
    (fragAt (after (.arrive .nul 0#3 .one) (two 0)) 0 1).wait = .awaited .nul 0 ∧
    (fragAt (after (.arrive .nul 0#3 .one) (two 1)) 0 1).wait = .await .nul 1 1 := by decide +kernel

/-! Memory. -/

def passes (c : Checked) : Bool :=
  match c with
  | .trap _ _ => false
  | _ => true
theorem ne_trap {c : Checked} (h : passes c = true) (x : Nat) (r : Bool) : c ≠ .trap x r := by
  intro e
  subst e
  cases h
def trapsWith (c : Checked) (x : Nat) : Bool :=
  match c with
  | .trap y r => y == x && !r
  | _ => false
theorem is_trap {c : Checked} {x : Nat} (h : trapsWith c x = true) : c = .trap x false := by
  cases c with
  | trap y r => simp [trapsWith] at h; obtain ⟨rfl, rfl⟩ := h; rfl
  | _ => cases h

/-- No thread executes under the guard. -/
def guarded : State := withMode 0x80000000#32
/-- An address pair beyond the virtual address space. -/
def far : State := withS 5 0xFFFFFFFF#32

theorem witness_Issue_full : execThreads full (.v 0) ≠ [] ∧ flagFull full 1 = true ∧ flagFull full 2 = true := by decide
/-- A group at rest: its block has no bank and nothing under way, and the global time is past LCT. -/
def resting : State := { mapped with gt := 1 }
theorem witness_AtRest : AtRest resting :=
  ⟨.inl (by decide), by decide, by decide +kernel, by decide, by decide⟩
theorem witness_Issue_nobody : flagFull guarded 1 = false ∧ flagFull guarded 2 = false ∧ execThreads guarded (.v 0) = [] := by decide
theorem witness_Issue_passes : flagFull mapped 1 = false ∧ flagFull mapped 2 = false ∧ execThreads mapped (.v 0) ≠ [] := by decide
theorem witness_LoadsIssue_reach : ∀ j ∈ execThreads mapped (.v 0), ∀ c r,
    reach mapped .read (.s 4) false (addrOf mapped (.s 4) (.lit 0x17FFFFF0#32) j) 16 ≠ .trap c r :=
  fun j h => ne_trap ((by decide +kernel : ∀ j ∈ execThreads mapped (.v 0),
    passes (reach mapped .read (.s 4) false (addrOf mapped (.s 4) (.lit 0x17FFFFF0#32) j) 16) = true) j h)
theorem witness_StoresIssue_reach : ∀ j ∈ execThreads mapped .nul, ∀ c r,
    reach mapped .write (.s 4) false (addrOf mapped (.s 4) (.lit 0x17FFFFF0#32) j) 16 ≠ .trap c r :=
  fun j h => ne_trap ((by decide +kernel : ∀ j ∈ execThreads mapped .nul,
    passes (reach mapped .write (.s 4) false (addrOf mapped (.s 4) (.lit 0x17FFFFF0#32) j) 16) = true) j h)
theorem witness_AtomicsIssue_reach : ∀ j ∈ execThreads mapped (.s 0), ∀ c r,
    reach mapped .atomic (.s 4) false (addrOf mapped (.s 4) (.lit 0x17FFFFFC#32) j) 4 ≠ .trap c r :=
  fun j h => ne_trap ((by decide +kernel : ∀ j ∈ execThreads mapped (.s 0),
    passes (reach mapped .atomic (.s 4) false (addrOf mapped (.s 4) (.lit 0x17FFFFFC#32) j) 4) = true) j h)
/-- One bank of the block is scratch. -/
def banked : State := { mapped with banks := [(0, { (default : Bank) with owned := true, mode := 1 })] }
theorem witness_Issue_scratch : ∀ j ∈ execThreads banked (.v 0), ∀ c r,
    reach banked .write .ls false (addrOf banked .ls (.lit 49151#32) j) 1 ≠ .trap c r :=
  fun j h => ne_trap ((by decide +kernel : ∀ j ∈ execThreads banked (.v 0),
    passes (reach banked .write .ls false (addrOf banked .ls (.lit 49151#32) j) 1) = true) j h)
/-- The lowest thread alone, in scratch. -/
def one : State := updCF banked fun f => { f with mask := 1#32 }
theorem witness_AtomicsIssue_scratch : execThreads one (.v 0) = [0] ∧ execThreads one .nul = [0] ∧ (cg one).pend = [] ∧
    flagFull one 1 = false ∧ flagFull one 2 = false ∧
    (∃ pa pl win, checkScratch one (addrOf one .ls (.lit 49148#32) 0) 4 = .ok pa pl win ∧ draining one pa one.nextId = false) :=
  ⟨by decide, by decide, by decide, by decide, by decide, 49148, false, none, by decide +kernel, by decide +kernel⟩
theorem witness_AtomicsIssue_ok : ∀ j ∈ execThreads mapped (.v 0),
    reach mapped .atomic (.s 4) false (addrOf mapped (.s 4) .zero j) 4 = .ok 0 false none := by decide +kernel
theorem witness_Issue_traps : (cf far).st = .ready ∧ lowest (active far) = some 0 ∧ selected far = active far ∧
    ∀ j ∈ execThreads far (.v 0), ∀ k ∈ [AccKind.read, .write, .atomic],
      reach far k (.s 4) false (addrOf far (.s 4) .zero j) 1 = .trap cADDRESS false := by
  refine ⟨by decide, by decide, by decide, fun j h k e => is_trap ?_⟩
  exact (by decide +kernel : ∀ j ∈ execThreads far (.v 0), ∀ k ∈ [AccKind.read, .write, .atomic],
    trapsWith (reach far k (.s 4) false (addrOf far (.s 4) .zero j) 1) cADDRESS = true) j h k e

/-- The accesses of some threads to the amax entry 4,095. -/
def amaxAccs (ts : List Nat) : List Acc :=
  ts.map fun j => { (default : Acc) with t := j, va := 393120, pa := 393120, n := 96 }

theorem witness_AmaxTables_named (s : State) (hs : s ∈ [mapped, full]) (ts : List Nat) (h : ts ∈ [execThreads s (.s 0), threads (selected s)]) :
    ts ≠ [] ∧ (amaxAccs ts).map (·.t) = ts ∧ ∀ c ∈ amaxAccs ts, (src s .fp (.lit 4095#32) c.t).toNat < 4096 ∧
      ∃ pa pl win, checkGlobal s .atomic false (hdrAmax (cctx s).hdr + 96 * (src s .fp (.lit 4095#32) c.t).toNat) 96 =
        .ok pa pl win ∧ c = { (default : Acc) with
          t := c.t, va := hdrAmax (cctx s).hdr + 96 * (src s .fp (.lit 4095#32) c.t).toNat, pa := pa, n := 96, pl := pl } := by
  have e : checkGlobal s .atomic false 393120 96 = .ok 393120 false none :=
    (by decide +kernel : ∀ s ∈ [mapped, full], checkGlobal s .atomic false 393120 96 = .ok 393120 false none) s hs
  have v : ∀ j, hdrAmax (cctx s).hdr + 96 * (src s .fp (.lit 4095#32) j).toNat = 393120 :=
    fun _ => (by decide +kernel : ∀ s ∈ [mapped, full], hdrAmax (cctx s).hdr + 96 * 4095 = 393120) s hs
  refine ⟨?_, ?_, fun c hc => ?_⟩
  · exact (by decide +kernel : ∀ s ∈ [mapped, full], ∀ ts ∈ [execThreads s (.s 0), threads (selected s)], ts ≠ []) s hs ts h
  · simp [amaxAccs, Function.comp_def]
  · simp only [amaxAccs, List.mem_map] at hc
    obtain ⟨j, -, rfl⟩ := hc
    exact ⟨(by decide : 4095 < 4096), 393120, false, none, by rw [v]; exact e, by rw [v]; rfl⟩
theorem witness_AmaxTables_groups : flagFull mapped 1 = false ∧ flagFull mapped 2 = false ∧
    amaxGroups true (fun _ => 0#32) (amaxAccs [0]) ≠ [] ∧ amaxGroups false (fun _ => 0x7FC00000#32) (amaxAccs [0, 31]) = [] ∧
    (∃ j ∈ [0, 31], (f32.val (src mapped .fp (.lit 0x7FC00000#32) j).toNat).isNan = true) ∧
    (¬∃ j ∈ [0, 31], (f32.val (src mapped .fp (.lit 0x7F800000#32) j).toNat).isNan = true) := by decide +kernel
theorem witness_AmaxTables_traps : (cf base).st = .ready ∧ active base ≠ 0#32 ∧ selected base = active base ∧
    (∀ j, 4096 ≤ (src base .fp (.lit 4096#32) j).toNat) ∧ flagFull base 1 = false ∧ flagFull base 2 = false :=
  ⟨by decide, by decide, by decide, fun _ => (by decide : 4096 ≤ 4096), by decide, by decide⟩

theorem witness_PageRequests : execThreads guarded (.v 0) = [] ∧ execThreads mapped (.v 0) ≠ [] ∧ flagFull mapped 1 = false ∧
    (∀ j ∈ execThreads mapped (.v 0), ¬vaEnd ≤ addrOf mapped (.s 4) .zero j ∧
      ∃ l, translate mapped (coreCaches (coreOf mapped.curG)) (cg mapped).ctx (addrOf mapped (.s 4) .zero j / frameBytes) = .ok l) ∧
    (∀ j ∈ execThreads far (.v 0), vaEnd ≤ addrOf far (.s 4) .zero j) ∧
    ∀ j ∈ execThreads base (.s 0), ¬vaEnd ≤ addrOf base (.s 4) .zero j ∧
      translate base (coreCaches (coreOf base.curG)) (cg base).ctx (addrOf base (.s 4) .zero j / frameBytes) = .notResident := by
  refine ⟨by decide, by decide, by decide, fun j hj => ⟨?_, ?_⟩, ?_, ?_⟩
  · revert j; decide +kernel
  · have h0 : ∀ j ∈ execThreads mapped (.v 0), addrOf mapped (.s 4) .zero j / frameBytes = 0 := by decide +kernel
    rw [h0 j hj]
    exact ⟨_, rfl⟩
  · decide +kernel
  · decide +kernel

/-- A pending store, and a pending load, in scratch. -/
def storing (k : PendKind) : State := updCG { mapped with nextId := 1 } fun g => { g with pend := [{ (default : Pend) with kind := k, scratch := true }] }
/-- Global time 1, and a write-back of the block on its way. -/
def later : State := { mapped with gt := 1, nextId := 1, hw := [{ (default : HomeReq) with blk := some 0, wb := true }] }
/-- A window write of the group that is lost at one chip with status 2. -/
def lostWrite : State := { mapped with nextId := 1, refl := [{ (default : ReflWrite) with lost := [(1, 2)] }] }
/-- One that is not acknowledged yet. -/
def openWrite : State := { mapped with nextId := 1, refl := [{ (default : ReflWrite) with sent := [(1, 1)] }] }

theorem witness_Fences : ((cf mapped).st = .ready ∨ (cf handler).st = .handler) ∧
    pendBefore (cg (storing .store)) 1 PendKind.counted = true ∧ pendBefore (cg mapped) 0 PendKind.counted = false ∧
    (pendBefore (cg mapped) 0 PendKind.counted || pendBefore (cg mapped) 0 PendKind.loads) = false ∧
    pendBefore (cg (storing .load)) 1 PendKind.loads = true ∧ pendBefore (cg mapped) 0 PendKind.loads = false ∧
    (2#2).toNat = 2 ∧ (1#2).toNat < 2 ∧
    (let s := { mapped with gt := 1 }; wbPending (writeBackAll s 0) 0 (writeBackAll s 0).nextId = false ∧ (bAt s 0).lct < s.gt) ∧
    wbPending (writeBackAll later 0) 0 (writeBackAll later 0).nextId = true ∧ (base.gt ≤ (bAt base 0).lct) := by decide +kernel
theorem witness_FrcAndWtime : frcStatus lostWrite lostWrite.curG lostWrite.nextId true = some 2 ∧
    frcStatus openWrite openWrite.curG openWrite.nextId true = none ∧
    (frcLost mapped 0 0 = 0 ∧ frcOpen mapped 0 0 = false) ∧ (w64 (upair mapped (.s 4))).toNat ≤ mapped.gt ∧
    mapped.gt < (w64 (upair (withS 5 1#32) (.s 4))).toNat ∧ flagFull mapped 2 = false := by decide +kernel

/-! Matrix and attention instructions. -/

/-- A descriptor of 96 rows, 128 columns and K 16, in s8 to s15; and the same with K 0. -/
def described (k : Word) : State := updCG mapped fun g => { g with
  s := Store.setList g.s 8 [0#32, 0#32, 0#32, 0#32, 0x00600000#32 ||| k, 0x80#32, 0#32, 0#32] }
/-- Two groups of one role, in one gang. -/
def ganged : State :=
  let s := updCG (described 16#32) fun g => { g with gang := 3#32, md := Store.setList g.md 0 (ublock (described 16#32) (.s 8) 8) }
  { s with groups := Store.set s.groups 1 (cg s) }
/-- The same with a sparse descriptor and FP8 operands. -/
def sparse : State := updCF (updCG ganged fun g => { g with md := Store.set g.md 5 0x180#32 }) fun f => { f with mode := 0x860#32 }
def opened : State := { ganged with nextId := 1, rdvs := [⟨0, 0, 3#32, []⟩] }

theorem witness_Descriptors : mdOk (ofWords (ublock (described 16#32) (.s 8) 8)) = true ∧
    mdOk (ofWords (ublock (described 0#32) (.s 8) 8)) = false ∧ (cf (described 0#32)).st = .ready ∧
    gangOk ganged (usrc ganged (.lit 3#32)) = true ∧ gangOk ganged (usrc ganged .zero) = true ∧
    gangOk ganged (usrc ganged .one) = false ∧ (cf ganged).st = .ready := by decide +kernel
theorem witness_Ganged : (cg ganged).gang ≠ 0#32 ∧ readPending (cg ganged) (fragRegs (.v 0)) = false ∧
    mmaOk (mdOf (cg ganged) 0) (cf ganged).mode false = true ∧ mmaOk (mdOf (cg sparse) 0) (cf sparse).mode true = true ∧
    clashes ganged (arrival ganged 0xA2 0 (some 0) none (fragRegs (.v 0)) .zero) = [] ∧
    (∀ r ∈ ganged.rdvs, ¬(r.blk = blkOf ganged.curG ∧ r.gang = (cg ganged).gang)) ∧
    clashes opened (arrival opened 0xA9 0 none (some 190) [190, 191] .nul) = [] ∧
    (∃ r ∈ opened.rdvs, r.blk = blkOf opened.curG ∧ r.gang = (cg opened).gang) ∧
    ((cg mapped).gang = 0#32 ∧ (∀ x ∈ mapped.rdvs, x.lists mapped.curG = false) ∧ (cf mapped).st = .ready) ∧
    flagFull ganged 2 = false ∧ queueLen ganged (coreOf ganged.curG) < 8 ∧
    8 ≤ queueLen { ganged with mxq := List.replicate 8 default } (coreOf ganged.curG) := by decide +kernel

/-! Streamer instructions. -/

/-- Registers s8 to s15 as a command of 16 bytes between pages, of one row. -/
def command (ws : List Word) : State := updCG banked fun g => { g with s := Store.setList g.s 8 ws }
def copying : State := command [0#32, 0#32, 16#32, 0#32, 16#32, 1#32, 0#32, 0#32]
def cmdOf (s : State) (op sel : Nat) : Cmd := { (default : Cmd) with
  op := op, g := s.curG, sel := sel, regs := ublock s (.s 8) 8, ev := usrc s .zero
  banks := scratchBanks s 0, fifo := fifoBanks s 0 }
def halted : State := setQstat copying 0 0 1

theorem witness_CopyCommands : flagFull copying 2 = false ∧ (cf copying).st = .ready ∧
    (∀ op ∈ [0xB0, 0xB1, 0xB3, 0xB4, 0xB5], copyBad (cmdOf copying op 0) (ringRec copying 0 0) = false ∧
      copyOut (cmdOf copying op 0) (scratchSize copying 0) = none) ∧
    (copyBad (cmdOf copying 0xB2 8) (ringRec copying 0 0) = false ∧ copyOut (cmdOf copying 0xB2 8) (scratchSize copying 0) = none) ∧
    copyBad (cmdOf banked 0xB0 0) (ringRec banked 0 0) = true ∧
    (let s := command [0#32, 0xFFFFFFFF#32, 0#32, 0#32, 16#32];
      copyBad (cmdOf s 0xB0 0) (ringRec s 0 0) = false ∧ (copyOut (cmdOf s 0xB0 0) (scratchSize s 0)).isSome = true) ∧
    (let s := command [0#32, 0#32, 49152#32, 0#32, 16#32];
      copyBad (cmdOf s 0xB0 8) (ringRec s 0 0) = false ∧ copyOut (cmdOf s 0xB0 8) (scratchSize s 0) = some (cSCRATCH_RANGE, 49152)) ∧
    queueRoom copying 0 3 = true ∧ qHalt (qstat copying 0 0) = false ∧ qHalt (qstat halted 0 0) = true ∧
    copyBad (cmdOf halted 0xB0 0) (ringRec halted 0 0) = false ∧ copyOut (cmdOf halted 0xB0 0) (scratchSize halted 0) = none ∧
    queueRoom halted 0 0 = true ∧ (∀ k ∈ queuesOf 15, queueRoom copying 0 k = true) ∧
    (let s := { copying with strq := [(3, List.replicate 32 default)] }; queueRoom s 0 3 = false ∧ 3 ∈ queuesOf 8 ∧
      copyBad (cmdOf s 0xB0 3) (ringRec s 0 0) = false ∧ copyOut (cmdOf s 0xB0 3) (scratchSize s 0) = none) := by decide +kernel

/-- One FIFO bank with ring 15 of two slots of one line, the first slot full. -/
def ringed (ap fp : Nat) : State := updRing { mapped with banks := [(0, { (default : Bank) with owned := true, mode := 2 })] } 0 15
  fun _ => { (default : Ring) with valid := true, nslot := 2, slotl := 1, fp := fp, ap := ap, wp := fp }
def ringWaiter : State := updG { ringed 0 1 with nextId := 1 } 1 fun g => { g with
  frags := Store.set g.frags 0 { (default : Frag) with wait := .rngw (.s 0) 15 0 } }

theorem witness_Rings : (0x140 < 65536 ∧ (ringRec (ringed 0 0) 0 0).valid = false ∧ 0x100 % 256 = 0) ∧
    (let s := ringed 0 0;
      (usrc s (.lit 0x140#32)).toNat = 0x140 ∧ 0 < 0x140 % 256 ∧ 0x140 % 256 ≤ 64 ∧ 0 < 0x140 / 256 ∧ 384 % 192 = 0 ∧
      384 + 192 * (0x140 / 256) * (0x140 % 256) ≤ (fifoBanks s 0).length * 49152 ∧
      ∀ e ∈ (bAt s 0).rings, e.1 ≠ 0 → e.2.valid = true → e.2.base + e.2.size ≤ 384 ∨ 384 + 192 * 1 * 64 ≤ e.2.base) ∧
    ((ringRec (ringed 0 1) 0 15).valid = true ∧ (ringRec (ringed 0 1) 0 15).ap ≠ (ringRec (ringed 0 1) 0 15).fp ∧
      ringQueued (shut (ringed 0 1)) 0 15 (ringed 0 1).nextId = false) ∧
    (ringRec (ringed 0 0) 0 15).ap = (ringRec (ringed 0 0) 0 15).fp ∧ ringQueued (shut ringWaiter) 0 15 ringWaiter.nextId = true ∧
    ((ringRec (ringed 0 0) 0 0).valid = false ∧ (cf (ringed 0 0)).st = .ready) ∧
    ((∀ p ∈ (cg (ringed 1 1)).pend, ¬(p.kind = .value ∧ p.op = 0xB9)) ∧ 1 ≤ ((ringRec (ringed 1 1) 0 15).ap + 65536 -
      (ringRec (ringed 1 1) 0 15).rp) % 65536) ∧
    (flagFull (ringed 0 1) 1 = false ∧ execThreads (ringed 0 1) (.v 0) ≠ [] ∧ ∀ j ∈ execThreads (ringed 0 1) (.v 0),
      (src (ringed 0 1) .plain (.lit 368#32) j).toNat % 16 = 0 ∧
      (src (ringed 0 1) .plain (.lit 368#32) j).toNat < (ringRec (ringed 0 1) 0 15).size) := by decide +kernel

/-- A copy of the group in queue 0. -/
def queued (op : Nat) : State := { mapped with nextId := 1, strq := [(0, [{ (default : Cmd) with op := op }])] }

theorem witness_QueueWaitsAndBanks :
    copiesLeft mapped 0 (queuesOf 15) 0 (fun _ => true) = false ∧ copiesLeft (queued 0xB0) 0 (queuesOf 1) 1 (fun _ => true) = true ∧
    copiesLeft mapped 0 [3] 0 (fun m => m.op == 0xB3) = false ∧ copiesLeft (queued 0xB3) 0 [0] 1 (fun m => m.op == 0xB3) = true ∧
    (flagFull banked 2 = false ∧ (usrc banked .zero).toNat < 32 ∧ (bankAt banked 0 0).drain = false ∧
      (bankAt banked 0 0).owned = true ∧ (bankAt banked 0 0).blk = 0 % 4 ∧ (bankAt banked 0 0).mode ≠ 2) ∧
    (let s := updRing (ringed 0 0) 0 15 fun r => { r with valid := false };
      (bankAt s 0 0).mode = 2 ∧ ringIn s 0 (placeIn (fifoBanks s 0) 0) = false) ∧
    32 ≤ (usrc mapped (.lit 32#32)).toNat ∧
    ((usrc mapped .zero).toNat < 32 ∧ (bankAt mapped 0 0).drain = false ∧ (bankAt mapped 0 0).owned = false ∧ (cf mapped).st = .ready) := by
  decide +kernel

theorem someOf {α : Type} {x : Option α} {p : α → Bool} (h : x.any p = true) : ∃ y, x = some y ∧ p y = true := by
  cases x with
  | none => cases h
  | some y => exact ⟨y, rfl, h⟩
/-! Events, mailboxes, operators, windows. -/

/-- The buffer of the path queues is full: 260 writes for chip 1 wait on each of 260 records. -/
def crowded (s : State) : State := { s with
  refl := List.replicate 260 { (default : ReflWrite) with todo := [1] }
  paths := List.replicate 260 (0, { (default : Path) with used := true, peer := 1 }) }

/-- An event table of 2^22 entries, its last one with byte 7 as given; global time 1. -/
def evented (b : Byte) : State := { updCtx mapped 0 fun c => { c with evlog := 22 } with gt := 1, mem := [(33554431, b)] }
def lastEvent : Opnd := .lit 0x3FFFFF#32
def pended (s : State) : State := (addPend (shut s) 2 { (default : Pend) with kind := .signal, dst := .nul }).1
def heldSig (s : State) (a b : Opnd) : State := waitFor (pended s) (.fence 2 true false s.nextId none 1 (usrc s a) (usrc s b))

theorem witness_EventSignals : let s := evented 1#8
    flagFull s 2 = false ∧ (usrc s (.lit 0x7FFFFFFF#32)).toNat < 2 ^ 31 ∧ evIndexOk (cctx s) (evIdx (usrc s lastEvent)) = true ∧
    (fenceRound (heldSig s lastEvent .one) s.curG s.curF).2 = true ∧
    (let u := (fenceRound (heldSig (evented 0#8) lastEvent .one) 0 0).1;
      evChip (usrc u lastEvent) = u.chip ∧
      evAccess (dropPend u 0 (evented 0#8).nextId) (cg u).ctx (evIdx (usrc u lastEvent)) true = .ok 33554424 0 ∧ evMirror 0 = false) ∧
    (let u := (fenceRound (heldSig s (.lit 0x400001#32) .one) 0 0).1;
      (fenceRound (heldSig s (.lit 0x400001#32) .one) 0 0).2 = true ∧ evChip 0x400001#32 ≠ u.chip ∧ usrc s .one ≠ 0#32 ∧
      egressRoom u (ctxidOf u (cg u).ctx) [evChip 0x400001#32] 1 = true) ∧
    (let s := { evented 8#8 with subs := [(0, 0x3FFFFF, 1)] }; let u := (fenceRound (heldSig s lastEvent .one) 0 0).1;
      (fenceRound (heldSig s lastEvent .one) 0 0).2 = true ∧ subsRoom u 0 0x3FFFFF (2 ^ 59) 1 = true ∧
      evAccess u 0 0x3FFFFF true = .ok 33554424 (2 ^ 59) ∧ evMirror (2 ^ 59) = false ∧
      subsRoom (crowded s) 0 0x3FFFFF (2 ^ 59) 1 = false ∧
      (let u := (fenceRound (heldSig (crowded s) lastEvent .one) 0 0).1;
        (fenceRound (heldSig (crowded s) lastEvent .one) 0 0).2 = true ∧
        evAccess u 0 0x3FFFFF true = .ok 33554424 (2 ^ 59) ∧ subsRoom u 0 0x3FFFFF (2 ^ 59) 1 = false)) ∧
    (let u := (fenceRound (heldSig (crowded s) (.lit 0x400001#32) .one) 0 0).1;
      (fenceRound (heldSig (crowded s) (.lit 0x400001#32) .one) 0 0).2 = true ∧ egressRoom u 0 [evChip 0x400001#32] 1 = false) ∧
    (let s := { s with gt := 0 }; (fenceRound (heldSig s lastEvent .one) s.curG s.curF).2 = false) ∧
    (2 ^ 31 ≤ (usrc s (.lit 0x80000000#32)).toNat ∧ evIndexOk (cctx s) (evIdx (usrc s .zero)) = false ∧ (cf s).st = .ready) := by
  decide +kernel
theorem witness_EventSignals_atRest : AtRest (evented 0#8) ∧ evChip 0x3FFFFF#32 = (evented 0#8).chip ∧
    evAccess (evented 0#8) (cg (evented 0#8)).ctx (evIdx 0x3FFFFF#32) true = .ok 33554424 0 :=
  ⟨⟨.inl (by decide), by decide, by decide +kernel, by decide, by decide⟩, by decide, by decide +kernel⟩
theorem witness_EventWaits : evLocal (evented 0#8) 0#32 = none ∧
    (evLocal (evented 0#8) 0x3FFFFF#32 = some (.ok 33554424 0) ∧ 0 ≤ serial (evCtr 0) (usrc mapped .zero)) ∧
    (¬0 ≤ serial (evCtr 0) (usrc mapped .one) ∧ bit (preqOf (evented 0#8) 0) 1 = false ∧ evDown 0 = false ∧ evClosed 0 = false) ∧
    (evLocal (evented 0x10#8) 0x3FFFFF#32 = some (.ok 33554424 (2 ^ 60)) ∧ evDown (2 ^ 60) = true ∧ ¬0 ≤ serial (evCtr (2 ^ 60)) 1#32) ∧
    (evLocal (evented 0x20#8) 0x3FFFFF#32 = some (.ok 33554424 (2 ^ 61)) ∧ evDown (2 ^ 61) = false ∧ evClosed (2 ^ 61) = true) ∧
    flagFull (evented 0#8) 1 = false := by decide +kernel

def mail : Mail := { (default : Mail) with words := List.replicate 6 7#32 }
def mailed : State := { mapped with gt := 1, mbox := [(0, [mail])] }
/-- The job 9 of point 0 of a RUN operator in slot 63, taken by the block. -/
def working : State := { mailed with
  ops := [(63, { (default : OpSlot) with used := true, ins := 1, points := [{ (default : Point) with st := .taken, jobid := 9#32 }] })] }
/-- The operator in slot 63 signals event 1 of chip 1 with each point. -/
def signalling (s : State) : State := { updCtx s 0 fun c => { c with evlog := 1 } with ops := s.ops.map fun e =>
  (e.1, { e.2 with ins := 1 + 2 ^ 28 + 0x400001 * 2 ^ 336 + 2 ^ 368 }) }
def heldDone (s : State) (a : Opnd) : State := waitFor (pended s) (.fence 2 true false s.nextId none 2 (usrc s a) 0#32)

theorem witness_MailboxesAndOperators :
    (mailFor mailed (blkOf mailed.curG) = some mail ∧ mailQueued (shut mailed) 0 mailed.nextId mail = false) ∧
    mailFor mapped (blkOf mapped.curG) = none ∧
    (flagFull working 2 = false ∧ jobOf working 0 (usrc working (.lit 9#32)) ≠ none ∧
      (fenceRound (heldDone working (.lit 9#32)) 0 0).2 = true ∧
      jobOf (dropPend (fenceRound (heldDone working (.lit 9#32)) 0 0).1 0 working.nextId) 0 9#32 = some (63, 0)) ∧
    retireRoom (fenceRound (heldDone working (.lit 9#32)) 0 0).1 63 = true ∧
    (let s := crowded (signalling working); let u := (fenceRound (heldDone s (.lit 9#32)) 0 0).1;
      (fenceRound (heldDone s (.lit 9#32)) 0 0).2 = true ∧ jobOf u 0 9#32 = some (63, 0) ∧ retireRoom u 63 = false) ∧
    (fenceRound (heldDone { working with gt := 0 } (.lit 9#32)) 0 0).2 = false ∧
    (jobOf working 0 (usrc working .zero) = none ∧ (cf working).st = .ready) ∧
    (flagFull working 1 = false ∧ frqWords working 63 0xFFFFFFFF#32 = some [4#32, 0#32] ∧ frqWords working 64 0#32 = none) ∧
    (flagFull mapped 2 = false ∧ 63 < 64 ∧ checkGlobal mapped .write false (streamAt mapped (cg mapped).ctx 63).shadow.toNat 8 = .ok 0 false none) := by
  decide +kernel

theorem witness_Mailboxes_atRest : AtRest working ∧ jobOf working (blkOf working.curG) (usrc working (.lit 9#32)) = some (63, 0) ∧
    retireRoom working 63 = true :=
  ⟨⟨.inl (by decide), by decide, by decide +kernel, by decide, by decide⟩, by decide +kernel, by decide +kernel⟩

/-- Window entry 1,023 over page 0, for chip 1. -/
def windowed : State := { mapped with txw := [(1023, 2 ^ 238 + 2 ^ 185 + 2 ^ 96 + 2 ^ 36)] }
/-- The registers of a WMAPI: UNMAP of window entry 1,023, and a command that does not exist. -/
def mapping (w : Word) : State := updCG windowed fun g => { g with s := Store.setList g.s 8 [w] }
def applied (s : State) : Option State := wmapiApply (shut s) (cg s).ctx (wordsNat (ublock s (.s 8) 8) % 2 ^ 32) (wordsNat (ublock s (.s 8) 8))

theorem witness_WindowReductions : threads (selected windowed) ≠ [] ∧ flagFull windowed 2 = false ∧
    ∀ j ∈ threads (selected windowed), ∃ pa pl w, checkGlobal windowed .reduce false (addrOf windowed (.s 4) .zero j) 4 = .ok pa pl w := by
  have h : ∀ j ∈ threads (selected windowed),
      checkGlobal windowed .reduce false (addrOf windowed (.s 4) .zero j) 4 = .ok 0 false (some 1023) := by decide +kernel
  exact ⟨by decide, by decide, fun j hj => ⟨_, _, _, h j hj⟩⟩
/-- The lowest thread alone. -/
def oneWindowed : State := updCF windowed fun f => { f with mask := 1#32 }
theorem witness_WindowReductions_one : threads (selected oneWindowed) = [0] ∧ threads (selected guarded) = [] ∧
    (cg oneWindowed).pend = [] ∧ flagFull oneWindowed 2 = false ∧
    checkGlobal oneWindowed .reduce false (addrOf oneWindowed (.s 4) .zero 0) 4 = .ok 0 false (some 1023) ∧
    l1Blocked oneWindowed (blkOf oneWindowed.curG) (lineOf 0) oneWindowed.nextId = false := by decide +kernel
theorem witness_WindowState : (wstatOf windowed 1023 0xFFFFFFFF#32).isSome = true ∧ wstatOf windowed 1024 0#32 = none ∧
    flagFull windowed 1 = false ∧ flagFull windowed 2 = false ∧ (cf windowed).st = .ready := by decide +kernel
/-- The registers of a WMAPI that subscribes event 1 of the own chip to chip 1. -/
def subscribing : State := updCG (updCtx windowed 0 fun c => { c with evlog := 1 }) fun g => { g with
  s := Store.setList g.s 8 [0x80000000#32, 0x400001#32] }
theorem witness_WindowCommands_held : let a := wordsNat (ublock subscribing (.s 8) 8) % 2 ^ 32
    let w := wordsNat (ublock subscribing (.s 8) 8)
    (applied subscribing).isSome = true ∧ wmapiHeld subscribing a w = false ∧ 2 < a / 2 ^ 28 ∧
    (applied (crowded subscribing)).isSome = true ∧ wmapiHeld (crowded subscribing) a w = true := by decide +kernel
theorem witness_WindowCommands : applied (mapping 0xF0000000#32) = none ∧
    (∃ u, applied (mapping 0x100003FF#32) = some u ∧ wmapiWaits u 1023 u.nextId = false) ∧
    ∃ u, applied { mapping 0x100003FF#32 with nextId := 1, refl := [{ (default : ReflWrite) with ent := 1023, sent := [(1, 1)] }] } = some u ∧
      wmapiWaits u 1023 u.nextId = true :=
  ⟨by decide +kernel, ⟨_, rfl, by decide +kernel⟩, ⟨_, rfl, by decide +kernel⟩⟩

/-- A descriptor of no pages and no current page, with HDIM 16, at address 0. -/
def described0 : State := { mapped with mem := [(16, 0xFF#8), (17, 0xFF#8), (18, 0xFF#8), (19, 0xFF#8), (44, 0x10#8)] }

theorem witness_KvInstructions : flagFull mapped 2 = false ∧ (Store.get mapped.kvq 0).length < 64 ∧
    (Store.get { mapped with kvq := [(0, List.replicate 64 default)] }.kvq 0).length = 64 ∧ execThreads guarded (.v 0) = [] := by
  decide +kernel
/-- The same, in a part whose engines translate as the core does; a KVSEAL of that descriptor. -/
def kvReady : State := { described0 with tlb := ⟨544, 0, 2, 0, 13⟩ :: described0.tlb }
def kvCmd : KvCmd := { (default : KvCmd) with
  id := kvReady.nextId, op := 0xE1, pend := kvReady.nextId, regs := ublock kvReady (.s 4) 2, banks := scratchBanks kvReady 0 }
def kvSent : State := waitFor { (addPend (shut kvReady) 2 { (default : Pend) with kind := .kv, dst := .nul }).1 with
  kvq := Store.upd kvReady.kvq 0 fun l => l ++ [kvCmd] } .kv
theorem witness_KvAcceptance : flagFull kvReady 2 = false ∧ Store.get kvReady.kvq 0 = [] ∧ (cf kvReady).st = .ready ∧
    kvMay kvSent kvCmd = true ∧ kvCmd.desc = some 0 ∧ (kvRun kvCmd (kvStart kvSent kvCmd)).err = none := by decide +kernel
theorem witness_KvPositions : let s := described0
    let va := upair s (.s 4)
    execThreads s (.s 0) ≠ [] ∧ flagFull s 1 = false ∧ kvTaken s (coreCaches (coreOf s.curG)) (cg s).ctx va = false ∧ va % 64 = 0 ∧
    kvPlaces s (coreCaches (coreOf s.curG)) (cg s).ctx va 64 false = .inl (List.range 64) ∧
    dBusy (leNat ((List.range 64).map (homeByte s))) = false ∧ descOk (leNat ((List.range 64).map (homeByte s))) = true ∧
    kvView s (leNat ((List.range 64).map (homeByte s))) (dPcnt (leNat ((List.range 64).map (homeByte s)))) 0 = .inl [] := by
  decide +kernel

/-! Privileged instructions. -/

theorem mem_distinct {l : List Nat} {x : Nat} (h : x ∈ distinct l) : x ∈ l := by
  have key : ∀ (l acc : List Nat), x ∈ l.foldl (fun acc x => if acc.contains x then acc else acc ++ [x]) acc → x ∈ acc ∨ x ∈ l := by
    intro l
    induction l with
    | nil => exact fun _ h => .inl h
    | cons a l ih =>
      intro acc h
      rcases ih _ h with h | h
      · by_cases c : acc.contains a = true
        · simp only [c, if_true] at h; exact .inl h
        · simp only [c] at h
          rcases List.mem_append.1 h with h | h
          · exact .inl h
          · simp at h; exact .inr (h ▸ .head _)
      · exact .inr (.tail _ h)
  simpa using key l [] h

/-- The leaf that `mapped` has for page 0. -/
def leaf0 : Leaf := ⟨0, 0, true, true, false, false⟩

theorem range_of_mapped {s : State} {caches : List Nat} {slot n : Nat} {wr : Bool} (ht : translate s caches slot 0 = .ok leaf0)
    (hw : s.txw = []) (hn : n ≤ frameBytes) : globalRange s caches slot 0 n wr = .inl (List.range n) := by
  have hf : frameBytes = 98304 := rfl
  have hv : ¬vaEnd < 0 + n := by have : vaEnd = 2 ^ 36 * 98304 := rfl; omega
  have hp : ∀ i, i < n → (0 + i) / frameBytes = 0 := fun i h => by rw [hf]; omega
  have hd : ∀ p ∈ distinct ((List.range n).map fun i => (0 + i) / frameBytes), p = 0 := by
    intro p h
    obtain ⟨i, hi, rfl⟩ := List.mem_map.1 (mem_distinct h)
    exact hp i (List.mem_range.1 hi)
  unfold globalRange
  rw [if_neg hv]
  dsimp only
  split
  · rename_i h
    obtain ⟨p, hm, e⟩ := List.exists_of_findSome?_eq_some h
    rw [hd p hm, ht] at e
    simp [leaf0, windowOf, hw] at e
  · congr 1
    conv => rhs; rw [← List.map_id (List.range n)]
    refine List.map_congr_left fun i h => ?_
    have hi := List.mem_range.1 h
    rw [hp i hi, ht]
    simp only [leaf0, paOf, id, hf]
    omega

theorem record_of_mapped {s : State} {n : Nat} (ht : translate s (coreCaches (coreOf s.curG)) (cg s).ctx 0 = .ok leaf0)
    (hw : s.txw = []) (hn : n ≤ frameBytes) : loadRecord s 0 n = .inl ((List.range n).map (homeByte s)) := by
  rw [loadRecord, range_of_mapped ht hw hn]

theorem field_of_mapped (f : Nat → Byte) {n o k : Nat} (h : o + k ≤ n) :
    fieldOf ((List.range n).map f) o k = leNat ((List.range' o k).map f) := by
  rw [fieldOf, ← List.map_drop, ← List.map_take]
  congr 2
  refine List.ext_getElem (by simp; omega) fun i h1 h2 => ?_
  simp

/-- A launch header with two groups of role 0, a privileged role of 192 vector registers, on one block. -/
def twoGroups : Nat := 2 ^ 512 * (192 * 2 ^ 64 + 2 * 2 ^ 72 + 2 ^ 83)
/-- The acting group alone, under that header, and with its frozen peer, whose region is OK. -/
def alone : State := updCtx mapped 0 fun c => { c with hdr := twoGroups }
def crew : State := { alone with groups := Store.set alone.groups 1 { cg alone with rgnx := 0x80000000#32, frags := [] } }
/-- The same with the peer's fragment running. -/
def busyCrew : State := { alone with groups := Store.set alone.groups 1 (cg alone) }

theorem leaf_of_mapped : translate mapped (coreCaches 0) 0 0 = .ok leaf0 := by decide +kernel

theorem witness_GrdAndGwr :
    (itemGroup mapped .zero 0 = some 0 ∧ itemRead mapped 0 0 191 31 ≠ none) ∧ itemGroup mapped .one 0 = none ∧ itemRead mapped 0 0 192 0 = none ∧
    (itemGroup (shut crew) .one 0 = some 1 ∧ allFrozen (gAt crew 1) = true ∧ (itemWrite (shut crew) 1 0 191 31 5#32).isSome = true) ∧
    (itemGroup (shut crew) .one 12 = some 0 ∧ (itemWrite (shut crew) 0 12 7 1 1#32).isSome = true) ∧
    (itemGroup (shut busyCrew) .one 11 = some 1 ∧ 11 < 12 ∧ 1 ≠ busyCrew.curG ∧ allFrozen (gAt busyCrew 1) = false ∧
      (cf busyCrew).st = .ready) ∧ (cf mapped).st = .ready := by decide +kernel
theorem witness_GresAndGfrz :
    (groupNamed crew .one = some 1 ∧ regionOk (gAt crew 1) = true ∧ 1 ≠ crew.curG ∧ (gAt crew 1).pend = [] ∧
      ∀ r ∈ crew.rdvs, r.lists 1 = false) ∧
    (groupNamed busyCrew .one = some 1 ∧ regionOk (gAt busyCrew 1) = false ∧ (cf busyCrew).st = .ready) ∧
    (groupNamed (shut busyCrew) .one = some 1 ∧ ∀ r ∈ busyCrew.rdvs, r.lists 1 = false) ∧
    groupNamed (shut busyCrew) .zero = some busyCrew.curG := by decide +kernel
theorem witness_Tlbi : flagFull mapped 2 = false ∧ (∃ i, invOf (ofWords (ublock mapped (.s 8) 4)) = some i ∧ i.kind ≤ 1 ∧ i.ctx = (cctx mapped).ctxid) ∧
    invOf (ofWords [0#32, 0#32, 0#32, 0x80000#32]) = none ∧ (cf mapped).st = .ready ∧
    (∃ i, invOf (ofWords [0#32, 0#32, 0#32, 0x20000#32]) = some i ∧ 1 < i.kind) ∧
    ∃ i, invOf (ofWords [0#32, 0#32, 0#32, 1#32]) = some i ∧ i.kind = 0 ∧ i.ctx ≠ (cctx mapped).ctxid :=
  ⟨by decide +kernel, ⟨_, rfl, by decide +kernel⟩, by decide +kernel, by decide, ⟨_, rfl, by decide +kernel⟩, ⟨_, rfl, by decide +kernel⟩⟩

/-- Operator slot 63 drains, its one point forced. -/
def drainingOp : State := { alone with ops := [(63, { (default : OpSlot) with used := true, drain := true, ins := 1, points := [{ (default : Point) with st := .forced }] })] }
theorem witness_Frsv : (upair drainingOp (.s 4) % 64 = 0 ∧ 63 < 64 ∧ (opAt drainingOp 63).used = true ∧ (opAt drainingOp 63).ctx = (cg drainingOp).ctx ∧
      (opAt drainingOp 63).drain = true ∧ ∀ p ∈ (opAt drainingOp 63).points, p.st = .forced) ∧
    globalRange (shut drainingOp) (coreCaches 0) 0 0 (frontRec drainingOp 63).length true = .inl (List.range (frontRec drainingOp 63).length) :=
  ⟨by decide +kernel, range_of_mapped (by decide +kernel) rfl (by decide +kernel)⟩

theorem blockRec_length_of (s : State) (b : Nat) (h : ∀ k, k < 4 → (rowSlot s (b / 4) k).bound = false) (hd : dataBanks s b = []) :
    (blockRec s b).length = 56320 := by
  have hl : ∀ l : List Nat, (∀ k ∈ l, k < 4) → (l.flatMap fun k =>
      let r := rowSlot s (b / 4) k
      if r.bound && r.blk == b % 4 then rowRec r else zeros 13888).length = 13888 * l.length := by
    intro l
    induction l with
    | nil => intro _; rfl
    | cons k l ih =>
      intro hk
      simp only [List.flatMap_cons, List.length_append, ih (fun j hj => hk j (.tail _ hj)), h k (hk k (.head _)),
        Bool.false_and, Bool.false_eq_true, if_false, zeros_length, List.length_cons]
      omega
  unfold blockRec
  dsimp only
  rw [hd]
  simp only [List.flatMap_nil, List.append_nil, List.length_append, padTo_length, recHead_length, leBytes_length]
  rw [hl _ (fun k hk => List.mem_range.1 hk), flatMap_length (k := 1) _ (fun _ => leBytes_length _ _),
    flatMap_length (k := 8) _ (fun _ => leBytes_length _ _), flatMap_length (k := 32) _ (fun _ => by simp),
    flatMap_length (k := 8) _ (fun _ => leBytes_length _ _)]
  simp
theorem witness_CtxsvBlock : upair alone (.s 4) % 64 = 0 ∧
    globalRange (shut alone) (coreCaches 0) 0 0 (blockRec (shut alone) 0).length true = .inl (List.range (blockRec (shut alone) 0).length) := by
  refine ⟨by decide +kernel, range_of_mapped (by decide +kernel) rfl ?_⟩
  rw [blockRec_length_of _ _ (fun _ _ => rfl) (by decide +kernel)]
  decide
theorem groupRec_length_of (s : State) (g : Nat) (hf : (gAt s g).frags = []) (hs : (gAt s g).stk = []) :
    (groupRec s g).length ≤ 1024 + 128 * 256 := by
  have hn : roleNvreg (gAt s g).role ≤ 255 := by unfold roleNvreg bits; omega
  have ho : ∀ f, (fragRec s g f).length = 32 := by
    intro f
    have : fragAt s g f = default := by rw [fragAt, hf]; rfl
    simp [fragRec, this, show (default : Frag).st = .free from rfl]
  have hh : (slots8.filter fun i => (Store.get (gAt s g).frags i).st == .handler) = [] := by rw [hf]; decide
  unfold groupRec
  dsimp only
  rw [hs, hh]
  simp only [List.flatMap_nil, List.reverse_nil, List.append_nil, List.length_append, padTo_length, recHead_length, leBytes_length,
    wordsLe_length, getList_length, zeros_length]
  rw [flatMap_length (k := 32) _ ho]
  simp [slots8]
  omega
theorem witness_CtxsvGroup : upair crew (.s 4) % 64 = 0 ∧ isBlockForm .one = false ∧ groupNamed crew .one = some 1 ∧ 1 ≠ crew.curG ∧
    allFrozen (gAt crew 1) = true ∧ (gAt crew 1).pend = [] ∧
    globalRange (shut crew) (coreCaches 0) 0 0 (groupRec (shut crew) 1).length true = .inl (List.range (groupRec (shut crew) 1).length) :=
  ⟨by decide +kernel, by decide, by decide +kernel, by decide, by decide +kernel, by decide +kernel,
    range_of_mapped (by decide +kernel) rfl
      (Nat.le_trans (groupRec_length_of _ _ (by decide +kernel) (by decide +kernel)) (by decide))⟩

/-- A block record at address 0; a group record of group 1. -/
def blockSaved : State := { alone with mem := [(0, 0x52#8), (1, 0x42#8), (2, 1#8)] }
def groupSaved : State := { alone with mem := [(0, 0x52#8), (1, 0x47#8), (2, 1#8), (3, 1#8), (9, 0xC0#8)] }

theorem witness_CtxldBlock : ∃ bs, upair blockSaved (.s 4) % 64 = 0 ∧
    loadRecord (shut blockSaved) 0 (56320 + 49152 * (dataBanks (shut blockSaved) 0).length) = .inl bs ∧
    recIs (shut blockSaved) bs 0x4252 0 0 = true ∧ splitEqual (shut blockSaved) 0 bs = true ∧ rowTaken (shut blockSaved) 0 bs = none := by
  refine ⟨_, by decide +kernel, record_of_mapped (by decide +kernel) rfl (by decide +kernel), ?_, ?_, ?_⟩
  · rw [show 56320 + 49152 * (dataBanks (shut blockSaved) 0).length = 56320 by decide +kernel]
    simp only [recIs, field_of_mapped _ (show 0 + 2 ≤ 56320 by decide), field_of_mapped _ (show 2 + 1 ≤ 56320 by decide),
      field_of_mapped _ (show 4 + 1 ≤ 56320 by decide), field_of_mapped _ (show 12 + 2 ≤ 56320 by decide),
      field_of_mapped _ (show 14 + 2 ≤ 56320 by decide)]
    decide +kernel
  · rw [show 56320 + 49152 * (dataBanks (shut blockSaved) 0).length = 56320 by decide +kernel]
    refine List.all_eq_true.2 fun k hk => ?_
    have hk := List.mem_range.1 hk
    have ho : (bankAt (shut blockSaved) (0 / 4) k).owned = false := rfl
    have hz : leNat ((List.range' (64 + k) 1).map (homeByte (shut blockSaved))) = 0 := by
      revert k; decide +kernel
    simp only [ho, field_of_mapped _ (show 64 + k + 1 ≤ 56320 by omega), hz]
    rfl
  · refine List.find?_eq_none.2 fun k hk => ?_
    have : (rowSlot (shut blockSaved) (0 / 4) k).bound = false := rfl
    simp [this]
theorem witness_CtxldGroup : ∃ h bs, upair groupSaved (.s 4) % 64 = 0 ∧ isBlockForm .one = false ∧ (usrc groupSaved .one).toNat = 1 ∧
    (gAt groupSaved 1).present = false ∧ loadRecord (shut groupSaved) 0 1024 = .inl h ∧
    loadRecord (shut groupSaved) 0 (groupRecLen h) = .inl bs ∧ groupRecOk (shut groupSaved) 0 1 bs = true ∧ 1 ≠ groupSaved.curG := by
  have hl : groupRecLen ((List.range 1024).map (homeByte (shut groupSaved))) = 25600 := by
    have hz : ((List.range 8).filter fun i =>
        fieldOf ((List.range 1024).map (homeByte (shut groupSaved))) (384 + 32 * i + 16) 1 == 3) = [] := by
      refine List.filter_eq_nil_iff.2 fun i hi => ?_
      have hi := List.mem_range.1 hi
      rw [field_of_mapped _ (by omega)]
      revert i
      decide +kernel
    rw [groupRecLen, hz, field_of_mapped _ (by decide)]
    decide +kernel
  refine ⟨_, _, by decide +kernel, by decide, by decide +kernel, by decide +kernel,
    record_of_mapped (by decide +kernel) rfl (by decide), record_of_mapped (by decide +kernel) rfl (by rw [hl]; decide), ?_, by decide⟩
  rw [hl]
  simp only [groupRecOk, recIs, wordOf, field_of_mapped _ (show 0 + 2 ≤ 25600 by decide), field_of_mapped _ (show 2 + 1 ≤ 25600 by decide),
    field_of_mapped _ (show 3 + 1 ≤ 25600 by decide), field_of_mapped _ (show 8 + 4 ≤ 25600 by decide),
    field_of_mapped _ (show 4 + 1 ≤ 25600 by decide), field_of_mapped _ (show 12 + 2 ≤ 25600 by decide),
    field_of_mapped _ (show 14 + 2 ≤ 25600 by decide)]
  decide +kernel
/-- The frontier record of a RUN operator of one line at address 0, its words at 1,024. -/
def frontSaved : State := { alone with
  mem := [(0, 1#8), (1, 1#8), (2, 0x47#8), (3, 0x52#8), (44, 1#8), (57, 4#8), (1024, 1#8), (1025, 0x81#8), (1031, 1#8)] }
theorem witness_Frld : ∃ h bs y, flagFull frontSaved 1 = false ∧ upair frontSaved (.s 4) % 64 = 0 ∧ loadRecord frontSaved 0 64 = .inl h ∧
    loadRecord frontSaved 0 (frontLen (leNat h)) = .inl bs ∧ frontCheck frontSaved 0 bs = some y ∧ slotFor frontSaved (opLines y.ins) 0 = some 0 := by
  have hl : frontLen (leNat ((List.range 64).map (homeByte frontSaved))) = 72 := by decide +kernel
  obtain ⟨y, hy, hs⟩ : ∃ y, frontCheck frontSaved 0 ((List.range 72).map (homeByte frontSaved)) = some y ∧
      decide (slotFor frontSaved (opLines y.ins) 0 = some 0) = true := someOf (by decide +kernel)
  refine ⟨_, _, y, by decide +kernel, by decide +kernel, record_of_mapped (by decide +kernel) rfl (by decide),
    record_of_mapped (by decide +kernel) rfl (by rw [hl]; decide), ?_, of_decide_eq_true hs⟩
  rw [hl]
  exact hy
theorem witness_FrldReads : (readFront frontSaved 0 matches .inl _) = true ∧ (cf frontSaved).asks = 0 ∧
    (flagFull alone 1 = false ∧ upair alone (.s 4) % 64 = 0 ∧ readFront alone (upair alone (.s 4)) = .inr (cOPERAND, 0, [])) ∧
    slotFor { frontSaved with ops := (List.range 64).map fun k => (k, { (default : OpSlot) with used := true }) } 1 0 = none := by
  decide +kernel
theorem witness_Priv : decode 0xF1C4C5C6#32 [] = .ok (.grd (.s 4) (.s 5) (.s 6), []) ∧ privWord 0xF1C4C5C6#32 = true ∧
    wordFault false 0 192 0xF1C4C5C6#32 [] = some cPRIV := ⟨rfl, by decide, by decide⟩

/-! Steps of groups. -/

/-- The fragment stands at the first word of a fetch block, whose first words begin with these bytes. -/
def entering (bs : List Byte) : State := { updCF mapped fun f => { f with pc := 0#64, mid := false, code := [] } with
  mem := (bytesAt 0 bs).filter fun e => e.2 != 0#8 }
/-- What fetching answers there. -/
def fetched (s : State) : State × List Word :=
  match fetch s s.curG (cf s).pc with
  | (u, .words ws) => (u, ws)
  | (u, .fault _) => (u, [])
def fetches (s : State) : Bool :=
  match fetch s s.curG (cf s).pc with
  | (_, .words _) => true
  | (_, .fault _) => false
theorem fetches_words {s : State} (h : fetches s = true) : fetch s s.curG (cf s).pc = ((fetched s).1, .words (fetched s).2) := by
  unfold fetches at h
  unfold fetched
  cases e : fetch s s.curG (cf s).pc with
  | mk u x => rw [e] at h; cases x <;> simp_all
def headOf (s : State) : Word := ((fetched s).2[wordIx (cf s).pc]?).getD 0#32
def bodyOf (s : State) : List Word := ((fetched s).2.drop (wordIx (cf s).pc + 1)).take (hdrLen (headOf s))
def legalAt (s : State) : Bool :=
  hdrLen (headOf s) != 0 && headerBad (headOf s) (wordIx (cf s).pc) == false && placeBad (hdrSeta (headOf s)) 16 (bodyOf s) == false
def faultsAt (s : State) : Option (Nat × Nat) :=
  wordsFault (privileged (fetched s).1) (roleNo (cg (fetched s).1).role) (roleNvreg (cg (fetched s).1).role) 16 1 (bodyOf s)
def clauseOf (b0 b1 b2 : Byte) : State := entering [b0, b1, b2]

theorem witness_ClauseStart :
    (∀ s ∈ [clauseOf 0#8 0x0F#8 0#8, clauseOf 0x80#8 0x0F#8 0#8, clauseOf 0#8 0x0F#8 0x10#8],
      (cf s).st = .ready ∧ (cf s).wait = .no ∧ (cf s).mid = false ∧ (cf s).code = [] ∧ fetches s = true ∧ legalAt s = true ∧ faultsAt s = none ∧
      hdrYld (headOf s) = false ∧ hdrCvg (headOf s) = false) ∧
    (let s := clauseOf 0#8 0x0F#8 0#8;
      hdrWait (headOf s) &&& flagMask (cg (fetched s).1) = 0 ∧ hdrRgn (headOf s) = false) ∧
    (let s := updCtx { clauseOf 8#8 0x0F#8 0#8 with ops := working.ops } 0 fun c => { c with preq := 1 };
      let u := (fetched s).1;
      fetches s = true ∧ legalAt s = true ∧ faultsAt s = none ∧
        (hdrYld (headOf s) && bit (cctx u).preq 0 && holdsJob u (cblk u)) = true) ∧
    (let s := clauseOf 0x80#8 0x0F#8 0#8;
      hdrWait (headOf s) &&& flagMask (cg (fetched s).1) = 0 ∧ hdrRgn (headOf s) = true ∧ (bAt (fetched s).1 0).saving = false) ∧
    (let s := updCG (clauseOf 0#8 0x0F#8 0x10#8) fun g => { g with pend := [{ (default : Pend) with flag := some 0 }] };
      fetches s = true ∧ legalAt s = true ∧ faultsAt s = none ∧ hdrWait (headOf s) &&& flagMask (cg (fetched s).1) ≠ 0) ∧
    (let s := clauseOf 0#8 0#8 0#8; fetches s = true ∧ hdrLen (headOf s) = 0 ∧ bits (headOf s).toNat 2 0 = 0) ∧
    (let s := clauseOf 4#8 0#8 0#8; fetches s = true ∧ hdrLen (headOf s) = 0 ∧ bits (headOf s).toNat 2 0 ≠ 0) ∧
    (let s := clauseOf 1#8 0x0F#8 0#8; fetches s = true ∧ hdrLen (headOf s) ≠ 0 ∧ headerBad (headOf s) 0 = true) ∧
    (let s := entering [0#8, 1#8, 0#8, 0#8, 0#8, 0#8, 0#8, 0xFF#8];
      (cf s).st = .ready ∧ fetches s = true ∧ legalAt s = true ∧ faultsAt s = some (cILLEGAL_OPCODE, 1)) := by decide +kernel
theorem witness_ClauseStart_fault : ∃ u, fetch { clauseOf 0#8 0#8 0#8 with tlb := [] } 0 (cf (clauseOf 0#8 0#8 0#8)).pc = (u, .fault cPAGE) :=
  ⟨_, rfl⟩

/-- A fragment at a clause with CVG set, the stack as given; the clause as it stands before the action of R105. -/
def conv (st : List StkEntry) : State := updCG (clauseOf 0x40#8 0x0F#8 0#8) fun g => { g with stk := st }
def before (s : State) : State := updCF (fetched s).1 fun f => { f with hdr := headOf s, code := bodyOf s }
def othersAt (s : State) : Bool := slots8.any fun l => l != s.curF &&
  ((fragAt (fetched s).1 s.curG l).st == .ready || (fragAt (fetched s).1 s.curG l).st == .waiting ||
    (fragAt (fetched s).1 s.curG l).st == .handler || (fragAt (fetched s).1 s.curG l).st == .merging)
def reconOf (s : State) : Option StkEntry := (wholeStack s).find? fun e => e.kind == 0
def joinsAt (s : State) : Bool := fetches s && legalAt s && faultsAt s == none && hdrCvg (headOf s) && !hdrYld (headOf s) &&
  bodyOf s != [] && (cf s).st == .ready && (cf s).mid == false
/-- The RECONV entry of the clause. -/
def joinHere : StkEntry := ⟨0, 0#64, 0xFFFFFFFF#32, 0#32⟩

theorem witness_Convergence :
    (let s := updCG (conv []) fun g => { g with frags := Store.set g.frags 1 { (default : Frag) with st := .waiting, mask := 1#32 } };
      joinsAt s = true ∧ othersAt s = true) ∧
    (∀ st ∈ [[], [⟨0, 64#64, 1#32, 0#32⟩], [joinHere], [⟨2, 64#64, 1#32, 0#32⟩, joinHere], [⟨1, 64#64, 1#32, 0#32⟩, joinHere],
        [⟨1, 4#64, 1#32, 0#32⟩, joinHere], [⟨1, 64#64, 0#32, 0#32⟩, joinHere]], joinsAt (conv st) = true ∧ othersAt (conv st) = false) ∧
    (∀ st ∈ [[], [⟨0, 64#64, 1#32, 0#32⟩]], (reconOf (before (conv st))).all (fun o => o.pc != (cf (conv st)).pc) = true) ∧
    (∀ e ∈ [joinHere, ⟨2, 64#64, 1#32, 0#32⟩, ⟨1, 64#64, 1#32, 0#32⟩, ⟨1, 4#64, 1#32, 0#32⟩],
      let s := conv (if e.kind = 0 then [e] else [e, joinHere]);
      reconOf (before s) = some joinHere ∧ joinHere.pc = (cf s).pc ∧ topOf (before s) = some e) ∧
    -- an empty path on top is discarded once
    (let s := conv [⟨1, 64#64, 0#32, 0#32⟩, joinHere];
      reconOf (before s) = some joinHere ∧ joinHere.pc = (cf s).pc ∧ topOf (before s) = some ⟨1, 64#64, 0#32, 0#32⟩ ∧
      1 ≤ 31 ∧ topOf (Nat.repeat popHere 1 (before s)) = some joinHere ∧ reconOf (Nat.repeat popHere 1 (before s)) = some joinHere) := by
  decide +kernel

/-- Two MERGING fragments at the header they fetched. -/
def merge2 : State := updCG mapped fun g => { g with frags := [
  (0, { (default : Frag) with st := .merging, mask := 0x0000FFFF#32, code := [0#32] }),
  (7, { (default : Frag) with st := .merging, mask := 0xFFFF0000#32, code := [0#32] })] }
def flagged (h : Group → Group) : State := updCG crew h

theorem witness_FragmentMerge : (slots8.filter fun l => (fragAt merge2 0 l).st == .merging) = 0 :: [7] ∧ (gAt merge2 0).saved = false ∧
    (gAt merge2 0).stk = [] ∧ (gAt merge2 0).spilled = 0 ∧
    (∀ l, l < 8 → (fragAt merge2 0 l).st = .merging ∨ (fragAt merge2 0 l).st = .free ∨ (fragAt merge2 0 l).st = .frozen) ∧
    ∀ l ∈ [0, 7], (fragAt merge2 0 l).pc = (fragAt merge2 0 0).pc ∧ (fragAt merge2 0 l).code ≠ [] := by decide +kernel
/-- R108: a fragment that is MERGING at another header holds nobody back. -/
theorem test_merging_elsewhere : othersLive (updCG mapped fun g => { g with
      frags := Store.set g.frags 7 { (default : Frag) with st := .merging, mask := 1#32, pc := 64#64 } }) = false ∧
    othersLive (updCG mapped fun g => { g with
      frags := Store.set g.frags 7 { (default : Frag) with st := .merging, mask := 1#32, pc := (cf mapped).pc } }) = true := by decide +kernel
theorem witness_GroupEnds : (let s := flagged fun g => { g with ending := true };
      (gAt s 0).present = true ∧ (gAt s 0).ending = true ∧ (gAt s 0).quiet = true ∧ 1 ≠ 0 ∧ 1 / 32 = 0 / 32 ∧ (gAt s 1).present = true) ∧
    (let s := flagged fun g => { g with roll := true }; (gAt s 0).present = true ∧ (gAt s 0).roll = true ∧ (gAt s 0).quiet = true) := by
  decide +kernel
theorem witness_GroupEndsAlone : (let s := updCG alone fun g => { g with ending := true, yielded := true };
      (gAt s 0).present = true ∧ (gAt s 0).quiet = true ∧ (gAt s 0).yielded = true) ∧
    ∀ l, l < 32 → l ≠ 0 → (gAt alone l).present = false := by decide +kernel

/-- The fragment waits. -/
def waiting (s : State) (w : Wait) : State := updCF s fun f => { f with st := .waiting, wait := w }

theorem witness_Wakes : (gAt mapped 0).saved = false ∧ recWaiting (waiting mapped .record) (0, 0) = false ∧
    phaseReached (Store.get (bAt (barred 0 1 7) 0).bars 0) 7 = true ∧ phaseReached (Store.get (bAt (barred 0 1 32774) 0).bars 0) 7 = true ∧
    (0 + 0 ≤ mapped.gt ∧ bit (ctxAt mapped (gAt mapped 0).ctx).preq 0 = false) ∧
    bit (ctxAt (updCtx mapped 0 fun c => { c with preq := 1 }) 0).preq 0 = true ∧ (0#64).toNat ≤ mapped.gt ∧
    (evAccess (evented 0x10#8) 0 (evIdx 0x3FFFFF#32) false = .ok 33554424 (2 ^ 60) ∧ bit (preqOf (evented 0x10#8) 0) 1 = false ∧
      0 ≤ serial (evCtr (2 ^ 60)) 0#32 ∧ ¬0 ≤ serial (evCtr (2 ^ 60)) 1#32 ∧ evDown (2 ^ 60) = true) ∧
    (let s := updCtx (evented 0#8) 0 fun c => { c with preq := 3 };
      evAccess s 0 (evIdx 0x3FFFFF#32) false = .ok 33554424 0 ∧ bit (preqOf s 0) 1 = true ∧ evFrozen 0 = false) ∧
    ((ringRec (ringed 0 1) 0 15).valid = true ∧ (ringRec (ringed 0 1) 0 15).ap ≠ (ringRec (ringed 0 1) 0 15).fp ∧
      ringQueued (ringed 0 1) 0 15 0 = false) ∧
    (mailFor mailed (blkOf 0) = some mail ∧ mailQueued mailed (coreOf 0) 0 mail = false) ∧
    (copiesLeft (queued 0xB0) 0 (queuesOf 15) 0 (fun _ => true) = false ∧ copiesLeft (queued 0xB3) 0 [0] 0 (fun c => c.op == 0xB3) = false) ∧
    frcStatus lostWrite 0 1 false = some 2 ∧
    (fenceRound (waiting { mapped with gt := 1 } (.fence 3 true true 0 none 0 0#32 0#32)) 0 0).2 = true ∧
    (fenceRound (waiting mapped (.fence 3 true true 0 none 0 0#32 0#32)) 0 0).2 = false ∧
    (gAt (fenceRound (waiting { mapped with gt := 1 } (.fence 3 true true 0 none 0 0#32 0#32)) 0 0).1 0).ending = false ∧
    -- a group has ended while an EVSIG of it was in its fence
    (let s := waiting { updCG mapped (fun g => { g with ending := true }) with gt := 1 } (.fence 3 true true 0 none 1 0#32 0#32);
      (fenceRound s 0 0).2 = true ∧ (gAt (fenceRound s 0 0).1 0).ending = true) := by decide +kernel

/-! Accesses. -/

/-- One pending operation, of number 3. -/
def pendOf (k : PendKind) (scr : Bool) (accs : List Acc) : Pend := { (default : Pend) with id := 3, kind := k, scratch := scr, accs := accs }
def holding (s : State) (p : Pend) : State := updCG s fun g => { g with pend := [p] }
def acc (t pa : Nat) (got : Bool) : Acc := { (default : Acc) with t := t, pa := pa, va := pa, n := 4, got := got, bs := [1#8, 2#8, 3#8, 4#8] }
/-- One cache bank of the block. -/
def cached : State := { mapped with banks := [(0, { (default : Bank) with owned := true })] }

/-- The accesses of a store that go to their homes, and whether the L1 takes the others. -/
def homeOf (s : State) (p : Pend) : List Acc :=
  p.accs.filter fun a => p.accs.any fun c => toHome s 0 c && sameLine s (lineOf c.pa) (lineOf a.pa)
def takesAll (s : State) (p : Pend) : Prop := ∀ c ∈ p.accs, c ∉ homeOf s p → l1Takes s (blkOf 0) (lineOf c.pa) = true

theorem witness_AccessesComplete : findPend (gAt (holding mapped (pendOf .load false [])) 0) 3 = some (pendOf .load false []) ∧
    (([acc 0 0 true, acc 31 4 true].all fun c => c.got) = true ∧
      ∀ c ∈ [acc 0 0 true, acc 31 4 true], (0xFFFFFFFF#32).getLsbD c.t = true) ∧
    recWaiting mapped (0, 8 + 3) = false ∧
    (let p := pendOf .load true [acc 31 0 false];
      p.uni = false ∧ mayPerform (holding banked p) 0 p (acc 31 0 false) = true ∧ draining (holding banked p) 0 3 = false ∧
      (acc 31 0 false).put = 0 ∧ (acc 31 0 false).n ≤ 16) ∧
    (let a := { acc 31 0 true with n := 16 };
      a.got = true ∧ a.put = 0 ∧ (0x80000000#32).getLsbD a.t = true ∧ 7 < 32 ∧ accDone (pendOf .load true [a]) { a with put := 7 } = false) ∧
    (∀ c ∈ [acc 0 0 true, acc 31 4 true], c.put = 0 ∧ resLen (pendOf .load true []) c ≤ 16) ∧
    ([acc 0 0 true, acc 31 4 true].map (·.t)).Nodup ∧
    (∀ k ∈ [PendKind.store, .atomic], let p := pendOf k true [acc 31 0 false]; p.sent = false ∧ allMay (holding banked p) 0 p = true) ∧
    (let p := pendOf .store false [acc 31 0 false];
      allMay (holding cached p) 0 p = true ∧ homeOf (holding cached p) p = [] ∧
      l1Takes (holding cached p) (blkOf 0) (lineOf 0) = true ∧
      allMay (holding mapped p) 0 p = true ∧ homeOf (holding mapped p) p = p.accs) ∧
    -- a byte in the line that the store also writes through a window leaves with it
    (let p := pendOf .store false [acc 0 0 false, { acc 31 4 false with win := some 1023 }, acc 7 192 false];
      allMay (holding cached p) 0 p = true ∧ l1Takes (holding cached p) (blkOf 0) (lineOf 192) = true ∧
        homeOf (holding cached p) p = [acc 0 0 false, { acc 31 4 false with win := some 1023 }] ∧
        ([acc 0 0 false, { acc 31 4 false with win := some 1023 }].map (·.t)).Pairwise (· < ·) ∧
        ∀ c ∈ [acc 0 0 false, { acc 31 4 false with win := some 1023 }], ∀ i, i < c.n →
          homePa (holding cached p) (c.pa + i) = homePa (holding cached p) c.pa + i) ∧
    (∀ k ∈ [PendKind.rx, .atomic, .amax, .scaleq], let p := pendOf k false [acc 31 0 false];
      (p.accs.all fun c => c.got) = false ∧ allMay (holding mapped p) 0 p = true) ∧
    0 < { mapped with gt := 1 }.gt ∧ wbPending mapped (blkOf 0) 0 = false := by decide +kernel

theorem witness_HomeReads : let p := pendOf .load false [acc 0 0 false, acc 31 188 false]
    findPend (gAt (holding mapped p) 0) 3 = some p ∧
    missesIn (holding mapped p) 0 p (lineOf 188) ≠ [] ∧
    inFlight (holding mapped p) (blkOf 0) (lineOf 188) = false ∧ l1Blocked (holding mapped p) (blkOf 0) (lineOf 188) 3 = false := by decide +kernel

/-- A request of number 9 on its way to its home. -/
def going (r : HomeReq) : State := { mapped with nextId := 10, hw := [{ r with id := 9 }] }
theorem witness_HomeWrites : (∀ s ∈ [going { (default : HomeReq) with bytes := [(0, 1#8), (191, 2#8)], own := some (0, 3) },
      going { (default : HomeReq) with kind := .atomic, accs := [acc 0 188 false] },
      going { (default : HomeReq) with kind := .amax, accs := [acc 0 96 false] }],
      ∀ r ∈ s.hw, (s.hw.find? fun r => r.id == 9) = some r ∧ r.dest = none ∧ homeBlocked s r = false ∧ windowHeld s r = false ∧ s.migs = [] ∧
        (∀ e ∈ s.ctxs, e.2.evpages = []) ∧ r.op = 0 ∧ r.win = none) ∧
    findPend (gAt (holding mapped (pendOf .store false [acc 0 188 false])) 0) 3 ≠ none ∧
    ∀ a ∈ [acc 0 188 false], lineOf a.pa = 0 := by decide +kernel
theorem witness_HostMemory : hostRange mapped 98303 2 = true ∧ 98303 + 2 ≤ 2 ^ 50 ∧ (2 ^ 36 - 16) % 16 = 0 ∧ mapped.apbase < 2 ^ 14 ∧
    mapped.migs = [] ∧ (∀ e ∈ mapped.ctxs, e.2.evpages = []) ∧ mapped.hostq = [] ∧ mapped.hostT ≤ mapped.gt ∧
    ({ mapped with hostT := 1 }.gt < 1 ∧ { mapped with hostq := [.read 0 1] }.hostq ≠ []) ∧ 0xFFFFFF + 1 ≤ 2 ^ 24 ∧
    0x3FFFF + 1 ≤ 2 ^ 18 := by decide +kernel
theorem witness_LeaseWalkInvalidation : (Store.get mapped.l1 (8192 * 511 + 8191)).lease ≤ mapped.gt ∧ 2 ^ 36 - 1 < 2 ^ 36 ∧
    (let keep := (walkFrom mapped 511 0 0).keep; mapped.tlb.length + keep.length ≤ 64) ∧
    cacheRoom 511 2 ≠ 0 ∧ cacheRoom 512 4 ≠ 0 ∧
    (let i := { (default : Inv) with id := 5, own := some (0, 3) };
      ({ mapped with invs := [i] }.invs.find? fun i => i.id == 5) = some i ∧ i.reached = false ∧
        invPending { mapped with invs := [i] } { i with reached := true, bound := mapped.nextId } = false) := by decide +kernel

/-! Fault queues, migration, engines. -/

def rec0 : FaultRec := { (default : FaultRec) with page := 2 ^ 36 - 1, kind := 1 }
def batched (n : Nat) : State := { mapped with fq := { mapped.fq with opened := List.replicate n rec0 } }
theorem witness_FaultQueues :
    (let s := { batched 1 with gt := 20000 }; s.fq.deliver = [] ∧ s.fq.opened ≠ [] ∧ s.fq.since + s.fq.tmr ≤ s.gt ∧ s.fq.opened = [rec0]) ∧
    (let s := batched 256; s.fq.deliver = [] ∧ s.fq.opened ≠ [] ∧ s.fq.cnt ≤ s.fq.opened.length) ∧
    (let s := { mapped with fq := { mapped.fq with deliver := [List.replicate 32 1#8] } };
      s.fq.deliver = [List.replicate 32 1#8] ∧ s.fring.room = true ∧ s.fq.waiting = [] ∧ s.fq.opened = []) ∧
    (∀ n ∈ [1, 2], let s := setRing mapped n { ringOf mapped n with tail := 64#32, buf := [List.replicate 32 1#8] };
      (ringOf s n).buf = [List.replicate 32 1#8] ∧ { ringOf s n with head := 1#32 }.room = true) ∧ (ringOf mapped 1).buf = [] ∧
    mapped.hostq = [] ∧ { mapped with hostq := [.read 0 1] }.hostq ≠ [] ∧ mapped.migs = [] ∧ 0 + 32 ≤ 2 ^ 50 := by decide +kernel
theorem witness_BankDrains :
    (∀ old ∈ [0, 1], let s := { mapped with banks := [(31, { (default : Bank) with owned := true, drain := true, left := some old })] };
      (bankAt s 0 31).drain = true ∧ (bankAt s 0 31).left = some old ∧ bankBusy s 0 31 (bankAt s 0 31).by_.2 = false) ∧
    (let s := { mapped with banks := [(31, { (default : Bank) with owned := true, drain := true })] };
      (bankAt s 0 31).drain = true ∧ (bankAt s 0 31).left = none ∧ bankWb s (4 * 0 + (bankAt s 0 31).blk) (bankAt s 0 31).bound = false) := by
  decide +kernel

/-- A command that copies frame 0 to frame 8,388,599, the last of HBM. -/
def moving : Nat := 8388599 * 2 ^ 116
def migOf (w : Nat) : Mig := { (default : Mig) with
  phase := 2, slot := 0, stier := bits w 78 78, sframe := bits w 115 79, dtier := bits w 153 153
  dframe := bits w 152 116, ptea := bits w 223 160, event := bits w 255 224, retry := bits w 159 156 }
def migIn (m : Mig) : State := { mapped with migs := [(31, m)] }

theorem witness_Migration : (let s := migIn (migOf moving); (migAt mapped 31).phase = 0 ∧ Store.get mapped.tceq 31 = [] ∧ 31 < 32 ∧
      bits moving 77 0 = 0 ∧ bits moving 155 154 = 0 ∧ bit (migPte s 31) 7 = false ∧ migFrames s (migOf moving) = true) ∧
    bits 1 77 0 ≠ 0 ∧ bit (migPte { migIn (migOf moving) with mem := [(0, 0x80#8)] } 31) 7 = true ∧
    migFrames mapped (migOf (8388600 * 2 ^ 116)) = false ∧
    (let s := { mapped with tceq := [(31, [⟨true, 0, 0, moving⟩])] }; (migAt s 31).phase = 0 ∧ tceHead s 31 = some ⟨true, 0, 0, moving⟩) ∧
    (let s := migIn (migOf moving); (migAt s 31).phase = 2 ∧ migFrames s (migAt s 31) = true ∧ (migAt s 31).filter = 0) ∧
    (let s := migIn { migOf moving with filter := 1 }; migFrames s (migAt s 31) = true ∧ (migAt s 31).filter ≠ 0 ∧
      (migAt s 31).tries = (migAt s 31).retry) ∧
    (migAt (migIn { migOf moving with phase := 3 }) 31).phase = 3 ∧
    (let s := migIn { migOf moving with phase := 3 }; (migAt s 31).phase = 3 ∧ migFrames s (migAt s 31) = true) ∧
    (let s := migIn { migOf (8388600 * 2 ^ 116) with phase := 3 }; (migAt s 31).phase = 3 ∧ migFrames s (migAt s 31) = false) ∧
    (let s := migIn { migOf moving with phase := 4 }; (migAt s 31).phase = 4 ∧ s.invs.any (fun i => i.id == (migAt s 31).inval) = false ∧
      redirectNeeded s (migAt s 31) = false ∧
      -- a dirty line of the source, and one under a lease
      redirectNeeded { s with l1 := [(0, { (default : L1Tag) with v := true, dirty := 1 })] } (migAt s 31) = true ∧
      redirectNeeded { s with l1 := [(0, { (default : L1Tag) with v := true, sv := 1, lease := s.gt + 1 })] } (migAt s 31) = true) ∧
    (let s := { migIn { migOf moving with phase := 5 } with gt := 1 }; (migAt s 31).phase = 5 ∧ (migAt s 31).time < s.gt ∧
      signalRoom s (migAt s 31).slot (w32 (migAt s 31).event) (w32 (migAt s 31).result) 1 = true ∧
      { s with gt := 0 }.gt ≤ (migAt s 31).time) ∧
    (let m := { migOf (moving + 0x400001 * 2 ^ 224) with phase := 5, result := 1 };
      let s := { updCtx (crowded mapped) 0 fun c => { c with evlog := 1 } with migs := [(31, m)] };
      signalRoom s (migAt s 31).slot (w32 (migAt s 31).event) (w32 (migAt s 31).result) 1 = false) := by
  decide +kernel
/-- An extent of one frame in entry 0. -/
def extended (going : Bool) : State := { mapped with exts := [(0, { (default : Extent) with st := 1, n := 1, going := going })] }
theorem witness_Capacity : (1 < 2 ∧ 1 < 4096 ∧ (∀ k, k < 1 → (Store.get (extended false).exts k).st ≠ 0) ∧ (Store.get (extended false).exts 1).st = 0 ∧
      farFirst (extended false) (89478484 * 98304 / 98304) = some 1 ∧
      ¬89478485 < (extended false).exts.foldl (fun t e => t + e.2.n) 0 + 89478484 * 98304 / 98304) ∧
    89478485 < (extended false).exts.foldl (fun t e => t + e.2.n) 0 + 89478485 * 98304 / 98304 ∧ 2 ≤ 2 ∧
    ((Store.get (extended false).exts 0).st = 1 ∧ (Store.get (extended false).exts 0).going = false) ∧
    ((Store.get (extended true).exts 0).going = true ∧
      (extLines (extended true) (Store.get (extended true).exts 0)).any (fun l => l.2.dirty != 0) = false) ∧
    (let s := { extended true with l2 := [(2 ^ 48, { (default : L2Line) with held := true, dirty := 1 })] };
      (extLines s (Store.get s.exts 0)).any (fun l => l.2.dirty != 0) = true) ∧
    ∀ l ∈ (extended false).l2, l.2.dirty = 0 := by decide +kernel

/-- The arrivals of both members of a gang of two. -/
def member (s : State) (g op sel : Nat) : Member := arrival { s with curG := g } op sel (some 0) none (fragRegs (.v 0)) .zero
def arrived (s : State) (op sel : Nat) : State := { s with nextId := 1, rdvs := [⟨0, 0, 3#32, [member s 0 op sel, member s 1 op sel]⟩] }
def rdv0 (s : State) : Rdv := s.rdvs.headD default
/-- The same with scratch banks enough for the operands, 12 of them. -/
def roomy : State := { ganged with banks := (List.range 12).map fun k => (k, { (default : Bank) with owned := true, mode := 1 }) }

theorem witness_CinchRelease : (let s := arrived roomy 0xA2 0;
      (s.rdvs.find? fun r => r.id == 0) = some (rdv0 s) ∧ complete s 0 (rdv0 s) = true ∧
      (rdv0 s).arrs = member roomy 0 0xA2 0 :: [member roomy 1 0xA2 0] ∧ agree (decide (0xA2 < 0xA7)) (rdv0 s).arrs = true ∧
      verdict s (rdv0 s) = .go ∧ roomForAll s (rdv0 s) = true ∧ queueLen s 0 < 8) ∧
    (let s := arrived ganged 0xA2 0; agree true (rdv0 s).arrs = true ∧ complete s 0 (rdv0 s) = true ∧ verdict s (rdv0 s) = .trap cSCRATCH_RANGE 0) ∧
    (let r : Rdv := ⟨0, 0, 3#32, [member roomy 0 0xA2 0, member roomy 1 0xA3 0]⟩;
      complete { roomy with rdvs := [r] } 0 r = true ∧ agree true r.arrs = false) := by decide +kernel

/-- An operation of the engine queue of core 511. -/
def engine (op : Nat) (perf : Bool) (xs : List Word) : State :=
  let o : MatOp := { (default : MatOp) with id := 4, core := 511, op := op, perf := perf, mem := [{ (default : Member) with
    g := 65408, id := 3, xs := xs, out := some 0, res := if perf then [(32, 1#32), (63, 2#32)] else [] }] }
  updG { mapped with mxq := [o] } 65408 fun g => { g with pend := [pendOf .matrix false []] }
theorem witness_Engine : (∀ op ∈ [0xA2, 0xA3, 0xA4, 0xA6, 0xA7, 0xA8, 0xA9], ∀ o ∈ (engine op false []).mxq,
      ((engine op false []).mxq.find? fun o => o.core == 511 && !o.perf) = some o ∧ engineHeld (engine op false []) o = false ∧
      (∀ x ∈ o.mem, x.xs = []) ∧ o.op = op ∧ o.olds = []) ∧
    ∀ op ∈ [0xA2, 0xA5], ∀ o ∈ (engine op true []).mxq, let s := engine op true [];
      (s.mxq.find? fun o => o.id == 4) = some o ∧ (∀ m ∈ o.mem, (o.mem.find? fun m => m.g == 65408 && !m.fin) = some m ∧
        findPend (gAt s 65408) m.id = some (pendOf .matrix false []) ∧ (m.res.map (·.1)).Nodup) ∧
      o.perf = true ∧ o.core = 511 ∧ earlierOf s o 65408 = false := by decide +kernel

/-- A command of number 4 in queue 3 of core 0, copying 16 bytes. -/
def cmd4 (op sel : Nat) : Cmd := { cmdOf copying op sel with id := 4, pend := 3 }
def inQueue (m : Cmd) : State := { holding copying (pendOf .engine false []) with nextId := 5, strq := [(3, [m])] }
def unmapped (s : State) : State := { s with tlb := [] }
def sourceOf (s : State) (m : Cmd) : List Nat := match cmdSource s m with
  | .inl l => l
  | .inr _ => []
def destOf (s : State) (m : Cmd) : List Nat := match cmdDest s m with
  | .inl l => l
  | .inr _ => []

theorem witness_StreamerMoves :
    (∀ op ∈ [0xB0, 0xB4], let s := inQueue (cmd4 op 0);
      (strQueue s 0 3).find? Cmd.unclaimed = none ∧ nextCmd s 0 3 = some (cmd4 op 0)) ∧
    (let m := { cmd4 0xB0 0 with active := true }; let s := inQueue m;
      ((strQueue s 0 3).find? fun m => m.id == 4) = some m ∧ mayMove s 0 3 m = true ∧ chunkHeld s m (sourceOf s m) (destOf s m) = false ∧ s.migs = [] ∧
        (∀ e ∈ s.ctxs, e.2.evpages = []) ∧ cmdSource s m = .inl (List.range 16) ∧
        cmdDest s m = .inl ((List.range 16).map (16 + ·)) ∧ m.usesSrc = true ∧ m.local_ = false ∧
        ∀ x ∈ destOf s m, x < 2 ^ 50) ∧
    (let m := { cmd4 0xB0 8 with active := true }; let s := inQueue m;
      mayMove s 0 3 m = true ∧ cmdSource s m = .inl (List.range 16) ∧ (destOf s m).length = 16 ∧ m.local_ = true ∧
        cmdSource (unmapped s) m = .inr (cPAGE, 0, [0]) ∧ mayMove (unmapped s) 0 3 m = true) ∧
    (let m := { cmd4 0xB0 4 with active := true }; let s := unmapped (inQueue m);
      mayMove s 0 3 m = true ∧ (sourceOf s m).length = 16 ∧ cmdDest s m = .inr (cPAGE, 16, [0])) := by decide +kernel
theorem witness_StreamerGathers : let m := { cmd4 0xB2 8 with active := true }
    let s := inQueue m
    let r := { m with idx := some (m.index s) }
    mayMove s 0 3 m = true ∧ cmdSource s r = .inl (sourceOf s r) ∧ cmdDest s r = .inl (destOf s r) ∧
    chunkHeld s r (sourceOf s r) (destOf s r) = false := by decide +kernel
/-- A CPYR that waits for a slot of ring 0, which has one of 16 bytes free; a command whose destination bank drains. -/
def claiming : State :=
  let m := { cmd4 0xB4 0 with active := true }
  updRing (inQueue m) m.blk m.ringNo fun _ => { (default : Ring) with valid := true, nslot := 1, slotl := 1 }
theorem witness_StreamerClaims : ((strQueue claiming 0 3).filter Cmd.unclaimed).foldl (fun s m => cmdClaim s 0 3 m) claiming ≠ claiming ∧
    (let s := inQueue (cmd4 0xB0 0);
      ((strQueue s 0 3).filter Cmd.unclaimed).foldl (fun s m => cmdClaim s 0 3 m) s = s ∧ nextCmd mapped 0 3 = none) ∧
    (let m := { cmd4 0xB0 8 with active := true };
      let s := { inQueue m with banks := [(0, { (default : Bank) with owned := true, mode := 1, drain := true })] };
      mayMove s 0 3 m = true ∧ chunkHeld s m (sourceOf s m) (destOf s m) = true ∧
        chunkHeld (inQueue m) m (sourceOf (inQueue m) m) (destOf (inQueue m) m) = false ∧ m.olds = []) := by decide +kernel
theorem witness_StreamerCompletes :
    (let m := { cmd4 0xB0 0 with active := true, moved := true }; let s := { inQueue m with gt := 1 };
      ((strQueue s 0 3).find? fun m => m.id == 4) = some m ∧ m.isCopy = true ∧ m.time < s.gt ∧
        recWaiting s (m.g, 8 + m.pend) = false ∧ signalRoom s (gAt s m.g).ctx m.ev 1#32 1 = true) ∧
    (let e := cmd4 0xBA 0; let s := { inQueue e with strq := [(0, [e]), (3, [e, e])] };
      ([0, 1, 2, 3].filter fun q => (strQueue s 0 q).any fun m => m.id == 4 && m.op == 0xBA) = [0, 3] ∧
        ∀ q ∈ [0, 3], (strQueue s 0 q).head? = some e) := by decide +kernel

/-- A Skiver command, in a part whose engines translate as the core does. -/
def kvIn (m : KvCmd) (s : State) : State := { s with kvq := [(0, [m])], tlb := ⟨544, 0, 2, 0, 13⟩ :: s.tlb }
def sealing : KvCmd := { (default : KvCmd) with id := 4, op := 0xE1, regs := [0#32, 0#32] }
def kvOver (s : State) (m : KvCmd) : Bool := m.acc && m.perf && decide (m.time < s.gt) && !recWaiting s (m.g, 8 + m.pend) &&
  (m.op != 0xE3 || signalRoom s m.ctx (w32 (m.reg 5)) 1#32 1)
theorem witness_Skivers : (let s := kvIn sealing described0;
      ((Store.get s.kvq 0).find? (kvMay s)) = some sealing ∧ sealing.desc = some 0 ∧ 0 % 64 = 0 ∧ sealing.op ≠ 0xE3 ∧
        (kvRun sealing (kvStart s sealing)).err = none) ∧
    (let m := { sealing with regs := [1#32, 0#32] }; let s := kvIn m described0;
      ((Store.get s.kvq 0).find? (kvMay s)) = some m ∧ m.desc = some 1 ∧ 1 % 64 ≠ 0) ∧
    -- a store of the group with one of two accesses performed
    (let s := kvIn { sealing with regs := [1#32, 0#32] } (holding described0 (pendOf .store false [acc 0 0 true, acc 31 192 false]));
      ((Store.get s.kvq 0).find? (kvMay s)).isSome = true ∧ inPart s 0 = true) ∧ inPart (kvIn sealing described0) 0 = false ∧
    (let s := unmapped (kvIn sealing (holding described0 (pendOf .store false [acc 0 0 true, acc 31 192 false])));
      ((Store.get s.kvq 0).find? (kvMay s)) = some sealing ∧ inPart s 0 = true ∧
        (kvRun sealing (kvStart s sealing)).err = some ⟨cPAGE, 0, [(0, 0)]⟩) ∧
    (let s := unmapped (kvIn sealing described0);
      ((Store.get s.kvq 0).find? (kvMay s)) = some sealing ∧ (kvRun sealing (kvStart s sealing)).plan = [] ∧
        (kvRun sealing (kvStart s sealing)).err = some ⟨cPAGE, 0, [(0, 0)]⟩) ∧
    (let m := { sealing with acc := true, perf := true }; let s := { kvIn m described0 with gt := 1 };
      ((Store.get s.kvq 0).find? (kvOver s)) = some m) ∧
    (let m := { sealing with acc := true }; let s := kvIn m described0;
      ((Store.get s.kvq 0).find? (kvOver s)) = none ∧ ((Store.get s.kvq 0).find? fun m => m.acc && !m.perf) = some m) := by decide +kernel

/-! Streams and operators. -/

/-- Stream 63 of slot 0 is running, with its instruction words at address 0 and an event table at 4,096. -/
def stream0 : Stream := { (default : Stream) with st := 1, ti := 2#32, dec := 1 }
def streaming (bs : List (Nat × Byte)) (x : Stream) : State := { updCtx mapped 0 fun c => { c with evbase := 4096#64, evlog := 1 } with
  mem := bs, streams := [(63, x)] }
/-- The instruction that a stream is to decode, and whether it passes its checks. -/
def insOf (s : State) : Nat := (opFetch s 0 63).getD 0
def sound (s : State) (opc : Nat) : Bool :=
  let st := streamAt s 0 63
  st.st == 1 && st.ti != st.hi && (opFetch s 0 63).isSome && opFault s 0 (insOf s) == 0 && opOpc (insOf s) == opc
/-- A wait for event 1 to reach 1. -/
def waits1 : List (Nat × Byte) := [(26, 1#8), (30, 1#8)]

theorem witness_StreamTails : pushDue mapped 0 63 0#64 = none ∧ stream0.st = 1 ∧ (serial 0#32 stream0.lseq ≤ 0) ∧ 0 < serial 1#32 stream0.lseq ∧
    stream0.size < idxSub 0xFFFFFFFF#32 stream0.hi ∧ idxSub 16#32 stream0.hi ≤ stream0.size ∧
    mapped.hostq = [] ∧ { mapped with hostq := [.read 0 1] }.hostq ≠ [] ∧ mapped.gt < mapped.recon + 100000 ∧
    (let s := { mapped with ops := [(63, { (default : OpSlot) with used := true, stream := 63, bndfrz := true })] };
      (opAt s 63).used = true ∧ (opAt s 63).bndfrz = true ∧ ∀ q ∈ (opAt s 63).points, q.st = .fired) ∧
    (let s := { mapped with ops := [(63, { (default : OpSlot) with
        used := true, stream := 63, points := [{ (default : Point) with st := .posted }] })] };
      s.hostq = [] ∧ (opAt s 63).bndfrz = false ∧ ∃ q ∈ (opAt s 63).points, q.st ≠ .fired) ∧
    (let s := { mapped with gt := 100000, streams := [(64 * 0 + 63, stream0)] }; s.recon + 100000 ≤ s.gt ∧ (streamAt s 0 63).st = 1 ∧
      readVa s osdCaches 0 (streamAt s 0 63).shadow.toNat 8 = some (List.replicate 8 0#8)) ∧
    (default : Stream).st = 0 ∧ ∀ e ∈ mapped.ops, e.2.bndfrz = false := by decide +kernel
theorem witness_StreamDecodes :
    (let s := streaming [(0, 16#8), (1, 1#8)] stream0; (opFetch s 0 63).isSome = true ∧ opFault s 0 (insOf s) = 4) ∧
    (let s := streaming [(0, 1#8), (1, 0x81#8), (7, 1#8)] stream0; sound s 1 = true ∧ slotFor s (opLines (insOf s)) stream0.waiting = some 0) ∧
    (let s := streaming [(0, 2#8), (1, 0x81#8), (7, 1#8), (56, 64#8)] stream0; sound s 2 = true ∧
      slotFor s (opLines (insOf s)) stream0.waiting = some 0 ∧ readVa s osdCaches 0 (opArg (insOf s)) 64 = some (List.replicate 64 0#8) ∧
      copyDescOk (leNat (List.replicate 64 0#8)) = true) ∧
    (let s := streaming [(0, 3#8), (1, 1#8)] { stream0 with held := true }; sound s 3 = true ∧ waitFails s 0 (opWait0 (insOf s)) = false ∧
      waitFails s 0 (opWait1 (insOf s)) = false ∧ (waitReached s 0 (opWait0 (insOf s)) (opWt0 (insOf s)) &&
        waitReached s 0 (opWait1 (insOf s)) (opWt1 (insOf s))) = true ∧ (streamAt s 0 63).held = true) ∧
    (let s := streaming ([(0, 3#8), (1, 1#8)] ++ waits1) stream0; sound s 3 = true ∧ waitFails s 0 (opWait0 (insOf s)) = false ∧
      waitReached s 0 (opWait0 (insOf s)) (opWt0 (insOf s)) = false) ∧
    (∀ opc ∈ [4, 5, 7, 8, 9], sound (streaming [(0, BitVec.ofNat 8 opc), (1, 1#8), (9, if opc = 9 then 1#8 else 0#8)] stream0) opc = true) ∧
    opSigend (insOf (streaming [(0, 8#8), (1, 1#8)] stream0)) = false ∧
    (let s := streaming [(0, 5#8), (1, 1#8)] stream0; earlierDone s 0 63 1 = true ∧ earlierDone { s with pops := [⟨0, 63, 0, 0⟩] } 0 63 1 = false) ∧
    (let s := streaming [(0, 6#8), (1, 1#8), (7, 1#8)] stream0; sound s 6 = true ∧ waitFails s 0 (opWait0 (insOf s)) = false ∧
      waitReached s 0 (opWait0 (insOf s)) (opWt0 (insOf s)) = true ∧
      idxSub (streamAt s 0 63).ti (streamAt s 0 63).hi ≤ opExtRaw (insOf s) 0 + 1 ∧
      let u := streaming [(0, 6#8), (1, 1#8), (7, 1#8)] { stream0 with ti := 3#32 };
      sound u 6 = true ∧ opExtRaw (insOf u) 0 + 1 < idxSub (streamAt u 0 63).ti (streamAt u 0 63).hi) ∧
    (let s := streaming ([(0, 6#8), (1, 1#8), (7, 1#8)] ++ waits1) stream0; sound s 6 = true ∧ waitFails s 0 (opWait0 (insOf s)) = false ∧
      waitReached s 0 (opWait0 (insOf s)) (opWt0 (insOf s)) = false) := by decide +kernel

/-- A RUN operator of one point in slot 63, asking for 7 units of power. -/
def runOp : Nat := 1 + 2 ^ 8 + 2 ^ 15 + 7 * 2 ^ 20 + 2 ^ 56
def point0 (st : PtState) : Point := { (default : Point) with st := st, tok := 2, time := 0 }
/-- The same with a predecessor beyond its boundary, whose event is the last one of the table. -/
def bndOp : Nat := runOp + 2 ^ 17 + (1 + 2 ^ 24) * 2 ^ 104 + 0x3FFFFF * 2 ^ 384
def opState (x : OpSlot) : State := updCtx { mapped with gt := 1, ops := [(63, { x with used := true })] } 0 fun c => { c with st := 1, mask := 1, hdr := twoGroups }

theorem witness_LaterSignals :
    (let p : PendOp := ⟨0, 63, 1, 4⟩; let s := { mapped with pops := [p] };
      (s.pops.find? fun p => p.ctx == 0 && p.stream == 63) = some p ∧ earlierDone s 0 63 p.num = true ∧ opOpc p.ins ≠ 9 ∧
        opRoom s 0 p.ins 1 = true) ∧
    (let p : PendOp := ⟨0, 63, 1, 4 + 0x400001 * 2 ^ 336 + 2 ^ 368⟩
      let s := { updCtx (crowded mapped) 0 fun c => { c with evlog := 1 } with pops := [p] };
      earlierDone s 0 63 p.num = true ∧ opOpc p.ins ≠ 9 ∧ opRoom s 0 p.ins 1 = false) := by decide +kernel
/-- The mirror of BND is DOWN; the operator drains, and its stream may have been reset. -/
theorem witness_Boundaries : ∀ rst ∈ [false, true],
    let s := { evented 0x11#8 with ops := [(63, { (default : OpSlot) with used := true, drain := true, ins := bndOp, rst := rst })] }
    (opAt s 63).used = true ∧ (opAt s 63).bndfrz = false ∧ bndFrozen s (opAt s 63) = true ∧
      (∀ q ∈ (opAt s 63).points, q.st = .fired) ∧ ∃ l ∈ unfiredPoints (opAt s 63), ptFate s (opAt s 63) l = 2 := by decide +kernel
theorem witness_OperatorSteps :
    (let s := opState { (default : OpSlot) with ins := runOp };
      (opAt s 63).used = true ∧ (opAt s 63).drain = false ∧ (opAt s 63).bndfrz = false ∧ heldForGood s (opAt s 63) = false ∧
        bndFails s (opAt s 63) = false ∧
        firesAfter s 63 = false ∧ (∀ l ∈ openPoints (opAt s 63), ptFate s (opAt s 63) l ≠ 2) ∧
        ((openPoints (opAt s 63)).find? fun l => ptFate s (opAt s 63) l == 0) = some 0) ∧
    (let s := opState { (default : OpSlot) with ins := runOp, points := [{ point0 .fired with tok := 0 }] };
      headRequest (askTokens s) = some ⟨0, 63, 0, 7, false⟩ ∧ tooHot (askTokens s) = false ∧
        (askTokens { s with pool := 7 }).grant + 7 ≤ (askTokens { s with pool := 7 }).pool ∧
        headRequest (askTokens { s with pool := 6 }) = some ⟨0, 63, 0, 7, false⟩ ∧
        (askTokens { s with pool := 6 }).pool < (askTokens { s with pool := 6 }).grant + 7) ∧
    (let x := { (default : OpSlot) with used := true, ins := runOp, points := [point0 .fired] };
      let s := opState x; let y := askTokens (postYields s);
      choosePrio y = some 0 ∧ chooseOp y 0 = some (63, x) ∧ firstReady x = some (point0 .fired) ∧ placeOf y 63 x = some 0) ∧
    (let pt := { point0 .taken with perf := true }; let s := opState { (default : OpSlot) with ins := 2, points := [pt] };
      ((opAt s 63).points.find? fun p => p.l == 0 && p.st == .taken) = some pt ∧ (opAt s 63).used = true ∧
        opOpc (opAt s 63).ins = 2 ∧ pt.time < s.gt ∧ recWaiting s (tceOwner pt.core) = false ∧ retireRoom s 63 = true) ∧
    (let pt := point0 .taken; let s := { opState { (default : OpSlot) with ins := 2, points := [pt] } with tceq := [(0, [⟨false, 63, 0, 0⟩])] };
      ((opAt s 63).points.find? fun p => p.l == 0 && p.st == .taken) = some pt ∧ pt.perf = false ∧ copyNext s 63 pt = true) ∧
    (let x := { (default : OpSlot) with used := true, ins := runOp + 1, points := [point0 .fired] };
      let s := opState x; let y := askTokens (postYields s);
      choosePrio y = some 0 ∧ chooseOp y 0 = some (63, x) ∧ opOpc x.ins ≠ 1 ∧ (placeOf y 63 x).isSome = true) := by decide +kernel

/-! Paths and links. -/

/-- A flit of chip 1 for the acting context. -/
def flitOf1 (kind : Nat) (bs : List Byte) : Flit := { (default : Flit) with src := 1, kind := kind, pseq := 1#32, payload := bs }
def receiving (s : State) (f : Flit) : State := { s with
  rxq := [f], rxw := [(0, 2 ^ 238 + 2 ^ 221), (1, 2 ^ 238 + 2 ^ 221 + 5 * 2 ^ 222 + 2 ^ 36)]
  paths := [(4095, { (default : Path) with used := true, recv := true, peer := 1, st := 1 })] }
def eventFlit (kind : Nat) (n : Word) : Flit := flitOf1 3 (List.replicate 32 0#8 ++ eventMsg kind 0x3FFFFF n)
def rxOf (s : State) : State := rxClose (rxAck (cleanRx s 4095) 4095) 4095

theorem witness_EventMessages :
    (∀ x ∈ [(1, 0#8), (2, 1#8), (3, 0#8)], let f := eventFlit x.1 1#32; let s := receiving (evented x.2) f; let rx := rxOf s;
      (pathAt s 4095).used = true ∧ (pathAt s 4095).recv = true ∧ rxDue (cleanRx s 4095) 4095 = true ∧ (pathAt rx 4095).st < 2 ∧
      rxEntry rx 4095 f = .inl (2 ^ 238 + 2 ^ 221, fit 224 f.payload) ∧ slotOfCtx rx (pathAt s 4095).ctx = some 0 ∧
      evIndexOk (ctxAt rx 0) 0x3FFFFF = true ∧ evAccess rx 0 0x3FFFFF true = .ok 33554424 (x.2.toNat * 2 ^ 56) ∧
      nextMsg rx 4095 x.1 = some (f, 0x3FFFFF, 1#32)) ∧
    subsRoom (rxOf (receiving (evented 0#8) (eventFlit 1 1#32))) 0 0x3FFFFF 0 1 = true ∧
    (let s := { receiving { evented 8#8 with subs := [(0, 0x3FFFFF, 1)] } (eventFlit 1 1#32) with
        refl := (crowded mapped).refl, paths := [(4095, { (default : Path) with used := true, recv := true, peer := 1, st := 1 })] ++
          (crowded mapped).paths };
      let rx := rxOf s;
      rxDue (cleanRx s 4095) 4095 = true ∧ nextMsg rx 4095 1 = some (eventFlit 1 1#32, 0x3FFFFF, 1#32) ∧
      evAccess rx 0 0x3FFFFF true = .ok 33554424 (2 ^ 59) ∧ evMirror (2 ^ 59) = false ∧ subsRoom rx 0 0x3FFFFF (2 ^ 59) 1 = false) ∧
    egressRoom (receiving (evented 0#8) (eventFlit 3 1#32)) 0 [1] 1 = true ∧
    evMirror 0 = false ∧ evMirror (2 ^ 56) = true ∧ evFrozen (2 ^ 56) = false ∧ 0 < serial 1#32 (evCtr (2 ^ 56)) ∧
    (let rx := rxOf (receiving (evented 0#8) (eventFlit 3 1#32));
      (ctxidOf rx 0, 0x3FFFFF, 1) ∉ rx.subs ∧ rx.subs.length < 16384) ∧
    nextMsg (rxOf (receiving (evented 0#8) (eventFlit 3 0#32))) 4095 3 = some (eventFlit 3 0#32, 0x3FFFFF, 0#32) := by decide +kernel

/-- A window write for chip 1 on a path of its own, every local link up. -/
def wr : ReflWrite := { (default : ReflWrite) with todo := [1] }
def sending (st : Nat) : State := { mapped with
  refl := [wr],
  paths := [(4095, { (default : Path) with used := true, peer := 1, st := st })],
  locs := (List.range 31).map fun k => (k, 1) }
/-- The same with the write sent and not acknowledged. -/
def unacked : State := { sending 1 with gt := 1000000, refl := [{ wr with todo := [], sent := [(1, 1)] }] }

theorem witness_SendPaths :
    (let s := sending 0; nextWrite s 0 1 = some wr ∧ (pathAt s 4095).used = true ∧ (pathAt s 4095).recv = false ∧
      (pathAt s 4095).st < 2 ∧ allReported s wr.time = true ∧ canEmit s 1 = true ∧ pathUnacked s 0 1 < 2 ^ 20 ∧ 1 ≠ s.chip ∧ 1 / 32 = s.chip / 32) ∧
    (let s := unacked; (pathAt s 4095).used = true ∧ (pathAt s 4095).recv = false ∧ (pathAt s 4095).st = 1 ∧
      0 < serial 0x7FFFFFFF#32 (pathAt s 4095).seqb ∧ 0 < pathUnacked s 0 1 ∧ (pathAt s 4095).since + s.ptmo ≤ s.gt) := by decide +kernel
theorem witness_ReceivePaths : let f := flitOf1 1 ([0x40#8, 0x01#8, 0#8, 0#8, 0#8, 0#8, 0#8, 0#8, 1#8] ++ List.replicate 24 9#8)
    let s := { receiving { mapped with gt := 1, tlb := ⟨549, 0, 2, 0, 13⟩ :: mapped.tlb } f with nextId := 1 }
    let v := rxOf s
    let ent := 2 ^ 238 + 2 ^ 221 + 5 * 2 ^ 222 + 2 ^ 36
    (pathAt s 4095).used = true ∧ (pathAt s 4095).recv = true ∧ rxDue (cleanRx s 4095) 4095 = true ∧ nextFlit v 4095 = some f ∧ f.kind ≤ 2 ∧
    (pathAt v 4095).st ≤ 1 ∧ rxEntry v 4095 f = .inl (ent, fit 224 f.payload) ∧ recOff (fit 224 f.payload) < txwNpage ent * 98304 ∧
    slotOfCtx v (pathAt v 4095).ctx = some 0 ∧
    resolve v rflCaches 0 (txwPage ent * 98304 + recOff (fit 224 f.payload)) = some (leaf0, 0) ∧ leaf0.w = true ∧ leaf0.c = false ∧
    v.migs = [] ∧ (∀ e ∈ v.ctxs, e.2.evpages = []) ∧ 0 % 192 = 0 ∧ 0 + 192 ≤ 2 ^ 50 ∧ recOp (fit 224 f.payload) = 0 ∧
    (rxDue { s with gt := 0 } 4095 = false ∧ rxDue s 4095 = true ∧ serial 0#32 (pathAt s 4095).seqa ≤ 0) := by decide +kernel

def ported (x : Port) : State := { mapped with gt := 500, ports := [(63, x)] }
def up : Port := { (default : Port) with st := 2, rst := 2, txlive := 0xFFFF, rxlive := 0xFFFF, rseq := 4095 }
def sealed1 : Flit := { flitOf1 1 (List.replicate 224 0#8) with sealed := true, tag := List.replicate 16 0#8 }
/-- The image of a sealed flit with FSEQ 0, under hop key 0. -/
def image1 : List Byte := sealed1.image 0 0
/-- Slots run, and slot 0 gives port 63 to chip 32. -/
def slotted (x : Port) : State := { ported x with
  slotEn := true, slotCur := some 0, slotAct := [(63, 2 ^ 31 + 32 * 2 ^ 16 + 1)], optq := [(optKey 1 32, [sealed1])] }

theorem witness_Ports : ((portAt (ported default) 63).st = 0 ∧ (portAt (ported default) 63).rst = 0 ∧ 63 < 64) ∧
    gscRuns (ported default) = true ∧ gscRuns { ported default with tripHold := true } = false ∧
    (portAt (ported { up with st := 4 }) 63).st = 4 ∧ (portAt (ported { up with st := 1 }) 63).st = 1 ∧
    (portAt (ported { up with st := 3, rst := 3 }) 63).st = 3 ∧
    (0x0101 : Nat) &&& 0x0101 = 0x0101 ∧ (0x0001 : Nat) &&& 0x0101 ≠ 0x0101 ∧ up.txlive &&& moduleMask 3 ≠ 0 ∧
    8 ≤ waves 0x00FF ∧ waves 0x007F < 8 ∧
    (let x := { up with replay := [(0, sealed1)] }; let s := { ported x with gt := 2000 }; x.st = 2 ∧ x.replay ≠ [] ∧ x.since + 2000 ≤ s.gt) ∧
    (let x := { up with owed := some 0#32 }; let s := ported x; startAt21 s x = some 10500 ∧ s.lrcHold = false ∧ slotsRun s = false) ∧
    (let s := slotted up; startAt21 s up = some 10500 ∧ s.lrcHold = false ∧ up.owed = none ∧ slotAllows s 10500 (flitTime (waves up.txlive)) = true ∧
      up.again = 0 ∧ nextData s 63 = some (32, sealed1)) ∧
    -- a port without a flit, in its slot and without slots
    (let s := { slotted up with optq := [] }; startAt21 s up = some 10500 ∧ s.lrcHold = false ∧ up.owed = none ∧ up.st = 2 ∧
      slotAllows s 10500 (flitTime (waves up.txlive)) = true ∧ up.again = 0 ∧ nextData s 63 = none) ∧
    -- a port goes off with a flit that was not acknowledged
    (let x := { up with st := 4, replay := [(0, sealed1)] }; let s := { slotted x with optq := [] }; gscRuns s = true ∧ x.replay ≠ [] ∧
      (x.replay.any fun e => e.2.urgent) = false ∧ s.slotCur = some 0 ∧
      ((Store.get s.optq (optKey (63 / 32) (slotPeer (slotEntry s 0 63)))).any fun f => f.urgent) = false) ∧
    slotsRun (ported up) = false ∧ (let s := slotted { up with st := 1 }; slotAllows s 10500 (flitTime 16) = true) := by decide +kernel
/-- What a receiver takes: the next number, one further on, one that was passed over, and not one that it has. -/
theorem witness_Accept : up.accept 0 = some { up with rseq := 0 } ∧
    up.accept 1 = some { up with rseq := 1, miss := [0] } ∧
    Port.accept { up with rseq := 1, miss := [0] } 0 = some { up with rseq := 1 } ∧ up.accept 4095 = none ∧
    (0 + 4096 - up.rseq) % 4096 = 1 ∧ up.miss = [] := by decide +kernel
theorem fit_length (n : Nat) (bs : List Byte) : (fit n bs).length = n := by simp [fit]
theorem image1_parts : image1 = leBytes 12 (sealed1.head 0) ++ (leBytes 4 (crc32 (leBytes 12 (sealed1.head 0) ++ fit 224 sealed1.payload)).toNat ++
    (fit 224 sealed1.payload ++ fit 16 sealed1.tag)) := by
  simp only [image1, Flit.image, show sealed1.sealed = true from rfl, if_true, List.append_assoc]
theorem image1_head : image1.take 12 = leBytes 12 (sealed1.head 0) := by
  rw [image1_parts, List.take_left' (leBytes_length _ _)]
theorem witness_Flits : imageOk image1 = true ∧ hopOk (ported up) 63 (Flit.ofBytes image1) = true ∧ (Flit.ofBytes image1).kind = 1 ∧
    imageFseq image1 = 0 ∧ roomOn (ported up) (Flit.ofBytes image1) = true ∧
    roomOn { ported up with chip := 1 } (Flit.ofBytes image1) = false ∧ imageOk [] = false ∧
    image1.length = 256 := by
  have hl : image1.length = 256 := by rw [image1_parts]; simp [fit_length]
  have hp : (image1.drop 16).take 224 = fit 224 sealed1.payload := by
    rw [image1_parts, ← List.append_assoc, List.drop_left' (by simp), List.take_left' (fit_length _ _)]
  have hc : (image1.drop 12).take 4 = leBytes 4 (crc32 (leBytes 12 (sealed1.head 0) ++ fit 224 sealed1.payload)).toNat := by
    rw [image1_parts, List.drop_left' (leBytes_length _ _), List.take_left' (leBytes_length _ _)]
  have hw : ∀ x : Word, w32 (leNat (leBytes 4 x.toNat)) = x := by
    intro x
    have := x.isLt
    rw [leNat_leBytes, Nat.mod_eq_of_lt (by omega)]
    simp [w32]
  refine ⟨?_, ?_, ?_, ?_, ?_, ?_, by decide, hl⟩
  · simp only [imageOk, hl, hp, hc, hw, image1_head]
    simp only [beq_self_eq_true, Bool.true_and]
    decide +kernel
  · simp only [hopOk, Flit.ofBytes, image1_head]
    rw [show bit (leNat (leBytes 12 (sealed1.head 0))) 47 = true by decide +kernel]
    rfl
  · simp only [Flit.ofBytes, image1_head]
    decide +kernel
  · simp only [imageFseq, image1_head]
    decide +kernel
  · have : pathOf (ported up) (bits (leNat (leBytes 12 (sealed1.head 0))) 75 60) (bits (leNat (leBytes 12 (sealed1.head 0))) 95 86) true =
        none := by decide +kernel
    simp only [roomOn, Flit.ofBytes, image1_head, this, Bool.or_true]
    rw [if_neg]
    decide +kernel
  · simp only [roomOn, Flit.ofBytes, image1_head]
    decide +kernel
/-- The same flit in a guard. -/
theorem witness_GuardFlits : let s := { ported up with slotCur := some 0, guard := 501 }
    inGuard s = true ∧ inGuard (ported up) = false ∧ hopOk s 63 (Flit.ofBytes image1) = hopOk (ported up) 63 (Flit.ofBytes image1) := by
  refine ⟨by decide +kernel, by decide +kernel, rfl⟩
theorem witness_LocalLinks : 30 < 31 ∧ linkUp mapped 30 = false ∧ bit (0x100#32).toNat 8 = true ∧ linkUp (sending 0) 30 = true ∧
    mapped.lrcHold = false ∧ { sending 0 with lrcHold := true }.lrcHold = true := by decide +kernel
theorem witness_SlotClock :
    (let s := { slotted up with slotCur := none, swap := true }; slotsRun s = true ∧ s.slotCur = none ∧
      s.rot ≠ some (slotNow s / slotsPer s) ∧ s.swap = true) ∧
    (let s := { slotted up with gt := 10000 }; s.slotCur = some 0 ∧ slotBegin s (0 + 1) ≤ s.gt) ∧
    mapped.slotEn = false ∧ (slotted up).slotEn = true ∧ gscRuns (slotted up) = true ∧ gscRuns { mapped with tripHold := true } = false := by decide +kernel

/-! Contexts, firmware, power. -/

/-- A launch header of one group on core 0 at address 0, the core mask at 192, a saved context of no blocks at 4,096. -/
def launching (st : Nat) (more : List (Nat × Byte)) : State := { updCtx mapped 0 fun _ => { (default : Ctx) with
    st := st, ptroot := 3#64, cores := 192#64, savebase := 4096#64, savesz := 64#64 } with
  mem := [(0, 0x48#8), (1, 0x4C#8), (2, 1#8), (72, 0xC0#8), (73, 1#8), (192, 1#8)] ++ more, groups := [], blocks := [] }
def planOf (s : State) : Plan := match launchPlan s 0 with
  | .inr p => p
  | .inl _ => default
def launches (s : State) : Bool := match launchPlan s 0 with
  | .inr _ => true
  | .inl _ => false
def resumed (s : State) : State := updCtx s 0 fun c => { c with hdr := (planOf s).hdr, mask := (planOf s).mask, evpages := (planOf s).pages }

theorem witness_Launch : (∀ st ∈ [0, 3], let s := launching st [];
      (ctxAt s 0).st = st ∧ launches s = true ∧ (placement (planOf s).hdr).isSome = true ∧ coresOf (planOf s).mask = [0] ∧
      (((placement (planOf s).hdr).getD []).map fun p => 32 * p.b + p.grp).Nodup ∧
      ∀ p ∈ (placement (planOf s).hdr).getD [], p.b < 4 ∧ p.grp < 32) ∧
    (let s := updCtx (launching 3 []) 0 fun c => { c with ptroot := 0#64 }; (ctxAt s 0).st = 3 ∧ launches s = false) ∧
    (readSave (resumed (launching 3 [])) 0).isNone = true ∧
    (readSave (resumed (launching 3 [(4096, 0x41#8), (4097, 0x53#8), (4098, 1#8)])) 0).isSome = true := by decide +kernel

/-- The block holds a job of a RUN operator, and its group waits at an MBXRD. -/
def parked (w : Wait) (c : Ctx) : State := { waiting working w with ctxs := [(0, { c with st := 2 })] }
theorem witness_Preemption : (ctxAt mapped 0).st = 1 ∧
    (let s := parked .parked { (default : Ctx) with preq := 1 };
      (bAt s 0).present = true ∧ (bAt s 0).saving = false ∧ bit (ctxAt s (bAt s 0).ctx).preq 0 = true ∧ holdsJob s 0 = true ∧
      (∀ g ∈ runningOf s 0, groupQuiet (gAt s g) = true) ∧ ∃ g ∈ runningOf s 0, groupParked (gAt s g) = true) ∧
    (let s := parked (.mbxrd .nul 0) { (default : Ctx) with preq := 1 };
      (bAt s 0).present = true ∧ (bAt s 0).saving = false ∧ bit (ctxAt s (bAt s 0).ctx).preq 0 = true ∧ holdsJob s 0 = true ∧
      (∀ g ∈ runningOf s 0, groupQuiet (gAt s g) = true) ∧ ∀ g ∈ runningOf s 0, groupParked (gAt s g) = false) ∧
    (let s := parked .parked { (default : Ctx) with preq := 1, preAt := 0, preFor := 1 };
      (ctxAt s 0).preAt + (ctxAt s 0).preFor ≤ s.gt ∧ bit (ctxAt s 0).preq 1 = false ∧ (ctxAt s 0).st = 2) ∧
    (let s := parked .parked { (default : Ctx) with preAt := 0, preFor := 0 }; blocksOf s 0 = [0] ∧ holdsJob s 0 = true) ∧
    (let s := parked .parked { (default : Ctx) with preq := 3 };
      (ctxAt s 0).preAt + 2 * (ctxAt s 0).preFor ≤ s.gt ∧ bit (ctxAt s 0).preq 1 = true ∧ blocksOf s 0 = [0] ∧ (lateBlock s 0).2 = false) ∧
    (let s := { mapped with ctxs := [(0, { (default : Ctx) with st := 2, preq := 3 })] };
      blocksOf s 0 = [0] ∧ (lateBlock s 0).2 = true) := by decide +kernel
theorem witness_ContextSave : (let s := launching 2 []; copyRuns s 0 = false ∧ (∀ b ∈ blocksOf s 0, blockStill s b = true) ∧
      blocksOf s 0 = [] ∧ (saveRecords (forcePoints s 0) 0).flatten = [] ∧ 64 + 0 ≤ (ctxAt s 0).savesz.toNat ∧
      (putSave (forcePoints s 0) 0 (ctxAt s 0).savebase.toNat (saveHeader (forcePoints s 0) 0 ++ [])).isSome = true) ∧
    (ctxAt { launching 2 [] with ctxs := [] } 0).savesz.toNat < 64 + 0 ∧
    blockStill (updCG (updB mapped 0 fun b => { b with saving := true }) fun g => { g with saved := true }) 0 = true := by decide +kernel
theorem witness_DriverWrites : (invOf ((ctxAt mapped 0).invlo.toNat + (0#64).toNat * 2 ^ 64)).isSome = true ∧
    invOf ((ctxAt mapped 0).invlo.toNat + (0x8000000000000000#64).toNat * 2 ^ 64) = none ∧
    (bit (0x80003000#32).toNat 31 = true ∧ (bAt mapped (4 * bits (0x80003000#32).toNat 8 0 + bits (0x80003000#32).toNat 10 9)).present = true) ∧
    mailRoom { mapped with mbox := [(0, List.replicate 15 default)] } 0 = true ∧
    mapped.hostq = [] ∧ { mapped with hostq := [.read 0 1] }.hostq ≠ [] ∧ (ctxAt mapped 0).st ≠ 0 ∧
    (63 < 64 ∧ 1 ≤ 1 ∧ (ctxAt mapped 63).st = 0) ∧ (2 ≤ 2 ∧ mayWrite 0x40008 2 = false ∧ 0x40008 % 8 = 0) := by decide +kernel

/-- 32 commands in queue 0 of core 0, whose unit is number 1, and a fragment at a CPY for that queue. -/
def stuck : State := { updCF mapped fun f => { f with code := [0xB0000000#32] } with strq := [(0, List.replicate 32 default)] }
/-- Both links of the first pair, units 4 and 12, without a permit for the message that waits. -/
def linked (r : List Nat) (h : Nat) : State := { mapped with
  fw := [(0, { (default : FwLink) with spent := 9, want := true }), (1, { (default : FwLink) with spent := 9, want := true })]
  reserve := r, probes := [⟨12, 4, h⟩] }
theorem witness_Probes : probeBlocked mapped 1 = false ∧ (probeBlocked stuck 1 = true ∧ Store.get stuck.blocked 1 = 0) ∧
    (let s := { stuck with gt := 2048, blocked := [(1, 1)] }; Store.get s.blocked 1 ≠ 0 ∧ Store.get s.blocked 1 + 2048 ≤ s.gt + 1 ∧
      ∀ p ∈ s.probes, p.origin ≠ 1) ∧
    (let s := { stuck with probes := [⟨9, 1, 63⟩] };
      (s.probes.find? fun p => p.origin == 9) = some ⟨9, 1, 63⟩ ∧ probeBlocked s 1 = true ∧ 63 < 64 ∧ 9 ∉ probeNext s 1) ∧
    ((linked [] 64).probes.find? fun p => p.origin == 12) = some ⟨12, 4, 64⟩ ∧
    (∀ r ∈ [[], [20]], probeBlocked (linked r 63) 4 = true ∧ 12 ∈ probeNext (linked r 63) 4) ∧
    (∀ r ∈ (linked [] 63).reserve, r % 8 ≠ 12 % 8) ∧ (∃ r ∈ (linked [20] 63).reserve, r % 8 = 12 % 8) := by decide +kernel
/-- A message of 64 bytes with its code in byte 5. -/
def message (c : Byte) : List Byte := List.replicate 5 0#8 ++ [c] ++ List.replicate 58 0#8
theorem witness_CommandLinks : (63 < 64 ∧ (message 1#8).length = 64 ∧ (message 0xFF#8).length = 64 ∧ senderRuns mapped 63 = true) ∧
    (let s := { mapped with lfcFrozen := [31] }; senderRuns s 63 = false ∧ senderRuns s 62 = true ∧ lfcRuns s 31 = false) ∧
    bits (leNat ((message 1#8).take 8)) 47 40 ≠ 0xFF ∧ bits (leNat ((message 1#8).take 8)) 63 48 = (linkAt mapped 63).seq ∧
    (linkAt mapped 63).spent < permits mapped 63 ∧ bits (leNat ((message 1#8).take 8)) 39 32 ≤ 56 ∧
    bits (leNat ((message 0xFF#8).take 8)) 47 40 = 0xFF ∧
    (let s := { mapped with fw := [(63, { (default : FwLink) with spent := 8 })] }; permits s 63 ≤ (linkAt s 63).spent) ∧
    (let s := { mapped with fw := [(63, { (default : FwLink) with spent := 1 })] }; receiverRuns s 63 = true ∧ 0 < (linkAt s 63).spent) ∧
    lfcRuns mapped 31 = true ∧ gscRuns mapped = true := by decide +kernel
theorem witness_Management : mapped.power = true ∧ mapped.i3c = 0 ∧ (1#8 : Byte) ≠ 0#8 ∧ (1#8 : Byte) ≠ 0xFF#8 ∧
    (0x80000001#32).toNat % 64 ≠ 0 ∧ 0 = mapped.chunkNext ∧
    (({ mapped with spdmVer := true, chunkOut := [1#8] } : State).chunkOut.drop (1024 * 0)).take 1024 ≠ [] ∧
    ({ mapped with spdmVer := true, spdmAlg := true } : State).spdmAlg = true ∧ 1022 ≤ 1022 ∧ 0xF0 ∈ [1, 2, 3, 4, 0xF0] ∧
    (7 / 256 = 0 ∧ 0x57E / 256 = 5 ∧ 0x605 / 256 = 6 ∧ 0x100 / 256 ≠ 0 ∧ 0x100 / 256 ≠ 5 ∧ 0x100 / 256 ≠ 6) ∧
    (∀ x ∈ [[0xFE#8, 2#8], [0xFE#8, 3#8], [0xE4#8], [0xE5#8]],
      { mapped with spdmVer := true, chunkIn := x, chunkNext := 1 }.chunkIn ++ [9#8] = x ++ [9#8]) ∧
    { mapped with session := 1 }.session = 1 ∧
    (mapped.session = 0 ∧ [1#8] ≠ ([] : List Byte)) ∧ ({ mapped with session := 2 } : State).session = 2 ∧
    (64 ≤ 256 ∧ 256 ≤ 256) ∧ ((0#8 : Byte) = 0#8 ∧ (0xFF#8 : Byte) = 0xFF#8) ∧
    (0x605 / 256 = 6 ∧ ({ mapped with session := 2 } : State).session ≠ 0) := by decide +kernel
theorem witness_BadFrames_clean : bit mapped.bfstat 0 = false ∧
    ([0x00400000007FFFF7#64, 0x4000000000000000#64, 0x8000000000000000#64, 0xC000000000000000#64].all fun q : Quad =>
      bits q.toNat 61 56 == 0 && bits q.toNat 51 36 == 0) = true := by decide +kernel
/-- An append that is refused for its reason, one that a full list refuses, and one of a frame that is listed. -/
theorem witness_BadFrames_refused : bits (0x0050000000000007#64).toNat 55 52 = 5 ∧
    4096 ≤ { mapped with bad := List.replicate 4096 ⟨true, false, 1, 7⟩ }.bad.length ∧
    badFrame { mapped with bad := [⟨true, false, 1, 7⟩] } 7 = true ∧ bit { mapped with bfstat := 4 }.bfstat 2 = true ∧
    gscRuns mapped = true := by
  exact ⟨by decide, Nat.le_of_eq List.length_replicate.symm, by decide +kernel, by decide, by decide⟩
theorem witness_BadFrames_commands : [0x00400000007FFFF7#64, 0x4000000000000000#64, 0x8000000000000000#64, 0xC000000000000000#64].map
    (fun q : Quad => bits q.toNat 63 62) = [0, 1, 2, 3] := by decide +kernel
/-- Reason 4, the last frame of HBM. -/
theorem witness_BadFrames_append : bits (0x00400000007FFFF7#64).toNat 55 52 = 4 ∧ bits (0x00400000007FFFF7#64).toNat 35 0 = 8388599 ∧
    badFrame mapped 8388599 = false ∧ mapped.bad = [] := by decide +kernel

theorem witness_Power : (State.reset.image = 0 ∧ State.reset.lrcHold = false ∧ State.reset.scrubPend = false) ∧
    ({ State.reset with power := false, scrubPend := true } : State).scrubPend = true ∧
    (State.reset.power = true ∧ State.reset.lrcHold = false) ∧ ({ State.reset with lrcHold := true } : State).lrcHold = true := by decide
theorem witness_ManifestRefused : ¬(manOk (loadBad State.reset) [] = true ∧ manHas [] 0 = true) ∧
    ¬(manOk (loadBad State.reset) [] = true ∧ manClass [] = 0 ∧ manHas [] 2 = true) ∧ reqSigned mapped 2 [] = false := by decide +kernel
/-- R310: an uncorrectable error of the event table meets the OSD's access. -/
theorem witness_EventErrors : let s := { evented 0#8 with evBad := [(0, 2, 0)] }
    2 ≠ 3 ∧ evAccess s 0 (evIdx 0x3FFFFF#32) false = .ok 33554424 0 ∧
    osdAccess s 0 (evIdx 0x3FFFFF#32) false = .bad cUNCORRECTABLE ∧
    osdAccess { s with evBad := [] } 0 (evIdx 0x3FFFFF#32) false = .ok 33554424 0 := by decide +kernel
theorem witness_Errors : (let s := { mapped with ecc := [(8388599, 15)] };
      s.cethr ≠ 0 ∧ s.cethr ≤ Store.get s.ecc 8388599 + 1 ∧ badFrame s 8388599 = false ∧ s.bad.length < 4096) ∧
    (let s := holding banked (pendOf .load true [acc 31 0 false]); ∃ q ∈ (gAt s 0).pend, q.kind = .load ∧
      ∃ a ∈ q.accs, inError s 0 2 0 q a = true ∧ a.put ≠ allRegs) ∧
    -- a load of a line that the L2 holds, met in its L2 (log entry 133)
    (let s := holding { mapped with l2 := [(0, { (default : L2Line) with held := true })] } (pendOf .load false [acc 31 0 false]);
      ∃ q ∈ (gAt s 0).pend, q.kind = .load ∧ ∃ a ∈ q.accs, inError s 0 3 0 q a = true ∧ a.put ≠ allRegs) ∧
    Store.get mapped.ecc 0 + 1 < mapped.cethr ∧ ((gAt mapped 0).present = true ∧ ∀ r ∈ mapped.rdvs, r.lists 0 = false) ∧
    ((gAt mapped 65535).present = false ∧ 1 ≤ 1 ∧ mapped.faqHead = mapped.faqTail) ∧
    (380 % 4096 ≤ mapped.tjhot ∧ mapped.tjhot < 381 % 4096 ∧ bit mapped.thstat 0 = false ∧ 5 < 6 ∧ 4 ≤ 5 ∧ 440 ≤ 440) ∧
    (let c : Pmc := ⟨2 ^ 48 - 1, 2 ^ 31 + 2 ^ 29⟩; bit c.sel 31 = true ∧ c.count = 2 ^ 48 - 1 ∧ bit c.sel 29 = true) ∧
    bit (2 ^ 31) 29 = false := by decide +kernel

end Sys2Proof.Tests
end

/-! Page migration and dynamic capacity (R217 to R220). -/

section

namespace Sys2Proof.Machine

/-! Stores: an entry written and taken out again, and entries changed in place. -/

theorem Store.del_ins {α : Type} (m : Store α) (k : Nat) (v : α) : Store.del (Store.ins m k v) k = Store.del m k := by
  induction m with
  | nil => simp [Store.ins, Store.del]
  | cons e r ih =>
    obtain ⟨k', v'⟩ := e
    rcases Nat.lt_trichotomy k k' with h | rfl | h
    · simp [Store.ins, Store.del, h]
    · simp [Store.ins, Store.del]
    · simp [Store.ins, Store.del, h.not_gt, h.ne, h.ne', ih]

/-- A change of the entries that keeps their indexes gives the default for an index without an entry, and else the changed
value: what holds of both holds of every read. -/
theorem Store.get_map {α : Type} [Inhabited α] (R : α → α → Prop) (h0 : R default default) (f : Nat × α → Nat × α)
    (hk : ∀ e, (f e).1 = e.1) (hR : ∀ e, R e.2 (f e).2) (m : Store α) (k : Nat) :
    R (Store.get m k) (Store.get (List.map f m) k) := by
  induction m with
  | nil => exact h0
  | cons e r ih =>
    have hf : Store.get (List.map f (e :: r)) k = if e.1 = k then (f e).2 else Store.get (List.map f r) k := by
      simp [Store.get, hk]
    rw [hf, Store.get]
    split_ifs
    · exact hR e
    · exact ih

/-! What writes at the homes can change. -/

/-- From s to t only what a write at a home touches may differ: memory, the lines of the L2 with their eviction maxima, the
performance counters with their interrupt, the count of free values, and of a migration its dirty filter and the time of its
writes (R213, R258, R356). -/
structure HomeWrites (s t : State) : Prop where
  frame : t = { s with
    mem := t.mem, l2 := t.l2, evmax := t.evmax, pmc := t.pmc, msix := t.msix, fresh := t.fresh, migs := t.migs }
  mig : ∀ k, migAt t k = { migAt s k with filter := (migAt t k).filter, time := (migAt t k).time }

theorem HomeWrites.refl (s : State) : HomeWrites s s := ⟨rfl, fun _ => rfl⟩

theorem HomeWrites.trans {s t u : State} (h : HomeWrites s t) (k : HomeWrites t u) : HomeWrites s u where
  frame := by rw [k.frame, h.frame]
  mig j := by rw [k.mig j, h.mig j]

theorem HomeWrites.foldl {α : Type} {f : State → α → State} (h : ∀ s a, HomeWrites s (f s a)) (l : List α) (s : State) :
    HomeWrites s (l.foldl f s) := by
  induction l generalizing s with
  | nil => exact .refl s
  | cons a l ih => exact (h s a).trans (ih _)

theorem HomeWrites.invs {s t : State} (h : HomeWrites s t) : t.invs = s.invs := by rw [h.frame]
theorem HomeWrites.exts {s t : State} (h : HomeWrites s t) : t.exts = s.exts := by rw [h.frame]
theorem HomeWrites.out {s t : State} (h : HomeWrites s t) : t.out = s.out := by rw [h.frame]
theorem HomeWrites.tlb {s t : State} (h : HomeWrites s t) : t.tlb = s.tlb := by rw [h.frame]
theorem HomeWrites.groups {s t : State} (h : HomeWrites s t) : t.groups = s.groups := by rw [h.frame]
theorem HomeWrites.moved {s t : State} (h : HomeWrites s t) (k : Nat) : (migAt t k).moved = (migAt s k).moved := by rw [h.mig k]

theorem OnlyHomes.homeWrites {s t : State} (h : OnlyHomes s t) : HomeWrites s t where
  frame := by rw [h]
  mig k := by simp [migAt, h.migs]

theorem memPut_homeWrites (s : State) (pa : Nat) (bs : List Byte) : HomeWrites s (memPut s pa bs) := ⟨rfl, fun _ => rfl⟩

theorem spend_homeWrites (s : State) : HomeWrites s (spend s) := ⟨rfl, fun _ => rfl⟩

theorem updL2_onlyHomes (s : State) (line : Nat) (f : L2Line → L2Line) : OnlyHomes s (updL2 s line f) := rfl

theorem homeBytes_homeWrites (s : State) (line : Nat) (bs : List (Nat × Byte)) : HomeWrites s (homeBytes s line bs) :=
  (HomeWrites.foldl (fun s e => memPut_homeWrites s e.1 [e.2]) bs s).trans (updL2_onlyHomes _ _ _).homeWrites

/-- A write in the source frame of a migration changes nothing of it but its filter (R356). -/
theorem filterSet_homeWrites (s : State) (line : Nat) : HomeWrites s (filterSet s line) where
  frame := rfl
  mig k := by
    refine Store.get_map (fun m m' => m' = { m with filter := m'.filter, time := m'.time }) rfl _ ?_ ?_ s.migs k
    · intro e
      dsimp only
      split_ifs <;> rfl
    · intro e
      dsimp only
      split_ifs <;> rfl

theorem perform_homeWrites (s : State) (line : Nat) (bs : List (Nat × Byte)) : HomeWrites s (perform s line bs).1 := by
  unfold perform
  dsimp only
  split_ifs
  · exact .foldl (fun s (e : Nat × Byte) => memPut_homeWrites s e.1 [e.2]) _ s
  · exact ((l2Hold_onlyHomes s _).homeWrites.trans (homeBytes_homeWrites _ _ _)).trans (filterSet_homeWrites _ _)

theorem performAll_homeWrites (s : State) (bs : List (Nat × Byte)) : HomeWrites s (performAll s bs).1 := by
  unfold performAll
  generalize distinct (bs.map fun e => lineOf e.1) = ls
  generalize 0 = t
  induction ls generalizing s t with
  | nil => exact .refl s
  | cons l ls ih => exact (perform_homeWrites s l _).trans (ih _ _)

/-! Migrations. -/

@[simp] theorem migAt_updMig_self (s : State) (k : Nat) (f : Mig → Mig) : migAt (updMig s k f) k = f (migAt s k) :=
  Store.get_upd_self _ _ _

@[simp] theorem updMig_invs (s : State) (k : Nat) (f : Mig → Mig) : (updMig s k f).invs = s.invs := rfl

theorem migAt_updMig_ne (s : State) {k j : Nat} (f : Mig → Mig) (h : j ≠ k) : migAt (updMig s k f) j = migAt s j :=
  Store.get_upd_ne _ _ h

theorem updMig_homeWrites (s : State) (k : Nat) (f : Mig → Mig)
    (hf : ∀ m, f m = { m with filter := (f m).filter, time := (f m).time }) : HomeWrites s (updMig s k f) where
  frame := rfl
  mig j := by
    by_cases h : j = k
    · rw [h, migAt_updMig_self]
      exact hf _
    · rw [migAt_updMig_ne s f h]

theorem migWrite_homeWrites (s : State) (k : Nat) (bs : List (Nat × Byte)) : HomeWrites s (migWrite s k bs) :=
  (performAll_homeWrites s bs).trans (updMig_homeWrites _ k _ fun _ => rfl)

theorem copyLines_homeWrites (s : State) (k : Nat) (ls : List Nat) : HomeWrites s (copyLines s k ls) :=
  .foldl (fun s _ => migWrite_homeWrites s k _) ls s

theorem putPte_homeWrites (s : State) (k e : Nat) : HomeWrites s (putPte s k e) := migWrite_homeWrites s k _

@[simp] theorem migAt_migEnd (s : State) (k r : Nat) : migAt (migEnd s k r) k = { migAt s k with phase := 5, result := r } :=
  migAt_updMig_self _ _ _

theorem redirectAll_invs (s : State) (k : Nat) : (redirectAll s k).invs = s.invs := by
  unfold redirectAll
  rw [updMig_invs]
  refine HomeWrites.invs ((copyLines_homeWrites s k (linesOf (migAt s k).filter)).trans (.foldl (fun s l => ?_) _ _))
  dsimp only
  split_ifs
  · exact .refl s
  · exact (updL2_onlyHomes s _ _).homeWrites

/-- What `redirectAll` ends with. Stated for any set of lines, so that checking it never evaluates the mask of 512 lines. -/
theorem moved_updMig (s : State) (k lines : Nat) :
    (migAt (updMig s k fun m => { m with moved := lines, filter := 0 }) k).moved = lines := by
  rw [migAt_updMig_self]

/-! The queue of a tensor copy engine (R256). -/

theorem tceStart_idle {s : State} {k : Nat} {c : TceCmd} (hp : (migAt s k).phase = 0) (hc : tceHead s k = some c)
    (hm : c.mig = true) : tceStart s k = migStart (tceNext s k) k c.slot c.cmd := by
  simp [tceStart, tceIdle, hc, hm, hp]

theorem tceStart_busy {s : State} {k : Nat} (hp : (migAt s k).phase ≠ 0) : tceStart s k = s := by
  unfold tceStart
  split
  · simp [tceIdle, hp]
  · rfl

/-- A command joins the queue of its engine. -/
def tcePost (s : State) (k : Nat) (c : TceCmd) : State := { s with tceq := Store.upd s.tceq k fun q => q ++ [c] }

theorem tceHead_tcePost {s : State} {k : Nat} (c : TceCmd) (h : Store.get s.tceq k = []) :
    tceHead (tcePost s k c) k = some c := by
  simp [tceHead, tcePost, h]

/-- A command that joins an empty queue and leaves it at once leaves it empty. -/
theorem tceNext_tcePost {s : State} {k : Nat} (c : TceCmd) (h : Store.get s.tceq k = []) :
    tceNext (tcePost s k c) k = { s with tceq := Store.del s.tceq k } := by
  have hq : (tcePost s k c).tceq = Store.ins s.tceq k [c] := by
    simp [tcePost, Store.upd, Store.set, h, show (default : List TceCmd) = [] from rfl]
  have hn : Store.upd (tcePost s k c).tceq k List.tail = Store.del s.tceq k := by
    simp [Store.upd, Store.set, hq, Store.get_ins, Store.del_ins, show (default : List TceCmd) = [] from rfl]
  show { tcePost s k c with tceq := Store.upd (tcePost s k c).tceq k List.tail } = _
  rw [hn]
  rfl

theorem exec_migrate {tce : Nat} (slot : Nat) (cmd : BitVec 256) (s : State) (h : tce < 32) :
    exec (.migrate tce slot cmd) s = .next (tceStart (tcePost s tce ⟨true, slot, 0, cmd.toNat⟩) tce) := by
  show execMigrate tce slot cmd s = _
  rw [execMigrate, if_neg (by omega)]
  rfl

theorem exec_migrate_idle {tce : Nat} (slot : Nat) (cmd : BitVec 256) {s : State} (h : tce < 32)
    (hp : (migAt s tce).phase = 0) (hq : Store.get s.tceq tce = []) :
    exec (.migrate tce slot cmd) s = .next (migStart { s with tceq := Store.del s.tceq tce } tce slot cmd.toNat) := by
  have hc := tceHead_tcePost ⟨true, slot, 0, cmd.toNat⟩ hq
  rw [exec_migrate slot cmd s h, tceStart_idle (s := tcePost s tce _) hp hc rfl, tceNext_tcePost _ hq]

theorem exec_migrate_busy {tce : Nat} (slot : Nat) (cmd : BitVec 256) {s : State} (h : tce < 32)
    (hp : (migAt s tce).phase ≠ 0) :
    exec (.migrate tce slot cmd) s = .next (tcePost s tce ⟨true, slot, 0, cmd.toNat⟩) := by
  rw [exec_migrate slot cmd s h, tceStart_busy (s := tcePost s tce _) hp]

/-! The beginning of a migration (R219, R220). -/

/-- The migration that a command asks for, at its beginning. -/
def migOfCmd (slot w : Nat) : Mig := { (default : Mig) with
  phase := 2, slot := slot, stier := bits w 78 78, sframe := bits w 115 79, dtier := bits w 153 153
  dframe := bits w 152 116, ptea := bits w 223 160, event := bits w 255 224, retry := bits w 159 156 }

/-- The engine holds the migration of a command. -/
def migHeld (s : State) (k slot w : Nat) : State := updMig s k fun _ => migOfCmd slot w

/-- The command has no reserved bit set, its entry has MIG clear and both its frames are usable. -/
def CmdGood (s : State) (k slot w : Nat) : Prop :=
  bits w 77 0 = 0 ∧ bits w 155 154 = 0 ∧ bit (migPte (migHeld s k slot w) k) 7 = false ∧
    migFrames (migHeld s k slot w) (migOfCmd slot w) = true

/-- The test that a migration begins with. -/
def migRefused (s : State) (k slot w : Nat) : Bool :=
  bits w 77 0 != 0 || bits w 155 154 != 0 || bit (migPte (migHeld s k slot w) k) 7 ||
    !migFrames (migHeld s k slot w) (migOfCmd slot w)

theorem migRefused_eq_false {s : State} {k slot w : Nat} : migRefused s k slot w = false ↔ CmdGood s k slot w := by
  simp [migRefused, CmdGood, and_assoc]

theorem migStart_eq (s : State) (k slot w : Nat) : migStart s k slot w =
    if migRefused s k slot w then migEnd (migHeld s k slot w) k 3
    else copyLines (putPte (migHeld s k slot w) k (withMig (migPte (migHeld s k slot w) k) true)) k (List.range 512) := rfl

theorem migStart_good {s : State} {k slot w : Nat} (h : CmdGood s k slot w) : migStart s k slot w =
    copyLines (putPte (migHeld s k slot w) k (withMig (migPte (migHeld s k slot w) k) true)) k (List.range 512) := by
  rw [migStart_eq, if_neg (Bool.not_eq_true _ ▸ migRefused_eq_false.mpr h)]

theorem migStart_bad {s : State} {k slot w : Nat} (h : ¬CmdGood s k slot w) :
    migStart s k slot w = migEnd (migHeld s k slot w) k 3 := by
  rw [migStart_eq, if_pos (by simpa [← migRefused_eq_false] using h)]

/-! The stages of a migration (R220). -/

section Stages

variable {s : State} {k : Nat}

theorem exec_migrationResult_idle (h : (migAt s k).phase = 0) : exec (.migrationResult k) s = .next (tceStart s k) := by
  show execMigrationResult k s = _
  simp only [execMigrationResult, h]

theorem exec_migrationResult_copying (h : (migAt s k).phase = 2) : exec (.migrationResult k) s = .next (migRound s k) := by
  show execMigrationResult k s = _
  simp only [execMigrationResult, h]

theorem migRound_clean (hf : migFrames s (migAt s k) = true) (h0 : (migAt s k).filter = 0) :
    migRound s k = updMig s k fun m => { m with phase := 3 } := by
  simp [migRound, hf, h0]

theorem migRound_abandons (hf : migFrames s (migAt s k) = true) (h0 : (migAt s k).filter ≠ 0)
    (ht : (migAt s k).tries = (migAt s k).retry) : migRound s k = migStop s k 2 := by
  simp [migRound, hf, h0, ht]

theorem exec_migrationResult_frameGone (h : (migAt s k).phase = 3) (hf : migFrames s (migAt s k) = false) :
    exec (.migrationResult k) s = .next (migStop s k 3) := by
  show execMigrationResult k s = _
  simp [execMigrationResult, h, hf]

/-- Every line redirected and the entry moved to the destination. -/
def pageMoved (s : State) (k : Nat) : State :=
  putPte (redirectAll s k) k (movedPte (migAt s k) (migPte (redirectAll s k) k))

theorem pageMoved_invs : (pageMoved s k).invs = s.invs :=
  (putPte_homeWrites _ _ _).invs.trans (redirectAll_invs s k)

theorem pageMoved_moved : (migAt (pageMoved s k) k).moved = (migAt (redirectAll s k) k).moved :=
  (putPte_homeWrites _ _ _).moved k

/-- An invalidation goes out, and the migration waits for it. -/
def awaitInv (s : State) (k : Nat) (i : Inv) : State :=
  updMig (postInv s i).1 k fun m => { m with phase := 4, inval := s.nextId }

theorem awaitInv_invs (i : Inv) : (awaitInv s k i).invs = s.invs ++ [{ i with id := s.nextId }] := rfl

theorem migAt_awaitInv (i : Inv) : migAt (awaitInv s k i) k = { migAt s k with phase := 4, inval := s.nextId } :=
  migAt_updMig_self _ _ _

theorem exec_migrationResult_redirects (h : (migAt s k).phase = 3) (hf : migFrames s (migAt s k) = true) :
    exec (.migrationResult k) s = .next (awaitInv (pageMoved s k) k { (default : Inv) with kind := 2 }) := by
  show execMigrationResult k s = _
  unfold execMigrationResult
  extract_lets m u inv
  have hp : pageMoved s k = putPte u k (movedPte m (migPte u k)) := rfl
  rw [show m.phase = 3 from h, hp]
  refine congrArg Host.Outcome.next ((if_neg (by simp [m, hf])).trans ?_)
  -- the state after the entry's write is any state: nothing of it may be evaluated
  generalize putPte u k _ = p
  cases p
  rfl

theorem exec_migrationResult_waiting (h : (migAt s k).phase = 4) : exec (.migrationResult k) s =
    .next (if (s.invs.any fun i => i.id == (migAt s k).inval) || redirectNeeded s (migAt s k) then s else endRedirects s k) := by
  show execMigrationResult k s = _
  simp only [execMigrationResult, h]

theorem exec_migrationResult_ended (h : (migAt s k).phase = 5) : exec (.migrationResult k) s =
    .next (if (migAt s k).time < s.gt && signalRoom s (migAt s k).slot (w32 (migAt s k).event) (w32 (migAt s k).result) 1 then
      engineSignal { s with migs := Store.set s.migs k default } (migAt s k).slot noGroup 0 (w32 (migAt s k).event)
        (w32 (migAt s k).result)
    else s) := by
  show execMigrationResult k s = _
  simp only [execMigrationResult, h]

theorem exec_migrationResult_abandons (h : (migAt s k).phase = 2) (hf : migFrames s (migAt s k) = true)
    (h0 : (migAt s k).filter ≠ 0) (ht : (migAt s k).tries = (migAt s k).retry) :
    ∃ t, exec (.migrationResult k) s = .next t ∧ (migAt t k).phase = 5 ∧ (migAt t k).result = 2 := by
  refine ⟨migStop s k 2, ?_, ?_⟩
  · rw [exec_migrationResult_copying h, migRound_abandons hf h0 ht]
  · simp [migStop]

theorem awaitInv_spec {i : Inv} : ∃ j, (migAt (awaitInv s k i) k).phase = 4 ∧
    (migAt (awaitInv s k i) k).moved = (migAt s k).moved ∧ (migAt (awaitInv s k i) k).inval = j.id ∧
    (awaitInv s k i).invs = s.invs ++ [j] ∧ j.kind = i.kind := by
  rw [migAt_awaitInv, awaitInv_invs]
  exact ⟨_, rfl, rfl, rfl, rfl, rfl⟩

theorem exec_migrationResult_moves (h : (migAt s k).phase = 3) (hf : migFrames s (migAt s k) = true) :
    ∃ t i, exec (.migrationResult k) s = .next t ∧ (migAt t k).phase = 4 ∧
      (migAt t k).moved = (migAt (redirectAll s k) k).moved ∧ (migAt t k).inval = i.id ∧ t.invs = s.invs ++ [i] ∧ i.kind = 2 := by
  obtain ⟨i, hphase, hmoved, hinval, hinvs, hkind⟩ :=
    awaitInv_spec (s := pageMoved s k) (k := k) (i := { (default : Inv) with kind := 2 })
  rw [pageMoved_moved] at hmoved
  rw [pageMoved_invs] at hinvs
  exact ⟨_, i, exec_migrationResult_redirects h hf, hphase, hmoved, hinval, hinvs, hkind⟩

end Stages

/-! Dynamic capacity (R217, R218). -/

theorem exec_dcdAddCapacity_elsewhere {port : Nat} (base len tag : Nat) (s : State) (h : 2 ≤ port) :
    exec (.dcdAddCapacity port base len tag) s = .next s := by
  show execDcdAddCapacity port base len tag s = _
  unfold execDcdAddCapacity
  exact if_pos h

/-- The frames that count towards the limit of the capacity. -/
def framesHeld (s : State) : Nat := s.exts.foldl (fun t e => t + e.2.n) 0

/-- The first entry that holds no extent. -/
def freeExt (s : State) : Option Nat := (List.range 4096).find? fun k => (Store.get s.exts k).st == 0

theorem freeExt_eq_none {s : State} (h : ∀ k, k < 4096 → (Store.get s.exts k).st ≠ 0) : freeExt s = none := by
  simpa [freeExt, List.find?_eq_none] using h

theorem freeExt_eq_some {s : State} {ext : Nat} (hlt : ext < 4096) (hused : ∀ k, k < ext → (Store.get s.exts k).st ≠ 0)
    (hfree : (Store.get s.exts ext).st = 0) : freeExt s = some ext := by
  simpa [freeExt, List.find?_range_eq_some, hlt, hfree] using hused

section Add

variable {s : State} {port : Nat} (base : Nat) {len : Nat} (tag : Nat)

theorem exec_dcdAddCapacity_rejects (hp : port < 2)
    (h : freeExt s = none ∨ farFirst s (len / frameBytes) = none ∨ 89478485 < framesHeld s + len / frameBytes) :
    exec (.dcdAddCapacity port base len tag) s = .next (dcdSay s 1 port base len 0 tag) := by
  show execDcdAddCapacity port base len tag s = _
  unfold execDcdAddCapacity
  refine (if_neg (by omega)).trans ?_
  split
  next k f hk hf =>
    rw [← freeExt] at hk
    have hover : 89478485 < framesHeld s + len / frameBytes := by simpa [hk, hf] using h
    exact if_pos hover
  · rfl

theorem exec_dcdAddCapacity_accepts {k f : Nat} (hp : port < 2) (hk : freeExt s = some k)
    (hf : farFirst s (len / frameBytes) = some f) (hroom : ¬89478485 < framesHeld s + len / frameBytes) :
    exec (.dcdAddCapacity port base len tag) s = .next (dcdSay
      { s with exts := Store.set s.exts k ⟨1, port, base, len, tag, f, len / frameBytes, false⟩ } 0 port base len
      (len % frameBytes) tag) := by
  show execDcdAddCapacity port base len tag s = _
  unfold execDcdAddCapacity
  refine (if_neg (by omega)).trans ?_
  rw [← freeExt, hk, hf]
  exact if_neg hroom

end Add

section Release

variable {s : State} {ext : Nat}

theorem mem_extLines {e : Extent} {l : Nat × L2Line} : l ∈ extLines s e ↔
    l ∈ s.l2 ∧ l.1 / 2 ^ 48 = 1 ∧ e.first ≤ l.1 % 2 ^ 48 / 512 ∧ l.1 % 2 ^ 48 / 512 < e.first + e.n := by
  simp [extLines, and_assoc]

/-- The lines of the L2 once those of a list are written back. -/
def cleaned (s : State) (ls : List (Nat × L2Line)) : List (Nat × L2Line) :=
  s.l2.map fun l => if (ls.map (·.1)).contains l.1 then (l.1, { l.2 with dirty := 0, farBy := [] }) else l

theorem cleaned_extLines_clean {e : Extent} {l : Nat × L2Line} (hl : l ∈ cleaned s (extLines s e))
    (ht : l.1 / 2 ^ 48 = 1) (hlo : e.first ≤ l.1 % 2 ^ 48 / 512) (hhi : l.1 % 2 ^ 48 / 512 < e.first + e.n) :
    l.2.dirty = 0 := by
  obtain ⟨x, hx, rfl⟩ := List.mem_map.mp hl
  by_cases hin : ((extLines s e).map (·.1)).contains x.1 = true
  · rw [if_pos hin]
  · rw [if_neg hin] at ht hlo hhi
    have hxe : x ∈ extLines s e := mem_extLines.mpr ⟨hx, ht, hlo, hhi⟩
    exact absurd (List.contains_iff_mem.mpr (List.mem_map_of_mem hxe)) hin

theorem exec_dcdReleaseOrderly_begins (hst : (Store.get s.exts ext).st = 1)
    (h : (Store.get s.exts ext).going = false ∨ (extLines s (Store.get s.exts ext)).any (fun l => l.2.dirty != 0) = true) :
    exec (.dcdReleaseOrderly ext) s = .next { s with
      l2 := cleaned s (extLines s (Store.get s.exts ext))
      exts := Store.upd s.exts ext fun x => { x with going := true } } :=
  (if_neg (not_not.mpr hst)).trans (if_pos (by rcases h with h | h <;> simp [h]))

theorem exec_dcdReleaseOrderly_ends (hst : (Store.get s.exts ext).st = 1) (hg : (Store.get s.exts ext).going = true)
    (hc : (extLines s (Store.get s.exts ext)).any (fun l => l.2.dirty != 0) = false) :
    exec (.dcdReleaseOrderly ext) s = .next (dcdSay
      { dropLines s (extLines s (Store.get s.exts ext)) with exts := Store.set s.exts ext default } 2
      (Store.get s.exts ext).port (Store.get s.exts ext).base (Store.get s.exts ext).len 0 (Store.get s.exts ext).tag) :=
  (if_neg (not_not.mpr hst)).trans (if_neg (by simp [hg, hc]))

theorem dropLines_onlyHomes (s : State) (ls : List (Nat × L2Line)) : OnlyHomes s (dropLines s ls) :=
  .foldl (f := fun s (l : Nat × L2Line) => { s with
    evmax := Store.upd s.evmax (setOf l.1) fun m => Nat.max m l.2.leasemax, l2 := Store.del s.l2 l.1 }) (fun _ _ => rfl) ls s

/-- The dirty lines of an extent: only the L2 holds their bytes. -/
def lostLines (s : State) (e : Extent) : List (Nat × L2Line) := (extLines s e).filter fun l => l.2.dirty != 0

/-- The bytes of the dirty sectors of some lines take free values. -/
def loseLines (s : State) (ls : List (Nat × L2Line)) : State :=
  ls.foldl (fun s l =>
    (List.range 4).foldl (fun s j => if bit l.2.dirty j then
      spend (memPut s (linePa l.1 + 48 * j) ((List.range 48).map fun i => Config.freeByte (s.fresh + i))) else s) s) s

theorem loseLines_homeWrites (s : State) (ls : List (Nat × L2Line)) : HomeWrites s (loseLines s ls) := by
  refine .foldl (fun s l => .foldl (fun s j => ?_) _ s) ls s
  split_ifs
  · exact (memPut_homeWrites s _ _).trans (spend_homeWrites _)
  · exact .refl s

/-- The L2 without the lines of a revoked extent. -/
def revoked (s : State) (e : Extent) : State :=
  dropLines (loseLines s (lostLines s e)) (extLines (loseLines s (lostLines s e)) e)

theorem revoked_homeWrites (s : State) (e : Extent) : HomeWrites s (revoked s e) :=
  (loseLines_homeWrites s _).trans (dropLines_onlyHomes _ _).homeWrites

theorem revoked_mem_of_clean {e : Extent} (h : ∀ l ∈ s.l2, l.2.dirty = 0) : (revoked s e).mem = s.mem := by
  have hlost : lostLines s e = [] :=
    List.filter_eq_nil_iff.mpr fun l hl => by simp [h l (mem_extLines.mp hl).1]
  rw [revoked, hlost]
  exact (dropLines_onlyHomes _ _).mem

/-- Does a translation reach into an extent? -/
def translatesExt (e : Extent) (t : TlbEnt) : Bool := pteTier t.ent == 1 &&
  (let n := if t.kind = 1 then 32 else if t.kind = 2 then 4096 else 1
   decide (e.first < pteFrame t.ent / n * n + n) && decide (pteFrame t.ent / n * n < e.first + e.n))

theorem translatesExt_of_leaf {e : Extent} {t : TlbEnt} (hk : t.kind = 0) (ht : pteTier t.ent = 1)
    (hlo : e.first ≤ pteFrame t.ent) (hhi : pteFrame t.ent < e.first + e.n) : translatesExt e t = true := by
  simp [translatesExt, hk, ht, hhi, Nat.lt_succ_of_le hlo]

theorem exec_dcdReleaseForced (hst : (Store.get s.exts ext).st = 1) :
    exec (.dcdReleaseForced ext) s = .next { revoked s (Store.get s.exts ext) with
      tlb := (revoked s (Store.get s.exts ext)).tlb.filter fun t => !translatesExt (Store.get s.exts ext) t
      exts := Store.upd (revoked s (Store.get s.exts ext)).exts ext fun x => { x with st := 2 }
      out := (revoked s (Store.get s.exts ext)).out ++
        [(98, leBytes 8 (Store.get s.exts ext).first ++ leBytes 8 (Store.get s.exts ext).n)] } :=
  if_neg (not_not.mpr hst)

theorem releaseOrderly_writesBack (hst : (Store.get s.exts ext).st = 1)
    (h : (Store.get s.exts ext).going = false ∨ (extLines s (Store.get s.exts ext)).any (fun l => l.2.dirty != 0) = true) :
    ∃ t, exec (.dcdReleaseOrderly ext) s = .next t ∧ t = { s with l2 := t.l2, exts := t.exts } ∧
      Store.get t.exts ext = { Store.get s.exts ext with going := true } ∧
      ∀ l ∈ t.l2, l.1 / 2 ^ 48 = 1 → (Store.get s.exts ext).first ≤ l.1 % 2 ^ 48 / 512 →
        l.1 % 2 ^ 48 / 512 < (Store.get s.exts ext).first + (Store.get s.exts ext).n → l.2.dirty = 0 := by
  refine ⟨_, exec_dcdReleaseOrderly_begins hst h, rfl, ?_, fun _ => cleaned_extLines_clean⟩
  rw [Store.get_upd_self]

theorem releaseForced_revokes (hst : (Store.get s.exts ext).st = 1) :
    ∃ t, exec (.dcdReleaseForced ext) s = .next t ∧ Store.get t.exts ext = { Store.get s.exts ext with st := 2 } ∧
      t.out = s.out ++ [(98, leBytes 8 (Store.get s.exts ext).first ++ leBytes 8 (Store.get s.exts ext).n)] ∧
      t.groups = s.groups ∧
      (∀ x ∈ t.tlb, x ∈ s.tlb ∧ ¬(x.kind = 0 ∧ pteTier x.ent = 1 ∧ (Store.get s.exts ext).first ≤ pteFrame x.ent ∧
        pteFrame x.ent < (Store.get s.exts ext).first + (Store.get s.exts ext).n)) ∧
      ((∀ l ∈ s.l2, l.2.dirty = 0) → t.mem = s.mem) := by
  have hw := revoked_homeWrites s (Store.get s.exts ext)
  refine ⟨_, exec_dcdReleaseForced hst, ?_, congrArg (· ++ _) hw.out, hw.groups, fun x hx => ?_, revoked_mem_of_clean⟩
  · rw [Store.get_upd_self, hw.exts]
  · obtain ⟨hx, hkept⟩ := List.mem_filter.mp hx
    refine ⟨hw.tlb ▸ hx, fun ⟨hk, ht, hlo, hhi⟩ => ?_⟩
    simp [translatesExt_of_leaf hk ht hlo hhi] at hkept

end Release

/-! The statement. -/

/-- Settles O53: one lemma for each stage of a migration and each message of the Dynamic Capacity device; what a migration's
writes leave alone is `HomeWrites`. -/
theorem migrationAndCapacity : Obligations.MigrationAndCapacity := by
  unfold Obligations.MigrationAndCapacity
  intro s tce slot port base len tag ext f cmd c w m new s0 good e n full rejects
  refine ⟨fun htce hp hq => ⟨fun hgood => ?_, fun hbad => ?_⟩, fun htce hp => exec_migrate_busy slot cmd htce hp,
    fun hp hc hm => ?_, exec_migrationResult_copying, fun hp hf h0 => ?_, exec_migrationResult_abandons,
    exec_migrationResult_frameGone, fun hp hf => ?_, fun hp hi hr => ?_, fun hp h => ?_, fun hp ht hr => ?_,
    fun hp h => ?_, exec_dcdAddCapacity_elsewhere base len tag s, fun hp h => ?_, fun hp hlt hused hfree hf hroom => ?_,
    fun hst => ⟨releaseOrderly_writesBack hst, exec_dcdReleaseOrderly_ends hst, releaseForced_revokes hst⟩⟩
  · rw [exec_migrate_idle slot cmd htce hp hq, migStart_good hgood]
    rfl
  · rw [exec_migrate_idle slot cmd htce hp hq, migStart_bad hbad]
    rfl
  · rw [exec_migrationResult_idle hp, tceStart_idle hp hc hm]
  · rw [exec_migrationResult_copying hp, migRound_clean hf h0]
  · obtain ⟨t, i, hexec, hphase, hmoved, hrest⟩ := exec_migrationResult_moves hp hf
    exact ⟨t, i, hexec, hphase, hmoved.trans (moved_updMig _ tce _), hrest⟩
  · rw [exec_migrationResult_waiting hp]
    exact congrArg Host.Outcome.next (if_neg (by simp [hi, hr, m]))
  · rw [exec_migrationResult_waiting hp]
    exact congrArg Host.Outcome.next (if_pos (by simpa using h))
  · rw [exec_migrationResult_ended hp]
    exact congrArg Host.Outcome.next (if_pos (by simpa using ⟨ht, hr⟩))
  · rw [exec_migrationResult_ended hp]
    exact congrArg Host.Outcome.next (if_neg (by simpa [imp_iff_not_or] using h))
  · exact exec_dcdAddCapacity_rejects base tag hp (h.imp_left freeExt_eq_none)
  · exact exec_dcdAddCapacity_accepts base tag hp (freeExt_eq_some hlt hused hfree) hf hroom

end Sys2Proof.Machine

end

/-! Decoding of encoded instructions (R24 to R29, R232). -/

section

namespace Sys2Proof.Machine

/-! Operand fields. -/

/-- An operand reads back from its byte, a literal from its word (R26, R28). -/
theorem Opnd.ofCode_code {o : Opnd} (h : Opnd.inRange o = true) {w : Word} (hw : ∀ x, o = .lit x → x = w) :
    Opnd.ofCode (Opnd.code o) w = o := by
  cases o with
  | v n => simp_all [Opnd.inRange, Opnd.code, Opnd.ofCode]
  | s n =>
    have h : 0xC0 + n < 0xF0 := by simp [Opnd.inRange] at h; omega
    simp [Opnd.code, Opnd.ofCode, h]
  | rsv n =>
    have h : n < 6 := by simpa [Opnd.inRange] using h
    interval_cases n <;> rfl
  | lit x => rw [← hw x rfl]; rfl
  | _ => rfl

theorem Opnd.code_lt {o : Opnd} (h : Opnd.inRange o = true) : Opnd.code o < 256 := by
  cases o <;> simp [Opnd.inRange, Opnd.code] at h ⊢ <;> omega

theorem Opnd.code_eq_nul {o : Opnd} (h : Opnd.inRange o = true) : Opnd.code o = 0xFE ↔ o = .nul := by
  cases o <;> simp [Opnd.inRange, Opnd.code] at h ⊢ <;> omega

theorem Opnd.code_eq_lit {o : Opnd} (h : Opnd.inRange o = true) : Opnd.code o = 0xFF ↔ isLit o = true := by
  cases o <;> simp [Opnd.inRange, Opnd.code, isLit] at h ⊢ <;> omega

theorem isLit_iff {o : Opnd} : isLit o = true ↔ ∃ w, o = .lit w := by cases o <;> simp [isLit]

/-- Whether a role admits literals does not depend on the literal. -/
theorem Role.ok_lit (r : Role) (w : Word) : r.ok (.lit w) = r.ok (.lit 0#32) := by cases r <;> rfl

/-! Fields of a word. -/

/-- The operand that the decoder reads from a field. -/
def Slot.opnd : Slot → Opnd
  | .op _ o => o
  | x => Opnd.ofCode x.byte 0#32

/-- May the decoder take a field to be in a source role, or not to be? An operand whose role admits a literal is in one, and only
an operand is. -/
def Slot.fits (src : Bool) : Slot → Bool
  | .op r _ => src || !r.ok (.lit 0#32)
  | _ => !src

/-- A field takes a literal word where the decoder hands one out, and reads back with it (R26, R28). -/
structure Slot.Reads (src : Bool) (x : Slot) : Prop where
  lt : x.byte < 256
  lits : x.lits.length = b2n (src && x.byte == 0xFF)
  opnd : Opnd.ofCode x.byte (wordAt x.lits 0) = x.opnd

theorem Slot.lits_op_of_not_isLit (r : Role) {o : Opnd} (h : isLit o ≠ true) : (Slot.op r o).lits = [] := by
  cases o with
  | lit w => exact absurd rfl h
  | _ => rfl

theorem Slot.reads_op {src : Bool} {r : Role} {o : Opnd} (hin : Opnd.inRange o = true) (hsrc : isLit o = true → src = true) :
    (Slot.op r o).Reads src where
  lt := Opnd.code_lt hin
  lits := by
    by_cases hlit : isLit o = true
    · obtain ⟨w, rfl⟩ := isLit_iff.1 hlit
      rw [hsrc rfl]
      rfl
    · have hcode : (Slot.op r o).byte ≠ 0xFF := fun h => hlit ((Opnd.code_eq_lit hin).1 h)
      rw [lits_op_of_not_isLit r hlit, beq_eq_false_iff_ne.2 hcode, Bool.and_false]
      rfl
  opnd := Opnd.ofCode_code hin (by rintro w rfl; rfl)

theorem Slot.reads_of_fits {src : Bool} {x : Slot} (hok : x.ok = true) (hf : x.fits src = true) : x.Reads src := by
  cases x with
  | op r o =>
    obtain ⟨hin, hrole⟩ : Opnd.inRange o = true ∧ r.ok o = true := by simpa [Slot.ok] using hok
    refine reads_op hin fun hlit => ?_
    obtain ⟨w, rfl⟩ := isLit_iff.1 hlit
    simpa [Slot.fits, ← Role.ok_lit r w, hrole] using hf
  | sel n =>
    obtain rfl : src = false := by simpa [Slot.fits] using hf
    exact ⟨by simpa [Slot.ok, Slot.byte] using hok, rfl, rfl⟩
  | no =>
    obtain rfl : src = false := by simpa [Slot.fits] using hf
    exact ⟨by decide, rfl, rfl⟩

/-! Words. -/

theorem wordAt_append_left {l : List Word} (r : List Word) {n : Nat} (h : n < l.length) : wordAt (l ++ r) n = wordAt l n := by
  simp [wordAt, List.getElem?_append_left h]

theorem wordAt_append_right (l r : List Word) (n : Nat) : wordAt (l ++ r) (l.length + n) = wordAt r n := by
  simp [wordAt, List.getElem?_append_right]

/-- What the decoder takes of some words, told how many come before them: word `n` of them, or 0 where they are too few. -/
theorem ite_wordAt (l m r : List Word) {k n : Nat} (hk : k = l.length) {p : Prop} [Decidable p] (hp : p ↔ n < m.length) :
    (if p then wordAt (l ++ (m ++ r)) (k + n) else 0#32) = wordAt m n := by
  subst hk
  by_cases h : n < m.length
  · rw [if_pos (hp.2 h), wordAt_append_right, wordAt_append_left r h]
  · rw [if_neg (h ∘ hp.1)]
    simp [wordAt, Nat.le_of_not_lt h]

theorem Form.bits_word (f : Form) (h : f.op < 256) (hd : f.d.byte < 256) (ha : f.a.byte < 256) (hb : f.b.byte < 256) :
    bits f.word.toNat 31 24 = f.op ∧ bits f.word.toNat 23 16 = f.d.byte ∧ bits f.word.toNat 15 8 = f.a.byte ∧
      bits f.word.toNat 7 0 = f.b.byte := by
  have hw : f.word.toNat = f.op * 2 ^ 24 + f.d.byte * 2 ^ 16 + f.a.byte * 2 ^ 8 + f.b.byte := by
    rw [Form.word, w32, BitVec.toNat_ofNat]
    omega
  simp only [bits, hw]
  omega

theorem op_lt_256 {i : Instr} {f : Form} (hf : form i = some f) : f.op < 256 := by
  cases i <;> cases hf <;> exact Nat.le_of_ble_eq_true rfl

theorem Slot.byte_lt {x : Slot} (h : x.ok = true) : x.byte < 256 := by
  cases x with
  | op r o => exact Opnd.code_lt (Bool.and_eq_true_iff.1 h).1
  | sel n => exact of_decide_eq_true h
  | no => decide

/-- How the decoder reads a form: which of its fields are in a source role, and how many words of a no-return atomic stand
before B's own. -/
structure Form.Reads (dSrc aSrc bSrc : Bool) (extra : Nat) (f : Form) : Prop where
  op : f.op < 256
  d : f.d.Reads dSrc
  a : f.a.Reads aSrc
  b : f.b.Reads bSrc
  extra : (if f.d.byte = 0xFE then extra else 0) = f.extra.length

theorem Slot.Reads.one_iff {src : Bool} {x : Slot} (h : x.Reads src) : x.lits.length = 1 ↔ 0 < x.lits.length := by
  rw [h.lits, b2n]
  split_ifs <;> decide

/-- The fields and the literal words of a form, as the decoder hands them out (R28, R232). -/
theorem take_word {f : Form} {dSrc aSrc bSrc : Bool} {extra : Nat} (h : f.Reads dSrc aSrc bSrc extra) (rest : List Word) :
    take dSrc aSrc bSrc extra f.word (f.lits ++ rest) =
      ⟨f.d.byte, f.a.byte, f.b.byte, f.d.opnd, f.a.opnd, f.b.opnd, wordAt f.extra 0, wordAt f.extra 1, f.lits.length⟩ := by
  obtain ⟨hop, hd, ha, hb, hx⟩ := h
  obtain ⟨-, hbd, hba, hbb⟩ := f.bits_word hop hd.lt ha.lt hb.lt
  simp only [take, hbd, hba, hbb, hx, Taken.mk.injEq, true_and, ← hd.lits, ← ha.lits, ← hb.lits]
  have hl1 : f.lits ++ rest = f.d.lits ++ (f.a.lits ++ (f.extra ++ f.b.lits ++ rest)) := by simp [Form.lits]
  have hl2 : f.lits ++ rest = f.d.lits ++ f.a.lits ++ (f.extra ++ (f.b.lits ++ rest)) := by simp [Form.lits]
  have hl3 : f.lits ++ rest = f.d.lits ++ f.a.lits ++ f.extra ++ (f.b.lits ++ rest) := List.append_assoc _ _ _
  refine ⟨?_, ?_, ?_, ?_, ?_, by simp [Form.lits, Nat.add_assoc]⟩
  · rw [← hd.opnd, hl1]
    exact congrArg _ (ite_wordAt [] _ _ (n := 0) rfl hd.one_iff)
  · rw [← ha.opnd, hl1]
    exact congrArg _ (ite_wordAt _ _ _ (n := 0) rfl ha.one_iff)
  · rw [← hb.opnd, ← List.length_append, ← List.length_append, hl3]
    exact congrArg _ (ite_wordAt _ _ _ (n := 0) rfl hb.one_iff)
  · rw [← List.length_append, hl2]
    exact ite_wordAt _ _ _ (n := 0) rfl Iff.rfl
  · rw [← List.length_append, hl2]
    exact ite_wordAt _ _ _ (n := 1) rfl Iff.rfl

/-- Does a form, as far as its roles say, suit a decoder that takes these of its fields to be in a source role? -/
def Form.fits (dSrc aSrc bSrc : Bool) (f : Form) : Bool :=
  f.d.fits dSrc && f.a.fits aSrc && f.b.fits bSrc

theorem Form.reads_of_fits {dSrc aSrc bSrc : Bool} {extra : Nat} {f : Form} (hop : f.op < 256) (hl : f.legal = true)
    (hf : f.fits dSrc aSrc bSrc = true) (hx : (if f.d.byte = 0xFE then extra else 0) = f.extra.length) :
    f.Reads dSrc aSrc bSrc extra := by
  simp only [Form.legal, Form.fits, Bool.and_eq_true] at hl hf
  obtain ⟨⟨⟨⟨hd, ha⟩, hb⟩, -⟩, -⟩ := hl
  obtain ⟨⟨hfd, hfa⟩, hfb⟩ := hf
  exact ⟨hop, Slot.reads_of_fits hd hfd, Slot.reads_of_fits ha hfa, Slot.reads_of_fits hb hfb, hx⟩

/-- What the decoder hands out for a form without operand words of a no-return atomic. -/
theorem take_word_of_fits {dSrc aSrc bSrc : Bool} {f : Form} (hop : f.op < 256) (hl : f.legal = true)
    (hf : f.fits dSrc aSrc bSrc = true) (hx : f.extra = []) (rest : List Word) :
    take dSrc aSrc bSrc 0 f.word (f.lits ++ rest) =
      ⟨f.d.byte, f.a.byte, f.b.byte, f.d.opnd, f.a.opnd, f.b.opnd, 0#32, 0#32, f.lits.length⟩ := by
  rw [take_word (Form.reads_of_fits hop hl hf (by simp [hx])), hx]
  rfl

theorem noRet_length {d : Opnd} (h : Opnd.inRange d = true) (ws : List Word) :
    (if Opnd.code d = 0xFE then ws.length else 0) = (noRet d ws).length := by
  simp only [Opnd.code_eq_nul h, noRet]
  split_ifs <;> rfl

/-- The words that an atomic does not take are zero (R232). -/
theorem wordAt_noRet {d : Opnd} {ws : List Word} (h : retOk d ws = true) (n : Nat) : wordAt (noRet d ws) n = wordAt ws n := by
  by_cases hd : d = .nul
  · rw [noRet, if_pos hd]
  · have hz : ∀ w ∈ ws, w = 0#32 := by simpa [retOk, hd] using h
    rw [noRet, if_neg hd]
    by_cases hn : n < ws.length
    · simp [wordAt, hn, hz _ (List.getElem_mem hn)]
    · simp [wordAt, hn]

/-- What the decoder hands out for an atomic, whose operand words are read where it has no return (R232). -/
theorem take_word_noRet {dSrc aSrc bSrc : Bool} {op n : Nat} {r : Role} {d : Opnd} {a b : Slot} {ws : List Word} {f : Form}
    (he : f = ⟨op, .op r d, a, b, noRet d ws, retOk d ws⟩) (hop : f.op < 256) (hl : f.legal = true)
    (hf : f.fits dSrc aSrc bSrc = true) (hn : ws.length = n) (rest : List Word) :
    take dSrc aSrc bSrc n f.word (f.lits ++ rest) =
      ⟨Opnd.code d, a.byte, b.byte, d, a.opnd, b.opnd, wordAt ws 0, wordAt ws 1, f.lits.length⟩ := by
  subst hn
  obtain ⟨hin, hret⟩ : Opnd.inRange d = true ∧ retOk d ws = true := by
    simp only [he, Form.legal, Slot.ok, Bool.and_eq_true] at hl
    obtain ⟨⟨⟨⟨⟨hin, -⟩, -⟩, -⟩, hret⟩, -⟩ := hl
    exact ⟨hin, hret⟩
  rw [take_word (Form.reads_of_fits hop hl hf (he ▸ noRet_length hin ws)), he]
  simp only [wordAt_noRet hret]
  rfl

/-- BRX: B is in a source role where A is a v pair, and unused where A is an s pair (R99, R103). -/
theorem reads_brx {a b : Opnd} {f : Form} (hf : form (.brx a b) = some f) (hl : f.legal = true) :
    f.Reads false true (!brxPair f.word) 0 := by
  have hop := op_lt_256 hf
  cases hf
  simp only [Form.legal, Slot.ok, Role.ok, Bool.and_eq_true] at hl
  obtain ⟨⟨⟨⟨-, hain, ha⟩, hbin, -⟩, hab⟩, -⟩ := hl
  have hno : Slot.no.Reads false := ⟨by decide, rfl, rfl⟩
  have hra : (Slot.op .brx a).Reads true := Slot.reads_op hain fun _ => rfl
  refine ⟨hop, hno, hra, Slot.reads_op hbin fun hlit => ?_, ite_self _⟩
  rw [brxPair, (Form.bits_word _ hop hno.lt hra.lt (Opnd.code_lt hbin)).2.2.1]
  cases a with
  | v n =>
    have hn : n < 192 := by simpa [Opnd.inRange] using hain
    simp [Slot.byte, Opnd.code, hn.not_ge]
  | s n =>
    obtain rfl : b = .v 0 := by simpa [brxOk] using hab
    exact absurd hlit (by decide)
  | _ => exact absurd ha (by simp [spanOk])

/-! Selectors. -/

theorem cut_eq {x lo k : Nat} {v : BitVec k} (h : x / 2 ^ lo % 2 ^ k = v.toNat) : cut x lo = v :=
  BitVec.eq_of_toNat_eq (by rw [cut, BitVec.toNat_ofNat, h])

theorem cut_toNat {k : Nat} (v : BitVec k) : cut v.toNat 0 = v :=
  cut_eq (by rw [Nat.pow_zero, Nat.div_one, Nat.mod_eq_of_lt v.isLt])

/-- The selector at the top of a field. -/
theorem cut_top {k lo m y : Nat} {v : BitVec k} (hm : m = 2 ^ lo) (hy : y < m) : cut (m * v.toNat + y) lo = v :=
  cut_eq (by rw [hm, Nat.mul_add_div (by simp), Nat.div_eq_of_lt (hm ▸ hy), Nat.add_zero, Nat.mod_eq_of_lt v.isLt])

theorem cut_mul {k lo m : Nat} {v : BitVec k} (hm : m = 2 ^ lo) : cut (m * v.toNat) lo = v :=
  cut_top (y := 0) hm (hm ▸ Nat.two_pow_pos lo)

/-- What lies above a selector does not matter to it. -/
theorem cut_drop {k lo m x y : Nat} (hm : m % 2 ^ (lo + k) = 0) : (cut (m * x + y) lo : BitVec k) = cut y lo := by
  obtain ⟨c, rfl⟩ := Nat.dvd_of_mod_eq_zero hm
  refine cut_eq ?_
  rw [cut, BitVec.toNat_ofNat, Nat.pow_add, Nat.mul_assoc, Nat.mul_assoc, Nat.mul_add_div (by simp), Nat.mul_add_mod]

/-! Instructions. -/

/-- The decoder finds the instruction that a word and its literals stand for, whatever follows (R24 to R28): the opcode picks
the arm, whose fields are those of the form. BRX says itself where its B is a source, and an atomic has operand words. -/
theorem decodeRaw_word {i : Instr} {f : Form} (hf : form i = some f) (hl : f.legal = true) (rest : List Word) :
    decodeRaw f.word (f.lits ++ rest) = some (i, f.lits.length) := by
  have hop := op_lt_256 hf
  have ho : bits f.word.toNat 31 24 = f.op := by
    simp only [Form.legal, Bool.and_eq_true] at hl
    obtain ⟨⟨⟨⟨hd, ha⟩, hb⟩, -⟩, -⟩ := hl
    exact (f.bits_word hop (Slot.byte_lt hd) (Slot.byte_lt ha) (Slot.byte_lt hb)).1
  unfold decodeRaw
  generalize bits f.word.toNat 31 24 = n at ho
  subst ho
  cases i with
  | nop | ret | sync | exit | yield | facq => cases hf; rfl
  | brx a b =>
    have h := reads_brx hf hl
    cases hf
    conv_lhs => whnf
    rw [take_word h]
    rfl
  | atadd d a b u | atmin d a b u | atmax d a b u | atminn d a b u | atmaxn d a b u | atand d a b u | ator d a b u
  | atxor d a b u | atxch d a b u | atfadd d a b u | atfmax d a b u =>
    cases hf
    conv_lhs => whnf
    rw [take_word_noRet (n := 1) rfl hop hl rfl rfl]
    rfl
  | atcas d a b u w =>
    cases hf
    conv_lhs => whnf
    rw [take_word_noRet (n := 2) rfl hop hl rfl rfl]
    rfl
  | _ =>
    cases hf
    all_goals
      conv_lhs => whnf
      rw [take_word_of_fits hop hl rfl rfl]
      simp (disch := omega) only [Slot.opnd, Slot.byte, Nat.add_assoc, cut_drop, cut_top, cut_mul, cut_toNat]

/-! The statements. -/

/-- Settles O2: the decoder finds the instruction, whose form is the one that was encoded. -/
theorem encodeDecode : Obligations.EncodeDecode := by
  unfold Obligations.EncodeDecode
  intro i hwf w ls rest henc
  cases hf : form i with
  | none => simp [encode, hf] at henc
  | some f =>
    have hl : f.legal = true := by simpa [wellFormed, hf] using hwf
    obtain ⟨rfl, rfl⟩ : f.word = w ∧ f.lits = ls := by simpa [encode, hf] using henc
    rw [decode, decodeRaw_word hf hl]
    simp [hf, hl]

/-- Settles O1: the four legal words are encodings, which decode to what they encode; the two others are refused. -/
theorem decodesWrittenWords : Obligations.DecodesWrittenWords := by
  unfold Obligations.DecodesWrittenWords
  exact ⟨encodeDecode (.add (.v 4) (.v 5) (.v 6)) (by decide) _ [] [] (by decide),
    encodeDecode (.mov (.v 4) (.lit 0x12345678#32)) (by decide) _ [0x12345678#32] [7#32] (by decide),
    encodeDecode (.ldw (.v 4) (.s 4) (.v 2)) (by decide) _ [] [] (by decide),
    encodeDecode (.setm 0x40#8 (.lit 0x0001A000#32)) (by decide) _ [0x0001A000#32] [] (by decide), rfl, rfl⟩

end Sys2Proof.Machine

end

/-! Commands of the KV cache join their queue, and the positions of its tokens (R380 to R386). -/

section

namespace Sys2Proof.Machine

open Sys2Proof.Claim

/-! A change of the acting fragment alone. -/

theorem onlyFragment_updCF (s : State) (h : Frag → Frag) : OnlyFragment s (updCF s h) :=
  ⟨⟨rfl, fun _ hg => gAt_updG_ne s _ hg, fun _ => rfl, fun _ => rfl⟩, by rw [cg_updCF],
    fun _ hi => (fragAt_updF _ _ _ _ _).trans (if_neg hi)⟩

theorem OnlyFragment.trans {s t u : State} (h : OnlyFragment s t) (k : OnlyFragment t u) : OnlyFragment s u := by
  obtain ⟨⟨ht, hgt, hmt, hlt⟩, hct, hft⟩ := h
  obtain ⟨⟨hu, hgu, hmu, hlu⟩, hcu, hfu⟩ := k
  have hG : t.curG = s.curG := by rw [ht]
  have hF : t.curF = s.curF := by rw [ht]
  rw [hG] at hgu hfu
  rw [hF] at hfu
  exact ⟨⟨by rw [hu, ht], fun g hg => (hgu g hg).trans (hgt g hg), fun a => (hmu a).trans (hmt a),
    fun a => (hlu a).trans (hlt a)⟩, by rw [hcu, hct],
    fun i hi => (hfu i hi).trans (hft i hi)⟩

theorem onlyGoesOn_advance (s : State) : OnlyGoesOn s (advance s) := ⟨onlyFragment_updCF s _, cf_advance s⟩

/-- A change of a group that keeps its fragments keeps every fragment. -/
theorem fragAt_updG {f : Group → Group} (h : ∀ x, (f x).frags = x.frags) (s : State) (g j i : Nat) :
    fragAt (updG s g f) j i = fragAt s j i := by
  rw [fragAt, gAt_updG]
  split_ifs with hj
  · rw [h, hj, fragAt]
  · rfl

/-! A new pending operation (R34, R35). -/

/-- The operation as it joins the acting group. -/
def newPend (s : State) (cls : Nat) (p : Pend) : Pend :=
  { p with id := s.nextId, flag := flagFor (cf s).hdr cls, pc := (cf s).pc, rd := hdrRd (cf s).hdr }

theorem cg_addPend (s : State) (cls : Nat) (p : Pend) :
    cg (addPend s cls p).1 = { cg s with pend := (cg s).pend ++ [newPend s cls p] } := cg_updCG _ _

theorem fragAt_addPend (s : State) (cls : Nat) (p : Pend) (g i : Nat) : fragAt (addPend s cls p).1 g i = fragAt s g i := by
  rw [addPend, updCG, fragAt_updG fun _ => by rfl]
  rfl

theorem cf_addPend (s : State) (cls : Nat) (p : Pend) : cf (addPend s cls p).1 = cf s := fragAt_addPend s cls p _ _

/-- With an operation added, a change of the acting fragment alone that makes it go on leaves the operation pending. -/
theorem pended_addPend {s t : State} {cls : Nat} {p : Pend} {P : Pend → Prop} (ht : OnlyFragment (addPend s cls p).1 t)
    (hcf : cf t = (cf s).onward) (hp : P (newPend s cls p)) : Pended s t cls P := by
  obtain ⟨⟨heq, hg, hm, hl⟩, hc, hf⟩ := ht
  rw [cg_addPend] at hc
  exact ⟨⟨newPend s cls p, by rw [hc], rfl, rfl, rfl, hp⟩, heq, fun g h => (hg g h).trans (gAt_updG_ne _ _ h), ⟨hm, hl⟩,
    by rw [hc], fun i hi => (hf i hi).trans (fragAt_addPend s cls p _ i), hcf⟩

/-! Writes of a Skiver (R381). -/

theorem openEvents_homeWrites (s : State) (to_ : Nat → Nat) (pas : List Nat) : HomeWrites s (openEvents s to_ pas) :=
  .foldl (fun s _ => (memPut_homeWrites s _ _).trans (spend_homeWrites _)) _ s

theorem putPlaces_homeWrites (s : State) (bs : List (Nat × Byte)) : HomeWrites s (putPlaces s none bs).1 :=
  (performAll_homeWrites s bs).trans (openEvents_homeWrites _ _ _)

theorem KvWrite.go_homeWrites (s : State) (w : KvWrite) : HomeWrites s (w.go s).1 := by
  cases w with
  | fold ps j => exact .refl s
  | _ => exact putPlaces_homeWrites s _

theorem Kv.fail_s (k : Kv) (e : KvFault) : (k.fail e).s = k.s := by
  unfold Kv.fail
  split_ifs <;> rfl

theorem Kv.rd_s (k : Kv) (va n : Nat) : (k.rd va n).1.s = k.s := by
  unfold Kv.rd
  split_ifs
  · rfl
  · split
    · exact k.fail_s _
    · rfl

theorem Kv.put_homeWrites (k : Kv) (va n : Nat) (mk : List Nat → KvWrite) : HomeWrites k.s (k.put va n mk).s := by
  unfold Kv.put
  split_ifs
  · exact .refl _
  · split
    · rw [Kv.fail_s]
      exact .refl _
    · exact KvWrite.go_homeWrites k.s _

theorem Kv.upd_homeWrites (k : Kv) (va n : Nat) (f : Nat → Nat) : HomeWrites k.s (k.upd va n f).s := by
  unfold Kv.upd
  dsimp only
  split_ifs
  · rw [k.rd_s]
    exact .refl _
  · have h := (k.rd va n).1.put_homeWrites va (leBytes n (f (k.rd va n).2)).length
      fun ps => .bytes ps (leBytes n (f (k.rd va n).2))
    rwa [k.rd_s] at h

theorem kvPin_onlyHomes (s : State) (k : Kv) : OnlyHomes s (kvPin s k) := .foldl (fun s _ => pinRange_onlyHomes s _ _ _ _ _) _ s

theorem HomeWrites.kvq {s t : State} (h : HomeWrites s t) : t.kvq = s.kvq := by rw [h.frame]
theorem HomeWrites.curG {s t : State} (h : HomeWrites s t) : t.curG = s.curG := by rw [h.frame]
theorem HomeWrites.curF {s t : State} (h : HomeWrites s t) : t.curF = s.curF := by rw [h.frame]
theorem HomeWrites.cf {s t : State} (h : HomeWrites s t) : Machine.cf t = Machine.cf s := by rw [h.frame]; rfl

/-! A command in its queue (R380, R381). -/

/-- The command that the acting fragment sends. -/
def kvCmdHere (s : State) (op : Nat) (regs : List Word) : KvCmd :=
  { (default : KvCmd) with
    id := s.nextId, op := op, g := s.curG, f := s.curF, pend := s.nextId, regs := regs
    banks := scratchBanks s (blkOf s.curG), ctx := (cg s).ctx }

/-- The queues of the Skivers replaced. -/
def setKvq (s : State) (q : Store (List KvCmd)) : State := { s with kvq := q }

theorem setKvq_setKvq (s : State) (q : Store (List KvCmd)) : setKvq (setKvq s q) s.kvq = s := rfl

/-- The state with a command in the queue of its die's Skiver, and its fragment waiting. -/
def kvSentHere (s : State) (m : KvCmd) : State :=
  waitFor (setKvq (addPend (shut s) 2 { (default : Pend) with kind := .kv, dst := .nul }).1
    (Store.upd s.kvq (coreOf s.curG / 128) fun l => l ++ [m])) .kv

variable {s : State} {op : Nat} {regs : List Word}

theorem kvIssue_full (h : ¬flagOpen s 2) : kvIssue s op regs = .next (stallHere s) := if_pos (by simpa [flagOpen] using h)

theorem kvIssue_busy (h : flagOpen s 2) (hq : 64 ≤ (Store.get s.kvq (coreOf s.curG / 128)).length) :
    kvIssue s op regs = .next s := by
  unfold flagOpen at h
  simp [kvIssue, h, hq]

theorem kvIssue_sends (h : flagOpen s 2) (hq : (Store.get s.kvq (coreOf s.curG / 128)).length < 64) :
    kvIssue s op regs = .next (kvSentHere s (kvCmdHere s op regs)) := by
  have hctx : (cg (addPend (closeRegion s) 2 { (default : Pend) with kind := .kv, dst := .nul }).1).ctx = (cg s).ctx := by
    rw [cg_addPend, closeRegion, cg_updCG]
  unfold flagOpen at h
  rw [kvIssue, h, if_neg Bool.false_ne_true, if_neg hq.not_ge]
  dsimp only
  rw [hctx]
  rfl

theorem cf_shut (s : State) : cf (shut s) = cf s := cf_updCG _ _ rfl

theorem cf_setKvq (s : State) (q : Store (List KvCmd)) : cf (setKvq s q) = cf s := rfl

theorem cf_kvSentHere (m : KvCmd) : cf (kvSentHere s m) =
    { cf s with st := if (cf s).st = .handler then .handler else .waiting, wait := .kv } := by
  rw [kvSentHere, waitFor, cf_updCF, cf_setKvq, cf_addPend, cf_shut]

theorem get_kvq_kvSentHere (m : KvCmd) (k : Nat) : Store.get (kvSentHere s m).kvq k =
    if k = coreOf s.curG / 128 then Store.get s.kvq k ++ [m] else Store.get s.kvq k := by
  refine (Store.get_upd s.kvq (coreOf s.curG / 128) k fun l => l ++ [m]).trans ?_
  split_ifs with h
  · rw [h]
  · rfl

/-- But for the queue and for its fragment, which waits, a command sent is an operation that has issued and closed the region. -/
theorem pended_kvSentHere (m : KvCmd) :
    Pended (shut s) (updCF (setKvq (kvSentHere s m) s.kvq) fun _ => (cf s).onward) 2 fun p => p.kind = .kv := by
  let p : Pend := { (default : Pend) with kind := .kv, dst := .nul }
  have hcf : cf (updCF (waitFor (addPend (shut s) 2 p).1 .kv) fun _ => (cf s).onward) = (cf (shut s)).onward := by
    rw [cf_updCF, cf_shut]
  have hq : setKvq (kvSentHere s m) s.kvq = waitFor (addPend (shut s) 2 p).1 .kv :=
    setKvq_setKvq (waitFor (addPend (shut s) 2 p).1 .kv) _
  rw [hq]
  exact pended_addPend (p := p) ((onlyFragment_updCF _ _).trans (onlyFragment_updCF _ _)) hcf rfl

/-- The state with a command accepted that has run so: its decisions kept, and what it read through PL = 1 leaves pinned. -/
def kvKept (s : State) (die : Nat) (m : KvCmd) (k : Kv) : State :=
  updKv (kvPin s k) die m.id fun x => { x with
    acc := true, plan := k.plan, fl := k.fl, olds := if x.op = 0xE4 then x.olds else []
    home := x.desc.bind (descPlace (kvPin s k) (dieCaches die) x.ctx) }

theorem kvKept_onlyHomes (s : State) (die : Nat) (m : KvCmd) (k : Kv) :
    OnlyHomes s (setKvq (kvKept s die m k) s.kvq) := by
  have h := kvPin_onlyHomes s k
  have hq : setKvq (kvKept s die m k) s.kvq = kvPin s k := by
    rw [← h.homeWrites.kvq]
    rfl
  rwa [hq]

/-- The state with the descriptor BUSY where the accepted command is a KVEVICT (R388). -/
def kvMarked (s : State) (m : KvCmd) : State :=
  if m.op = 0xE3 then ((kvStart s m).upd (m.pair 0) 64 fun d => putBits d 362 362 1).s else s

theorem kvMarked_homeWrites (s : State) (m : KvCmd) : HomeWrites s (kvMarked s m) := by
  unfold kvMarked
  split_ifs
  · exact (kvStart s m).upd_homeWrites _ _ _
  · exact .refl s

/-- The acceptance of the only command of a queue, whose checks pass (R381). -/
theorem execKvAccept_accepts {die : Nat} {s : State} {m : KvCmd} (hq : Store.get s.kvq die = [m]) (hm : kvMay s m = true)
    (hd : ∀ x, m.desc = some x → x % 64 = 0) (ho : m.olds = []) (he : (kvRun m (kvStart s m)).err = none) :
    execKvAccept die s = .next (wakeWith (kvMarked (kvKept s die m (kvRun m (kvStart s m))) m) m.g m.f .nul []) := by
  unfold execKvAccept
  dsimp only
  rw [hq, List.find?_cons, hm]
  dsimp only
  cases hdesc : m.desc with
  | none =>
    simp only [Bool.false_eq_true, if_false, he, ho, List.isEmpty_nil, Bool.true_or, if_true]
    rfl
  | some x =>
    simp only [hd x hdesc, bne_self_eq_false, Bool.false_eq_true, if_false, he, ho, List.isEmpty_nil, Bool.true_or, if_true]
    rfl

theorem kvKept_curG (s : State) (die : Nat) (m : KvCmd) (k : Kv) : (kvKept s die m k).curG = s.curG :=
  (kvKept_onlyHomes s die m k).homeWrites.curG
theorem kvKept_curF (s : State) (die : Nat) (m : KvCmd) (k : Kv) : (kvKept s die m k).curF = s.curF :=
  (kvKept_onlyHomes s die m k).homeWrites.curF
theorem cf_kvKept (s : State) (die : Nat) (m : KvCmd) (k : Kv) : cf (kvKept s die m k) = cf s :=
  (cf_setKvq _ _).symm.trans (kvKept_onlyHomes s die m k).homeWrites.cf

theorem kvSentHere_curG (m : KvCmd) : (kvSentHere s m).curG = s.curG := by
  simp only [kvSentHere, setKvq, waitFor, updCF, updF, addPend, shut, updCG, updG_curG]
theorem kvSentHere_curF (m : KvCmd) : (kvSentHere s m).curF = s.curF := by
  simp only [kvSentHere, setKvq, waitFor, updCF, updF, addPend, shut, updCG, updG_curF]

theorem get_kvq_kvKept {s : State} {die : Nat} {m : KvCmd} (k : Kv) (hq : Store.get s.kvq die = [m]) (ho : m.olds = []) :
    ∃ home, Store.get (kvKept s die m k).kvq die = [{ m with acc := true, plan := k.plan, fl := k.fl, home := home }] := by
  have hkvq : (kvPin s k).kvq = s.kvq := (kvPin_onlyHomes s k).homeWrites.kvq
  refine ⟨m.desc.bind (descPlace (kvPin s k) (dieCaches die) m.ctx), (Store.get_upd_self _ _ _).trans ?_⟩
  rw [hkvq, hq]
  simp [ho]

/-- A fragment whose wait is over, before it goes on. -/
def Frag.woken (f : Frag) : Frag :=
  { f with
    st := if f.st = .waiting then .ready else f.st, kept := if f.kept = .waiting then .ready else f.kept, wait := .no }

theorem wake_eq (s : State) (g f : Nat) : wake s g f = updF s g f Frag.woken := rfl

theorem fragAt_wakeWith (s : State) (g f : Nat) (d : Opnd) (ws : List Word) :
    fragAt (wakeWith s g f d ws) g f = (fragAt s g f).woken.onward := by
  rw [wakeWith, fragAt_updF_self, wake_eq, fragAt_updF_self, fragAt_updG fun x => by rw [wrDst_eq]]

theorem wakeWith_curG (s : State) (g f : Nat) (d : Opnd) (ws : List Word) : (wakeWith s g f d ws).curG = s.curG := by
  simp only [wakeWith, wake, updF, updG_curG]
theorem wakeWith_curF (s : State) (g f : Nat) (d : Opnd) (ws : List Word) : (wakeWith s g f d ws).curF = s.curF := by
  simp only [wakeWith, wake, updF, updG_curF]
theorem wakeWith_kvq (s : State) (g f : Nat) (d : Opnd) (ws : List Word) : (wakeWith s g f d ws).kvq = s.kvq := by
  simp only [wakeWith, wake, updF, updG_kvq]

theorem cf_wakeWith {s : State} {g f : Nat} (hg : s.curG = g) (hf : s.curF = f) (d : Opnd) (ws : List Word) :
    cf (wakeWith s g f d ws) = (cf s).woken.onward := by
  rw [cf, cf, wakeWith_curG, wakeWith_curF, hg, hf, fragAt_wakeWith]

/-- A fragment that its instruction made wait goes on as if that had not waited. -/
theorem woken_onward {s : State} {w : Wait} (h : (cf s).st = .ready ∨ (cf s).st = .handler) :
    ({ cf s with st := if (cf s).st = .handler then .handler else .waiting, wait := w } : Frag).woken.onward = afterWait s := by
  rcases h with h | h <;> simp [Frag.woken, Frag.onward, afterWait, h]

theorem kvAccept_sent {m : KvCmd} (hg : m.g = s.curG) (hf : m.f = s.curF) (ho : m.olds = [])
    (hq : Store.get s.kvq (coreOf s.curG / 128) = []) (hst : (cf s).st = .ready ∨ (cf s).st = .handler)
    (hm : kvMay (kvSentHere s m) m = true) (hd : ∀ x, m.desc = some x → x % 64 = 0)
    (he : (kvRun m (kvStart (kvSentHere s m) m)).err = none) :
    ∃ t, exec (.kvAccept (coreOf s.curG / 128)) (kvSentHere s m) = .next t ∧ cf t = afterWait s ∧
      ∃ home, Store.get t.kvq (coreOf s.curG / 128) = [{ m with
        acc := true, plan := (kvRun m (kvStart (kvSentHere s m) m)).plan, fl := (kvRun m (kvStart (kvSentHere s m) m)).fl
        home := home }] := by
  have hsent : Store.get (kvSentHere s m).kvq (coreOf s.curG / 128) = [m] := by rw [get_kvq_kvSentHere, if_pos rfl, hq]; rfl
  refine ⟨_, execKvAccept_accepts hsent hm hd ho he, ?_, ?_⟩
  · rw [cf_wakeWith (by rw [(kvMarked_homeWrites _ m).curG, kvKept_curG, kvSentHere_curG, hg])
      (by rw [(kvMarked_homeWrites _ m).curF, kvKept_curF, kvSentHere_curF, hf]), (kvMarked_homeWrites _ m).cf, cf_kvKept,
      cf_kvSentHere, woken_onward hst]
  · obtain ⟨home, h⟩ := get_kvq_kvKept (kvRun m (kvStart (kvSentHere s m) m)) hsent ho
    exact ⟨home, by rw [wakeWith_kvq, (kvMarked_homeWrites _ m).kvq, h]⟩

/-- What an instruction that sends a command answers: the statement of O46 for one of the five. -/
def KvSends (s : State) (r : Res) (m : KvCmd) : Prop :=
  let die := coreOf s.curG / 128
  let run := kvRun m (kvStart (kvSentHere s m) m)
  (¬flagOpen s 2 → r = .next (stallHere s)) ∧
  (flagOpen s 2 → 64 ≤ (Store.get s.kvq die).length → r = .next s) ∧
  (flagOpen s 2 → (Store.get s.kvq die).length < 64 → r = .next (kvSentHere s m) ∧
    (Pended (shut s) (updCF (setKvq (kvSentHere s m) s.kvq) fun _ => (cf s).onward) 2 fun p => p.kind = .kv) ∧
    cf (kvSentHere s m) = { cf s with st := if (cf s).st = .handler then .handler else .waiting, wait := .kv } ∧
    Store.get (kvSentHere s m).kvq die = Store.get s.kvq die ++ [m] ∧
    ∀ k, k ≠ die → Store.get (kvSentHere s m).kvq k = Store.get s.kvq k) ∧
  (flagOpen s 2 → Store.get s.kvq die = [] → ((cf s).st = .ready ∨ (cf s).st = .handler) → kvMay (kvSentHere s m) m = true →
    (∀ x, m.desc = some x → x % 64 = 0) → run.err = none →
    ∃ t, r = .next (kvSentHere s m) ∧ exec (.kvAccept die) (kvSentHere s m) = .next t ∧ cf t = afterWait s ∧
      ∃ home, Store.get t.kvq die = [{ m with acc := true, plan := run.plan, fl := run.fl, home := home }])

theorem kvSends_kvIssue (s : State) (op : Nat) (regs : List Word) : KvSends s (kvIssue s op regs) (kvCmdHere s op regs) := by
  refine ⟨kvIssue_full, kvIssue_busy,
    fun h hq => ⟨kvIssue_sends h hq, pended_kvSentHere _, cf_kvSentHere _, ?_, fun k hk => ?_⟩, fun h hq hst hm hd he => ?_⟩
  · rw [get_kvq_kvSentHere, if_pos rfl]
  · rw [get_kvq_kvSentHere, if_neg hk]
  · obtain ⟨t, ht⟩ := kvAccept_sent (m := kvCmdHere s op regs) rfl rfl rfl hq hst hm hd he
    exact ⟨t, kvIssue_sends h (by rw [hq]; decide), ht⟩

/-! KVPOS (R386). -/

theorem accThreads_uniform (s : State) (d : Opnd) : accThreads s (uniform d) = execThreads s d := by cases d <;> rfl

theorem execKvpos_idle {d a b : Opnd} (h : execThreads s d = []) : execKvpos d a b s = .next (advance s) := by
  unfold execKvpos
  dsimp only
  rw [accThreads_uniform, h]
  rfl

theorem execKvpos_full {d a b : Opnd} (h : execThreads s d ≠ []) (hf : ¬flagOpen s 1) :
    execKvpos d a b s = .next (stallHere s) := by
  unfold flagOpen at hf
  unfold execKvpos
  dsimp only
  rw [accThreads_uniform, if_neg (by simpa using h), if_pos (by simpa using hf)]

/-- The operation that holds the positions of the threads. -/
def posPend (s : State) (d b : Opnd) (pages : List PageImg) : Pend :=
  { (default : Pend) with
    kind := .value, dst := d, uni := uniform d, done := true
    accs := (execThreads s d).map fun t => { (default : Acc) with
      t := t, n := 4, got := true, bs := leBytes 4 (kvFind pages (src s .plain b t).toNat).toNat } }

theorem execKvpos_answers {d a b : Opnd} {ps : List Nat} {pages : List PageImg} (h : execThreads s d ≠ []) (hf : flagOpen s 1)
    (ht : kvTaken s (coreCaches (coreOf s.curG)) (cg s).ctx (upair s a) = false) (ha : upair s a % 64 = 0)
    (hp : kvPlaces s (coreCaches (coreOf s.curG)) (cg s).ctx (upair s a) 64 false = .inl ps)
    (hb : dBusy (leNat (ps.map (homeByte s))) = false) (hk : descOk (leNat (ps.map (homeByte s))) = true)
    (hv : kvView s (leNat (ps.map (homeByte s))) (dPcnt (leNat (ps.map (homeByte s)))) 0 = .inl pages) :
    execKvpos d a b s = .next (advance (addPend (viewMeet s (upair s a) (leNat (ps.map (homeByte s))) pages) 1
      (posPend s d b pages)).1) := by
  unfold flagOpen at hf
  unfold execKvpos
  dsimp only
  rw [accThreads_uniform, if_neg (by simpa using h), hf, ht, hp]
  dsimp only
  rw [hb, hk, hv]
  simp only [ha, Bool.false_eq_true, ne_eq, not_true_eq_false, if_false, Bool.not_true]
  rfl

/-- Settles O46: the five commands by one lemma about `kvIssue`, whose acceptance runs on the state that has sent it. -/
theorem kvInstructions : Obligations.KvInstructions := by
  intro s d a b desc ps pages
  have sends (op words : Nat) := kvSends_kvIssue s op (ublock s a words)
  refine ⟨sends 0xE0 8, sends 0xE1 2, sends 0xE3 8, sends 0xE4 8, sends 0xE5 8,
    fun h => ⟨_, execKvpos_idle h, onlyGoesOn_advance s⟩, execKvpos_full, fun h hf ht ha hp hdesc hb hk hv => ?_⟩
  subst hdesc
  refine ⟨_, execKvpos_answers h hf ht ha hp hb hk hv, pended_addPend (onlyFragment_updCF _ _) ?_ ?_⟩
  · rw [cf_advance, cf_addPend]
  · refine ⟨rfl, rfl, rfl, rfl, ?_, ?_⟩
    · simp [newPend, posPend, Function.comp_def]
    · intro c hc
      simp only [newPend, posPend, List.mem_map] at hc
      obtain ⟨t, -, rfl⟩ := hc
      exact ⟨rfl, rfl⟩

end Sys2Proof.Machine

end

/-! Clauses start, fragments merge, groups end or are rolled back (R33, R105 to R110, R424). -/

section

namespace Sys2Proof.Machine

open Sys2Proof.Claim

/-! What leaves the groups, the blocks and the contexts alone. -/

/-- The groups, the blocks, the contexts and the acting fragment are as before. -/
structure SameOwners (s t : State) : Prop where
  groups : t.groups = s.groups
  blocks : t.blocks = s.blocks
  ctxs : t.ctxs = s.ctxs
  curG : t.curG = s.curG
  curF : t.curF = s.curF

theorem SameOwners.refl (s : State) : SameOwners s s := ⟨rfl, rfl, rfl, rfl, rfl⟩

theorem SameOwners.trans {s t u : State} (h : SameOwners s t) (k : SameOwners t u) : SameOwners s u where
  groups := k.groups.trans h.groups
  blocks := k.blocks.trans h.blocks
  ctxs := k.ctxs.trans h.ctxs
  curG := k.curG.trans h.curG
  curF := k.curF.trans h.curF

theorem SameOwners.foldl {α : Type} {f : State → α → State} (h : ∀ s a, SameOwners s (f s a)) (l : List α) (s : State) :
    SameOwners s (l.foldl f s) := by
  induction l generalizing s with
  | nil => exact .refl s
  | cons a l ih => exact (h s a).trans (ih _)

theorem SameOwners.ite {s t u : State} {p : Prop} [Decidable p] (ht : SameOwners s t) (hu : SameOwners s u) :
    SameOwners s (if p then t else u) := by
  split_ifs
  · exact ht
  · exact hu

theorem SameOwners.gAt {s t : State} (h : SameOwners s t) (g : Nat) : Machine.gAt t g = Machine.gAt s g := by
  rw [Machine.gAt, h.groups, Machine.gAt]
theorem SameOwners.bAt {s t : State} (h : SameOwners s t) (b : Nat) : Machine.bAt t b = Machine.bAt s b := by
  rw [Machine.bAt, h.blocks, Machine.bAt]
theorem SameOwners.ctxAt {s t : State} (h : SameOwners s t) (c : Nat) : Machine.ctxAt t c = Machine.ctxAt s c := by
  rw [Machine.ctxAt, h.ctxs, Machine.ctxAt]
theorem SameOwners.fragAt {s t : State} (h : SameOwners s t) (g f : Nat) : Machine.fragAt t g f = Machine.fragAt s g f := by
  rw [Machine.fragAt, h.gAt, Machine.fragAt]
theorem SameOwners.cg {s t : State} (h : SameOwners s t) : Machine.cg t = Machine.cg s := by
  rw [Machine.cg, h.curG, h.gAt, Machine.cg]
theorem SameOwners.cf {s t : State} (h : SameOwners s t) : Machine.cf t = Machine.cf s := by
  rw [Machine.cf, h.curG, h.curF, h.fragAt, Machine.cf]
theorem SameOwners.cctx {s t : State} (h : SameOwners s t) : Machine.cctx t = Machine.cctx s := by
  rw [Machine.cctx, h.cg, h.ctxAt, Machine.cctx]
theorem SameOwners.active {s t : State} (h : SameOwners s t) : Machine.active t = Machine.active s := by
  rw [Machine.active, h.cf, Machine.active]

theorem OnlyHomes.sameOwners {s t : State} (h : OnlyHomes s t) : SameOwners s t :=
  ⟨h.groups, h.blocks, h.ctxs, h.homeWrites.curG, h.homeWrites.curF⟩

theorem putRec_sameOwners (s : State) (r : FaultRec) : SameOwners s (putRec s r) :=
  .ite ⟨rfl, rfl, rfl, rfl, rfl⟩ ⟨rfl, rfl, rfl, rfl, rfl⟩

theorem faultRec_sameOwners (s : State) (r : FaultRec) : SameOwners s (faultRec s r) :=
  (pmcCount_onlyHomes s _ _ _).sameOwners.trans (.ite (putRec_sameOwners _ r) ⟨rfl, rfl, rfl, rfl, rfl⟩)

theorem makeRecords_sameOwners (s : State) (g : Nat) (own : Option (Nat × Nat)) (recs : List (Nat × Nat)) :
    SameOwners s (makeRecords s g own recs) := .foldl (fun s _ => faultRec_sameOwners s _) recs s

theorem keepCode_sameOwners (s : State) (unit slot pa : Nat) (bs : List Byte) : SameOwners s (keepCode s unit slot pa bs) := by
  have h (line : Nat) (p : Prop) [Decidable p] : SameOwners s (if p then s else l2Meet s (some (unitCluster unit)) line) :=
    .ite (.refl s) (l2Meet_onlyHomes s _ line).sameOwners
  exact (h _ _).trans (.ite (.refl _) ⟨rfl, rfl, rfl, rfl, rfl⟩)

/-- A fetch changes nothing of the groups (R40). -/
theorem fetch_sameOwners {s u : State} {g : Nat} {pc : Quad} {x : Fetched} (h : fetch s g pc = (u, x)) : SameOwners s u := by
  unfold fetch at h
  dsimp only at h
  split_ifs at h
  · cases h
    exact .refl s
  · split at h
    · cases h
      exact .refl s
    · cases h
      exact .refl s
    · split_ifs at h
      all_goals cases h
      · exact .refl s
      · exact keepCode_sameOwners _ _ _ _ _
      · exact (⟨rfl, rfl, rfl, rfl, rfl⟩ : SameOwners s (spend s)).trans (keepCode_sameOwners _ _ _ _ _)

theorem writeBack_sameOwners (s : State) (b k set : Nat) : SameOwners s (writeBack s b k set) :=
  .ite (.refl s) ⟨rfl, rfl, rfl, rfl, rfl⟩

theorem writeBackAll_sameOwners (s : State) (b : Nat) : SameOwners s (writeBackAll s b) :=
  .foldl (fun s k => .foldl (fun s t => writeBack_sameOwners s b k t) _ s) _ s

theorem unbindRow_sameOwners (s : State) (c k : Nat) : SameOwners s (unbindRow s c k) := ⟨rfl, rfl, rfl, rfl, rfl⟩

theorem unbindRows_sameOwners (s : State) (b : Nat) : SameOwners s (unbindRows s b) :=
  .foldl (fun s k => .ite (unbindRow_sameOwners s (b / 4) k) (.refl s)) _ s

theorem freeBanks_sameOwners (s : State) (b : Nat) : SameOwners s (freeBanks s b) := by
  refine .foldl (fun s k => ?_) _ s
  dsimp only
  exact .ite ⟨rfl, rfl, rfl, rfl, rfl⟩ (.refl s)

theorem returnTokens_sameOwners (s : State) (n : Nat) (p : Point) : SameOwners s (returnTokens s n p) :=
  .ite ⟨rfl, rfl, rfl, rfl, rfl⟩ ⟨rfl, rfl, rfl, rfl, rfl⟩

theorem updPoint_sameOwners (s : State) (n l : Nat) (f : Point → Point) : SameOwners s (updPoint s n l f) :=
  ⟨rfl, rfl, rfl, rfl, rfl⟩

theorem forceJobs_sameOwners (s : State) (b : Nat) : SameOwners s (forceJobs s b) :=
  .foldl (fun s _ => .ite
    (.foldl (fun s _ => .ite ((returnTokens_sameOwners s _ _).trans (updPoint_sameOwners _ _ _ _)) (.refl s)) _ s) (.refl s)) _ s

theorem blockStops_sameOwners (s : State) (b : Nat) : SameOwners s (blockStops s b) :=
  .ite (forceJobs_sameOwners s b) (.refl s)

/-! A trap of a whole fragment (R69, R418). -/

theorem Store.get_foldl_set {α : Type} [Inhabited α] [DecidableEq α] (l : List Nat) (m : Store α) (v : α) (j : Nat) :
    Store.get (l.foldl (fun m t => Store.set m t v) m) j = if j ∈ l then v else Store.get m j := by
  induction l generalizing m with
  | nil => simp
  | cons t l ih =>
    rw [List.foldl_cons, ih, Store.get_set]
    by_cases hl : j ∈ l <;> by_cases ht : j = t <;> simp [hl, ht]

/-- The acting fragment with all its threads trapped at an address, as it enters the handler. -/
def Frag.trapped (s : State) (cause : Nat) (fadr pc : Quad) (recs : Bool) : Frag :=
  (cf s).toHandler (w64 (hdrTrap (cctx s).hdr)) (active s) { trapRegs s cause (active s) (active s) fadr with pc := pc } recs

/-- The state with that trap noted, before its fault records. -/
def tookTrap (s : State) (cause : Nat) (fadr pc : Quad) (recs : Bool) : State :=
  noteTrap (updCF s fun _ => Frag.trapped s cause fadr pc recs) s.curG cause (active s)

theorem raiseAt_active {s : State} (h : isHandler (cf s) = false) (cause : Nat) (fadr pc : Quad) (recs : List (Nat × Nat)) :
    raiseAt s cause (active s) fadr pc recs =
      makeRecords (tookTrap s cause fadr pc (!recs.isEmpty)) s.curG (some (s.curG, s.curF)) recs := by
  have hw : trapsWholeOf s s.curG s.curF (active s) = true := by simp [trapsWholeOf, active, cf]
  rw [raiseAt, h, enterHandler, hw]
  rfl

theorem cg_tookTrap (s : State) (cause : Nat) (fadr pc : Quad) (recs : Bool) :
    cg (tookTrap s cause fadr pc recs) = { cg s with
      frags := Store.upd (cg s).frags s.curF fun _ => Frag.trapped s cause fadr pc recs, traps := (cg s).traps + 1
      last := (threads (active s)).foldl (fun m t => Store.set m t (((cg s).traps + 1) * 256 + cause % 256)) (cg s).last } := by
  have h := cg_updCG (updCF s fun _ => Frag.trapped s cause fadr pc recs) fun x => { x with
    traps := x.traps + 1
    last := (threads (active s)).foldl (fun m t => Store.set m t ((x.traps + 1) * 256 + cause % 256)) x.last }
  rw [cg_updCF] at h
  exact h

theorem fragAt_tookTrap (s : State) (cause : Nat) (fadr pc : Quad) (recs : Bool) (i : Nat) :
    fragAt (tookTrap s cause fadr pc recs) s.curG i =
      if i = s.curF then Frag.trapped s cause fadr pc recs else fragAt s s.curG i := by
  have h : fragAt (tookTrap s cause fadr pc recs) s.curG i = Store.get (cg (tookTrap s cause fadr pc recs)).frags i := rfl
  rw [h, cg_tookTrap]
  exact Store.get_upd (cg s).frags s.curF i fun _ => Frag.trapped s cause fadr pc recs

theorem cf_tookTrap (s : State) (cause : Nat) (fadr pc : Quad) (recs : Bool) :
    cf (tookTrap s cause fadr pc recs) = Frag.trapped s cause fadr pc recs :=
  (fragAt_tookTrap s cause fadr pc recs _).trans (if_pos rfl)

theorem onlyGroup_tookTrap (s : State) (cause : Nat) (fadr pc : Quad) (recs : Bool) :
    OnlyGroup s (tookTrap s cause fadr pc recs) :=
  ⟨rfl, fun _ hg => (gAt_updG_ne _ _ hg).trans (gAt_updG_ne _ _ hg), fun _ => rfl, fun _ => rfl⟩

theorem isHandler_of_ready {f : Frag} (h : f.st = .ready) : isHandler f = false := by simp [isHandler, h]

/-- The whole-fragment trap of a READY fragment at the instruction in hand. -/
theorem trapped_raiseAll {s : State} (h : (cf s).st = .ready) (cause : Nat) (fadr : Quad) :
    Trapped s (raiseAll s cause fadr) cause (active s) fadr := by
  rw [raiseAll, raise, raiseAt_active (isHandler_of_ready h)]
  refine ⟨onlyGroup_tookTrap s _ _ _ _, ⟨?_, fun j _ => ?_⟩, fun i hi => ?_, ?_⟩
  · rw [makeRecords, List.foldl_nil, cg_tookTrap]
  · rw [makeRecords, List.foldl_nil, cg_tookTrap, Store.get_foldl_set]
    simp only [mem_threads]
  · exact (fragAt_tookTrap _ _ _ _ _ i).trans (if_neg hi)
  · rw [makeRecords, List.foldl_nil, cf_tookTrap, Frag.trapped, Frag.toHandler]
    simp [h]
    rfl

/-- Where a READY fragment stands after a trap of all its threads at an address. -/
theorem cf_raiseAt {s : State} (h : (cf s).st = .ready) (cause : Nat) (fadr pc : Quad) (recs : List (Nat × Nat)) :
    cf (raiseAt s cause (active s) fadr pc recs) = Frag.trapped s cause fadr pc (!recs.isEmpty) := by
  rw [raiseAt_active (isHandler_of_ready h), (makeRecords_sameOwners _ _ _ _).cf, cf_tookTrap]

/-- No rendezvous that lists a group fails where none lists it (R165). -/
theorem rdvDrop_unlisted {s : State} {g : Nat} (h : ∀ r ∈ s.rdvs, r.lists g = false) : rdvDrop s g = s := by
  have hk : s.rdvs.filter (fun r => !r.lists g) = s.rdvs := List.filter_eq_self.2 fun r hr => by simp [h r hr]
  have hd : s.rdvs.filter (fun r => r.lists g) = [] := List.filter_eq_nil_iff.2 fun r hr => by simp [h r hr]
  rw [rdvDrop, rdvFail, hk, hd]
  rfl

/-! The stack (R66). -/

/-- Of a group only its stack differs, and its region may be closed (R416). -/
def StackOnly (x y : Group) : Prop := y = { x with stk := y.stk, spilled := y.spilled, rgnx := y.rgnx }

theorem StackOnly.trans {x y z : Group} (h : StackOnly x y) (k : StackOnly y z) : StackOnly x z := by
  unfold StackOnly at *
  rw [k, h]

/-- From s to t only the stack of a group differs, with its region and what its spilled entries meet. -/
structure PopsOnly (g : Nat) (s t : State) : Prop where
  group : StackOnly (gAt s g) (gAt t g)
  curG : t.curG = s.curG
  curF : t.curF = s.curF

theorem PopsOnly.trans {g : Nat} {s t u : State} (h : PopsOnly g s t) (k : PopsOnly g t u) : PopsOnly g s u where
  group := h.group.trans k.group
  curG := k.curG.trans h.curG
  curF := k.curF.trans h.curF

theorem SameOwners.popsOnly {s t : State} (h : SameOwners s t) (g : Nat) : PopsOnly g s t where
  group := by rw [StackOnly, h.gAt]
  curG := h.curG
  curF := h.curF

theorem updG_popsOnly (s : State) (g : Nat) {f : Group → Group} (hf : ∀ x, StackOnly x (f x)) :
    PopsOnly g s (updG s g f) where
  group := by rw [gAt_updG_self]; exact hf _
  curG := rfl
  curF := rfl

theorem popG_popsOnly (s : State) (g : Nat) : PopsOnly g s (popG s g) := by
  have close (s : State) : PopsOnly g s (updG s g fun x => { x with rgnx := x.rgnx &&& 0x7FFFFFFF#32 }) :=
    updG_popsOnly s g fun _ => rfl
  have pop (u : State) (f : Group → Group) (hu : PopsOnly g s u) (hf : ∀ x, StackOnly x (f x)) : PopsOnly g s (updG u g f) :=
    hu.trans (updG_popsOnly u g hf)
  unfold popG
  dsimp only
  split_ifs
  · exact (pop _ _ ((meetStack_onlyHomes s g _).sameOwners.popsOnly g) fun _ => by rfl).trans (close _)
  · exact pop _ _ ((meetStack_onlyHomes s g _).sameOwners.popsOnly g) fun _ => by rfl
  · exact (updG_popsOnly s g fun _ => by rfl).trans (close _)
  · exact updG_popsOnly s g fun _ => by rfl

theorem cutStack_popsOnly (g n : Nat) (s : State) : PopsOnly g s (cutStack g n s) := by
  induction n generalizing s with
  | zero => exact (SameOwners.refl s).popsOnly g
  | succ n ih => exact (popG_popsOnly s g).trans (ih _)

theorem PopsOnly.frags {g : Nat} {s t : State} (h : PopsOnly g s t) : (gAt t g).frags = (gAt s g).frags := by rw [h.group]

/-- The acting fragment after a pop: but for the stack of its own as it was. -/
theorem cf_popHere (s : State) : cf (popHere s) = { cf s with pstk := (cf (popHere s)).pstk } := by
  unfold popHere
  split_ifs
  · rw [cf_updCF]
  · have h := popG_popsOnly s s.curG
    have hcf : cf (popG s s.curG) = cf s := by
      rw [cf, h.curG, h.curF, fragAt, h.frags, cf, fragAt]
    rw [hcf]

/-- After some pops the acting fragment stands where it stood. -/
theorem cf_repeat_popHere (n : Nat) (s : State) :
    cf (Nat.repeat popHere n s) = { cf s with pstk := (cf (Nat.repeat popHere n s)).pstk } := by
  induction n with
  | zero => rfl
  | succ n ih =>
    rw [Nat.repeat, cf_popHere, ih]

theorem cf_takeEntry (s : State) (e : StkEntry) : cf (takeEntry s e) = { cf s with mask := resumable s e, mode := e.mode } :=
  cf_updCF s _

/-! Entering a clause (R33 steps 4 to 6). -/

theorem enterClause_waits {s : State} (h : hdrWait (cf s).hdr &&& flagMask (cg s) ≠ 0) : enterClause s = s := if_pos h

theorem enterClause_plain {s : State} (h : hdrWait (cf s).hdr &&& flagMask (cg s) = 0) (hr : hdrRgn (cf s).hdr = false) :
    enterClause s = updCF s fun f => { f with pc := f.pc + 4#64, mid := true } := by
  rw [enterClause, if_neg (not_not.2 h), hr]
  rfl

theorem enterClause_region {s : State} (h : hdrWait (cf s).hdr &&& flagMask (cg s) = 0) (hr : hdrRgn (cf s).hdr = true)
    (hs : (bAt s (cblk s)).saving = false) :
    enterClause s = updCF (openRegion s) fun f => { f with pc := f.pc + 4#64, mid := true } := by
  have hb : (bAt (openRegion s) (cblk (openRegion s))).saving = false := hs
  rw [enterClause, if_neg (not_not.2 h), if_pos hr]
  dsimp only
  rw [hb]
  rfl

/-- The answer of a clause that is entered from a state, its header H at an address. -/
def Enters (x : State) (h : Word) (pc : Quad) (r : Res) : Prop :=
  (hdrWait h &&& flagMask (cg x) = 0 → hdrRgn h = false →
    r = .next (updCF x fun f => { f with pc := f.pc + 4#64, mid := true })) ∧
  (hdrWait h &&& flagMask (cg x) = 0 → hdrRgn h = true → (bAt x (blkOf x.curG)).saving = false →
    r = .next (updCF (updCG x fun g => { g with
      rgncnt := g.rgncnt + 1#32, rgnpc := pc, rgnx := w32 (2 ^ 31 + depthOf g % 32), rgnmsk := (cf x).mask
      rgnmode := (cf x).mode }) fun f => { f with pc := f.pc + 4#64, mid := true })) ∧
  (hdrWait h &&& flagMask (cg x) ≠ 0 → r = .next x)

theorem enters_enterClause {x : State} {h : Word} {pc : Quad} (hh : (cf x).hdr = h) (hp : (cf x).pc = pc) :
    Enters x h pc (.next (enterClause x)) := by
  subst hh hp
  exact ⟨fun hw hr => by rw [enterClause_plain hw hr], fun hw hr hs => by rw [enterClause_region hw hr hs]; rfl,
    fun hw => by rw [enterClause_waits hw]⟩

/-! Acting on a convergence point (R105). -/

/-- The newest RECONV entry of the stack in use. -/
def reconAt (s : State) : Option StkEntry := (wholeStack s).find? fun e => e.kind == 0

/-- Is the top a path without threads above a RECONV entry of the header? -/
def Discards (h : Quad) (s : State) : Prop :=
  (∃ o, reconAt s = some o ∧ o.pc = h) ∧ ∃ e, topOf s = some e ∧ e.kind = 1 ∧ e.mask = 0#32

/-- The fragment takes the top entry off its stack. -/
def tookTop (s : State) (e : StkEntry) : State := popHere (takeEntry s e)

theorem converge_elsewhere {h : Quad} {s : State} (n : Nat) (hr : ∀ o, reconAt s = some o → o.pc ≠ h) :
    converge h n s = s := by
  unfold reconAt at hr
  cases n with
  | zero => rfl
  | succ n =>
    rw [converge]
    cases hq : (wholeStack s).find? fun e => e.kind == 0 with
    | none => rfl
    | some q => simp [hr q hq]

/-- At a RECONV entry of the header the top of the stack says what follows. -/
theorem converge_here {h : Quad} {s : State} (n : Nat) {o e : StkEntry} (ho : reconAt s = some o) (hp : o.pc = h)
    (he : topOf s = some e) :
    (e.kind = 0 → converge h (n + 1) s = tookTop s e) ∧ (e.kind = 2 → converge h (n + 1) s = s) ∧
    (e.kind = 1 → e.mask = 0#32 → converge h (n + 1) s = converge h n (popHere s)) ∧
    (e.kind = 1 → e.mask ≠ 0#32 → targetOk e.pc = true → converge h (n + 1) s = jump (tookTop s e) e.pc) ∧
    (e.kind = 1 → e.mask ≠ 0#32 → targetOk e.pc = false → converge h (n + 1) s = raiseAll s cALIGN e.pc) := by
  unfold reconAt at ho
  rw [converge, ho]
  dsimp only
  rw [hp, bne_self_eq_false, if_neg Bool.false_ne_true, he]
  dsimp only
  refine ⟨fun hk => ?_, fun hk => ?_, fun hk hm => ?_, fun hk hm ht => ?_, fun hk hm ht => ?_⟩
  · rw [hk]; rfl
  · rw [hk]; rfl
  · rw [hk]; simp [emptyMask, hm]
  · rw [hk]; simp [emptyMask, hm, ht, tookTop]
  · rw [hk]; simp [emptyMask, hm, ht]

/-- Empty paths are discarded and the test repeated. -/
theorem converge_discards {h : Quad} {s : State} (n k : Nat) (hd : ∀ m, m < n → Discards h (Nat.repeat popHere m s)) :
    converge h (n + k) s = converge h k (Nat.repeat popHere n s) := by
  induction n generalizing k with
  | zero => rw [Nat.zero_add]; rfl
  | succ n ih =>
    obtain ⟨⟨o, ho, hp⟩, e, he, hk, hm⟩ := hd n n.lt_succ_self
    rw [Nat.add_right_comm, Nat.add_assoc, ih (k + 1) fun m hm => hd m (hm.trans n.lt_succ_self)]
    obtain ⟨-, -, discard, -⟩ := converge_here k ho hp he
    exact discard hk hm

/-! Starting a clause (R33 steps 1 to 3, R41). -/

/-- The fragment stands at the header of a clause whose words it has decoded. -/
def decoded (u : State) (h : Word) (body : List Word) : State := updCF u fun f => { f with hdr := h, code := body }

theorem cf_decoded (u : State) (h : Word) (body : List Word) :
    cf (decoded u h body) = { cf u with hdr := h, code := body } := cf_updCF u _

/-- Does a fragment keep one of its group at a header from passing the convergence point there (R108)? -/
def Frag.holdsBack (pc : Quad) (f : Frag) : Bool :=
  f.st == .ready || f.st == .waiting || f.st == .handler || (f.st == .merging && f.pc == pc)

theorem othersLive_decoded (u : State) (h : Word) (body : List Word) :
    othersLive (decoded u h body) = slots8.any fun l => l != u.curF && (fragAt u u.curG l).holdsBack (cf u).pc := by
  rw [othersLive, cf_decoded, List.any_filter]
  refine congrArg (List.any slots8) (funext fun l => ?_)
  by_cases hl : l = u.curF
  · subst hl
    simp [decoded]
  · have hf : Store.get (cg (decoded u h body)).frags l = fragAt u u.curG l := (fragAt_updF u _ _ _ _).trans (if_neg hl)
    rw [hf]
    simp [decoded, hl, Frag.holdsBack]

theorem startClause_parks {s : State}
    (h : (hdrYld (cf s).hdr && bit (cctx s).preq 0 && holdsJob s (cblk s)) = true) :
    startClause s = waitFor (updCF s fun f => { f with code := [] }) .parked := if_pos h

theorem startClause_enters {s : State} (h : (hdrYld (cf s).hdr && bit (cctx s).preq 0 && holdsJob s (cblk s)) = false)
    (hc : hdrCvg (cf s).hdr = false) : startClause s = enterClause s := by
  rw [startClause, h, hc]
  rfl

theorem startClause_converges {s : State} (h : (hdrYld (cf s).hdr && bit (cctx s).preq 0 && holdsJob s (cblk s)) = false)
    (hc : hdrCvg (cf s).hdr = true) : startClause s = atConvergence s := by
  rw [startClause, h, hc]
  rfl

theorem atConvergence_merges {s : State} (h : (cf s).st = .ready) (ho : othersLive s = true) :
    atConvergence s = updCF s fun f => { f with st := .merging } := by
  rw [atConvergence, ho]
  simp [h]

theorem atConvergence_passes {s : State} (h : (cf s).st = .handler ∨ othersLive s = false) : atConvergence s =
    if (cf (converge (cf s).pc 33 s)).pc = (cf s).pc && !(cf (converge (cf s).pc 33 s)).code.isEmpty
    then enterClause (converge (cf s).pc 33 s) else converge (cf s).pc 33 s := by
  have hn : (decide ((cf s).st = .ready) && othersLive s) = false := by
    rcases h with h | h <;> simp [h]
  rw [atConvergence, hn]
  rfl

theorem atConvergence_enters {s x : State} (h : (cf s).st = .handler ∨ othersLive s = false)
    (hx : converge (cf s).pc 33 s = x) (hp : (cf x).pc = (cf s).pc) (hc : (cf x).code ≠ []) :
    atConvergence s = enterClause x := by
  rw [atConvergence_passes h, hx]
  simp [hp, hc]

theorem atConvergence_leaves {s x : State} (h : (cf s).st = .handler ∨ othersLive s = false)
    (hx : converge (cf s).pc 33 s = x) (hc : (cf x).code = []) : atConvergence s = x := by
  rw [atConvergence_passes h, hx]
  simp [hc]

/-- The header at a word of a fetch block, and the words that follow it in its clause. -/
def headAt (ws : List Word) (w : Nat) : Word := (ws[w]?).getD 0#32
def bodyAt (ws : List Word) (w : Nat) : List Word := (ws.drop (w + 1)).take (hdrLen (headAt ws w))

/-- The first decode trap of the words of a clause of the acting fragment. -/
def faultsHere (s : State) (body : List Word) : Option (Nat × Nat) :=
  wordsFault (privileged s) (roleNo (cg s).role) (roleNvreg (cg s).role) 16 1 body

/-- A clause stands there whose header and places are legal (R32, R37, R38). -/
def LegalAt (ws : List Word) (w : Nat) : Prop :=
  hdrLen (headAt ws w) ≠ 0 ∧ headerBad (headAt ws w) w = false ∧ placeBad (hdrSeta (headAt ws w)) 16 (bodyAt ws w) = false

section

variable {s : State} {ws : List Word} {w : Nat}

theorem startAt_filler (hl : hdrLen (headAt ws w) = 0) (hb : bits (headAt ws w).toNat 2 0 = 0) :
    startAt s ws w = jump s (fblock (cf s).pc + 64#64) := by
  unfold headAt at *
  unfold startAt
  dsimp only
  rw [if_pos hl, if_neg (not_not.2 hb)]

theorem startAt_illegal (h : hdrLen (headAt ws w) = 0 ∧ bits (headAt ws w).toNat 2 0 ≠ 0 ∨ hdrLen (headAt ws w) ≠ 0 ∧
      (headerBad (headAt ws w) w = true ∨ placeBad (hdrSeta (headAt ws w)) 16 (bodyAt ws w) = true)) :
    startAt s ws w = raiseAll s cILLEGAL_CLAUSE 0#64 := by
  unfold bodyAt headAt at *
  unfold startAt
  dsimp only
  rcases h with ⟨hl, hb⟩ | ⟨hl, hb⟩
  · rw [if_pos hl, if_pos hb]
  · rw [if_neg hl, if_pos (by simpa using hb)]

theorem startAt_faulty {c k : Nat} (h : LegalAt ws w) (hf : faultsHere s (bodyAt ws w) = some (c, k)) :
    startAt s ws w = raiseWord s c ((cf s).pc + w64 (4 * k)) (((bodyAt ws w)[k - 1]?).getD 0#32) := by
  obtain ⟨hl, hh, hp⟩ := h
  unfold faultsHere at hf
  unfold bodyAt headAt at *
  unfold startAt
  dsimp only
  rw [if_neg hl, hh, hp, hf]
  rfl

theorem startAt_starts (h : LegalAt ws w) (hf : faultsHere s (bodyAt ws w) = none) :
    startAt s ws w = startClause (decoded s (headAt ws w) (bodyAt ws w)) := by
  obtain ⟨hl, hh, hp⟩ := h
  unfold faultsHere at hf
  unfold bodyAt headAt at *
  unfold startAt
  dsimp only
  rw [if_neg hl, hh, hp, hf]
  rfl

/-- May the acting fragment start the clause at its PC? -/
def Starts (s : State) : Prop :=
  ((cf s).st = .ready ∨ (cf s).st = .handler) ∧ (cf s).wait = .no ∧ (cf s).mid = false ∧ (cf s).code = []

theorem exec_clauseStart_words {u : State} (h : Starts s) (hf : fetch s s.curG (cf s).pc = (u, .words ws)) :
    exec .clauseStart s = .next (startAt u ws (wordIx (cf s).pc)) := by
  obtain ⟨hst, hw, hm, hc⟩ := h
  have he : exec .clauseStart s = execClauseStart s := rfl
  rw [he, execClauseStart, hc, hw, hm, hf]
  rcases hst with hst | hst <;> rw [hst] <;> rfl

theorem exec_clauseStart_fault {u : State} {c : Nat} (h : Starts s) (hf : fetch s s.curG (cf s).pc = (u, .fault c)) :
    exec .clauseStart s =
      .next (raiseAt u c (active u) (fblock (cf s).pc) (cf s).pc (fetchRecords c (fblock (cf s).pc))) := by
  obtain ⟨hst, hw, hm, hc⟩ := h
  have he : exec .clauseStart s = execClauseStart s := rfl
  rw [he, execClauseStart, hc, hw, hm, hf]
  rcases hst with hst | hst <;> rw [hst] <;> rfl

end

/-! A convergence point after some empty paths (R105). -/

theorem cf_tookTop (s : State) (e : StkEntry) :
    cf (tookTop s e) = { cf s with mask := resumable s e, mode := e.mode, pstk := (cf (tookTop s e)).pstk } := by
  rw [tookTop, cf_popHere, cf_takeEntry]

theorem converge_after {s : State} {n : Nat} (hn : n ≤ 31) (hd : ∀ m, m < n → Discards (cf s).pc (Nat.repeat popHere m s)) :
    converge (cf s).pc 33 s = converge (cf s).pc (32 - n + 1) (Nat.repeat popHere n s) := by
  rw [← converge_discards n _ hd]
  congr 1
  omega

/-- Past the empty paths no RECONV entry of the header stands: the fragment enters. -/
theorem atConvergence_elsewhere {s : State} {n : Nat} (hgo : (cf s).st = .handler ∨ othersLive s = false) (hn : n ≤ 31)
    (hd : ∀ m, m < n → Discards (cf s).pc (Nat.repeat popHere m s)) (hc : (cf s).code ≠ [])
    (ho : ∀ o, reconAt (Nat.repeat popHere n s) = some o → o.pc ≠ (cf s).pc) :
    atConvergence s = enterClause (Nat.repeat popHere n s) := by
  refine atConvergence_enters hgo ((converge_after hn hd).trans (converge_elsewhere _ ho)) ?_ ?_
  all_goals rw [cf_repeat_popHere]
  exact hc

/-- Past the empty paths the top of the stack says what follows. -/
theorem atConvergence_here {s : State} {n : Nat} {o e : StkEntry} (hgo : (cf s).st = .handler ∨ othersLive s = false)
    (hn : n ≤ 31) (hd : ∀ m, m < n → Discards (cf s).pc (Nat.repeat popHere m s))
    (hc : (cf s).code ≠ []) (ho : reconAt (Nat.repeat popHere n s) = some o) (hp : o.pc = (cf s).pc)
    (he : topOf (Nat.repeat popHere n s) = some e) :
    (e.kind = 0 → atConvergence s = enterClause (tookTop (Nat.repeat popHere n s) e)) ∧
    (e.kind = 2 → atConvergence s = enterClause (Nat.repeat popHere n s)) ∧
    (e.kind = 1 → e.mask ≠ 0#32 → targetOk e.pc = true →
      atConvergence s = jump (tookTop (Nat.repeat popHere n s) e) e.pc) ∧
    ((cf s).st = .ready → e.kind = 1 → e.mask ≠ 0#32 → targetOk e.pc = false →
      atConvergence s = raiseAll (Nat.repeat popHere n s) cALIGN e.pc) := by
  obtain ⟨recon, ret, -, path, align⟩ := converge_here (32 - n) ho hp he
  rw [← converge_after hn hd] at recon ret path align
  refine ⟨fun hk => atConvergence_enters hgo (recon hk) ?_ ?_, fun hk => atConvergence_enters hgo (ret hk) ?_ ?_,
    fun hk hm ht => atConvergence_leaves hgo (path hk hm ht) ?_,
    fun hst hk hm ht => atConvergence_leaves hgo (align hk hm ht) ?_⟩
  · rw [cf_tookTop, cf_repeat_popHere]
  · rw [cf_tookTop, cf_repeat_popHere]
    exact hc
  · rw [cf_repeat_popHere]
  · rw [cf_repeat_popHere]
    exact hc
  · rw [jump, cf_updCF]
  · rw [raiseAll, raise, cf_raiseAt (by rw [cf_repeat_popHere]; exact hst)]
    rfl

/-- The answer of a clause at a convergence point, its header H at an address, once the empty paths are off the stack of a
state. -/
def Converges (x : State) (st : FragState) (h : Word) (pc : Quad) (r : Res) : Prop :=
  ((∀ o, reconAt x = some o → o.pc ≠ pc) → Enters x h pc r) ∧
  ∀ o e, reconAt x = some o → o.pc = pc → topOf x = some e →
    (e.kind = 0 → Enters (tookTop x e) h pc r) ∧ (e.kind = 2 → Enters x h pc r) ∧
    (e.kind = 1 → e.mask ≠ 0#32 → e.pc.toNat % 64 = 0 → r = .next (jump (tookTop x e) e.pc)) ∧
    (st = .ready → e.kind = 1 → e.mask ≠ 0#32 → e.pc.toNat % 64 ≠ 0 →
      ∃ t, r = .next t ∧ Trapped x t cALIGN (active x) e.pc)

theorem converges_atConvergence {s : State} {n : Nat} (hgo : (cf s).st = .handler ∨ othersLive s = false) (hn : n ≤ 31)
    (hd : ∀ m, m < n → Discards (cf s).pc (Nat.repeat popHere m s)) (hc : (cf s).code ≠ []) :
    Converges (Nat.repeat popHere n s) (cf s).st (cf s).hdr (cf s).pc (.next (atConvergence s)) := by
  have hx : (cf (Nat.repeat popHere n s)).hdr = (cf s).hdr ∧ (cf (Nat.repeat popHere n s)).pc = (cf s).pc := by
    rw [cf_repeat_popHere]
    exact ⟨rfl, rfl⟩
  refine ⟨fun ho => ?_, fun o e ho hp he => ?_⟩
  · rw [atConvergence_elsewhere hgo hn hd hc ho]
    exact enters_enterClause hx.1 hx.2
  · obtain ⟨recon, ret, path, align⟩ := atConvergence_here hgo hn hd hc ho hp he
    refine ⟨fun hk => ?_, fun hk => ?_, fun hk hm ht => ?_, fun hr hk hm ht => ?_⟩
    · rw [recon hk]
      exact enters_enterClause (by rw [cf_tookTop, hx.1]) (by rw [cf_tookTop, hx.2])
    · rw [ret hk]
      exact enters_enterClause hx.1 hx.2
    · rw [path hk hm (by simp [targetOk, ht])]
    · exact ⟨_, by rw [align hr hk hm (by simp [targetOk, ht])], trapped_raiseAll (by rw [cf_repeat_popHere, hr]) _ _⟩

/-! Traps of a fragment that starts a clause (R40, R41). -/

section

variable {s u : State}

/-- A decode trap of a READY fragment's word, where no rendezvous lists its group (R41, R165). -/
theorem cf_raiseWord (hr : (cf u).st = .ready) (hl : ∀ r ∈ u.rdvs, r.lists u.curG = false) (c : Nat) (pc : Quad) (x : Word) :
    cf (raiseWord u c pc x) = Frag.trapped u c 0#64 pc false := by
  have hcf := cf_raiseAt hr c 0#64 pc []
  have hrdvs : (raiseAt u c (active u) 0#64 pc []).rdvs = u.rdvs := by
    rw [raiseAt_active (isHandler_of_ready hr)]
    rfl
  unfold raiseWord
  dsimp only
  split_ifs
  · rw [rdvDrop_unlisted (by rw [hrdvs]; exact hl), hcf]
    rfl
  · rw [hcf]
    rfl

theorem trapped_handler {c : Nat} {fadr pc : Quad} {recs : Bool} (hu : SameOwners s u) (hr : (cf s).st = .ready) :
    (Frag.trapped u c fadr pc recs).st = .handler ∧ (Frag.trapped u c fadr pc recs).pc = w64 (hdrTrap (cctx s).hdr) := by
  rw [Frag.trapped, Frag.toHandler, hu.cf, hu.cctx]
  simp [hr]

end

/-! The end of a group (R109, R110). -/

/-- The context of a group keeps that it has yielded. -/
def yieldKept (s : State) (g : Nat) : State :=
  if (gAt s g).yielded then updCtx s (gAt s g).ctx fun c => { c with yielded := c.yielded ++ [g] } else s

theorem gAt_yieldKept (s : State) (g j : Nat) : gAt (yieldKept s g) j = gAt s j := by
  unfold yieldKept
  split_ifs
  · exact gAt_updCtx _ _ _ _
  · rfl

theorem bAt_yieldKept (s : State) (g b : Nat) : bAt (yieldKept s g) b = bAt s b := by
  unfold yieldKept
  split_ifs
  · exact bAt_updCtx _ _ _ _
  · rfl

theorem yielded_yieldKept (s : State) (g : Nat) : (ctxAt (yieldKept s g) (gAt s g).ctx).yielded =
    if (gAt s g).yielded then (ctxAt s (gAt s g).ctx).yielded ++ [g] else (ctxAt s (gAt s g).ctx).yielded := by
  unfold yieldKept
  split_ifs
  · rw [ctxAt_updCtx, if_pos rfl]
  · rfl

theorem gAt_dropGroup (s : State) (g j : Nat) : gAt (dropGroup s g) j = if j = g then default else gAt s j :=
  Store.get_set s.groups g j default

theorem bAt_dropGroup (s : State) (g b : Nat) : bAt (dropGroup s g) b = bAt s b := rfl
theorem ctxAt_dropGroup (s : State) (g c : Nat) : ctxAt (dropGroup s g) c = ctxAt s c := rfl

theorem endBlock_eq (s : State) (b : Nat) :
    ∃ u, SameOwners s u ∧ endBlock s b = { u with blocks := Store.set u.blocks b default } :=
  ⟨_, (writeBackAll_sameOwners s b).trans ((unbindRows_sameOwners _ b).trans (freeBanks_sameOwners _ b)), rfl⟩

theorem gAt_endBlock (s : State) (b g : Nat) : gAt (endBlock s b) g = gAt s g := by
  obtain ⟨u, hu, h⟩ := endBlock_eq s b
  rw [h, ← hu.gAt]
  rfl

theorem ctxAt_endBlock (s : State) (b c : Nat) : ctxAt (endBlock s b) c = ctxAt s c := by
  obtain ⟨u, hu, h⟩ := endBlock_eq s b
  rw [h, ← hu.ctxAt]
  rfl

theorem bAt_endBlock_self (s : State) (b : Nat) : bAt (endBlock s b) b = default := by
  obtain ⟨u, -, h⟩ := endBlock_eq s b
  rw [h]
  exact Store.get_set_self u.blocks b default

theorem endGroup_eq (s : State) (g : Nat) : endGroup s g =
    if (groupsOf (dropGroup (yieldKept s g) g) (blkOf g)).isEmpty then endBlock (dropGroup (yieldKept s g) g) (blkOf g)
    else dropGroup (yieldKept s g) g := rfl

/-- A block holds no group but one exactly where that leaves none. -/
theorem groupsOf_dropGroup (s : State) (g : Nat) :
    (groupsOf (dropGroup s g) (blkOf g)).isEmpty = true ↔ ∀ l, l ≠ g → l / 32 = g / 32 → (gAt s l).present = false := by
  have mem (l : Nat) : l ∈ (List.range 32).map (32 * blkOf g + ·) ↔ l / 32 = g / 32 := by
    simp only [List.mem_map, List.mem_range, blkOf]
    exact ⟨by rintro ⟨k, hk, rfl⟩; omega, fun h => ⟨l % 32, by omega, by omega⟩⟩
  simp only [groupsOf, List.isEmpty_iff, List.filter_eq_nil_iff, mem, gAt_dropGroup]
  constructor
  · intro h l hl hb
    simpa [hl] using h l hb
  · intro h l hb
    by_cases hl : l = g
    · rw [if_pos hl]; decide
    · rw [if_neg hl, h l hl hb]; decide

/-- Does a group stand alone on its block? -/
def Alone (s : State) (g : Nat) : Prop := ∀ l, l ≠ g → l / 32 = g / 32 → (gAt s l).present = false

theorem endGroup_alone {s : State} {g : Nat} (h : Alone s g) :
    endGroup s g = endBlock (dropGroup (yieldKept s g) g) (blkOf g) := by
  rw [endGroup_eq, if_pos]
  simpa only [groupsOf_dropGroup, gAt_yieldKept, Alone] using h

theorem endGroup_others {s : State} {g : Nat} (h : ¬Alone s g) : endGroup s g = dropGroup (yieldKept s g) g := by
  rw [endGroup_eq, if_neg]
  simpa only [groupsOf_dropGroup, gAt_yieldKept, Alone] using h

theorem gAt_endGroup (s : State) (g j : Nat) : gAt (endGroup s g) j = if j = g then default else gAt s j := by
  by_cases h : Alone s g
  · rw [endGroup_alone h, gAt_endBlock, gAt_dropGroup, gAt_yieldKept]
  · rw [endGroup_others h, gAt_dropGroup, gAt_yieldKept]

theorem ctxAt_endGroup (s : State) (g c : Nat) : ctxAt (endGroup s g) c = ctxAt (yieldKept s g) c := by
  by_cases h : Alone s g
  · rw [endGroup_alone h, ctxAt_endBlock, ctxAt_dropGroup]
  · rw [endGroup_others h, ctxAt_dropGroup]

theorem bAt_endGroup_alone {s : State} {g : Nat} (h : Alone s g) : bAt (endGroup s g) (g / 32) = default := by
  rw [endGroup_alone h]
  exact bAt_endBlock_self _ _

theorem bAt_endGroup_others {s : State} {g : Nat} (h : ¬Alone s g) : bAt (endGroup s g) (g / 32) = bAt s (g / 32) := by
  rw [endGroup_others h, bAt_dropGroup, bAt_yieldKept]

theorem exec_groupEnd {s : State} {g : Nat} (hp : (gAt s g).present = true) (he : (gAt s g).ending = true)
    (hq : (gAt s g).quiet = true) : exec (.groupEnd g) s = .next (endGroup s g) := by
  have h : exec (.groupEnd g) s = execGroupEnd g s := rfl
  rw [h, execGroupEnd, hp, he, hq]
  rfl

/-! The rollback of a group (R424). -/

/-- The one fragment of a group at its region entry. -/
def Group.entryFrag (x : Group) : Frag :=
  { (default : Frag) with st := .ready, mask := x.rgnmsk, pc := x.rgnpc, mode := x.rgnmode }

theorem gAt_rollback (s : State) (g : Nat) : gAt (rollback s g) g =
    { gAt (cutStack g (depthOf (gAt s g) - bits (gAt s g).rgnx.toNat 4 0) s) g with
      frags := [(0, (gAt s g).entryFrag)], pend := [], stall := none, viol := none, roll := false } := gAt_updG_self _ _ _

theorem exec_groupRollback {s : State} {g : Nat} (hp : (gAt s g).present = true) (hr : (gAt s g).roll = true)
    (hq : (gAt s g).quiet = true) : exec (.groupRollback g) s = .next (gresDone (rollback s g) g) := by
  have h : exec (.groupRollback g) s = execGroupRollback g s := rfl
  rw [h, execGroupRollback, hp, hr, hq]
  rfl

/-! What entering a clause leaves alone. -/

/-- From s to t the acting fragment has kept its state and its threads, and its group the other fragments and its traps. -/
structure SameThreads (s t : State) : Prop where
  curG : t.curG = s.curG
  curF : t.curF = s.curF
  acting : (cf t).st = (cf s).st ∧ (cf t).mask = (cf s).mask
  others : ∀ l, l ≠ s.curF → fragAt t s.curG l = fragAt s s.curG l
  traps : (cg t).traps = (cg s).traps

theorem SameThreads.trans {s t u : State} (h : SameThreads s t) (k : SameThreads t u) : SameThreads s u where
  curG := k.curG.trans h.curG
  curF := k.curF.trans h.curF
  acting := ⟨k.acting.1.trans h.acting.1, k.acting.2.trans h.acting.2⟩
  others l hl := by rw [← h.others l hl, ← h.curG]; exact k.others l (by rwa [h.curF])
  traps := k.traps.trans h.traps

theorem SameOwners.sameThreads {s t : State} (h : SameOwners s t) : SameThreads s t where
  curG := h.curG
  curF := h.curF
  acting := by rw [h.cf]; exact ⟨rfl, rfl⟩
  others l _ := h.fragAt _ l
  traps := by rw [h.cg]

theorem updCF_sameThreads (s : State) {h : Frag → Frag} (hh : ∀ f, (h f).st = f.st ∧ (h f).mask = f.mask) :
    SameThreads s (updCF s h) where
  curG := rfl
  curF := rfl
  acting := by rw [cf_updCF]; exact hh _
  others _ hl := (fragAt_updF _ _ _ _ _).trans (if_neg hl)
  traps := by rw [cg_updCF]

theorem updCG_sameThreads (s : State) {f : Group → Group} (hf : ∀ x, (f x).frags = x.frags ∧ (f x).traps = x.traps) :
    SameThreads s (updCG s f) where
  curG := rfl
  curF := rfl
  acting := by rw [cf_updCG s f (hf _).1]; exact ⟨rfl, rfl⟩
  others _ _ := fragAt_updG (fun x => (hf x).1) s _ _ _
  traps := by rw [cg_updCG]; exact (hf _).2

theorem enterClause_sameThreads (s : State) : SameThreads s (enterClause s) := by
  have moves (s : State) : SameThreads s (updCF s fun f => { f with pc := f.pc + 4#64, mid := true }) :=
    updCF_sameThreads s fun _ => ⟨rfl, rfl⟩
  have opens : SameThreads s (openRegion s) := updCG_sameThreads s fun _ => ⟨rfl, rfl⟩
  have stops : SameThreads (openRegion s) (updCG (openRegion s) fun g => { g with saved := true, roll := true }) :=
    updCG_sameThreads _ fun _ => ⟨rfl, rfl⟩
  unfold enterClause
  dsimp only
  split_ifs
  · exact (SameOwners.refl s).sameThreads
  · exact opens.trans (stops.trans (blockStops_sameOwners _ _).sameThreads)
  · exact opens.trans (moves _)
  · exact moves s

/-- A clause that opens no region leaves the region as it was. -/
theorem rgnx_enterClause {s : State} (hr : hdrRgn (cf s).hdr = false) : (cg (enterClause s)).rgnx = (cg s).rgnx := by
  by_cases h : hdrWait (cf s).hdr &&& flagMask (cg s) = 0
  · rw [enterClause_plain h hr, cg_updCF]
  · rw [enterClause_waits h]

/-! What a merge builds on (R108). -/

theorem distinct_of_all_eq {α : Type} [BEq α] [LawfulBEq α] {a : α} {l : List α} (h : ∀ x ∈ l, x = a) :
    distinct (a :: l) = [a] := by
  have fold (l : List α) (h : ∀ x ∈ l, x = a) :
      l.foldl (fun acc x => if acc.contains x then acc else acc ++ [x]) [a] = [a] := by
    induction l with
    | nil => rfl
    | cons x l ih =>
      have hx : x = a := h x List.mem_cons_self
      rw [List.foldl_cons, hx]
      simpa using ih fun y hy => h y (List.mem_cons_of_mem x hy)
  exact fold l h

theorem getLsbD_foldl_or (l : List Nat) (f : Nat → Word) (m : Word) (b : Nat) :
    (l.foldl (fun m j => m ||| f j) m).getLsbD b = (m.getLsbD b || l.any fun j => (f j).getLsbD b) := by
  induction l generalizing m with
  | nil => simp
  | cons j l ih => rw [List.foldl_cons, ih, BitVec.getLsbD_or, List.any_cons, Bool.or_assoc]

/-- A closed region's OK bit (R416). -/
theorem bit_closed (w : Word) : bit (w &&& 0x7FFFFFFF#32).toNat 31 = false := by
  have h : (w &&& 0x7FFFFFFF#32).toNat < 2 ^ 31 := by
    rw [BitVec.toNat_and]
    exact Nat.and_lt_two_pow _ (by decide)
  rw [bit, Nat.div_eq_of_lt h]
  rfl

/-- Some fragments of a group become FREE. -/
def freed (g : Nat) (l : List Nat) (s : State) : State := l.foldl (fun s j => updF s g j fun _ => default) s

theorem fragAt_freed (g : Nat) (l : List Nat) (s : State) (j : Nat) :
    fragAt (freed g l s) g j = if j ∈ l then default else fragAt s g j := by
  unfold freed
  induction l generalizing s with
  | nil => simp
  | cons i l ih =>
    rw [List.foldl_cons, ih, fragAt_updF]
    by_cases hl : j ∈ l <;> by_cases hi : j = i <;> simp [hl, hi]

theorem gAt_freed (g : Nat) (l : List Nat) (s : State) :
    gAt (freed g l s) g = { gAt s g with frags := (gAt (freed g l s) g).frags } := by
  unfold freed
  induction l generalizing s with
  | nil => rfl
  | cons i l ih => rw [List.foldl_cons, ih, updF, gAt_updG_self]

/-! The merge of the MERGING fragments at one header (R108). -/

/-- The other fragments of a merge are FREE, and where there are some the region is closed (R108, R416). -/
def joined (s : State) (g : Nat) (rest : List Nat) : State :=
  if rest.isEmpty then freed g rest s else updG (freed g rest s) g fun x => { x with rgnx := x.rgnx &&& 0x7FFFFFFF#32 }

/-- All threads of some fragments of a group. -/
def jointMask (s : State) (g : Nat) (l : List Nat) : Word := l.foldl (fun m j => m ||| (fragAt s g j).mask) 0#32

/-- The MERGING fragments of a group as one, with all their threads. -/
def mergedAt (s : State) (g i : Nat) (rest : List Nat) : State :=
  updF (joined s g rest) g i fun f => { f with st := .ready, mask := jointMask s g (i :: rest) }

/-- The same with that fragment as the acting one. -/
def merged (s : State) (g i : Nat) (rest : List Nat) : State := { mergedAt s g i rest with curG := g, curF := i }

/-- A merged fragment acts on its convergence point and enters its clause. -/
def goOnAt (pc : Quad) (s : State) : State :=
  if (cf (converge pc 33 s)).pc = pc && !(cf (converge pc 33 s)).code.isEmpty then enterClause (converge pc 33 s)
  else converge pc 33 s

section

variable {s : State} {g i : Nat} {rest : List Nat}

theorem gAt_joined : gAt (joined s g rest) g = { gAt s g with
    frags := (gAt (freed g rest s) g).frags, rgnx := (gAt (joined s g rest) g).rgnx } := by
  unfold joined
  split_ifs
  · rw [gAt_freed]
  · rw [gAt_updG_self, gAt_freed]

theorem rgnx_joined (h : rest ≠ []) : bit (gAt (joined s g rest) g).rgnx.toNat 31 = false := by
  rw [joined, if_neg (by simpa using h), gAt_updG_self]
  exact bit_closed _

theorem cg_merged : cg (merged s g i rest) = { gAt (joined s g rest) g with frags := (cg (merged s g i rest)).frags } := by
  have h : cg (merged s g i rest) = gAt (mergedAt s g i rest) g := rfl
  rw [h, mergedAt, updF, gAt_updG_self]

theorem fragAt_merged (hi : i ∉ rest) (l : Nat) : fragAt (merged s g i rest) g l =
    if l = i then { fragAt s g i with st := .ready, mask := jointMask s g (i :: rest) }
    else if l ∈ rest then default else fragAt s g l := by
  have h : fragAt (merged s g i rest) g l = fragAt (mergedAt s g i rest) g l := rfl
  have hj (l : Nat) : fragAt (joined s g rest) g l = if l ∈ rest then default else fragAt s g l := by
    rw [← fragAt_freed, fragAt, gAt_joined, fragAt]
  rw [h, mergedAt, fragAt_updF, hj, hj, if_neg hi]

theorem cf_merged (hi : i ∉ rest) : cf (merged s g i rest) =
    { fragAt s g i with st := .ready, mask := jointMask s g (i :: rest) } :=
  (fragAt_merged hi i).trans (if_pos rfl)

theorem joined_cur : (joined s g rest).curG = s.curG ∧ (joined s g rest).curF = s.curF := by
  have h (l : List Nat) (s : State) : (freed g l s).curG = s.curG ∧ (freed g l s).curF = s.curF := by
    unfold freed
    induction l generalizing s with
    | nil => exact ⟨rfl, rfl⟩
    | cons j l ih => exact ih _
  unfold joined
  split_ifs
  · exact h rest s
  · exact h rest s

/-- The state of a merged fragment that has entered its clause, or waits for its flags, as the machine stands. -/
def mergedIn (s : State) (g i : Nat) (rest : List Nat) : State :=
  { enterClause (merged s g i rest) with curG := s.curG, curF := s.curF }

theorem gAt_mergedIn : gAt (mergedIn s g i rest) g = gAt (enterClause (merged s g i rest)) g := rfl

theorem traps_mergedIn : (gAt (mergedIn s g i rest) g).traps = (gAt s g).traps := by
  have h := enterClause_sameThreads (merged s g i rest)
  have hg : (enterClause (merged s g i rest)).curG = g := h.curG
  have ht := h.traps
  rw [cg_merged, gAt_joined, cg, hg] at ht
  rw [gAt_mergedIn, ht]

/-- The header of a fragment with an empty stack is no convergence point. -/
theorem converge_emptyStack {s : State} (hst : (cf s).st = .ready) (hs : (cg s).stk = []) (hp : (cg s).spilled = 0)
    (pc : Quad) (n : Nat) : converge pc n s = s := by
  refine converge_elsewhere n fun o ho => ?_
  rw [reconAt, wholeStack, hst, if_neg (by decide), hs, hp] at ho
  cases ho

theorem goOnAt_merged (hi : i ∉ rest) (hstk : (gAt s g).stk = []) (hsp : (gAt s g).spilled = 0)
    (hc : (fragAt s g i).code ≠ []) :
    goOnAt (fragAt s g i).pc (merged s g i rest) = enterClause (merged s g i rest) := by
  have hcf := cf_merged (s := s) (g := g) hi
  have hin : converge (fragAt s g i).pc 33 (merged s g i rest) = merged s g i rest :=
    converge_emptyStack (by rw [hcf]) (by rw [cg_merged, gAt_joined, hstk]) (by rw [cg_merged, gAt_joined, hsp]) _ _
  rw [goOnAt, hin, hcf]
  simp [hc]

theorem withCur_mergedAt (hi : i ∉ rest) (hstk : (gAt s g).stk = []) (hsp : (gAt s g).spilled = 0)
    (hc : (fragAt s g i).code ≠ []) : withCur (mergedAt s g i rest) g i (goOnAt (fragAt s g i).pc) = mergedIn s g i rest := by
  have h : withCur (mergedAt s g i rest) g i (goOnAt (fragAt s g i).pc) =
    { goOnAt (fragAt s g i).pc (merged s g i rest) with
      curG := (joined s g rest).curG, curF := (joined s g rest).curF } := rfl
  rw [h, goOnAt_merged hi hstk hsp hc, joined_cur.1, joined_cur.2, mergedIn]

/-- Which fragments of a group wait in MERGING. -/
def mergingOf (s : State) (g : Nat) : List Nat := slots8.filter fun l => (fragAt s g l).st == .merging

/-- Where no other fragment may come, the MERGING fragments at one header become one. -/
theorem execFragmentMerge_merges (hm : mergingOf s g = i :: rest) (hi : i ∉ rest) (hs : (gAt s g).saved = false)
    (hstk : (gAt s g).stk = []) (hsp : (gAt s g).spilled = 0)
    (hb : ∀ l, l < 8 → (fragAt s g l).st = .merging ∨ (fragAt s g l).st = .free ∨ (fragAt s g l).st = .frozen)
    (hp : ∀ l ∈ i :: rest, (fragAt s g l).pc = (fragAt s g i).pc) (hc : (fragAt s g i).code ≠ []) :
    execFragmentMerge g s = .next (mergedIn s g i rest) := by
  have hms : (slots8.filter fun l => (Store.get (gAt s g).frags l).st == .merging) = i :: rest := hm
  have hbusy : (slots8.any fun l => (Store.get (gAt s g).frags l).st == .ready || (Store.get (gAt s g).frags l).st == .waiting ||
      (Store.get (gAt s g).frags l).st == .handler) = false := by
    rw [List.any_eq_false]
    intro l hl
    have h8 : l < 8 := by simp [slots8] at hl; omega
    rcases hb l h8 with h | h | h <;> rw [fragAt] at h <;> simp [h]
  have hpcs : distinct ((i :: rest).map fun l => (Store.get (gAt s g).frags l).pc.toNat) = [(fragAt s g i).pc.toNat] := by
    rw [List.map_cons]
    refine distinct_of_all_eq fun x hx => ?_
    obtain ⟨l, hl, rfl⟩ := List.mem_map.1 hx
    exact congrArg BitVec.toNat (hp l (List.mem_cons_of_mem i hl))
  have hsame : ((i :: rest).filter fun l => (Store.get (gAt s g).frags l).pc.toNat == (fragAt s g i).pc.toNat) = i :: rest := by
    refine List.filter_eq_self.2 fun l hl => ?_
    have h := hp l hl
    rw [fragAt] at h
    simp [h]
  have hpc : w64 (fragAt s g i).pc.toNat = (fragAt s g i).pc := by simp [w64]
  have hpart : unlessPart s g (mergedIn s g i rest) = mergedIn s g i rest := by simp [unlessPart, traps_mergedIn]
  unfold execFragmentMerge
  dsimp only
  rw [hms, hbusy, hs, hpcs]
  simp only [Bool.or_self, Bool.false_eq_true, if_false, List.foldl_cons, List.foldl_nil, hsame, hpc]
  rw [← hpart, ← withCur_mergedAt hi hstk hsp hc]
  rfl

/-- The fragments after a merge. -/
theorem fragAt_mergedIn_self (hi : i ∉ rest) :
    (fragAt (mergedIn s g i rest) g i).st = .ready ∧ (fragAt (mergedIn s g i rest) g i).mask = jointMask s g (i :: rest) := by
  have h := enterClause_sameThreads (merged s g i rest)
  have ha := h.acting
  rw [cf_merged hi, cf, h.curG, h.curF] at ha
  exact ha

theorem fragAt_mergedIn_freed (hi : i ∉ rest) {l : Nat} (hl : l ∈ rest) : fragAt (mergedIn s g i rest) g l = default := by
  have hne : l ≠ i := fun h => hi (h ▸ hl)
  have h := (enterClause_sameThreads (merged s g i rest)).others l hne
  exact h.trans ((fragAt_merged hi l).trans (by rw [if_neg hne, if_pos hl]))

theorem rgnx_mergedIn (hi : i ∉ rest) (hr : rest ≠ []) (hh : hdrRgn (fragAt s g i).hdr = false) :
    bit (gAt (mergedIn s g i rest) g).rgnx.toNat 31 = false := by
  have h := rgnx_enterClause (s := merged s g i rest) (by rw [cf_merged hi]; exact hh)
  have hg : (enterClause (merged s g i rest)).curG = g := (enterClause_sameThreads (merged s g i rest)).curG
  rw [cg, hg, cg_merged] at h
  rw [gAt_mergedIn, h]
  exact rgnx_joined hr

end

/-- The MERGING fragments of a group are listed once each. -/
theorem not_mem_of_mergingOf {s : State} {g i : Nat} {rest : List Nat} (h : mergingOf s g = i :: rest) : i ∉ rest := by
  have hn : (mergingOf s g).Nodup := List.Nodup.filter _ (by decide)
  rw [h] at hn
  exact (List.nodup_cons.1 hn).1

/-- Settles O48: CLAUSE_START by the cases of its header and words, the merge of fragments, and the end and rollback of a
group. -/
theorem clausesAndGroups : Obligations.ClausesAndGroups := by
  intro s u ws g i k c rest f w h body ready legal faults at_ merging parks alone Enters others recon discards took
  refine ⟨fun hst hready hf => ?_, fun hst hready hf => ?_, fun hm hs hstk hsp hb hp => ?_,
    fun hp he hq => ?_, fun hp hr hq => ?_⟩
  · have hx := exec_clauseStart_words ⟨hst, hready⟩ hf
    have hu := fetch_sameOwners hf
    have hat : cf at_ = { f with hdr := h, code := body } := (cf_decoded u h body).trans (by rw [hu.cf])
    have hpc : (cf at_).pc = f.pc := by rw [hat]
    have hhdr : (cf at_).hdr = h := by rw [hat]
    have hstate : (cf at_).st = f.st := by rw [hat]
    have hothers : othersLive at_ = others := (othersLive_decoded u h body).trans (by rw [hu.curG, hu.curF, hu.cf]; rfl)
    have starts (hl : legal) (hn : faults = none) : exec .clauseStart s = .next (startClause at_) := by
      rw [hx, startAt_starts hl hn]
      rfl
    refine ⟨fun hl hn hp => ?_, fun hl hn hp hc => ?_, fun hl hn hp hc hb => ?_, fun hl hb => ?_, fun hr hbad => ?_,
      fun hl hn => ?_, fun hr hl hn hd => ?_⟩
    · rw [starts hl hn, startClause_parks (by rw [hhdr]; exact hp)]
    · have he := enters_enterClause hhdr hpc
      rw [← startClause_enters (by rw [hhdr]; exact hp) (by rw [hhdr]; exact hc), ← starts hl hn] at he
      exact he
    · have hcode : (cf at_).code ≠ [] := by rw [hat]; exact hb
      have hcon := starts hl hn
      rw [startClause_converges (by rw [hhdr]; exact hp) (by rw [hhdr]; exact hc)] at hcon
      refine ⟨fun hr ho => ?_, fun hgo n hlt hd => ?_⟩
      · rw [hcon, atConvergence_merges (hstate.trans hr) (hothers.trans ho)]
      · have he := converges_atConvergence (n := n) (by rw [hstate, hothers]; exact hgo) hlt (by rw [hpc]; exact hd) hcode
        rw [← hcon, hstate, hhdr, hpc] at he
        exact he
    · rw [hx, startAt_filler hl hb, hu.cf]
    · refine ⟨_, by rw [hx, startAt_illegal hbad], ?_⟩
      rw [← hu.active]
      exact trapped_raiseAll (by rw [hu.cf]; exact hr) _ _
    · rw [hx, startAt_faulty hl hn, hu.cf]
      rfl
    · refine ⟨_, by rw [hx, startAt_faulty hl hn], ?_⟩
      rw [cf_raiseWord (by rw [hu.cf]; exact hr) hd, hu.cf]
      exact ⟨(trapped_handler hu hr).1, (trapped_handler hu hr).2, rfl, rfl⟩
  · have hu := fetch_sameOwners hf
    have hcf : (cf u).st = .ready := by rw [hu.cf]; exact hst
    refine ⟨_, exec_clauseStart_fault ⟨.inl hst, hready⟩ hf, ?_⟩
    rw [cf_raiseAt hcf]
    exact ⟨(trapped_handler hu hst).1, rfl, rfl, rfl⟩
  · have hi := not_mem_of_mergingOf hm
    have hmem : i ∈ merging := hm ▸ List.mem_cons_self
    refine ⟨_, execFragmentMerge_merges hm hi hs hstk hsp hb (fun l hl => (hp l (hm ▸ hl)).1) (hp i hmem).2, ?_⟩
    obtain ⟨hst, hmask⟩ := fragAt_mergedIn_self (s := s) (g := g) hi
    refine ⟨hst, fun hr hh => rgnx_mergedIn hi hr hh, fun b _ => ?_, fun l hl => fragAt_mergedIn_freed hi hl⟩
    rw [hmask, hm, jointMask, getLsbD_foldl_or]
    simp
  · refine ⟨_, exec_groupEnd hp he hq, ?_, fun l hl => ?_, bAt_endGroup_alone, bAt_endGroup_others, ?_⟩
    · rw [gAt_endGroup, if_pos rfl]
    · rw [gAt_endGroup, if_neg hl]
    · rw [ctxAt_endGroup, yielded_yieldKept]
  · refine ⟨exec_groupRollback hp hr hq, ?_⟩
    have hcut := (cutStack_popsOnly g (depthOf (gAt s g) - bits (gAt s g).rgnx.toNat 4 0) s).group
    rw [gAt_rollback, hcut]
    exact ⟨rfl, rfl, rfl, rfl, rfl, rfl⟩

end Sys2Proof.Machine

end

/-! What the registers of a group keep, and the instructions that write them: SETM, GETM, MFS, MTS, MDS and GANG (R62, R70,
R74, R114, R115, R161, R162). -/

section

namespace Sys2Proof.Machine

open Sys2Proof.Claim

/-! Frames of the acting group. -/

theorem OnlyGroup.trans {s t u : State} (h : OnlyGroup s t) (k : OnlyGroup t u) : OnlyGroup s u := by
  obtain ⟨ht, hgt, hmt, hlt⟩ := h
  obtain ⟨hu, hgu, hmu, hlu⟩ := k
  have hG : t.curG = s.curG := by rw [ht]
  rw [hG] at hgu
  exact ⟨by rw [hu, ht], fun g hg => (hgu g hg).trans (hgt g hg), fun a => (hmu a).trans (hmt a), fun a => (hlu a).trans (hlt a)⟩

theorem OnlyGroup.curG {s t : State} (h : OnlyGroup s t) : t.curG = s.curG := by rw [h.1]
theorem OnlyGroup.curF {s t : State} (h : OnlyGroup s t) : t.curF = s.curF := by rw [h.1]

theorem OnlyGroup.fragAt {s t : State} (h : OnlyGroup s t) (i : Nat) :
    Machine.fragAt t s.curG i = Store.get (Machine.cg t).frags i := by rw [Machine.fragAt, Machine.cg, h.curG]

theorem onlyGroup_refl (s : State) : OnlyGroup s s := ⟨rfl, fun _ _ => rfl, fun _ => rfl, fun _ => rfl⟩

theorem onlyGroup_updCG (s : State) (f : Group → Group) : OnlyGroup s (updCG s f) :=
  ⟨rfl, fun _ hg => gAt_updG_ne s f hg, fun _ => rfl, fun _ => rfl⟩

theorem onlyGroup_advance (s : State) : OnlyGroup s (advance s) := (onlyGoesOn_advance s).1.1

/-- A group that kept all but its register files, FLAGS and SRGEN, and whose acting fragment goes on, is in the frame. -/
theorem regFrame_of_cg {s t : State} (ht : OnlyGroup s t)
    (hc : cg t = { cg s with v := (cg t).v, s := (cg t).s, p := (cg t).p, flags := (cg t).flags, srgen := (cg t).srgen
                             frags := Store.upd (cg s).frags s.curF Frag.onward }) : RegFrame s t := by
  have hfrags : (cg t).frags = Store.upd (cg s).frags s.curF Frag.onward := by rw [hc]
  refine ⟨ht, by rw [hc], fun i hi => ?_, ?_⟩
  · rw [ht.fragAt, hfrags, Store.get_upd_ne _ _ hi]
    rfl
  · rw [cf, ht.curG, ht.curF, ht.fragAt, hfrags, Store.get_upd_self]
    rfl

/-- A register of the acting group that an instruction changes besides is put back: the rest is in the frame. -/
theorem regFrame_putBack {s : State} {f r : Group → Group}
    (hr : ∀ m, r { f (cg s) with frags := m } = { cg s with frags := m }) (hf : (f (cg s)).frags = (cg s).frags) :
    RegFrame s (updCG (advance (updCG s f)) r) := by
  refine regFrame_of_cg (((onlyGroup_updCG s f).trans (onlyGroup_advance _)).trans (onlyGroup_updCG _ r)) ?_
  rw [cg_updCG, cg_advance, cg_updCG, hr, hf]
  rfl

/-! MDS and GANG (R161, R162). -/

theorem ublock_length (s : State) (o : Opnd) (k : Nat) : (ublock s o k).length = k := by
  unfold ublock
  split <;> simp

/-- The traps of a READY fragment at the instruction in hand. -/
theorem traps_raiseAll {s : State} {i : Instr} {cause : Nat} {fadr : Quad} (h : exec i s = .next (raiseAll s cause fadr)) :
    Traps s s i cause fadr := fun hst => ⟨_, h, trapped_raiseAll hst cause fadr⟩

section

variable {s : State} {a : Opnd}

theorem exec_mds_takes (j : BitVec 2) (h : mdOk (ofWords (ublock s a 8)) = true) : exec (.mds j a) s =
    .next (advance (updCG s fun g => { g with md := Store.setList g.md (8 * j.toNat) (ublock s a 8) })) := if_pos h

theorem exec_mds_refuses (j : BitVec 2) (h : mdOk (ofWords (ublock s a 8)) = false) :
    exec (.mds j a) s = .next (raiseAll s cOPERAND 0#64) := if_neg (by simp [h])

theorem exec_gang_takes (h : gangOk s (usrc s a) = true) :
    exec (.gang a) s = .next (advance (updCG s fun g => { g with gang := usrc s a })) := if_pos h

theorem exec_gang_refuses (h : gangOk s (usrc s a) = false) :
    exec (.gang a) s = .next (raiseAll s cGANG ((usrc s a).zeroExtend 64)) := if_neg (by simp [h])

end

/-- Settles O38: each instruction writes its own register where the check passes and traps where it does not. -/
theorem descriptorsAndGangs : Obligations.DescriptorsAndGangs := by
  intro s j a ws
  refine ⟨fun h => ⟨_, exec_mds_takes j h, fun k => ?_, regFrame_putBack (fun _ => rfl) rfl, ?_⟩,
    fun h => traps_raiseAll (exec_mds_refuses j h),
    fun h => ⟨_, exec_gang_takes h, ?_, regFrame_putBack (fun _ => rfl) rfl, ?_⟩,
    fun h => traps_raiseAll (exec_gang_refuses h)⟩
  · rw [cg_advance, cg_updCG, Store.get_setList, ublock_length]
    rfl
  · simp [SameRegs, SameFlags]
  · rw [cg_advance, cg_updCG]
  · simp [SameRegs, SameFlags]

/-! A value written whatever the guard (R115). -/

/-- Of the acting group only the v and s registers differ, and of those the destination holds a value in every active
thread. -/
structure WroteAll (s t : State) (d : Opnd) (w : Word) : Prop where
  only : OnlyGroup s t
  group : cg t = { cg s with v := (cg t).v, s := (cg t).s }
  wrote : WroteIn (active s) s t d 1 fun _ _ => w

theorem threads_isEmpty_iff {m : Word} : (threads m).isEmpty = true ↔ lowest m = none := by
  rw [lowest, List.isEmpty_iff, List.head?_eq_none_iff]

theorem wroteAll_vector (s : State) (n : Nat) (w : Word) : WroteAll s (writeAll s (.v n) w) (.v n) w := by
  have hg : cg (writeAll s (.v n) w) = wrThreads (cg s) (.v n) ((threads (active s)).map fun t => (t, [w])) := cg_updCG s _
  refine ⟨onlyGroup_updCG s _, by rw [hg, wrThreads_eq], fun r j hj => ?_, ?_⟩
  · rw [hg, rdV_wrThreads _ _ _ _ 1 _ hj, find_map_self]
    · by_cases hr : n ≤ r ∧ r < n + 1
      · rw [if_pos hr, show r - n = 0 by omega]
        by_cases ha : (active s).getLsbD j = true <;> simp [hr, ha, mem_threads]
      · rw [if_neg hr, if_neg fun h => hr ⟨h.1, h.2.1⟩]
    · simp only [List.mem_map]
      rintro _ ⟨t, ht, rfl⟩
      exact ⟨lt_of_mem_threads ht, rfl⟩
    · simpa [Function.comp_def] using nodup_threads (active s)
  · rw [hg, wrThreads_eq]
    exact ⟨rfl, rfl⟩

theorem wroteAll_uniform (s : State) (n : Nat) (w : Word) : WroteAll s (writeAll s (.s n) w) (.s n) w := by
  cases hl : lowest (active s) with
  | none =>
    have hs : writeAll s (.s n) w = s := if_pos (threads_isEmpty_iff.mpr hl)
    rw [hs]
    exact ⟨onlyGroup_refl s, rfl, by simp [WroteIn, hl]⟩
  | some l =>
    have hs : writeAll s (.s n) w = updCG s fun g => wrS g n w := if_neg fun h => by simp [threads_isEmpty_iff.mp h] at hl
    have hg : cg (writeAll s (.s n) w) = wrS (cg s) n w := by rw [hs, cg_updCG]
    refine ⟨hs ▸ onlyGroup_updCG s _, by rw [hg]; rfl, fun r => ?_, by rw [hg]; exact ⟨rfl, rfl⟩⟩
    rw [hg, rdS_wrS, hl]
    exact if_congr (by omega) rfl rfl

theorem wroteAll_writeAll (s : State) (d : Opnd) (w : Word) : WroteAll s (writeAll s d w) d w := by
  cases d with
  | v n => exact wroteAll_vector s n w
  | s n => exact wroteAll_uniform s n w
  | _ =>
    refine ⟨onlyGroup_updCG s _, ?_, ?_⟩
    all_goals simp [writeAll, wrThreads, WroteIn, SameRegs]

/-- Going on keeps what was written. -/
theorem WroteIn.advance {m : Word} {s t : State} {d : Opnd} {k : Nat} {val : Nat → Nat → Word} (h : WroteIn m s t d k val) :
    WroteIn m s (Machine.advance t) d k val := by
  cases d <;> simpa [WroteIn, SameRegs, rdV, rdS] using h

/-- What an instruction writes may be told from a state with the same registers and threads. -/
theorem WroteIn.of_sameRegs {m : Word} {s u t : State} {d : Opnd} {k : Nat} {val : Nat → Nat → Word} (hr : SameRegs s u)
    (ha : active u = active s) (h : WroteIn m u t d k val) : WroteIn m s t d k val := by
  obtain ⟨hv, hs, hp⟩ := hr
  cases d <;> simpa [WroteIn, SameRegs, rdV, rdS, hv, hs, hp, ha] using h

/-- Everything that an instruction does which only writes a value in every active thread. -/
theorem done_writeAll (s : State) (d : Opnd) (w : Word) : ∃ t, done (writeAll s d w) = .next t ∧
    WroteIn (active s) s t d 1 (fun _ _ => w) ∧ SameFlags s t ∧ RegFrame s t := by
  obtain ⟨only, group, wrote⟩ := wroteAll_writeAll s d w
  refine ⟨_, rfl, wrote.advance, ?_, regFrame_of_cg (only.trans (onlyGroup_advance _)) ?_⟩
  · rw [SameFlags, cg_advance, group]
    exact ⟨rfl, rfl⟩
  · rw [cg_advance, only.curF, group]

/-! SETM, MTS, GETM and MFS (R114, R115). -/

/-- The MODE bits of a field where it is selected. -/
def modeField (m : BitVec 8) (k : Nat) (x : Word) : Word := if m.getLsbD k then x else 0#32

/-- The fields of MODE do not overlap: their bits add up (R55, R114). -/
theorem w32_setmMask (m : BitVec 8) : w32 (setmMask m.toNat) =
    modeField m 0 0xF8000000#32 ||| modeField m 1 0x07000000#32 ||| modeField m 2 0x00E00000#32 ||| modeField m 3 0x00180000#32 |||
      modeField m 4 0x00040000#32 ||| modeField m 5 0x00020000#32 ||| modeField m 6 0x0001E000#32 ||| modeField m 7 0x00001FF8#32 := by
  revert m
  decide

section

variable {s : State} {i : Instr} {x : Word}

theorem becomes_of_setMode (hi : exec i s = setMode s x) (h : modeOk x = true) :
    Becomes s i { (cf s).onward with mode := x } := by
  refine ⟨_, hi.trans (if_pos h), (onlyFragment_updCF s _).trans (onlyFragment_updCF _ _), ?_⟩
  rw [cf_advance, cf_updCF]
  rfl

theorem trapped_of_setMode (hi : exec i s = setMode s x) (h : modeOk x = false) (hst : (cf s).st = .ready) :
    ∃ t, exec i s = .next t ∧ Trapped s t cOPERAND (active s) 0#64 :=
  ⟨_, hi.trans (if_neg (by simp [h])), trapped_raiseAll hst _ _⟩

end

theorem exec_mts_readOnly {i : BitVec 8} (a : Opnd) (s : State) (h : 1 < i.toNat) : exec (.mts i a) s = .next (advance s) := by
  show execMts i a s = _
  unfold execMts
  split
  · omega
  · omega
  · rfl

theorem exec_mfs {i : BitVec 8} (d : Opnd) (s : State) (h : i ≠ 0x0C#8) :
    exec (.mfs d i) s = done (writeAll s d (sysReg s i.toNat)) := by
  have hi : i.toNat ≠ 0x0C := fun e => h (BitVec.eq_of_toNat_eq e)
  show execMfs d i s = _
  rw [execMfs, if_neg hi]

/-- The state with the time latch taken (R74). -/
def latched (s : State) : State := updCG s fun g => { g with latch := some (w64 s.gt) }

theorem exec_mfs_gtlo (d : Opnd) (s : State) :
    exec (.mfs d 0x0C#8) s = .next (advance (writeAll (latched s) d (w32 s.gt))) := rfl

theorem wroteIn_latched (s : State) (d : Opnd) (w : Word) :
    WroteIn (active s) s (advance (writeAll (latched s) d w)) d 1 fun _ _ => w := by
  have ha : active (latched s) = active s := congrArg Frag.mask (cf_updCG s _ rfl)
  have hr : SameRegs s (latched s) := by simp [SameRegs, latched]
  have h := (wroteAll_writeAll (latched s) d w).wrote
  rw [ha] at h
  exact (h.of_sameRegs hr ha).advance

/-- What a read of GTLO leaves of the acting group. -/
theorem cg_writeAll_latched (s : State) (d : Opnd) (w : Word) : cg (writeAll (latched s) d w) = { cg s with
    v := (cg (writeAll (latched s) d w)).v, s := (cg (writeAll (latched s) d w)).s, latch := some (w64 s.gt) } := by
  have h := (wroteAll_writeAll (latched s) d w).group
  have hg : cg (latched s) = { cg s with latch := some (w64 s.gt) } := cg_updCG s _
  rw [hg] at h
  exact h

/-- Settles O29: SETM and MTS to MODE by the check of `setMode`, GETM and MFS by what `writeAll` does. -/
theorem modeAndSystemRegisters : Obligations.ModeAndSystemRegisters := by
  intro s m i a d field sel new Moded
  have hsel : sel = w32 (setmMask m.toNat) := (w32_setmMask m).symm
  have moded (i : Instr) (x : Word) (hi : exec i s = setMode s x) : Moded i x :=
    ⟨becomes_of_setMode hi, trapped_of_setMode hi⟩
  refine ⟨moded _ _ ?_, moded _ _ rfl, ⟨_, rfl, ?_, ?_, ?_, regFrame_of s _ rfl⟩,
    fun h => ⟨_, exec_mts_readOnly a s h, onlyGoesOn_advance s⟩, done_writeAll s d _,
    fun h => exec_mfs d s h ▸ done_writeAll s d _, _, exec_mfs_gtlo d s, wroteIn_latched s d _, ?_, ?_, ?_⟩
  · show _ = setMode s ((cf s).mode &&& ~~~sel ||| usrc s a &&& sel)
    rw [hsel]
    rfl
  · simp [SameRegs]
  · rw [cg_advance, cg_updCG]
  · rw [cg_advance, cg_updCG]
  · rw [SameFlags, cg_advance, cg_writeAll_latched]
    exact ⟨rfl, rfl⟩
  · rw [cg_advance, cg_writeAll_latched]
  · have only : OnlyGroup s (writeAll (latched s) d (w32 s.gt)) :=
      (onlyGroup_updCG s _).trans (wroteAll_writeAll (latched s) d _).only
    refine regFrame_of_cg ((only.trans (onlyGroup_advance _)).trans (onlyGroup_updCG _ _)) ?_
    rw [cg_updCG, cg_advance, only.curF, cg_writeAll_latched]

end Sys2Proof.Machine

end

/-! A trap of some threads splits them off, a trap of a HANDLER fragment freezes its group (R69, R418, R419, R433). -/

section

namespace Sys2Proof.Machine

open Sys2Proof.Claim

/-! Records of the part (R422). -/

theorem setRing_rdvs (s : State) (k : Nat) (r : RecRing) : (setRing s k r).rdvs = s.rdvs := by
  unfold setRing
  split <;> rfl

theorem ringWrite_rdvs (s : State) (k : Nat) (bs : List Byte) : (ringWrite s k bs).rdvs = s.rdvs := by
  have h (u : State) (pa : Nat) : (homePut u pa bs).rdvs = u.rdvs := by
    rw [homePut, (performAll_homeWrites u (bytesAt pa bs)).frame]
  rw [ringWrite, interrupt_rdvs, h, setRing_rdvs]

/-- A violation record touches no rendezvous. -/
theorem violation_rdvs (s : State) (kind cause ctxid addr detail mid : Nat) :
    (violation s kind cause ctxid addr detail mid).rdvs = s.rdvs := by
  unfold violation ringPut
  dsimp only
  split_ifs
  · exact ringWrite_rdvs _ _ _
  · exact setRing_rdvs _ _ _
  · exact setRing_rdvs _ _ _

/-! A group freezes (R419, R433). -/

/-- A change of the live fragments of a list, each once. -/
theorem get_foldl_live (h : Frag → Frag) {l : List Nat} (hl : l.Nodup) (m : Store Frag) (i : Nat) :
    Store.get (l.foldl (fun m i => if isLive (Store.get m i) then Store.upd m i h else m) m) i =
      if i ∈ l ∧ isLive (Store.get m i) then h (Store.get m i) else Store.get m i := by
  induction l generalizing m with
  | nil => simp
  | cons k l ih =>
    obtain ⟨hk, hl⟩ := List.nodup_cons.mp hl
    have step : Store.get (if isLive (Store.get m k) then Store.upd m k h else m) i =
        if i = k ∧ isLive (Store.get m i) then h (Store.get m i) else Store.get m i := by
      by_cases hi : i = k
      · subst hi
        split_ifs <;> simp_all
      · split_ifs <;> simp_all [Store.get_upd]
    rw [List.foldl_cons, ih hl, step]
    by_cases hi : i = k
    · subst hi
      simp [hk]
    · simp [hi]

theorem freeze_of_stopped {f : Frag} (h : f.st = .free ∨ f.st = .frozen) : f.freeze = f := if_pos (by simpa using h)

theorem freeze_of_going {f : Frag} (h : ¬(f.st = .free ∨ f.st = .frozen)) :
    f.freeze = { f with st := .frozen, kept := f.st, asks := 0 } := if_neg (by simpa using h)

/-- A fragment of a frozen group. -/
theorem get_mapFrags_freeze (x : Group) {i : Nat} (hi : i < 8) :
    Store.get (mapFrags x Frag.freeze).frags i = (Store.get x.frags i).freeze := by
  have hm : i ∈ slots8 := by
    simp only [slots8, List.mem_cons]
    omega
  rw [mapFrags, get_foldl_live _ (by decide)]
  split_ifs with h
  · rfl
  · rw [freeze_of_stopped (.inl (by simpa [hm, isLive] using h))]

/-- The acting HANDLER fragment stands at its trap PC (R433). -/
def stoppedHere (s : State) : State := updCF s fun f => { f with pc := (cf s).pc, mid := true, code := [], wait := .no }

/-- The acting group is frozen with a cause, its HANDLER at its trap PC, before the record of the violation. -/
def frozenHere (s : State) (cause : Nat) : State :=
  updCG (stoppedHere s) fun x => mapFrags { x with viol := some cause } Frag.freeze

theorem raiseAt_handler {s : State} (h : (cf s).st = .handler) (hl : ∀ r ∈ s.rdvs, r.lists s.curG = false) (cause : Nat)
    (flt : Word) (fadr : Quad) (own : Bool) : raiseAt s cause flt fadr (cf s).pc [] own =
      violation (frozenHere s cause) 0 cause (ctxidOf s (cg (stoppedHere s)).ctx) (cf s).pc.toNat flt.toNat (groupMid s.curG) := by
  have hh : isHandler (cf s) = true := by simp [isHandler, h]
  rw [raiseAt, if_pos hh, handlerTrap, makeRecords, List.foldl_nil, rdvDrop_unlisted]
  · rfl
  · rw [freezeGroup, violation_rdvs]
    exact hl

/-- A trap of a HANDLER fragment freezes its group (R69, R419). -/
theorem froze_raiseAt {s : State} (h : (cf s).st = .handler) (hf : s.curF < 8) (hl : ∀ r ∈ s.rdvs, r.lists s.curG = false)
    (cause : Nat) (flt : Word) (fadr : Quad) (own : Bool := false) :
    Froze s (raiseAt s cause flt fadr (cf s).pc [] own) cause flt := by
  have hc : cg (frozenHere s cause) = mapFrags { cg (stoppedHere s) with viol := some cause } Frag.freeze := cg_updCG _ _
  have hcg : cg (stoppedHere s) = { cg s with frags := (cg (stoppedHere s)).frags } := (onlyFragment_updCF s _).2.1
  have only : OnlyGroup s (frozenHere s cause) := (onlyFragment_updCF s _).1.trans (onlyGroup_updCG _ _)
  have frag (i : Nat) (hi : i < 8) : fragAt (frozenHere s cause) s.curG i = (fragAt (stoppedHere s) s.curG i).freeze := by
    rw [only.fragAt, hc, get_mapFrags_freeze _ hi]
    rfl
  refine ⟨frozenHere s cause, only, ?_, ?_, fun i hi hne => ?_, ?_⟩
  · rw [hc, mapFrags, hcg]
  · have hcf : cf (stoppedHere s) = { cf s with pc := (cf s).pc, mid := true, code := [], wait := .no } := cf_updCF s _
    have hfr : cf (frozenHere s cause) = (cf (stoppedHere s)).freeze := frag s.curF hf
    rw [hfr, freeze_of_going (by simp [hcf, h]), hcf, h]
  · have hfr : fragAt (stoppedHere s) s.curG i = fragAt s s.curG i := (onlyFragment_updCF s _).2.2 i hne
    rw [frag i hi, hfr]
    split_ifs with hst
    · exact freeze_of_stopped hst
    · exact freeze_of_going hst
  · rw [raiseAt_handler h hl, hcg]

theorem froze_raiseAll {s : State} (h : (cf s).st = .handler) (hf : s.curF < 8) (hl : ∀ r ∈ s.rdvs, r.lists s.curG = false)
    (cause : Nat) (fadr : Quad) : Froze s (raiseAll s cause fadr) cause (active s) := by
  rw [raiseAll, raise]
  exact froze_raiseAt h hf hl cause (active s) fadr

/-! Some threads of a READY fragment split off (R69, R418). -/

theorem freeFrag_ne {s : State} {i : Nat} (h : (cf s).st = .ready) (hi : freeFrag (cg s) = some i) : i ≠ s.curF := by
  rintro rfl
  have hp := List.find?_some hi
  have hst : (Store.get (cg s).frags s.curF).st = .ready := h
  simp [isLive, hst] at hp

/-- The HANDLER fragment that some threads of the acting fragment become. -/
def Frag.splitOff (s : State) (cause : Nat) (flt : Word) (fadr : Quad) (own : Bool) : Frag :=
  (cf s).toHandler (w64 (hdrTrap (cctx s).hdr)) flt (trapRegs s cause flt flt fadr own) false

/-- The state with those threads split off into an entry. -/
def splitAt (s : State) (cause : Nat) (flt : Word) (fadr : Quad) (own : Bool) (i : Nat) : State :=
  noteTrap (updF (updCF s fun f => { f with mask := f.mask &&& ~~~flt }) s.curG i fun _ => Frag.splitOff s cause flt fadr own)
    s.curG cause flt

/-- A change of a fragment of the acting group changes nothing else of it. -/
theorem cg_updF (s : State) (i : Nat) (h : Frag → Frag) :
    cg (updF s s.curG i h) = { cg s with frags := (cg (updF s s.curG i h)).frags } := by
  have hg : cg (updF s s.curG i h) = { cg s with frags := Store.upd (cg s).frags i h } := cg_updCG s _
  rw [hg]

/-- A trap that only the fragments of the acting group take part in, once it is noted. -/
theorem trapNoted_noteTrap {s u : State} (hu : OnlyGroup s u) (hc : cg u = { cg s with frags := (cg u).frags }) (cause : Nat)
    (flt : Word) : TrapNoted s (noteTrap u s.curG cause flt) cause flt := by
  have hg : cg (noteTrap u s.curG cause flt) = { cg s with
      frags := (cg u).frags, traps := (cg s).traps + 1
      last := (threads flt).foldl (fun m t => Store.set m t (((cg s).traps + 1) * 256 + cause % 256)) (cg s).last } := by
    rw [← hu.curG, noteTrap]
    exact (cg_updCG u _).trans (by rw [hc])
  refine ⟨by rw [hg], fun j _ => ?_⟩
  rw [hg, Store.get_foldl_set]
  simp only [mem_threads]

section

variable {s : State} {flt : Word} {i : Nat}

theorem trapsWhole_splits (ha : flt ≠ active s) (hi : freeFrag (cg s) = some i) : trapsWhole s flt = false := by
  have hg : freeFrag (gAt s s.curG) = some i := hi
  have hm : flt ≠ (fragAt s s.curG s.curF).mask := ha
  simp [trapsWhole, trapsWholeOf, hm, hg]

theorem raiseAt_splits (h : (cf s).st = .ready) (ha : flt ≠ active s) (hi : freeFrag (cg s) = some i) (cause : Nat)
    (fadr : Quad) (own : Bool) : raiseAt s cause flt fadr (cf s).pc [] own = splitAt s cause flt fadr own i := by
  have hw : trapsWholeOf s s.curG s.curF flt = false := trapsWhole_splits ha hi
  have hidx : (freeFrag (gAt s s.curG)).getD s.curF = i := congrArg (fun o : Option Nat => o.getD s.curF) hi
  rw [raiseAt, isHandler_of_ready h, enterHandler, hw, hidx]
  rfl

theorem raiseSome_splits (h : (cf s).st = .ready) (h0 : flt ≠ 0#32) (ha : flt ≠ active s) (hi : freeFrag (cg s) = some i)
    (cause : Nat) (fadr : Quad) (go : State → State) (own : Bool) :
    raiseSome s cause flt fadr [] go own = go (splitAt s cause flt fadr own i) := by
  rw [raiseSome, isHandler_of_ready h, trapsWhole_splits ha hi, raiseAt_splits h ha hi]
  simp [emptyMask, h0]

/-- Where any thread traps, a HANDLER fragment traps with all. -/
theorem raiseSome_handler (h : (cf s).st = .handler) (h0 : flt ≠ 0#32) (cause : Nat) (fadr : Quad) (go : State → State)
    (own : Bool) : raiseSome s cause flt fadr [] go own = raiseAt s cause flt fadr (cf s).pc [] own := by
  simp [raiseSome, emptyMask, h0, isHandler, h]

theorem fragAt_splitAt (cause : Nat) (fadr : Quad) (own : Bool) (k : Nat) :
    fragAt (splitAt s cause flt fadr own i) s.curG k =
      if k = i then Frag.splitOff s cause flt fadr own
      else if k = s.curF then { cf s with mask := active s &&& ~~~flt } else fragAt s s.curG k := by
  rw [splitAt, noteTrap, fragAt_updG fun _ => by rfl, fragAt_updF, updCF, fragAt_updF]
  rfl

theorem onlyGroup_splitAt (cause : Nat) (fadr : Quad) (own : Bool) : OnlyGroup s (splitAt s cause flt fadr own i) :=
  ((onlyFragment_updCF s _).1.trans (onlyGroup_updCG _ _)).trans (onlyGroup_updCG _ _)

theorem trapNoted_splitAt (cause : Nat) (fadr : Quad) (own : Bool) :
    TrapNoted s (splitAt s cause flt fadr own i) cause flt := by
  refine trapNoted_noteTrap ((onlyFragment_updCF s _).1.trans (onlyGroup_updCG _ _)) ?_ cause flt
  have h := cg_updF (updCF s fun f => { f with mask := f.mask &&& ~~~flt }) i fun _ => Frag.splitOff s cause flt fadr own
  rw [cg_updCF] at h
  exact h

theorem splitOff_of_ready (h : (cf s).st = .ready) (cause : Nat) (fadr : Quad) (own : Bool) :
    Frag.splitOff s cause flt fadr own = { cf s with
      st := .handler, pc := w64 (hdrTrap (cctx s).hdr), mask := flt, mid := false, code := [], pstk := [], asks := 0
      trap := trapRegs s cause flt flt fadr own, wait := .no } := by
  simp [Frag.splitOff, Frag.toHandler, h]

end

theorem exec_call_noRoom {s : State} {a : Opnd} (ht : (fblock (cf s).pc + (usrc s a).signExtend 64).toNat % 64 = 0)
    (hr : roomFor s 1 = false) : exec (.call a) s = .next (raiseAll s cSTACK 0#64) := by
  show execCall a s = _
  have hok : targetOk (relTarget s a) = true := beq_iff_eq.mpr ht
  rw [execCall, transfer, if_pos hok, hr]
  rfl

/-- Settles O28: a HANDLER's trap by the state that `freezeGroup` records, a READY fragment's by the entry it splits off. -/
theorem trapSplitsOrFreezes : Obligations.TrapSplitsOrFreezes := by
  refine ⟨fun s a cause flt fadr go hst hf hl => ⟨fun h0 => ?_, ⟨_, rfl, froze_raiseAll hst hf hl _ _⟩, fun ht hp => ?_⟩,
    fun s cause flt fadr i go own hst h0 ha hi => ?_⟩
  · rw [raiseSome_handler hst h0]
    exact froze_raiseAt hst hf hl cause flt fadr
  · have hroom : roomFor s 1 = false := by simp [roomFor, depthHere, hst, hp]
    exact ⟨_, exec_call_noRoom ht hroom, froze_raiseAll hst hf hl _ _⟩
  · have hne := freeFrag_ne hst hi
    have frag := fragAt_splitAt (s := s) (flt := flt) (i := i) cause fadr own
    refine ⟨_, raiseSome_splits hst h0 ha hi cause fadr go own, onlyGroup_splitAt _ _ _, trapNoted_splitAt _ _ _, ?_,
      fun k hk hki => ?_, ?_⟩
    · exact (frag s.curF).trans (by rw [if_neg hne.symm, if_pos rfl])
    · rw [frag, if_neg hki, if_neg hk]
    · rw [frag, if_pos rfl, splitOff_of_ready hst]

end Sys2Proof.Machine

end

/-! Pushes on the reconvergence stack and pops, with the stack area (R66, R104, R213, R405). -/

section

namespace Sys2Proof.Machine

open Sys2Proof.Claim

/-! Entries in the stack area (R66). -/

/-- An entry's image is read back as the entry. -/
theorem StkEntry.ofImage_image {e : StkEntry} (hk : e.kind < 4) (hp : e.pc.toNat % 4 = 0) :
    StkEntry.ofImage (leNat (leBytes 16 e.image)) = e := by
  obtain ⟨kind, pc, mask, mode⟩ := e
  have hpc := pc.isLt
  have hmask := mask.isLt
  have hmode := mode.isLt
  simp only at hk hp
  rw [leNat_leBytes]
  simp only [StkEntry.image, StkEntry.ofImage, w64, w32, StkEntry.mk.injEq]
  refine ⟨by omega, ?_, ?_, ?_⟩
  all_goals
    apply BitVec.eq_of_toNat_eq
    rw [BitVec.toNat_ofNat]
    omega

theorem writeVa_homeWrites (s : State) (caches : List Nat) (ctx va : Nat) (bs : List Byte) :
    HomeWrites s (writeVa s caches ctx va bs) := by
  induction bs generalizing s va with
  | nil => exact .refl s
  | cons b bs ih =>
    rw [writeVa]
    refine HomeWrites.trans ?_ (ih _ _)
    split
    · exact perform_homeWrites s _ _
    · exact .refl s

theorem spill_homeWrites (s : State) (g i : Nat) (e : StkEntry) : HomeWrites s (spill s g i e) :=
  (meetStack_onlyHomes s g i).homeWrites.trans (writeVa_homeWrites _ _ _ _ _)

/-! Pushes and pops (R66, R104). -/

theorem HomeWrites.cg {s t : State} (h : HomeWrites s t) : Machine.cg t = Machine.cg s := by rw [h.frame]; rfl

section

variable {s : State}

theorem pushHere_handler (h : (cf s).st = .handler) (e : StkEntry) :
    pushHere s e = updCF s fun f => { f with pstk := e :: f.pstk } := if_pos h

theorem popHere_handler (h : (cf s).st = .handler) : popHere s = updCF s fun f => { f with pstk := f.pstk.tail } := if_pos h

theorem pushHere_keeps (h : (cf s).st ≠ .handler) (hl : (cg s).stk.length < 16) (e : StkEntry) :
    pushHere s e = updCG s fun x => { x with stk := e :: x.stk } := (if_neg h).trans (if_pos hl)

/-- The oldest hardware entry of the acting group, in its place of the stack area. -/
def spilledHere (s : State) : State := spill s s.curG (cg s).spilled ((cg s).stk.getLast?.getD default)

theorem spilledHere_homeWrites (s : State) : HomeWrites s (spilledHere s) := spill_homeWrites s _ _ _

theorem pushHere_spills (h : (cf s).st ≠ .handler) (hl : 16 ≤ (cg s).stk.length) (e : StkEntry) : pushHere s e =
    updCG (spilledHere s) fun x => { x with stk := e :: x.stk.dropLast, spilled := x.spilled + 1 } := by
  rw [updCG, (spilledHere_homeWrites s).curG]
  exact (if_neg h).trans (if_neg hl.not_gt)

theorem cg_pushHere_keeps (h : (cf s).st ≠ .handler) (hl : (cg s).stk.length < 16) (e : StkEntry) :
    cg (pushHere s e) = { cg s with stk := e :: (cg s).stk } := by
  rw [pushHere_keeps h hl, cg_updCG]

theorem cg_pushHere_spills (h : (cf s).st ≠ .handler) (hl : 16 ≤ (cg s).stk.length) (e : StkEntry) : cg (pushHere s e) =
    { cg s with stk := e :: (cg s).stk.dropLast, spilled := (cg s).spilled + 1 } := by
  rw [pushHere_spills h hl, cg_updCG, (spilledHere_homeWrites s).cg]

/-- A push on the shared stack leaves the acting fragment alone. -/
theorem cf_pushHere (h : (cf s).st ≠ .handler) (e : StkEntry) : cf (pushHere s e) = cf s := by
  rcases Nat.lt_or_ge (cg s).stk.length 16 with hl | hl
  · rw [pushHere_keeps h hl, cf_updCG _ _ rfl]
  · rw [pushHere_spills h hl, cf_updCG _ _ rfl, (spilledHere_homeWrites s).cf]

theorem topOf_shared (h : (cf s).st ≠ .handler) : topOf s = (cg s).stk.head? := if_neg h
theorem topOf_handler (h : (cf s).st = .handler) : topOf s = (cf s).pstk.head? := if_pos h
theorem depthHere_shared (h : (cf s).st ≠ .handler) : depthHere s = (cg s).stk.length + (cg s).spilled := if_neg h
theorem depthHere_handler (h : (cf s).st = .handler) : depthHere s = (cf s).pstk.length := if_pos h

/-- An entry pushed is on top, one level deeper. -/
theorem pushHere_deepens (s : State) (e : StkEntry) :
    topOf (pushHere s e) = some e ∧ depthHere (pushHere s e) = depthHere s + 1 := by
  by_cases h : (cf s).st = .handler
  · have hcf : cf (pushHere s e) = { cf s with pstk := e :: (cf s).pstk } := by rw [pushHere_handler h, cf_updCF]
    have hst : (cf (pushHere s e)).st = .handler := by rw [hcf, h]
    rw [topOf_handler hst, depthHere_handler hst, depthHere_handler h, hcf]
    exact ⟨rfl, rfl⟩
  · have hst : (cf (pushHere s e)).st ≠ .handler := by rwa [cf_pushHere h]
    rw [topOf_shared hst, depthHere_shared hst, depthHere_shared h]
    rcases Nat.lt_or_ge (cg s).stk.length 16 with hl | hl
    · rw [cg_pushHere_keeps h hl]
      exact ⟨rfl, Nat.add_right_comm _ _ _⟩
    · rw [cg_pushHere_spills h hl]
      refine ⟨rfl, ?_⟩
      simp only [List.length_cons, List.length_dropLast]
      omega

/-- A pop below DEP closes the region of the acting group (R416). -/
def closedBelow (s : State) : State :=
  if depthOf (cg s) < bits (cg s).rgnx.toNat 4 0 then closeRegion s else s

theorem cg_closedBelow (s : State) : cg (closedBelow s) = { cg s with
    rgnx := if depthOf (cg s) < bits (cg s).rgnx.toNat 4 0 then (cg s).rgnx &&& 0x7FFFFFFF#32 else (cg s).rgnx } := by
  unfold closedBelow
  split_ifs
  · rw [closeRegion, cg_updCG]
  · rfl

theorem closedBelow_onlyGroup (s : State) : OnlyGroup s (closedBelow s) := by
  unfold closedBelow
  split_ifs
  · exact onlyGroup_updCG s _
  · exact onlyGroup_refl s

theorem popHere_keeps (h : (cf s).st ≠ .handler) (h0 : (cg s).spilled = 0) :
    popHere s = closedBelow (updCG s fun x => { x with stk := (cg s).stk.tail }) := by
  have hs : ¬0 < (gAt s s.curG).spilled := Nat.not_lt.mpr h0.le
  rw [popHere, if_neg h, popG]
  simp only [if_neg hs]
  rfl

/-- The place of the newest spilled entry has met the L2, and the entry is back in hardware. -/
def filledHere (s : State) : State :=
  updCG (meetStack s s.curG ((cg s).spilled - 1)) fun x => { x with
    stk := (cg s).stk.tail ++ [unspill s s.curG (x.spilled - 1)], spilled := x.spilled - 1 }

theorem popHere_fills (h : (cf s).st ≠ .handler) (h0 : 0 < (cg s).spilled) : popHere s = closedBelow (filledHere s) := by
  have hs : 0 < (gAt s s.curG).spilled := h0
  have hG : (meetStack s s.curG ((gAt s s.curG).spilled - 1)).curG = s.curG :=
    (meetStack_onlyHomes s s.curG _).homeWrites.curG
  rw [popHere, if_neg h, popG]
  simp only [if_pos hs, closedBelow, closeRegion, filledHere, cg, updCG, updG_curG, hG]

theorem unspill_image {k : Nat} {old : StkEntry} (hk : old.kind < 4) (hp : old.pc.toNat % 4 = 0)
    (hr : readVa s (coreCaches (coreOf s.curG)) (cg s).ctx (stackArea s s.curG + 16 * k) 16 = some (leBytes 16 old.image)) :
    unspill s s.curG k = old := by
  have h : readVa s (coreCaches (coreOf s.curG)) (gAt s s.curG).ctx (stackArea s s.curG + 16 * k) 16 =
    some (leBytes 16 old.image) := hr
  rw [unspill, h]
  exact StkEntry.ofImage_image hk hp

theorem cg_filledHere {k : Nat} (hk : (cg s).spilled = k + 1) :
    cg (filledHere s) = { cg s with stk := (cg s).stk.tail ++ [unspill s s.curG k], spilled := k } := by
  rw [filledHere, cg_updCG, (meetStack_onlyHomes s s.curG _).homeWrites.cg, hk]
  rfl

/-- What a line's meeting with its home changes may be put back: only the acting group then differs. -/
theorem OnlyHomes.onlyGroup {s v t : State} (hv : OnlyHomes s v) (ht : OnlyGroup v t) :
    OnlyGroup s { t with l2 := s.l2, evmax := s.evmax, pmc := s.pmc, msix := s.msix, fresh := s.fresh } := by
  obtain ⟨heq, hg, hm, hl⟩ := ht
  rw [hv.homeWrites.curG] at hg
  refine ⟨?_, fun g h => (hg g h).trans (hv.sameOwners.gAt g), fun a => (hm a).trans ?_, fun a => (hl a).trans ?_⟩
  · rw [heq, show v = _ from hv]
  · rw [memByte, hv.mem, memByte]
  · rw [show v = _ from hv]

end

/-- Settles O25: on each stack what a push and a pop make of the acting group; the stack area by the image of the entry. -/
theorem reconvergenceStack : Obligations.ReconvergenceStack := by
  intro s e
  obtain ⟨htop, hdepth⟩ := pushHere_deepens s e
  refine ⟨htop, hdepth, fun h => ?_, fun h hl => ?_, fun h hl old hold => ?_, fun h hl k old hk hkind hpc hread => ?_⟩
  · have hcf : cf (pushHere s e) = { cf s with pstk := e :: (cf s).pstk } := by rw [pushHere_handler h, cf_updCF]
    rw [popHere_handler (by rw [hcf, h]), cf_updCF, hcf, pushHere_handler h]
    exact ⟨onlyFragment_updCF s _, rfl⟩
  · have hcg := cg_pushHere_keeps h hl e
    refine ⟨pushHere_keeps h hl e ▸ onlyGroup_updCG s _, hcg, fun h0 hdep => ?_⟩
    have hback : cg (updCG (pushHere s e) fun x => { x with stk := (cg (pushHere s e)).stk.tail }) = cg s := by
      rw [cg_updCG, hcg]
      rfl
    rw [popHere_keeps (by rwa [cf_pushHere h]) (by rw [hcg, h0]), cg_closedBelow, hback, if_neg hdep.not_gt]
  · refine ⟨cg_pushHere_spills h hl.ge e, ?_⟩
    rw [pushHere_spills h hl.ge, updCG, updG_mem, spilledHere, hold, spill, stackArea]
    rfl
  · rw [popHere_fills h (hk ▸ k.succ_pos)]
    refine ⟨(meetStack_onlyHomes s s.curG _).onlyGroup ((onlyGroup_updCG _ _).trans (closedBelow_onlyGroup _)), ?_⟩
    have hlen : depthOf { cg s with stk := (cg s).stk.tail ++ [old], spilled := k } = 16 + k := by simp [depthOf, hl]
    rw [cg_closedBelow, cg_filledHere hk, unspill_image hkind hpc hread, hlen]

end Sys2Proof.Machine

end

/-! Reductions and prefix sums over the elements of threads (R95, R96, R137, R138). -/

section

namespace Sys2Proof.Machine

/-! Identities (R137, R138). -/

theorem packWidth_pos (k : Nat) : 0 < packWidth k := by
  unfold packWidth
  split <;> decide

/-- The least number of a signed range is the top bit alone. -/
theorem wrapN_sMin {w : Nat} (hw : 0 < w) : wrapN w (sMin w) = 2 ^ (w - 1) := by
  obtain ⟨n, rfl⟩ := Nat.exists_eq_add_one.2 hw
  have h : (-(2 ^ n : Int)) % 2 ^ (n + 1) = 2 ^ n := by
    rw [← Int.add_emod_right, pow_succ, Int.emod_eq_of_lt] <;> linarith [show (0 : Int) < 2 ^ n by positivity]
  rw [wrapN, sMin, Nat.add_sub_cancel, h]
  exact_mod_cast Int.toNat_natCast (2 ^ n)

/-- The greatest number of a signed range is all bits below the top one. -/
theorem wrapN_sMax {w : Nat} (hw : 0 < w) : wrapN w (sMax w) = 2 ^ (w - 1) - 1 := by
  obtain ⟨n, rfl⟩ := Nat.exists_eq_add_one.2 hw
  have h : (2 ^ n - 1 : Int) % 2 ^ (n + 1) = 2 ^ n - 1 := by
    rw [pow_succ, Int.emod_eq_of_lt] <;> linarith [show (0 : Int) < 2 ^ n by positivity]
  rw [wrapN, sMax, Nat.add_sub_cancel, h]
  have : (2 ^ n : Int) = ((2 ^ n : Nat) : Int) := by push_cast; rfl
  omega

theorem fromElems_replicate_zero (w n : Nat) : fromElems w (List.replicate n 0) = 0 := by
  induction n with
  | zero => rfl
  | succ n ih => simp [List.replicate_succ, fromElems, ih]

/-- An absent node delivers the word 0, which is the sum of no leaf. -/
theorem fromElems_getD_nil (w n : Nat) (x : Node) :
    fromElems w (x.getD []) = fromElems w (x.getD (List.replicate n 0)) := by
  cases x with
  | none => exact (fromElems_replicate_zero w n).symm
  | some l => rfl

/-! Leaves and delivery. -/

/-- The leaves with the case of `tid` in the uniform class (R27) written out. -/
theorem leafOf_eq (s : State) (d a : Opnd) (w : Nat) : leafOf s d a w = fun j =>
    if (if uniform d then active s else selected s).getLsbD j then
      some (elems w (src s .pack a (if uniform d = true ∧ a = .tid then (lowest (active s)).getD 0 else j)))
    else none := by
  funext j
  simp only [leafOf, leafSrc, Bool.and_eq_true, beq_iff_eq]

/-- Every executing thread j takes the node `r j`, the identity in each element where it is absent, and nothing else differs. -/
def Delivers (s : State) (d : Opnd) (i : Instr) (r : Nat → Node × Nat) (ident : Nat) : Prop :=
  let w := packWidth (mIpack (cf s).mode)
  ∃ t, exec i s = .next t ∧
    Wrote s t d 1 (fun j _ => w32 (fromElems w ((r j).1.getD (List.replicate (32 / w) ident)))) ∧
    RaisedFlags s t d (fun j => (r j).2) ∧ (cg t).srgen = (cg s).srgen ∧ RegFrame s t

section

variable {s : State} {i : Instr} {d a : Opnd} {w : Nat} (hw : packWidth (mIpack (cf s).mode) = w)

include hw

theorem delivers_of_reduce {leaf : Nat → Node} {f : Nat → Nat → Nat → Nat × Nat} {g : Nat → Nat → Nat × Nat}
    {ident : Nat → Nat} {n : Nat} (res : Res) (hi : exec i s = res) (hres : res = reduce s d a f ident)
    (hleaf : leafOf s d a w = leaf) (hg : f w = g) (hn : ident w = n) : Delivers s d i (fun _ => nodeAt g leaf 5 0) n := by
  subst hw hleaf hg hn hres
  rw [Delivers, hi]
  exact perThread_spec s d _

theorem delivers_of_prefixSum {k : Nat} {r : Nat → Node × Nat} (res : Res) (hi : exec i s = res)
    (hres : res = prefixSum s d a k) (hr : (fun j => prefixOf (addNode s w) (leafOf s d a w) (j + k)) = r) :
    Delivers s d i r 0 := by
  subst hw hr hres
  simp only [Delivers, ← fromElems_getD_nil, hi]
  exact perThread_spec s d _

end

/-- Settles O16: each instruction delivers the nodes of its tree over `leafOf`, whose leaves `leafOf_eq` writes out. -/
theorem integerReductions : Obligations.IntegerReductions := by
  intro s d a w leaf add larger smaller All
  have hleaf : leafOf s d a w = leaf := leafOf_eq s d a w
  have hw : 0 < w := packWidth_pos _
  refine ⟨?radd, ?rmax, ?rmin, ?psum, ?psumx⟩
  case radd => exact delivers_of_reduce rfl (execRadd d a s) rfl rfl hleaf rfl rfl
  case rmax => exact delivers_of_reduce rfl (execRmax d a s) rfl rfl hleaf rfl (wrapN_sMin hw)
  case rmin => exact delivers_of_reduce rfl (execRmin d a s) rfl rfl hleaf rfl (wrapN_sMax hw)
  case psum => exact delivers_of_prefixSum rfl (execPsum d a s) rfl rfl (hleaf ▸ rfl)
  case psumx => exact delivers_of_prefixSum rfl (execPsumx d a s) rfl rfl (hleaf ▸ rfl)

end Sys2Proof.Machine

end

/-! Floating-point results rounded element by element, and results delivered exactly (R82, R142, R143, R151). -/

section

namespace Sys2Proof.Machine

open Sys2Proof.Claim

/-! The generator (R82). -/

theorem srAfter_srAfter (k n : Nat) (x : Word) : srAfter n (srAfter k x) = srAfter (k + n) x := by
  induction n with
  | zero => rfl
  | succ n ih => exact congrArg srStep ih

theorem generatorAfter_generatorAfter (mode k n : Nat) (x : Word) :
    generatorAfter mode (generatorAfter mode x k) n = generatorAfter mode x (k + n) := by
  unfold generatorAfter
  split <;> simp [srAfter_srAfter]

theorem iterate_generatorAfter (mode n k : Nat) (x : Word) :
    (fun y => generatorAfter mode y n)^[k] x = generatorAfter mode x (n * k) := by
  induction k with
  | zero => simp [generatorAfter, srAfter]
  | succ k ih => rw [Function.iterate_succ_apply', ih, generatorAfter_generatorAfter, Nat.mul_succ]

theorem drawn_generatorAfter (mode k n : Nat) (x : Word) :
    drawn mode (generatorAfter mode x k) n = drawn mode x (k + n) := by
  unfold drawn generatorAfter
  split
  · rw [srAfter_srAfter, Nat.add_assoc]
  · rfl

/-- A rounding takes the generator's next value and moves it on by one step. -/
theorem draw_eq (e : Env) (mode : Nat) : e.draw mode = (drawn mode e.sr 0, ⟨e.fl, generatorAfter mode e.sr 1⟩) := by
  unfold Env.draw drawn generatorAfter
  split <;> rfl

/-! Elements in ascending order. -/

theorem overElems_append (f : Nat → Env → Nat × Env) (l m : List Nat) (e : Env) :
    overElems f (l ++ m) e =
      ((overElems f l e).1 ++ (overElems f m (overElems f l e).2).1, (overElems f m (overElems f l e).2).2) := by
  induction l generalizing e with
  | nil => rfl
  | cons i l ih => simp only [List.cons_append, overElems, ih]

/-- The encodings and FLAGS bits of `n` roundings from a state of the generator, element i by `g` from its drawn value. -/
def roundings (mode : Nat) (x : Word) (n : Nat) (g : Nat → Nat → Nat × Nat) : List (Nat × Nat) :=
  (List.range n).map fun i => g (drawn mode x i) i

theorem roundings_succ (mode : Nat) (x : Word) (n : Nat) (g : Nat → Nat → Nat × Nat) :
    roundings mode x (n + 1) g = roundings mode x n g ++ [g (drawn mode x n) n] := by
  simp [roundings, List.range_succ]

theorem orFlags_append_singleton (l : List Nat) (n : Nat) : orFlags (l ++ [n]) = orFlags l ||| n := by
  simp [orFlags]

/-- Elements that each draw once: the environment holds all their flags, and the generator has moved on by as many steps. -/
theorem overElems_draw {mode : Nat} {f : Nat → Env → Nat × Env} {g : Nat → Nat → Nat × Nat}
    (hf : ∀ i e, f i e = ((g (e.draw mode).1 i).1, (e.draw mode).2.flag (g (e.draw mode).1 i).2)) (n : Nat) (e : Env) :
    overElems f (List.range n) e = ((roundings mode e.sr n g).map (·.1),
      ⟨e.fl ||| orFlags ((roundings mode e.sr n g).map (·.2)), generatorAfter mode e.sr n⟩) := by
  induction n with
  | zero => simp [overElems, roundings, orFlags, generatorAfter, srAfter]
  | succ n ih =>
    rw [List.range_succ, overElems_append, ih, roundings_succ]
    simp only [overElems, hf, draw_eq, Env.flag, drawn_generatorAfter, generatorAfter_generatorAfter, Nat.add_zero,
      List.map_append, List.map_cons, List.map_nil, orFlags_append_singleton, Nat.lor_assoc]

/-- The result word of `n` roundings into elements of `w` bits, and its FLAGS bits. -/
def roundedWord (mode w n : Nat) (g : Nat → Nat → Nat × Nat) (x : Word) : List Word × Nat :=
  ([w32 (fromElems w ((roundings mode x n g).map (·.1)))], orFlags ((roundings mode x n g).map (·.2)))

theorem roundedWord_generatorAfter (mode w n k : Nat) (g : Nat → Nat → Nat × Nat) (x : Word) :
    roundedWord mode w n g (generatorAfter mode x k) =
      let rs := (List.range n).map fun i => g (drawn mode x (k + i)) i
      ([w32 (fromElems w (rs.map (·.1)))], orFlags (rs.map (·.2))) := by
  simp only [roundedWord, roundings, drawn_generatorAfter]

/-! Whole instructions. -/

section

variable {s : State} {i : Instr} {d : Opnd} {f : FMode → Nat → Nat → Val} {x : Nat → Nat → Val}

/-- An instruction that rounds `n` elements for each thread, element e of thread j by `g` from its drawn value. -/
theorem rounds_of_overElems {w n : Nat} {g : Nat → Nat → Nat → Nat × Nat} {f : Nat → Nat → Env → Nat × Env}
    (hi : exec i s = perThreadEnv s d fun j e =>
      (w32 (fromElems w (overElems (f j) (List.range n) e).1), (overElems (f j) (List.range n) e).2))
    (hf : ∀ j k e, f j k e = ((g (e.draw (mRound (cf s).mode)).1 j k).1,
      (e.draw (mRound (cf s).mode)).2.flag (g (e.draw (mRound (cf s).mode)).1 j k).2)) : Rounds s i d w n g := by
  have hrun := runOver_spec s d
    (fun j e => ([w32 (fromElems w (overElems (f j) (List.range n) e).1)], (overElems (f j) (List.range n) e).2))
    (fun j => roundedWord (mRound (cf s).mode) w n fun v => g v j) (fun y => generatorAfter (mRound (cf s).mode) y n) 1
    (fun j e => by rw [overElems_draw (g := fun v => g v j) (hf j)]; rfl) (fun _ _ => rfl)
  simp only [iterate_generatorAfter, roundedWord_generatorAfter] at hrun
  exact ⟨_, hi, hrun⟩

/-- An instruction of `rounded` rounds the exact value of each element once (R142). -/
theorem arith_of_rounded (res : Res) (hi : exec i s = res) (hres : res = rounded s d f) (hx : f (fmode s) = x) :
    Arith s i d x := by
  subst hx hres
  unfold Arith
  exact rounds_of_overElems hi fun _ _ _ => rfl

/-- A transcendental rounds its value of each element once (R145). -/
theorem arith_of_fnOp (a : Opnd) (f : Fn) (hi : exec i s = fnOp s d a f) :
    Arith s i d fun j e => f.eval (fsrc s (fmode s) a j e) := arith_of_rounded _ hi rfl rfl

theorem orFlags_map_zero (l : List Nat) : orFlags (l.map fun _ => 0) = 0 := by
  induction l with
  | nil => rfl
  | cons _ l ih => simpa [orFlags] using ih

/-- An instruction with one result word per thread and no flag. -/
theorem word1_of_perThread {val : Nat → Word} (hi : exec i s = perThread s d fun j => (val j, 0)) : Word1 s i d val := by
  obtain ⟨t, ht, hwrote, hflags, hgen, hframe⟩ := perThread_spec s d fun j => (val j, 0)
  rw [RaisedFlags, orFlags_map_zero] at hflags
  exact ⟨t, hi.trans ht, hwrote, ⟨by simpa [w32] using hflags, hgen⟩, hframe⟩

/-- An instruction of `unrounded` delivers each element exactly (R143). -/
theorem word1_of_unrounded (res : Res) (hi : exec i s = res) (hres : res = unrounded s d f) (hx : f (fmode s) = x) :
    Word1 s i d fun j => w32 (fromElems (fmode s).fmt.width ((List.range (32 / (fmode s).fmt.width)).map fun e =>
      ((fmode s).fmt.finish 0 false false 0 (x j e)).1)) := by
  subst hx hres
  exact word1_of_perThread hi

/-- H2F outside F32 delivers one element (R151). -/
theorem exec_h2f (d a : Opnd) (k : BitVec 1) (h : mFtype (cf s).mode ≠ 0) : exec (.h2f d a k) s =
    perThread s d fun j => (w32 (f32.finish 0 false false 0 (fsrc s (fmode s) a j k.toNat)).1, 0) := if_neg h

end

/-- Settles O17: an instruction of `rounded` by one lemma about the roundings of its elements, an exact one by its words. -/
theorem floatArithmetic : Obligations.FloatArithmetic := by
  intro s d a b k m x y z
  refine ⟨?fadd, ?fsub, ?fmul, ?fma, ?fms, ?fscal, ?frcp, ?frsq, ?fsqrt, ?fexp2, ?flog2, ?fsin, ?fcos, ?ftanh, ?fmin, ?fmax,
    ?fabs, ?fneg, ?h2f⟩
  case fadd => exact arith_of_rounded (execFadd d a b s) rfl rfl rfl
  case fsub => exact arith_of_rounded (execFsub d a b s) rfl rfl rfl
  case fmul => exact arith_of_rounded (execFmul d a b s) rfl rfl rfl
  case fma => exact arith_of_rounded (execFma d a b s) rfl rfl rfl
  case fms => exact arith_of_rounded (execFms d a b s) rfl rfl rfl
  case fscal => exact arith_of_rounded (execFscal d a b s) rfl rfl rfl
  case frcp => exact arith_of_fnOp a .rcp rfl
  case frsq => exact arith_of_fnOp a .rsq rfl
  case fsqrt => exact arith_of_fnOp a .sqrt rfl
  case fexp2 => exact arith_of_fnOp a .exp2 rfl
  case flog2 => exact arith_of_fnOp a .log2 rfl
  case fsin => exact arith_of_fnOp a .sin rfl
  case fcos => exact arith_of_fnOp a .cos rfl
  case ftanh => exact arith_of_fnOp a .tanh rfl
  case fmin => exact word1_of_unrounded (execFmin d a b s) rfl rfl rfl
  case fmax => exact word1_of_unrounded (execFmax d a b s) rfl rfl rfl
  case fabs => exact word1_of_unrounded (execFabs d a s) rfl rfl rfl
  case fneg => exact word1_of_unrounded (execFneg d a s) rfl rfl rfl
  case h2f => exact fun h => word1_of_perThread (exec_h2f d a k h)

end Sys2Proof.Machine

end

/-! NOP and BRA, what TRAP raises and RTE returns to (R100, R101, R112, R113, R420, R430). -/

section

namespace Sys2Proof.Machine

open Sys2Proof.Claim

/-! NOP (R113). -/

/-- The word of a decoded instruction is the word of its form (R25). -/
theorem word_of_decode {w : Word} {ls rest : List Word} {i : Instr} (h : decode w ls = .ok (i, rest)) :
    ∃ f, form i = some f ∧ f.word = w := by
  unfold decode at h
  split at h
  · cases h
  · split_ifs at h
    split at h
    · cases h
    · split_ifs at h with hw
      cases h
      exact ⟨_, ‹_›, eq_of_beq (Bool.and_eq_true_iff.1 hw).2⟩

/-- Settles O21: the decoder finds NOP in the word 0, and only the word 0 is the word of its form. -/
theorem nopHasNoEffect : Obligations.NopHasNoEffect := by
  have zero (ls : List Word) : decode 0#32 ls = .ok (.nop, ls) := encodeDecode .nop (by decide) _ [] ls (by decide)
  refine ⟨fun s => ⟨_, rfl, onlyGoesOn_advance s⟩, fun w ls rest => ⟨fun h => ?_, ?_⟩⟩
  · obtain ⟨f, hf, rfl⟩ := word_of_decode h
    cases hf
    have hrest := (zero ls).symm.trans h
    cases hrest
    exact ⟨rfl, rfl⟩
  · rintro ⟨rfl, rfl⟩
    exact zero rest

/-! Transfers (R39, R101). -/

section

variable {s : State} {i : Instr}

/-- An instruction that changes only the acting fragment. -/
theorem becomes_updCF {h : Frag → Frag} (hi : exec i s = .next (updCF s h)) : Becomes s i (h (cf s)) :=
  ⟨_, hi, onlyFragment_updCF s h, cf_updCF s h⟩

theorem transfer_aligned {t : Quad} (h : t.toNat % 64 = 0) (go : State → State) : transfer s t go = .next (go s) :=
  if_pos (beq_iff_eq.mpr h)

theorem transfer_unaligned {t : Quad} (h : t.toNat % 64 ≠ 0) (go : State → State) :
    transfer s t go = .next (raiseAll s cALIGN t) := if_neg fun hok => h (beq_iff_eq.mp hok)

theorem exec_bra_aligned {a : Opnd} (h : (relTarget s a).toNat % 64 = 0) : exec (.bra a) s = .next (jump s (relTarget s a)) :=
  transfer_aligned h fun s => jump s _

end

/-- Settles O22: a transfer to an aligned target is a jump. -/
theorem branchAlways : Obligations.BranchAlways := fun _ a h => becomes_updCF (exec_bra_aligned (a := a) h)

/-! TRAP and RTE (R112, R420, R430). -/

section

variable {s : State}

theorem exec_rte_outside (a : Opnd) (h : (cf s).st ≠ .handler) : exec (.rte a) s = .next (raiseAll s cOPERAND 0#64) := if_pos h

theorem exec_rte_back (h : (cf s).st = .handler) : exec (.rte .zero) s = .next (returnFromTrap s none) := if_neg (not_not.mpr h)

theorem exec_rte_target (k : Nat) (h : (cf s).st = .handler) (ht : (w64 (rdPair (cg s) k)).toNat % 64 = 0) :
    exec (.rte (.s k)) s = .next (returnFromTrap s (some (w64 (rdPair (cg s) k)))) :=
  (if_neg (not_not.mpr h)).trans ((if_neg Opnd.noConfusion).trans (transfer_aligned ht _))

theorem returnFromTrap_software (h : (cf s).trap.cause = cSOFTWARE) : returnFromTrap s none = updCF s fun f =>
    { f with st := .ready, pstk := [], pc := fblock f.trap.pc + 64#64, mid := false, code := [] } := if_pos h

theorem returnFromTrap_retry (h : (cf s).trap.cause ≠ cSOFTWARE) : returnFromTrap s none = updCF s fun f =>
    { f with st := .ready, pstk := [], pc := f.trap.pc, mid := true, code := [] } := if_neg h

end

/-- Settles O27: a trap of a READY fragment, and for a HANDLER each of the three places to which it returns. -/
theorem trapAndReturn : Obligations.TrapAndReturn := by
  intro s a k back
  refine ⟨fun hst => ⟨traps_raiseAll rfl hst, traps_raiseAll (exec_rte_outside a (by simp [hst])) hst⟩,
    fun hst => ⟨fun hc => ?_, fun hc => ?_, fun ht => becomes_updCF (exec_rte_target k hst ht)⟩⟩
  · exact becomes_updCF ((exec_rte_back hst).trans (congrArg _ (returnFromTrap_software hc)))
  · exact becomes_updCF ((exec_rte_back hst).trans (congrArg _ (returnFromTrap_retry hc)))

end Sys2Proof.Machine

end

/-! The value of a predicate and of a vote over threads (R121, R132). -/

section

namespace Sys2Proof.Machine

open Sys2Proof.Claim

/-- A thread is in the mask of a list that names it (R15). -/
theorem getLsbD_maskOf (l : List Nat) (j : Nat) (hj : j < 32) : (maskOf l).getLsbD j = decide (j ∈ l) := by
  have bit (t : Nat) : (1#32 <<< t).getLsbD j = decide (j = t) := by
    rw [BitVec.getLsbD_shiftLeft, BitVec.getLsbD_one, Bool.eq_iff_iff]
    simp [hj]
    omega
  have fold (m : Word) : (l.foldl (fun m t => m ||| (1#32 <<< t)) m).getLsbD j = (m.getLsbD j || decide (j ∈ l)) := by
    induction l generalizing m with
    | nil => simp
    | cons t l ih => simp [ih, bit, Bool.or_assoc, Bool.decide_or]
  rw [maskOf, fold]
  simp

/-- A truth value as a word. -/
theorem w32_b2n (b : Bool) : (w32 (b2n b) = 0#32 ∨ w32 (b2n b) = 1#32) ∧ (w32 (b2n b) = 1#32 ↔ b = true) := by
  cases b <;> decide

section

variable {m : Word} {p : Nat → Bool}

theorem threads_any : (threads m).any p = true ↔ ∃ j, m.getLsbD j = true ∧ p j = true := by simp [mem_threads]

theorem threads_all : (threads m).all p = true ↔ ∀ j, m.getLsbD j = true → p j = true := by simp [mem_threads]

theorem ballot_getLsbD {j : Nat} (hj : j < 32) : (maskOf ((threads m).filter p)).getLsbD j = (m.getLsbD j && p j) := by
  rw [getLsbD_maskOf _ _ hj, Bool.eq_iff_iff]
  simp [mem_threads]

end

/-- Settles O13: a vote is one word for all threads, whose meaning is that of the ballot, any, all or unanimity. -/
theorem predicatesRead : Obligations.PredicatesRead := by
  intro s d p n k voters v
  refine ⟨word1_of_perThread rfl, voteValue k.toNat (threads voters) v, word1_of_perThread rfl, ?_, fun hk => ?_, ?_, ?_, ?_⟩
  · rintro rfl j hj
    exact ballot_getLsbD hj
  · obtain rfl | rfl | rfl : k = 1#2 ∨ k = 2#2 ∨ k = 3#2 := by bv_omega
    all_goals exact (w32_b2n _).1
  · rintro rfl
    exact (w32_b2n _).2.trans threads_any
  · rintro rfl
    exact (w32_b2n _).2.trans threads_all
  · rintro rfl
    refine (w32_b2n _).2.trans ?_
    rw [Bool.or_eq_true, threads_all, threads_all]
    simp

end Sys2Proof.Machine

end

/-! CALL, RET, SYNC, EXIT, YIELD and SLEEP move stack entries and end fragments (R65, R106, R107, R109 to R111). -/

section

namespace Sys2Proof.Machine

open Sys2Proof.Claim

/-! Chains of pops (R105, R106, R109). -/

section

variable {s u : State} {e : StkEntry} {drop : StkEntry → Bool}

/-- A chain of pops stops at an entry that it does not drop. -/
theorem popChain_stops (n : Nat) (h : topOf s = some e) (hd : (emptyMask e.mask && drop e) = false) :
    (e.kind = 0 → popChain drop (n + 1) s = (s, .recon e)) ∧ (e.kind = 1 → popChain drop (n + 1) s = (s, .path e)) ∧
    (e.kind = 2 → popChain drop (n + 1) s = (s, .ret e)) := by
  rw [popChain, h]
  refine ⟨fun hk => ?_, fun hk => ?_, fun hk => ?_⟩
  all_goals simp [hd, hk]

theorem popChain_empty (n : Nat) (h : topOf s = none) : popChain drop (n + 1) s = (s, .empty) := by rw [popChain, h]

theorem popChain_bad (n : Nat) (h : topOf s = some e) (hk : e.kind = 3) : popChain drop (n + 1) s = (s, .bad) := by
  rw [popChain, h]
  exact if_pos hk

theorem curG_popHere (s : State) : (popHere s).curG = s.curG := by
  unfold popHere
  split_ifs
  · rfl
  · exact (popG_popsOnly s s.curG).curG

theorem curG_popChain (n : Nat) (s : State) : (popChain drop n s).1.curG = s.curG := by
  induction n generalizing s with
  | zero => rfl
  | succ n ih =>
    rw [popChain]
    split
    · rfl
    · split_ifs
      · rfl
      · rw [ih, curG_popHere]
      · split <;> rfl

/-! CALL, RET and SYNC (R106, R107). -/

theorem exec_call_unaligned {a : Opnd} (ht : (relTarget s a).toNat % 64 ≠ 0) :
    exec (.call a) s = .next (raiseAll s cALIGN (relTarget s a)) := by
  show execCall a s = _
  rw [execCall, transfer_unaligned ht]

theorem exec_bra_unaligned {a : Opnd} (ht : (relTarget s a).toNat % 64 ≠ 0) :
    exec (.bra a) s = .next (raiseAll s cALIGN (relTarget s a)) := by
  show execBra a s = _
  rw [execBra, transfer_unaligned ht]

theorem exec_call_room {a : Opnd} (ht : (relTarget s a).toNat % 64 = 0) (hr : roomFor s 1 = true) : exec (.call a) s =
    .next (jump (pushHere s ⟨2, fblock (cf s).pc + 64#64, active s, (cf s).mode⟩) (relTarget s a)) := by
  show execCall a s = _
  rw [execCall, transfer_aligned ht, hr]
  rfl

theorem exec_ret_takes (h : topOf s = some e) (hk : e.kind = 2) (ha : e.pc.toNat % 64 = 0) :
    exec .ret s = .next (jump (tookTop s e) e.pc) := by
  show execRet s = _
  simp only [execRet, h, hk, transfer_aligned ha]
  rfl

theorem exec_ret_refuses (h : ∀ e, topOf s = some e → e.kind ≠ 2) : exec .ret s = .next (raiseAll s cSTACK 0#64) := by
  show execRet s = _
  unfold execRet
  cases ht : topOf s with
  | none => rfl
  | some e => exact if_pos (bne_iff_ne.mpr (h e ht))

theorem exec_sync_path (h : popChain (fun e => e.kind == 1) 32 s = (u, .path e)) (ha : e.pc.toNat % 64 = 0) :
    exec .sync s = .next (jump (tookTop u e) e.pc) := by
  show execSync s = _
  rw [execSync, h]
  exact if_pos (beq_iff_eq.mpr ha)

theorem exec_sync_recon (h : popChain (fun e => e.kind == 1) 32 s = (u, .recon e)) :
    exec .sync s = .next (advance (tookTop u e)) := by
  show execSync s = _
  rw [execSync, h]
  rfl

theorem exec_sync_refuses {r : PopEnd} (h : popChain (fun e => e.kind == 1) 32 s = (u, r)) (hp : ∀ e, r ≠ .path e)
    (hr : ∀ e, r ≠ .recon e) : exec .sync s = .next (raiseAll s cSTACK 0#64) := by
  show execSync s = _
  rw [execSync, h]
  cases r with
  | path e => exact absurd rfl (hp e)
  | recon e => exact absurd rfl (hr e)
  | _ => rfl

/-- SYNC refuses any entry but a PATH and a RECONV entry, and an empty stack. -/
theorem exec_sync_noPath (h : topOf s = none ∨ ∃ e, topOf s = some e ∧ (e.kind = 2 ∨ e.kind = 3)) :
    exec .sync s = .next (raiseAll s cSTACK 0#64) := by
  obtain h | ⟨e, h, hk | hk⟩ := h
  · exact exec_sync_refuses (popChain_empty 31 h) (by simp) (by simp)
  · exact exec_sync_refuses ((popChain_stops 31 h (by simp [hk])).2.2 hk) (by simp) (by simp)
  · exact exec_sync_refuses (popChain_bad 31 h hk) (by simp) (by simp)

end

/-- Settles O24: each instruction by the entry that it pushes or takes, SYNC by where its chain of pops stops. -/
theorem callsReturnsAndSync : Obligations.CallsReturnsAndSync := by
  intro s a target took
  refine ⟨fun ht hst i hi => ?_, exec_call_room, fun ht hr => traps_raiseAll (exec_call_noRoom ht hr),
    fun e => exec_ret_takes, fun h => traps_raiseAll (exec_ret_refuses h), fun u e => exec_sync_path,
    fun u e => exec_sync_recon, fun e h hk hm => ?_, fun e h hk => ?_,
    fun h => traps_raiseAll (exec_sync_noPath h)⟩
  · obtain rfl | rfl : i = .bra a ∨ i = .call a := by simpa using hi
    · exact traps_raiseAll (exec_bra_unaligned ht) hst
    · exact traps_raiseAll (exec_call_unaligned ht) hst
  · exact (popChain_stops 31 h (by simp [emptyMask, hm])).2.1 hk
  · exact (popChain_stops 31 h (by simp [hk])).1 hk

/-! EXIT and YIELD (R65, R109, R110). -/

section

variable {s u : State} {e : StkEntry}

theorem curG_removeThreads (s : State) (m : Word) : (removeThreads s m).curG = s.curG := by
  have h (g : Nat) (l : List Nat) (t : State) (f : State → Nat → StkEntry) :
      (l.foldl (fun s i => spill s g i (f s i)) t).curG = t.curG :=
    (HomeWrites.foldl (fun s i => spill_homeWrites s g i (f s i)) l t).curG
  exact h _ _ _ _

/-- What EXIT finds on its stack once its threads are out of it (R109). -/
def exitChain (s : State) : State × PopEnd := popChain (fun _ => true) 32 (removeThreads s (active s))

theorem curG_of_exitChain {r : PopEnd} (h : exitChain s = (u, r)) : u.curG = s.curG := by
  have hc : (exitChain s).1.curG = s.curG := by rw [exitChain, curG_popChain, curG_removeThreads]
  rwa [h] at hc

theorem exitThreads_resumes (h : exitChain s = (u, .path e) ∨ exitChain s = (u, .recon e)) (ha : e.pc.toNat % 64 = 0)
    (hm : resumable u e ≠ 0#32) : exitThreads s = jump (tookTop u e) e.pc := by
  unfold exitChain at h
  unfold exitThreads
  dsimp only
  obtain h | h := h
  all_goals
    rw [h]
    simp [targetOk, ha, emptyMask, hm, tookTop]

/-- Nothing that EXIT finds on its stack resumes a thread: the stack is empty, a RETURN entry is on top, or an entry whose
threads all live in other fragments (R109; log entry 126). -/
def NoneResumes (s u : State) (e : StkEntry) : Prop :=
  exitChain s = (u, .empty) ∨ exitChain s = (u, .ret e) ∨
    ((exitChain s = (u, .path e) ∨ exitChain s = (u, .recon e)) ∧ e.pc.toNat % 64 = 0 ∧ resumable u e = 0#32)

theorem exitThreads_frees (h : NoneResumes s u e) : exitThreads s = maybeEnd (freeFragment u) false := by
  unfold NoneResumes exitChain at h
  unfold exitThreads
  dsimp only
  obtain h | h | ⟨h | h, ha, hm⟩ := h
  · rw [h]
  · rw [h]
  all_goals
    rw [h]
    simp [targetOk, ha, emptyMask, hm]

theorem NoneResumes.curG (h : NoneResumes s u e) : u.curG = s.curG := by
  obtain h | h | ⟨h | h, -, -⟩ := h
  all_goals exact curG_of_exitChain h

theorem maybeEnd_lives (y : Bool) (h : liveFrags (cg s) ≠ []) : maybeEnd s y = s := if_neg (by simpa using h)

theorem maybeEnd_ends (y : Bool) (h : liveFrags (cg s) = []) :
    maybeEnd s y = updCG s fun g => { g with ending := true, yielded := y } := if_pos (by simp [h])

/-- The rendezvous that list a group which ends now fail (R165). -/
theorem endedDrop_ends {g : Nat} (f : Group → Group) (h : (f (gAt s g)).ending = true) :
    endedDrop (updG s g f) g = rdvDrop (updG s g f) g := if_pos (by rw [gAt_updG_self, h])

theorem exec_exit_resumes (h : exitChain s = (u, .path e) ∨ exitChain s = (u, .recon e)) (ha : e.pc.toNat % 64 = 0)
    (hm : resumable u e ≠ 0#32) : exec .exit s = .next (endedDrop (jump (tookTop u e) e.pc) s.curG) := by
  show execExit s = _
  rw [execExit, exitThreads_resumes h ha hm]

theorem exec_exit_frees (h : NoneResumes s u e) :
    exec .exit s = .next (endedDrop (maybeEnd (freeFragment u) false) s.curG) := by
  show execExit s = _
  rw [execExit, exitThreads_frees h]

theorem exec_exit_lives (h : NoneResumes s u e) (hl : liveFrags (cg (freeFragment u)) ≠ []) :
    exec .exit s = .next (endedDrop (freeFragment u) s.curG) := by
  rw [exec_exit_frees h, maybeEnd_lives _ hl]

theorem exec_exit_ends (h : NoneResumes s u e) (hl : liveFrags (cg (freeFragment u)) = []) : exec .exit s =
    .next (rdvDrop (updCG (freeFragment u) fun g => { g with ending := true, yielded := false }) s.curG) := by
  have hG : (freeFragment u).curG = s.curG := h.curG
  rw [exec_exit_frees h, maybeEnd_ends _ hl, updCG, hG, endedDrop_ends _ rfl]

end

/-- An instruction that only makes its fragment wait. -/
theorem waits_of_waitFor {s : State} {i : Instr} {w : Wait} (hi : exec i s = .next (waitFor s w)) : Waits s i w :=
  becomes_updCF hi

/-- Settles O26: EXIT by what its chain of pops finds, YIELD and SLEEP by their own state. -/
theorem endsAndSleeps : Obligations.EndsAndSleeps := by
  intro s u e a start took ended frees
  exact ⟨exec_exit_resumes, exec_exit_lives, exec_exit_ends, congrArg _ (endedDrop_ends _ rfl), waits_of_waitFor rfl⟩

end Sys2Proof.Machine

end

/-! BRC and BRX: a whole fragment goes one way, or the branch diverges (R69, R102 to R104). -/

section

namespace Sys2Proof.Machine

open Sys2Proof.Claim

/-! The pushes of a divergent branch (R104). -/

/-- The state with the RECONV entry of a join on top of its stack. -/
def withRecon (s : State) (join : Quad) : State :=
  if needRec s join then pushHere s ⟨0, join, active s, (cf s).mode⟩ else s

section

variable {s : State} {join : Quad} {paths : List (Word × Quad)}

theorem diverge_room (first : Word) (go : State → State) (h : roomFor s (b2n (needRec s join) + paths.length) = true) :
    diverge s join paths first go = go (updCF
      (paths.foldl (fun u p => pushHere u ⟨1, p.2, p.1, (cf s).mode⟩) (withRecon s join)) fun f => { f with mask := first }) :=
  if_neg (by simp [h])

theorem diverge_noRoom (first : Word) (go : State → State) (h : roomFor s (b2n (needRec s join) + paths.length) = false) :
    diverge s join paths first go = raiseAll s cSTACK 0#64 := if_pos (by simp [h])

end

/-! BRC (R102). -/

/-- The active threads that BRC transfers. -/
def takenBy (s : State) (n : BitVec 1) (p : BitVec 3) : Word :=
  active s &&& if n == 1#1 then ~~~(rdP (cg s) p.toNat) else rdP (cg s) p.toNat

/-- The join of a divergent branch: zero names the target (R102). -/
def joinOf (s : State) (a b : Opnd) : Quad := if b = .zero then relTarget s a else relTarget s b

section

variable {s : State} {n : BitVec 1} {p : BitVec 3} {a b : Opnd}

theorem eq_takenBy {taken : Word}
    (h : ∀ j, j < 32 → taken.getLsbD j = ((active s).getLsbD j && (pbit (cg s) p.toNat j != (n == 1#1)))) :
    takenBy s n p = taken := by
  refine BitVec.eq_of_getLsbD_eq fun j hj => ?_
  rw [h j hj, takenBy, BitVec.getLsbD_and, pbit]
  cases n == 1#1
  · simp
  · simp [hj]

/-- No active thread is left to go on where, and only where, all of them are taken. -/
theorem emptyMask_notTaken (m x : Word) : emptyMask (m &&& ~~~(m &&& x)) = true ↔ m &&& x = m := by
  have h : m &&& ~~~(m &&& x) = m ^^^ (m &&& x) := by
    ext j
    simp only [BitVec.getElem_and, BitVec.getElem_not, BitVec.getElem_xor]
    cases m[j] <;> simp
  rw [emptyMask, h, beq_iff_eq, BitVec.xor_eq_zero_iff, eq_comm]

theorem exec_brc_whole (h : takenBy s n p = active s) :
    exec (.brc n p a b) s = transfer s (relTarget s a) fun u => jump u (relTarget s a) := by
  show execBrc n p a b s = _
  exact if_pos ((emptyMask_notTaken _ _).mpr h)

theorem exec_brc_none (h : takenBy s n p = 0#32) (ha : active s ≠ 0#32) : exec (.brc n p a b) s = done s := by
  have hw : takenBy s n p ≠ active s := by rwa [h, ne_comm]
  exact (if_neg fun he => hw ((emptyMask_notTaken _ _).mp he)).trans (if_pos (beq_iff_eq.mpr h))

/-- A branch that some active threads take and some do not. -/
theorem exec_brc_both (h0 : takenBy s n p ≠ 0#32) (h1 : takenBy s n p ≠ active s) : exec (.brc n p a b) s =
    if !targetOk (relTarget s a) then .next (raiseAll s cALIGN (relTarget s a))
    else if !targetOk (joinOf s a b) then .next (raiseAll s cALIGN (joinOf s a b))
    else .next (diverge s (joinOf s a b) [(takenBy s n p, relTarget s a)] (active s &&& ~~~takenBy s n p) advance) :=
  (if_neg fun he => h1 ((emptyMask_notTaken _ _).mp he)).trans (if_neg fun he => h0 (beq_iff_eq.mp he))

theorem exec_brc_unaligned (h0 : takenBy s n p ≠ 0#32) (ht : (relTarget s a).toNat % 64 ≠ 0) :
    exec (.brc n p a b) s = .next (raiseAll s cALIGN (relTarget s a)) := by
  by_cases h1 : takenBy s n p = active s
  · rw [exec_brc_whole h1, transfer_unaligned ht]
  · rw [exec_brc_both h0 h1, if_pos (by simp [targetOk, ht])]

theorem exec_brc_joinUnaligned (h0 : takenBy s n p ≠ 0#32) (h1 : takenBy s n p ≠ active s)
    (ht : (relTarget s a).toNat % 64 = 0) (hj : (joinOf s a b).toNat % 64 ≠ 0) :
    exec (.brc n p a b) s = .next (raiseAll s cALIGN (joinOf s a b)) := by
  rw [exec_brc_both h0 h1, if_neg (by simp [targetOk, ht]), if_pos (by simp [targetOk, hj])]

theorem exec_brc_diverges (h0 : takenBy s n p ≠ 0#32) (h1 : takenBy s n p ≠ active s)
    (ht : (relTarget s a).toNat % 64 = 0) (hj : (joinOf s a b).toNat % 64 = 0) : exec (.brc n p a b) s =
      .next (diverge s (joinOf s a b) [(takenBy s n p, relTarget s a)] (active s &&& ~~~takenBy s n p) advance) := by
  rw [exec_brc_both h0 h1, if_neg (by simp [targetOk, ht]), if_neg (by simp [targetOk, hj])]

end

/-! A trap with which a whole READY fragment becomes the HANDLER (R69; log entry 14). -/

section

variable {s : State} {flt : Word}

/-- The threads are all of the fragment's, or no entry is free for them. -/
def TakesWhole (s : State) (flt : Word) : Prop := flt = active s ∨ freeFrag (cg s) = none

theorem trapsWholeOf_of_takesWhole (h : TakesWhole s flt) : trapsWholeOf s s.curG s.curF flt = true := by
  have hm : active s = (fragAt s s.curG s.curF).mask := rfl
  have hg : cg s = gAt s s.curG := rfl
  obtain h | h := h
  · simp [trapsWholeOf, h, hm]
  · simp [trapsWholeOf, ← hg, h]

/-- The acting fragment as the HANDLER that a trap of its threads `flt` makes of it. -/
def Frag.tookWhole (s : State) (cause : Nat) (flt : Word) (fadr : Quad) : Frag :=
  (cf s).toHandler (w64 (hdrTrap (cctx s).hdr)) (active s) (trapRegs s cause (active s) flt fadr) false

theorem raiseAt_takesWhole (hst : (cf s).st = .ready) (h : TakesWhole s flt) (cause : Nat) (fadr : Quad) :
    raiseAt s cause flt fadr (cf s).pc [] =
      noteTrap (updCF s fun _ => Frag.tookWhole s cause flt fadr) s.curG cause flt := by
  rw [raiseAt, isHandler_of_ready hst, enterHandler, trapsWholeOf_of_takesWhole h]
  rfl

theorem trapped_of_takesWhole (hst : (cf s).st = .ready) (h : TakesWhole s flt) (cause : Nat) (fadr : Quad) :
    Trapped s (raiseAt s cause flt fadr (cf s).pc []) cause flt fadr := by
  have hu := onlyFragment_updCF s fun _ => Frag.tookWhole s cause flt fadr
  rw [raiseAt_takesWhole hst h]
  have frag (i : Nat) : fragAt (noteTrap (updCF s fun _ => Frag.tookWhole s cause flt fadr) s.curG cause flt) s.curG i =
      fragAt (updCF s fun _ => Frag.tookWhole s cause flt fadr) s.curG i := fragAt_updG (fun _ => by rfl) _ _ _ _
  refine ⟨hu.1.trans (onlyGroup_updCG _ _), trapNoted_noteTrap hu.1 hu.2.1 cause flt,
    fun i hi => (frag i).trans (hu.2.2 i hi), ?_⟩
  refine (frag s.curF).trans ((cf_updCF s _).trans ?_)
  simp [Frag.tookWhole, Frag.toHandler, hst]

theorem raiseSome_takesWhole (h : TakesWhole s flt) (h0 : flt ≠ 0#32) (cause : Nat) (fadr : Quad)
    (go : State → State) : raiseSome s cause flt fadr [] go = raiseAt s cause flt fadr (cf s).pc [] := by
  have hw : trapsWhole s flt = true := trapsWholeOf_of_takesWhole h
  simp [raiseSome, emptyMask, h0, hw]

end

/-! The targets of BRX (R103). -/

/-- Ascending sorts agree. -/
theorem sortBy_id (l : List Nat) : sortBy id l = l.insertionSort (· ≤ ·) := by
  have ins (x : Nat) (l : List Nat) : sortBy.insertFront id x l = l.orderedInsert (· ≤ ·) x := by
    induction l with
    | nil => rfl
    | cons y l ih => simp only [sortBy.insertFront, List.orderedInsert, ih, id]
  induction l with
  | nil => rfl
  | cons x l ih => rw [sortBy, ih, ins, List.insertionSort_cons]

/-- A value put behind a list that does not hold it. -/
def addNew {α : Type} [BEq α] (acc : List α) (x : α) : List α := if acc.contains x then acc else acc ++ [x]

section

variable {α : Type} [BEq α] [LawfulBEq α]

theorem mem_addNew {acc : List α} {x y : α} : y ∈ addNew acc x ↔ y ∈ acc ∨ y = x := by
  unfold addNew
  split_ifs with h
  · have hx : x ∈ acc := by simpa using h
    exact ⟨.inl, fun hy => hy.elim id fun e => e ▸ hx⟩
  · simp

theorem nodup_addNew {acc : List α} (h : acc.Nodup) (x : α) : (addNew acc x).Nodup := by
  unfold addNew
  split_ifs with hx
  · exact h
  · rw [← List.concat_eq_append]
    exact h.concat (by simpa using hx)

theorem foldl_addNew (l : List α) {acc : List α} (h : acc.Nodup) :
    (l.foldl addNew acc).Nodup ∧ ∀ x, x ∈ l.foldl addNew acc ↔ x ∈ acc ∨ x ∈ l := by
  induction l generalizing acc with
  | nil => simp [h]
  | cons y l ih =>
    obtain ⟨hn, hm⟩ := ih (nodup_addNew h y)
    exact ⟨hn, fun x => by rw [List.foldl_cons, hm, mem_addNew, List.mem_cons, or_assoc]⟩

/-- The distinct values of a list are its values, each once. -/
theorem distinct_spec (l : List α) : (distinct l).Nodup ∧ ∀ x, x ∈ distinct l ↔ x ∈ l := by
  have hd : distinct l = l.foldl addNew [] := rfl
  simpa [hd] using foldl_addNew l (acc := []) List.nodup_nil

end

/-- A strictly ascending list is the ascending sort of any list with the same values. -/
theorem sortBy_distinct {l m : List Nat} (hl : l.Pairwise (· < ·)) (h : ∀ y, y ∈ l ↔ y ∈ m) : sortBy id (distinct m) = l := by
  obtain ⟨hnodup, hmem⟩ := distinct_spec m
  have hperm : (distinct m).Perm l :=
    (List.perm_ext_iff_of_nodup hnodup (hl.imp Nat.ne_of_lt)).mpr fun y => (hmem y).trans (h y).symm
  rw [sortBy_id]
  exact ((List.perm_insertionSort _ _).trans hperm).eq_of_pairwise' (List.pairwise_insertionSort _ _) (hl.imp Nat.le_of_lt)

section

variable {s u : State} {a b : Opnd}

/-- The active threads whose targets lie off a fetch block. -/
def brxOff (s : State) (a : Opnd) : Word := maskOf ((threads (active s)).filter fun j => !targetOk (brxTarget s a j))

theorem getLsbD_brxOff {j : Nat} (hj : j < 32) :
    (brxOff s a).getLsbD j = true ↔ (active s).getLsbD j = true ∧ (brxTarget s a j).toNat % 64 ≠ 0 := by
  rw [brxOff, ballot_getLsbD hj]
  simp [targetOk]

theorem brxOff_eq_zero (h : ∀ j, (active s).getLsbD j = true → (brxTarget s a j).toNat % 64 = 0) : brxOff s a = 0#32 := by
  refine BitVec.eq_of_getLsbD_eq fun j hj => ?_
  rw [BitVec.getLsbD_zero, ← Bool.not_eq_true, getLsbD_brxOff hj]
  exact fun ⟨ha, hn⟩ => hn (h j ha)

/-- The targets of the active threads of a state, rising, and the threads of one of them. -/
def brxTargets (s u : State) (a : Opnd) : List Nat :=
  sortBy id (distinct ((threads (active u)).map fun j => (brxTarget s a j).toNat))

def brxThreads (s u : State) (a : Opnd) (y : Nat) : Word :=
  maskOf ((threads (active u)).filter fun j => (brxTarget s a j).toNat == y)

/-- What BRX on a v pair does once no active thread has a target off a fetch block: `s` gives the targets, `u` the threads. -/
def brxGo (s : State) (a b : Opnd) (u : State) : State :=
  match brxTargets s u a with
  | [] => advance u
  | [x] => jump u (w64 x)
  | x :: rest =>
    if needRec u (relTarget s b) && !targetOk (relTarget s b) then raiseAll u cALIGN (relTarget s b)
    else diverge u (relTarget s b) (rest.reverse.map fun y => (brxThreads s u a y, w64 y)) (brxThreads s u a x)
      fun u => jump u (w64 x)

theorem exec_brx_s (k : Nat) : exec (.brx (.s k) b) s =
    transfer s (w64 (rdPair (cg s) k)) fun u => jump u (w64 (rdPair (cg s) k)) := rfl

theorem exec_brx_aligned {k : Nat} (h : brxOff s (.v k) = 0#32) : exec (.brx (.v k) b) s = .next (brxGo s (.v k) b s) := by
  have hr (fadr : Quad) (go : State → State) : raiseSome s cALIGN (brxOff s (.v k)) fadr [] go = go s := by
    rw [h]
    exact if_pos rfl
  exact congrArg _ (hr _ _)

theorem exec_brx_off {k x : Nat} (h : lowest (brxOff s (.v k)) = some x) : exec (.brx (.v k) b) s =
    .next (raiseSome s cALIGN (brxOff s (.v k)) (brxTarget s (.v k) x) [] (brxGo s (.v k) b)) := by
  show execBrx (.v k) b s = _
  unfold brxOff at h
  simp only [execBrx, isS, h]
  rfl

theorem brxGo_one {x : Nat} (h : brxTargets s u a = [x]) : brxGo s a b u = jump u (w64 x) := by rw [brxGo, h]

section

variable {x : Nat} {rest : List Nat} (h : brxTargets s u a = x :: rest) (hr : rest ≠ [])

include h hr

theorem brxGo_many : brxGo s a b u =
    if needRec u (relTarget s b) && !targetOk (relTarget s b) then raiseAll u cALIGN (relTarget s b)
    else diverge u (relTarget s b) (rest.reverse.map fun y => (brxThreads s u a y, w64 y)) (brxThreads s u a x)
      fun u => jump u (w64 x) := by
  cases rest with
  | nil => exact absurd rfl hr
  | cons y rest => rw [brxGo, h]

theorem brxGo_joinUnaligned (hn : needRec u (relTarget s b) = true) (hj : (relTarget s b).toNat % 64 ≠ 0) :
    brxGo s a b u = raiseAll u cALIGN (relTarget s b) := by
  rw [brxGo_many h hr, if_pos (by simp [hn, targetOk, hj])]

theorem brxGo_diverges (hj : needRec u (relTarget s b) = true → (relTarget s b).toNat % 64 = 0) : brxGo s a b u =
    diverge u (relTarget s b) (rest.reverse.map fun y => (brxThreads s u a y, w64 y)) (brxThreads s u a x)
      fun u => jump u (w64 x) := by
  rw [brxGo_many h hr, if_neg (by simpa [targetOk] using hj)]

theorem brxGo_noRoom (hj : needRec u (relTarget s b) = true → (relTarget s b).toNat % 64 = 0)
    (hroom : roomFor u (b2n (needRec u (relTarget s b)) + rest.length) = false) : brxGo s a b u = raiseAll u cSTACK 0#64 := by
  rw [brxGo_diverges h hr hj, diverge_noRoom]
  simpa using hroom

/-- The pushes of BRX: the threads of each target but the lowest wait on the stack, the highest target deepest (R103). -/
theorem brxGo_room (hj : needRec u (relTarget s b) = true → (relTarget s b).toNat % 64 = 0)
    (hroom : roomFor u (b2n (needRec u (relTarget s b)) + rest.length) = true) : brxGo s a b u =
      jump (updCF (rest.reverse.foldl (fun v y => pushHere v ⟨1, w64 y, brxThreads s u a y, (cf u).mode⟩)
        (withRecon u (relTarget s b))) fun f => { f with mask := brxThreads s u a x }) (w64 x) := by
  rw [brxGo_diverges h hr hj, diverge_room, List.foldl_map]
  simpa using hroom

end

end

/-! BRX where some threads split off (R69, R103). -/

/-- What a source reads does not depend on threads and traps. -/
theorem src_congr {s u : State} (hr : SameRegs s u) (hm : (cf u).mode = (cf s).mode) (hG : u.curG = s.curG) (ht : u.gt = s.gt)
    (k : SrcKind) (o : Opnd) (j : Nat) : src u k o j = src s k o j := by
  obtain ⟨hv, hs, -⟩ := hr
  cases o <;> simp only [src, rdV, rdS, hv, hs, hm, hG, ht]

/-- A source of an instruction reads as before, and the fragment stands where it stood. -/
structure SameReads (s u : State) : Prop where
  regs : SameRegs s u
  src : ∀ k o j, Machine.src u k o j = Machine.src s k o j
  pc : (cf u).pc = (cf s).pc

section

variable {s u : State} {a b : Opnd}

theorem SameReads.relTarget (h : SameReads s u) (o : Opnd) : Machine.relTarget u o = Machine.relTarget s o := by
  simp only [Machine.relTarget, usrc, h.src, h.pc]

theorem SameReads.srcAt (h : SameReads s u) (o : Opnd) (i j : Nat) : Machine.srcAt u o i j = Machine.srcAt s o i j := by
  obtain ⟨hv, hs, -⟩ := h.regs
  cases o <;> simp only [Machine.srcAt, h.src, rdV, rdS, hv, hs]

theorem SameReads.brxTarget (h : SameReads s u) : Machine.brxTarget u a = Machine.brxTarget s a := by
  funext j
  simp only [Machine.brxTarget, h.srcAt]

theorem SameReads.brxGo (h : SameReads s u) (v : State) : Machine.brxGo u a b v = Machine.brxGo s a b v := by
  unfold Machine.brxGo
  simp only [brxTargets, brxThreads, h.brxTarget, h.relTarget]

variable {i : Nat} {flt : Word}

theorem cf_splitAt (hst : (cf s).st = .ready) (hi : freeFrag (cg s) = some i) (cause : Nat) (fadr : Quad) :
    cf (splitAt s cause flt fadr false i) = { cf s with mask := active s &&& ~~~flt } := by
  have only := onlyGroup_splitAt (s := s) (flt := flt) (i := i) cause fadr false
  rw [cf, only.curG, only.curF, fragAt_splitAt, if_neg (freeFrag_ne hst hi).symm, if_pos rfl]

theorem sameReads_splitAt (hst : (cf s).st = .ready) (hi : freeFrag (cg s) = some i) (cause : Nat) (fadr : Quad) :
    SameReads s (splitAt s cause flt fadr false i) := by
  have hcf := cf_splitAt (flt := flt) hst hi cause fadr
  have hcg := (trapNoted_splitAt (s := s) (flt := flt) (i := i) cause fadr false).1
  have only := onlyGroup_splitAt (s := s) (flt := flt) (i := i) cause fadr false
  have regs : SameRegs s (splitAt s cause flt fadr false i) := by
    rw [SameRegs, hcg]
    exact ⟨rfl, rfl, rfl⟩
  exact ⟨regs, src_congr regs (by rw [hcf]) only.curG (by rw [only.1]), by rw [hcf]⟩

/-- Once the threads with such targets have split off, none is left. -/
theorem brxOff_splitAt (hst : (cf s).st = .ready) (hi : freeFrag (cg s) = some i) (cause : Nat) (fadr : Quad) :
    brxOff (splitAt s cause (brxOff s a) fadr false i) a = 0#32 := by
  refine brxOff_eq_zero fun j hj => ?_
  have h : j < 32 := lt_of_mem_threads ((mem_threads _ j).mpr hj)
  rw [active, cf_splitAt hst hi, BitVec.getLsbD_and, BitVec.getLsbD_not] at hj
  rw [(sameReads_splitAt hst hi cause fadr).brxTarget]
  by_contra hn
  have hoff := (getLsbD_brxOff h).mpr ⟨(Bool.and_eq_true_iff.mp hj).1, hn⟩
  simp [hoff] at hj

theorem exec_brx_splits {k x : Nat} (hst : (cf s).st = .ready) (hx : lowest (brxOff s (.v k)) = some x)
    (h0 : brxOff s (.v k) ≠ 0#32) (ha : brxOff s (.v k) ≠ active s) (hi : freeFrag (cg s) = some i) :
    exec (.brx (.v k) b) s =
      exec (.brx (.v k) b) (raiseSome s cALIGN (brxOff s (.v k)) (brxTarget s (.v k) x) [] id) := by
  rw [exec_brx_off hx, raiseSome_splits hst h0 ha hi, raiseSome_splits hst h0 ha hi, id,
    exec_brx_aligned (brxOff_splitAt hst hi _ _), (sameReads_splitAt hst hi _ _).brxGo]

theorem ne_zero_of_lowest {m : Word} {x : Nat} (h : lowest m = some x) : m ≠ 0#32 := by
  rintro rfl
  cases h

end

/-- Settles O23: BRC by the threads that it transfers, BRX on a v pair by those off a fetch block and then by the targets. -/
theorem conditionalBranches : Obligations.ConditionalBranches := by
  intro s n p a b taken target join pushed goTo Takes
  refine ⟨fun htaken => ?_, ?_, ?_, ?_, ?_⟩
  · have ht : takenBy s n p = taken := eq_takenBy htaken
    refine ⟨fun hall hal => ?_, fun hnone ha => ?_, fun h0 h1 hal hj hroom => ?_, fun h0 hst => ⟨fun hal => ?_,
      fun h1 hal hj => ?_, fun h1 hal hj hroom => ?_⟩⟩
    · exact becomes_updCF ((exec_brc_whole (ht.trans hall)).trans (transfer_aligned hal _))
    · exact ⟨_, exec_brc_none (ht.trans hnone) ha, onlyGoesOn_advance s⟩
    · subst ht
      rw [exec_brc_diverges h0 h1 hal hj, diverge_room _ _ hroom]
      rfl
    · exact traps_raiseAll (exec_brc_unaligned (ht ▸ h0) hal) hst
    · subst ht
      exact traps_raiseAll (exec_brc_joinUnaligned h0 h1 hal hj) hst
    · subst ht
      exact traps_raiseAll ((exec_brc_diverges h0 h1 hal hj).trans (congrArg _ (diverge_noRoom _ _ hroom))) hst
  · rintro k rfl hal
    exact becomes_updCF ((exec_brx_s k).trans (transfer_aligned hal _))
  · rintro k rfl hal hst
    exact traps_raiseAll ((exec_brx_s k).trans (transfer_unaligned hal _)) hst
  · rintro k off x rfl hst hx own hoff
    have ho : off = brxOff s (.v k) := BitVec.eq_of_getLsbD_eq fun j hj => by
      rw [Bool.eq_iff_iff, hoff j hj, getLsbD_brxOff hj]
      rfl
    subst ho
    have h0 := ne_zero_of_lowest hx
    refine ⟨fun hw => ?_, fun ha hfree => ?_⟩
    · have hi := exec_brx_off (b := b) hx
      rw [raiseSome_takesWhole hw h0] at hi
      exact ⟨_, hi, trapped_of_takesWhole hst hw _ _⟩
    · obtain ⟨i, hi⟩ := Option.ne_none_iff_exists'.mp hfree
      exact exec_brx_splits hst hx h0 ha hi
  · rintro k x rest rfl hsorted haligned hmem of joinX
    have hgo : exec (.brx (.v k) b) s = .next (brxGo s (.v k) b s) :=
      exec_brx_aligned (brxOff_eq_zero fun j hj => haligned _ ((hmem _).mpr ⟨j, hj, rfl⟩))
    have htargets : brxTargets s s (.v k) = x :: rest := sortBy_distinct hsorted fun y => by
      rw [hmem, List.mem_map]
      simp only [mem_threads]
      rfl
    refine ⟨?_, fun hr hneed hj hst => ?_, fun hr hj hst hroom => ?_, fun hr hj hroom => ?_⟩
    · rintro rfl
      exact becomes_updCF (hgo.trans (congrArg _ (brxGo_one htargets)))
    · exact traps_raiseAll (hgo.trans (congrArg _ (brxGo_joinUnaligned htargets hr hneed hj))) hst
    · exact traps_raiseAll (hgo.trans (congrArg _ (brxGo_noRoom htargets hr hj hroom))) hst
    · exact hgo.trans (congrArg _ (brxGo_room htargets hr hj hroom))

end Sys2Proof.Machine

end

/-! Block barriers: arrivals complete phases and end the waits that they meet (R116, R118 to R120). -/

section

namespace Sys2Proof.Machine

open Sys2Proof.Claim

/-! Phases (R118, R119). -/

/-- A phase is reached when it is less than half of the numbers ahead. -/
theorem phaseReached_iff (b : Bar) (t : Nat) : phaseReached b t = true ↔ (b.phase + 65536 - t % 65536) % 65536 < 32768 := by
  generalize hn : (b.phase + 65536 - t % 65536) % 65536 = n
  have hlt : n < 2 ^ 16 := hn ▸ Nat.mod_lt _ (by decide)
  rw [phaseReached, hn, decide_eq_true_iff, sgn, Nat.mod_eq_of_lt hlt]
  split_ifs <;> omega

/-- The completion step takes whole phases off COUNT. -/
theorem complete_phases {x : Bar} {phases left : Nat} (hc : x.count = phases * x.expect + left) (hl : left < x.expect) :
    x.complete = ⟨x.expect, left, (x.phase + phases) % 65536⟩ := by
  have hd : x.count / x.expect = phases := by
    rw [hc, Nat.mul_comm, Nat.mul_add_div (by omega), Nat.div_eq_of_lt hl, Nat.add_zero]
  have hm : x.count % x.expect = left := by rw [hc, Nat.mul_comm, Nat.mul_add_mod, Nat.mod_eq_of_lt hl]
  rw [Bar.complete, hd, hm]

/-- A fragment after barrier `k` of its block has become `y`: an AWAIT whose condition holds has ended. -/
def Frag.met (k : Nat) (y : Bar) (x : Frag) : Frag :=
  match x.wait with
  | .await d j t => if j = k ∧ (y.phase + 65536 - t % 65536) % 65536 < 32768 then { x with wait := .awaited d j } else x
  | _ => x

/-- The state once barrier `k` of the acting group's block has become `y`. -/
def barSet (s : State) (k : Nat) (y : Bar) : State :=
  let put := updB s (cblk s) fun c => { c with bars := Store.upd c.bars k fun _ => y }
  { put with groups := put.groups.map fun e => if blkOf e.1 = cblk s then
      (e.1, { e.2 with frags := e.2.frags.map fun x => (x.1, x.2.met k y) }) else e }

section

variable {s : State} {k : Nat}

theorem barAt_updBar (f : Bar → Bar) : barAt (updBar s k f) k = f (barAt s k) := by
  have h : bAt (updBar s k f) (cblk s) = { bAt s (cblk s) with bars := Store.upd (bAt s (cblk s)).bars k f } :=
    bAt_updB_self s (cblk s) fun b => { b with bars := Store.upd b.bars k f }
  show Store.get (bAt (updBar s k f) (cblk s)).bars k = _
  rw [h, Store.get_upd_self]
  rfl

theorem barAt_barSet (y : Bar) : barAt (barSet s k y) k = y := barAt_updBar fun _ => y

theorem arriveBar_eq {f : Bar → Bar} {y : Bar} (hy : (f (barAt s k)).complete = y) : arriveBar s k f = barSet s k y := by
  subst hy
  unfold arriveBar
  dsimp only
  rw [barAt_updBar]
  refine congrArg (fun gs => { updBar s k (fun x => (f x).complete) with groups := gs })
    (List.map_congr_left fun e _ => ?_)
  refine if_congr Iff.rfl ?_ rfl
  refine congrArg (fun fs => (e.1, { e.2 with frags := fs })) (List.map_congr_left fun x _ => ?_)
  refine congrArg (Prod.mk x.1) ?_
  unfold Frag.met
  cases x.2.wait with
  | await d j t =>
    simp only [Bool.and_eq_true, decide_eq_true_eq, phaseReached_iff]
    split_ifs with h
    · rw [h.1]
    · rfl
  | _ => rfl

end

/-! BAR, ARRIVE and AWAIT. -/

section

variable {s : State} {k : BitVec 3} {d b : Opnd}

theorem cf_closeRegion (s : State) : cf (closeRegion s) = cf s := cf_updCG s _ rfl

theorem exec_bar_counts {y : Bar} (h0 : 0 < (usrc s b).toNat) (h1 : (usrc s b).toNat ≤ 65535)
    (hy : ({ barAt s k.toNat with expect := (usrc s b).toNat } : Bar).complete = y) :
    exec (.bar k b) s = .next (advance (barSet (closeRegion s) k.toNat y)) := by
  have hn : ¬(decide ((usrc s b).toNat = 0) || decide (65535 < (usrc s b).toNat)) = true := by simp; omega
  exact (if_neg hn).trans (congrArg done (arriveBar_eq hy))

theorem exec_bar_refuses (h : (usrc s b).toNat = 0 ∨ 65535 < (usrc s b).toNat) :
    exec (.bar k b) s = .next (raiseAll (closeRegion s) cOPERAND 0#64) := if_pos (by simpa using h)

theorem exec_arrive_waits (h : scratchWrites (cg s) = true) : exec (.arrive d k b) s = .next s := if_pos h

theorem exec_arrive_counts {y : Bar} (h : scratchWrites (cg s) = false) (h1 : (usrc s b).toNat ≤ 65535)
    (hy : ({ barAt s k.toNat with count := (barAt s k.toNat).count + (usrc s b).toNat } : Bar).complete = y) :
    exec (.arrive d k b) s =
      .next (advance (updCG (barSet (closeRegion s) k.toNat y) fun g => wrDst g d [w32 y.phase])) := by
  show execArrive d k b s = _
  have ha : arriveBar (closeRegion s) k.toNat (fun x => { x with count := x.count + (usrc s b).toNat }) =
      barSet (closeRegion s) k.toNat y := arriveBar_eq hy
  rw [execArrive, if_neg (by simp [h]), if_neg (by omega), ha]
  dsimp only
  rw [barAt_barSet]
  rfl

theorem exec_arrive_refuses (h : scratchWrites (cg s) = false) (h1 : 65535 < (usrc s b).toNat) :
    exec (.arrive d k b) s = .next (raiseAll (closeRegion s) cOPERAND 0#64) := (if_neg (by simp [h])).trans (if_pos h1)

theorem bits_low_half (n : Nat) : bits n 15 0 = n % 65536 := by simp [bits]

theorem exec_await_passes (h : phaseReached (barAt s k.toNat) ((usrc s b).toNat % 65536) = true) :
    exec (.await d k b) s = done (updCG s fun g => wrDst g d [w32 (barAt s k.toNat).phase]) := by
  show execAwait d k b s = _
  rw [execAwait, bits_low_half, if_pos h]

theorem exec_await_waits (h : ¬phaseReached (barAt s k.toNat) ((usrc s b).toNat % 65536) = true) :
    exec (.await d k b) s = .next (waitFor s (.await d k.toNat ((usrc s b).toNat % 65536))) := by
  show execAwait d k b s = _
  rw [execAwait, bits_low_half, if_neg h]

/-- Everything that an instruction does which only writes s registers once. -/
theorem done_wrDst (s : State) (d : Opnd) (ws : List Word) : ∃ t, done (updCG s fun g => wrDst g d ws) = .next t ∧
    WroteUniform s t d ws ∧ SameFlags s t ∧ RegFrame s t := by
  have hg : cg (advance (updCG s fun g => wrDst g d ws)) = { cg s with
      s := (wrDst (cg s) d ws).s, frags := Store.upd (wrDst (cg s) d ws).frags s.curF Frag.onward } := by
    rw [cg_advance, cg_updCG, updCG_curF]
    nth_rewrite 1 [wrDst_eq]
    rfl
  refine ⟨_, rfl, ?_, ?_, regFrame_of s _ (by rw [wrDst_eq])⟩
  · cases d with
    | s n =>
      refine ⟨fun r => ?_, by rw [hg], by rw [hg]⟩
      rw [hg]
      exact rdS_wrSs (cg s) n r ws
    | _ => exact ⟨by rw [hg], by rw [hg]; rfl, by rw [hg]⟩
  · rw [SameFlags, hg]
    exact ⟨rfl, rfl⟩

/-- A trap of all threads of a READY fragment at an instruction that has closed the region. -/
theorem takes_closed {i : Instr} (hst : (cf s).st = .ready)
    (hi : exec i s = .next (raiseAll (closeRegion s) cOPERAND 0#64)) :
    ∃ t, exec i s = .next t ∧ Trapped (closeRegion s) t cOPERAND (active s) 0#64 := by
  have ha : active (closeRegion s) = active s := congrArg Frag.mask (cf_closeRegion s)
  exact ⟨_, hi, ha ▸ trapped_raiseAll (by rwa [cf_closeRegion]) _ _⟩

end

/-- Settles O30: BAR and ARRIVE by the barrier that their completion step leaves, AWAIT by whether its phase is reached. -/
theorem blockBarriers : Obligations.BlockBarriers := by
  intro s k b d phase left x n open_ met set t
  refine ⟨fun h0 h1 hc hl => exec_bar_counts h0 h1 (complete_phases hc hl), fun h hst => takes_closed hst (exec_bar_refuses h),
    fun hs => ⟨fun h1 hc hl => exec_arrive_counts hs h1 (complete_phases hc hl),
      fun h1 hst => takes_closed hst (exec_arrive_refuses hs h1)⟩, exec_arrive_waits, fun h => ?_, fun h => ?_⟩
  · have hr : phaseReached x t = true := (phaseReached_iff x t).mpr (by rwa [Nat.mod_mod])
    rw [exec_await_passes hr]
    exact done_wrDst s d _
  · have hr : ¬phaseReached x t = true := by
      rw [phaseReached_iff, Nat.mod_mod]
      omega
    exact waits_of_waitFor (exec_await_waits hr)

end Sys2Proof.Machine

end

/-! IPF, PIN and UNPIN change the contents and the pins of code caches, and what their blocks meet at home (R122, R213, R405). -/

section

namespace Sys2Proof.Machine

open Sys2Proof.Claim

/-- From s to t only the contents and the pins of code caches may differ, and what blocks meet at their homes. -/
def OnlyCode (s t : State) : Prop := t = { s with
  code := t.code, pins := t.pins, l2 := t.l2, evmax := t.evmax, pmc := t.pmc, msix := t.msix, fresh := t.fresh }

section

variable {s t u : State}

theorem OnlyCode.trans (h : OnlyCode s t) (k : OnlyCode t u) : OnlyCode s u := by
  unfold OnlyCode at *
  rw [k, h]

theorem OnlyHomes.onlyCode (h : OnlyHomes s t) : OnlyCode s t := by
  unfold OnlyHomes at h
  unfold OnlyCode
  rw [h]

theorem OnlyCode.cg (h : OnlyCode s t) : Machine.cg t = Machine.cg s := by
  rw [show t = _ from h]
  rfl

theorem OnlyCode.homeByte (h : OnlyCode s t) (pa : Nat) : Machine.homeByte t pa = Machine.homeByte s pa := by
  rw [show t = _ from h]
  rfl

theorem OnlyCode.codeUnit (h : OnlyCode s t) (l : Nat) : Machine.codeUnit t l = Machine.codeUnit s l := by
  rw [show t = _ from h]
  rfl

/-- What follows such a change is, but for it, what follows without. -/
theorem OnlyCode.onlyGoesOn (h : OnlyCode s t) : OnlyGoesOn s { advance t with
    code := s.code, pins := s.pins, l2 := s.l2, evmax := s.evmax, pmc := s.pmc, msix := s.msix, fresh := s.fresh } := by
  have hs : { advance t with
      code := s.code, pins := s.pins, l2 := s.l2, evmax := s.evmax, pmc := s.pmc, msix := s.msix, fresh := s.fresh } =
      advance s := by
    rw [show t = _ from h]
    rfl
  rw [hs]
  exact onlyGoesOn_advance s

end

/-! Contents (R40, R122). -/

/-- Code caches keep what they held and take only contents of which `P` holds. -/
structure Caches (P : CodeVer → Prop) (s t : State) : Prop where
  only : OnlyCode s t
  keeps : ∀ v ∈ s.code, v ∈ t.code
  adds : ∀ v ∈ t.code, v ∈ s.code ∨ P v

section

variable {P : CodeVer → Prop} {s t u : State}

theorem Caches.refl (s : State) : Caches P s s := ⟨rfl, fun _ h => h, fun _ h => .inl h⟩

theorem Caches.trans (h : Caches P s t) (k : Caches P t u) : Caches P s u where
  only := h.only.trans k.only
  keeps v hv := k.keeps v (h.keeps v hv)
  adds v hv := (k.adds v hv).elim (h.adds v) .inr

theorem Caches.foldl {α : Type} {f : State → α → State} (l : List α)
    (h : ∀ t, Caches P s t → ∀ a ∈ l, Caches P t (f t a)) (ht : Caches P s t) : Caches P s (l.foldl f t) := by
  induction l generalizing t with
  | nil => exact ht
  | cons a l ih =>
    exact ih (fun t ht b hb => h t ht b (List.mem_cons_of_mem a hb)) (ht.trans (h t ht a List.mem_cons_self))

theorem OnlyHomes.code (h : OnlyHomes s t) : t.code = s.code := by rw [show t = _ from h]
theorem OnlyHomes.pins (h : OnlyHomes s t) : t.pins = s.pins := by rw [show t = _ from h]

/-- The state after a block has come from its home, where it is in no code cache of the cluster. -/
def blockMet (s : State) (unit slot pa : Nat) : State :=
  if (s.code.any fun v => unitCluster v.unit == unitCluster unit && v.ctx == slot && v.pa == pa) ||
    isHostLine (redirectLine s (lineOf pa)) then s else l2Meet s (some (unitCluster unit)) (redirectLine s (lineOf pa))

theorem blockMet_onlyHomes (s : State) (unit slot pa : Nat) : OnlyHomes s (blockMet s unit slot pa) := by
  unfold blockMet
  split_ifs
  · exact .refl s
  · exact l2Meet_onlyHomes s _ _

theorem keepCode_eq (s : State) (unit slot pa : Nat) (bs : List Byte) : keepCode s unit slot pa bs =
    if (blockMet s unit slot pa).code.contains ⟨unit, slot, pa, bs⟩ then blockMet s unit slot pa
    else { blockMet s unit slot pa with code := (blockMet s unit slot pa).code ++ [⟨unit, slot, pa, bs⟩] } := rfl

theorem keepCode_caches {unit slot pa : Nat} {bs : List Byte} (hP : P ⟨unit, slot, pa, bs⟩) :
    Caches P s (keepCode s unit slot pa bs) := by
  have met := blockMet_onlyHomes s unit slot pa
  have hmet : Caches P s (blockMet s unit slot pa) :=
    ⟨met.onlyCode, fun v hv => by rwa [met.code], fun v hv => .inl (by rwa [← met.code])⟩
  rw [keepCode_eq]
  split_ifs
  · exact hmet
  · refine hmet.trans ⟨rfl, fun v hv => List.mem_append_left _ hv, fun v hv => ?_⟩
    rcases List.mem_append.mp hv with hv | hv
    · exact .inl hv
    · exact .inr (List.mem_singleton.mp hv ▸ hP)

theorem keepCode_pins (s : State) (unit slot pa : Nat) (bs : List Byte) : (keepCode s unit slot pa bs).pins = s.pins := by
  rw [keepCode_eq]
  split_ifs <;> exact (blockMet_onlyHomes s unit slot pa).pins

/-- A content of a unit is one of the three blocks of some lines, as their homes hold it. -/
def Stands (s : State) (unit : Nat) (lines : List Nat) (v : CodeVer) : Prop :=
  v.unit = unit ∧ v.ctx = (cg s).ctx ∧
    ∃ x ∈ lines, ∃ k, k < 3 ∧ v.pa = (x + k) * 64 ∧ v.bs = (List.range 64).map fun i => homeByte s (v.pa + i)

theorem cacheCode_caches {unit x : Nat} {lines : List Nat} (hx : x ∈ lines) (h : OnlyCode s t) :
    Caches (Stands s unit lines) t (cacheCode t unit x) := by
  refine .foldl _ (fun u hu k hk => keepCode_caches ?_) (.refl t)
  have hsu := h.trans hu.only
  refine ⟨rfl, by rw [hsu.cg], x, hx, k, ?_, rfl, by simp only [hsu.homeByte]⟩
  simp only [List.mem_cons, List.not_mem_nil, or_false] at hk
  omega

theorem cacheCode_pins (s : State) (unit x : Nat) : (cacheCode s unit x).pins = s.pins := by
  simp only [cacheCode, List.foldl_cons, List.foldl_nil, keepCode_pins]

/-- The state after the lines of an IPF have come to the unit of a level. -/
def prefetched (s : State) (l : Nat) (lines : List Nat) : State := lines.foldl (fun s x => cacheCode s (codeUnit s l) x) s

theorem prefetched_caches (s : State) (l : Nat) (lines : List Nat) :
    Caches (Stands s (codeUnit s l) lines) s (prefetched s l lines) :=
  .foldl lines (fun t h x hx => by rw [h.only.codeUnit]; exact cacheCode_caches hx h.only) (.refl s)

theorem prefetched_pins (s : State) (l : Nat) (lines : List Nat) : (prefetched s l lines).pins = s.pins := by
  unfold prefetched
  induction lines generalizing s with
  | nil => rfl
  | cons x lines ih => rw [List.foldl_cons, ih, cacheCode_pins]

end

/-! Pins (R122). -/

/-- How many pins stand in a unit. -/
def pinsOf (unit : Nat) (p : List CodePin) : Nat := (p.filter fun q => q.unit == unit).length

/-- Pins of a unit were added, each of which `N` holds of, while they were at or below a limit. -/
structure PinsAdded (N : CodePin → Prop) (unit limit : Nat) (p q : List CodePin) : Prop where
  keeps : ∀ x ∈ p, x ∈ q
  adds : ∀ x ∈ q, x ∈ p ∨ N x
  within : pinsOf unit p ≤ limit → pinsOf unit q ≤ limit

section

variable {N : CodePin → Prop} {unit limit : Nat} {s : State}

theorem PinsAdded.refl (p : List CodePin) : PinsAdded N unit limit p p := ⟨fun _ h => h, fun _ h => .inl h, fun h => h⟩

theorem PinsAdded.trans {p q r : List CodePin} (h : PinsAdded N unit limit p q) (k : PinsAdded N unit limit q r) :
    PinsAdded N unit limit p r where
  keeps x hx := k.keeps x (h.keeps x hx)
  adds x hx := (k.adds x hx).elim (h.adds x) .inr
  within hp := k.within (h.within hp)

theorem pinLine_adds {x : Nat} (hN : N ⟨unit, (cg s).ctx, x⟩) : PinsAdded N unit limit s.pins (pinLine s unit limit x).pins := by
  unfold pinLine
  dsimp only
  split_ifs with hin hroom
  · exact .refl _
  · refine ⟨fun q hq => List.mem_append_left _ hq, fun q hq => ?_, fun _ => ?_⟩
    · rcases List.mem_append.mp hq with hq | hq
      · exact .inl hq
      · exact .inr (List.mem_singleton.mp hq ▸ hN)
    · simpa [pinsOf, List.filter_append] using hroom
  · exact .refl _

theorem pinLine_caches {P : CodeVer → Prop} (s : State) (unit limit x : Nat) : Caches P s (pinLine s unit limit x) := by
  unfold pinLine
  dsimp only
  split_ifs
  · exact .refl s
  · exact ⟨rfl, fun _ h => h, fun _ h => .inl h⟩
  · exact .refl s

/-- A line comes to the unit of a level and is pinned there. -/
def cachePinned (s : State) (l limit x : Nat) : State := pinLine (cacheCode s (codeUnit s l) x) (codeUnit s l) limit x

/-- The state after the lines of a PIN have come to the unit of a level and been pinned there. -/
def pinned (s : State) (l limit : Nat) (lines : List Nat) : State := lines.foldl (fun s x => cachePinned s l limit x) s

section

variable {t : State} {l limit x : Nat} {lines : List Nat}

theorem cachePinned_caches (h : OnlyCode s t) (hx : x ∈ lines) :
    Caches (Stands s (codeUnit s l) lines) t (cachePinned t l limit x) := by
  rw [cachePinned, h.codeUnit]
  exact (cacheCode_caches hx h).trans (pinLine_caches _ _ _ _)

/-- A pin of a unit stands on one of some lines. -/
def PinsLine (s : State) (unit : Nat) (lines : List Nat) (p : CodePin) : Prop :=
  p.unit = unit ∧ p.ctx = (cg s).ctx ∧ p.line ∈ lines

theorem cachePinned_adds (h : OnlyCode s t) (hx : x ∈ lines) :
    PinsAdded (PinsLine s (codeUnit s l) lines) (codeUnit s l) limit t.pins (cachePinned t l limit x).pins := by
  have hcg : cg (cacheCode t (codeUnit s l) x) = cg s := (h.trans (cacheCode_caches hx h).only).cg
  rw [cachePinned, h.codeUnit, ← cacheCode_pins t (codeUnit s l) x]
  exact pinLine_adds ⟨rfl, by rw [hcg], hx⟩

end

theorem pinned_caches (s : State) (l limit : Nat) (lines : List Nat) :
    Caches (Stands s (codeUnit s l) lines) s (pinned s l limit lines) :=
  .foldl lines (fun _ h _ hx => cachePinned_caches h.only hx) (.refl s)

theorem pinned_adds (s : State) (l limit : Nat) (lines : List Nat) :
    PinsAdded (PinsLine s (codeUnit s l) lines) (codeUnit s l) limit s.pins (pinned s l limit lines).pins := by
  have fold (xs : List Nat) (hxs : xs ⊆ lines) (t : State) (ht : OnlyCode s t) :
      PinsAdded (PinsLine s (codeUnit s l) lines) (codeUnit s l) limit t.pins (pinned t l limit xs).pins := by
    induction xs generalizing t with
    | nil => exact .refl _
    | cons x xs ih =>
      obtain ⟨hx, hxs⟩ := List.cons_subset.mp hxs
      exact (cachePinned_adds ht hx).trans (ih hxs _ (ht.trans (cachePinned_caches ht hx).only))
  exact fold lines (List.Subset.refl _) s rfl

theorem mem_unpinned {lines : List Nat} {p : CodePin} :
    p ∈ s.pins.filter (fun p => !(p.unit == unit && lines.contains p.line)) ↔
      p ∈ s.pins ∧ ¬(p.unit = unit ∧ p.line ∈ lines) := by
  rw [List.mem_filter, Bool.not_eq_true', Bool.and_eq_false_iff, not_and_or]
  simp

end

/-- The lines of a code range that IPF, PIN and UNPIN name (R122). -/
def codeRange (s : State) (a b : Opnd) : List Nat := codeLines s (upair s a) (usrc s b).toNat

theorem exec_ipf (s : State) (l : BitVec 1) (a b : Opnd) :
    exec (.ipf l a b) s = .next (advance (prefetched s l.toNat (codeRange s a b))) := rfl

theorem exec_pin (s : State) (l : BitVec 1) (a b : Opnd) :
    exec (.pin l a b) s = .next (advance (pinned s l.toNat (if l = 0#1 then 256 else 4096) (codeRange s a b))) := rfl

/-- Settles O31: IPF and PIN by what every line adds, UNPIN by the pins that its filter leaves. -/
theorem codePrefetchAndPins : Obligations.CodePrefetchAndPins := by
  intro s l a b unit lines limit here Cached
  have ipf := prefetched_caches s l.toNat lines
  have pin := pinned_caches s l.toNat limit lines
  have pins := pinned_adds s l.toNat limit lines
  exact ⟨⟨_, exec_ipf s l a b, ipf.only.onlyGoesOn, prefetched_pins s l.toNat lines, ipf.keeps, ipf.adds⟩,
    ⟨_, exec_pin s l a b, pin.only.onlyGoesOn, ⟨pins.keeps, pins.adds, pins.within⟩, pin.keeps, pin.adds⟩,
    _, rfl, onlyGoesOn_advance s, fun p => mem_unpinned⟩

end Sys2Proof.Machine

end

/-! The wakes of waiting fragments (R111, R119, R242, R243, R276, R292, R296, R301, R321, R322, R418). -/

section

namespace Sys2Proof.Machine

open Sys2Proof.Claim

/-! A wait that is over (R36). -/

theorem wrDst_frags (x : Group) (d : Opnd) (ws : List Word) : (wrDst x d ws).frags = x.frags := by rw [wrDst_eq]

theorem wakeWith_groups (s : State) (g f : Nat) (d : Opnd) (ws : List Word) :
    wakeWith s g f d ws = { s with groups := (wakeWith s g f d ws).groups } := by
  simp only [wakeWith, wake, updF, updG]

theorem gAt_wakeWith (s : State) (g f : Nat) (d : Opnd) (ws : List Word) : gAt (wakeWith s g f d ws) g =
    { gAt s g with s := (wrDst (gAt s g) d ws).s, frags := (gAt (wakeWith s g f d ws) g).frags } := by
  simp only [wakeWith, wake_eq, updF, gAt_updG_self]
  rw [wrDst_eq]

theorem fragAt_wakeWith_ne (s : State) {g f i : Nat} (d : Opnd) (ws : List Word) (h : i ≠ f) :
    fragAt (wakeWith s g f d ws) g i = fragAt s g i := by
  rw [wakeWith, fragAt_updF, if_neg h, wake_eq, fragAt_updF, if_neg h, fragAt_updG fun x => wrDst_frags x d ws]

/-- The end of a wait writes its destination, and its fragment goes on after its instruction. -/
theorem woken_wakeWith (s : State) (g f : Nat) (d : Opnd) (ws : List Word) : Woken s (wakeWith s g f d ws) g f d ws := by
  have hg := gAt_wakeWith s g f d ws
  refine ⟨wakeWith_groups s g f d ws, fun h hh => ?_, by rw [hg],
    fun i hi => fragAt_wakeWith_ne s d ws hi, fragAt_wakeWith s g f d ws, ?_⟩
  · rw [wakeWith, wake_eq, updF, updF, gAt_updG_ne _ _ hh, gAt_updG_ne _ _ hh, gAt_updG_ne _ _ hh]
  · rw [hg]
    cases d with
    | s n => exact fun r => rdS_wrSs (gAt s g) n r ws
    | _ => rfl

theorem ends_of_wakeWith {s u : State} {i : Instr} {g f : Nat} {d : Opnd} {ws : List Word}
    (hi : exec i s = .next (wakeWith u g f d ws)) : ∃ t, exec i s = .next t ∧ Woken u t g f d ws :=
  ⟨_, hi, woken_wakeWith u g f d ws⟩

/-! What ends a wait (R240, R296, R321). -/

section

variable {e preq : Nat} {target : Word}

theorem evStatus_ok (hb : bit preq 1 = false) (hr : 0 ≤ serial (evCtr e) target) : evStatus e target preq = some 0 := by
  simp [evStatus, evReached, hb, hr]

theorem evStatus_deadline (hb : bit preq 1 = true) (hf : evFrozen e = false) : evStatus e target preq = some 1 := by
  simp [evStatus, hb, hf]

theorem evStatus_down (hr : ¬0 ≤ serial (evCtr e) target) (hd : evDown e = true) : evStatus e target preq = some 3 := by
  simp [evStatus, evReached, evFrozen, hr, hd]

end

/-- A taken slot is its offset in the ring's storage, with bit 31 where its copy failed. -/
theorem ringTake_word (r : Ring) : (ringTake r).2 =
    w32 (r.slotBytes * (r.ap % r.nslot) + if bit r.fmask (r.ap % r.nslot) then 2 ^ 31 else 0) := by
  rw [ringTake]
  cases bit r.fmask (r.ap % r.nslot) <;> rfl

/-- What follows the round that ends a fence: nothing, an EVSIG or an MBXDONE. -/
def afterFence (u : State) (g f n after : Nat) (x y : Word) : State :=
  match after with
  | 1 => evsigFinish u g f n x y
  | 2 => mbxdoneFinish u g f n x
  | _ => wakeWith u g f .nul []

/-! The wakes of a group that no save has stopped, each with what it waits for. -/

section

variable {s u : State} {g f k m n : Nat} {d : Opnd}

theorem exec_handlerStart (hw : (fragAt s g f).wait = .record) (h : recWaiting s (g, f) = false) :
    exec (.handlerStart g f) s = .next (updF s g f fun x => { x with wait := .no }) := by
  show execHandlerStart g f s = _
  simp [execHandlerStart, hw, h]

variable (hs : (gAt s g).saved = false)

include hs

theorem exec_fragmentWake_await (hw : (fragAt s g f).wait = .await d k n)
    (h : phaseReached (Store.get (bAt s (blkOf g)).bars k) n = true) : exec (.fragmentWake g f) s =
      .next (wakeWith s g f d [w32 (Store.get (bAt s (blkOf g)).bars k).phase]) := by
  show execFragmentWake g f s = _
  simp [execFragmentWake, hw, hs, h]

theorem exec_fragmentWake_awaited (hw : (fragAt s g f).wait = .awaited d k) : exec (.fragmentWake g f) s =
    .next (wakeWith s g f d [w32 (Store.get (bAt s (blkOf g)).bars k).phase]) := by
  show execFragmentWake g f s = _
  simp [execFragmentWake, hw, hs]

theorem exec_sleepWake {t0 : Nat} (hw : (fragAt s g f).wait = .sleep t0 n)
    (h : t0 + n ≤ s.gt ∨ bit (ctxAt s (gAt s g).ctx).preq 0 = true) :
    exec (.sleepWake g f) s = .next (wakeWith s g f .nul []) := by
  have hend : (decide (t0 + n ≤ s.gt) || bit (ctxAt s (gAt s g).ctx).preq 0) = true := by simpa using h
  show execSleepWake g f s = _
  simp [execSleepWake, hw, hs, hend]

theorem exec_wtimeWake {q : Quad} (hw : (fragAt s g f).wait = .wtime q) (h : q.toNat ≤ s.gt) :
    exec (.wtimeWake g f) s = .next (wakeWith s g f .nul []) := by
  show execWtimeWake g f s = _
  simp [execWtimeWake, hw, hs, h]

theorem exec_evwaitWake {name target : Word} {pa e st : Nat} (hw : (fragAt s g f).wait = .evwait d name target)
    (ha : evAccess s (gAt s g).ctx (evIdx name) false = .ok pa e) (h : evStatus e target (preqOf s g) = some st) :
    exec (.evwaitWake g f) s = .next (wakeWith s g f d [w32 st, evCtr e]) := by
  show execEvwaitWake g f s = _
  simp [execEvwaitWake, hw, hs, ha, h]

theorem exec_rngwWake (hw : (fragAt s g f).wait = .rngw d k n) (hv : (ringRec s (blkOf g) k).valid = true)
    (hap : (ringRec s (blkOf g) k).ap ≠ (ringRec s (blkOf g) k).fp) (hq : ringQueued s (blkOf g) k n = false) :
    exec (.rngwWake g f) s = .next (wakeWith (updRing s (blkOf g) k fun _ => (ringTake (ringRec s (blkOf g) k)).1) g f d
      [(ringTake (ringRec s (blkOf g) k)).2]) := by
  show execRngwWake g f s = _
  simp [execRngwWake, hw, hs, hv, hap, hq]

theorem exec_mbxrdWake {box : Mail} (hw : (fragAt s g f).wait = .mbxrd d n) (hm : mailFor s (blkOf g) = some box)
    (hq : mailQueued s (coreOf g) n box = false) :
    exec (.mbxrdWake g f) s = .next (wakeWith (takeMail s (blkOf g) box) g f d box.words) := by
  show execMbxrdWake g f s = _
  simp [execMbxrdWake, hw, hs, hm, hq]

theorem exec_qwaitWake {x : Word} (hw : (fragAt s g f).wait = .qwait d m n)
    (hc : copiesLeft s g (queuesOf m) n (fun _ => true) = false) (ht : qwaitTake s (blkOf g) m = (u, x)) :
    exec (.qwaitWake g f) s = .next (wakeWith u g f d [x]) := by
  show execQwaitWake g f s = _
  simp [execQwaitWake, hw, hs, hc, ht]

theorem exec_lbclWake (hw : (fragAt s g f).wait = .lbcl d k n) (hc : copiesLeft s g [k] n (fun c => c.op == 0xB3) = false) :
    exec (.lbclWake g f) s = .next (wakeWith (amaxTake s (coreOf g) k).1 g f d [(amaxTake s (coreOf g) k).2]) := by
  show execLbclWake g f s = _
  simp [execLbclWake, hw, hs, hc]

theorem exec_frcWake {st : Nat} (hw : (fragAt s g f).wait = .frc d n) (h : frcStatus s g n false = some st) :
    exec (.frcWake g f) s = .next (wakeWith s g f d [w32 st]) := by
  show execFrcWake g f s = _
  simp [execFrcWake, hw, hs, h]

section

variable {scope after : Nat} {rel acq : Bool} {wb : Option Nat} {x y : Word}
  (hw : (fragAt s g f).wait = .fence scope rel acq n wb after x y)

include hw

theorem exec_fenceWake_waits (hr : fenceRound s g f = (u, false)) : exec (.fenceWake g f) s = .next u := by
  show execFenceWake g f s = _
  simp [execFenceWake, hw, hs, hr]

theorem exec_fenceWake_over (hr : fenceRound s g f = (u, true)) : exec (.fenceWake g f) s = .next
    (if (gAt u g).ending then signalEnded u (afterFence u g f n after x y) g f n else afterFence u g f n after x y) := by
  show execFenceWake g f s = _
  simp only [execFenceWake, hw, hs, hr]
  rfl

theorem exec_fenceWake_goesOn (hr : fenceRound s g f = (u, true)) (he : (gAt u g).ending = false) :
    exec (.fenceWake g f) s = .next (afterFence u g f n after x y) := by
  rw [exec_fenceWake_over hs hw hr, he]
  rfl

theorem exec_fenceWake_ended (hr : fenceRound s g f = (u, true)) (he : (gAt u g).ending = true) :
    exec (.fenceWake g f) s = .next (signalEnded u (afterFence u g f n after x y) g f n) := by
  rw [exec_fenceWake_over hs hw hr, he]
  rfl

end

end

/-- Settles O49: each wake answers with the end of its wait, whose effect `woken_wakeWith` says. -/
theorem wakes : Obligations.Wakes := by
  intro s u g f t0 n k m scope pa e st after d name target x y q rel acq wb box w blk Ends r hs
  refine ⟨exec_handlerStart, fun hw h => ends_of_wakeWith (exec_fragmentWake_await hs hw h),
    fun hw => ends_of_wakeWith (exec_fragmentWake_awaited hs hw), fun hw h => ends_of_wakeWith (exec_sleepWake hs hw h),
    fun hw h => ends_of_wakeWith (exec_wtimeWake hs hw h), fun hw ha => ⟨fun hb hr => ?_, fun hb hf => ?_, fun hr hd => ?_⟩,
    fun hw hv hap hq => ?_, fun hw hm hq => ends_of_wakeWith (exec_mbxrdWake hs hw hm hq),
    fun hw hc ht => ends_of_wakeWith (exec_qwaitWake hs hw hc ht), fun hw hc => ends_of_wakeWith (exec_lbclWake hs hw hc),
    fun hw h => ends_of_wakeWith (exec_frcWake hs hw h),
    fun hw => ⟨exec_fenceWake_waits hs hw, fun hr he ha => ?_, fun hr he => ⟨?_, ?_, ?_⟩⟩⟩
  · exact ends_of_wakeWith (exec_evwaitWake hs hw ha (evStatus_ok hb hr))
  · exact ends_of_wakeWith (exec_evwaitWake hs hw ha (evStatus_deadline hb hf))
  · exact ends_of_wakeWith (exec_evwaitWake hs hw ha (evStatus_down hr hd))
  · have hi := exec_rngwWake hs hw hv hap hq
    rw [ringTake_word] at hi
    exact ends_of_wakeWith hi
  · rw [exec_fenceWake_ended hs hw hr he]
    obtain rfl | rfl := ha <;> rfl
  · rintro rfl
    exact ends_of_wakeWith (exec_fenceWake_goesOn hs hw hr he)
  · rintro rfl
    exact exec_fenceWake_goesOn hs hw hr he
  · rintro rfl
    exact exec_fenceWake_goesOn hs hw hr he

end Sys2Proof.Machine

end

/-! Integer instructions on the elements of packed words (R79, R124 to R126). -/

section

namespace Sys2Proof.Machine

open Sys2Proof.Claim

/-! Elements of a word (R79, R124). -/

theorem fromElems_lt (w : Nat) (l : List Nat) : fromElems w l < 2 ^ (w * l.length) := by
  induction l with
  | nil => simp [fromElems]
  | cons e l ih =>
    have he : e % 2 ^ w < 2 ^ w := Nat.mod_lt _ (by positivity)
    calc e % 2 ^ w + 2 ^ w * fromElems w l
        < 2 ^ w + 2 ^ w * fromElems w l := Nat.add_lt_add_right he _
      _ = 2 ^ w * (fromElems w l + 1) := by ring
      _ ≤ 2 ^ w * 2 ^ (w * l.length) := Nat.mul_le_mul_left _ ih
      _ = 2 ^ (w * (l.length + 1)) := by ring

/-- An element of a packed number, counted from the least significant one. -/
theorem fromElems_div_mod (w : Nat) (l : List Nat) (i : Nat) :
    fromElems w l / 2 ^ (w * i) % 2 ^ w = l.getD i 0 % 2 ^ w := by
  induction l generalizing i with
  | nil => simp [fromElems]
  | cons e l ih =>
    have hw : 0 < 2 ^ w := by positivity
    cases i with
    | zero => simp [fromElems]
    | succ i =>
      rw [Nat.mul_succ, Nat.add_comm, Nat.pow_add, ← Nat.div_div_eq_div_mul, fromElems, Nat.add_mul_div_left _ _ hw,
        Nat.div_eq_of_lt (Nat.mod_lt _ hw), Nat.zero_add, ih]
      simp

/-- The elements that lie in a word are those of the number. -/
theorem elem_w32 {w i : Nat} (hi : i < 32 / w) (x : Nat) : elem w i (w32 x) = x / 2 ^ (w * i) % 2 ^ w := by
  have hw : w * i + w ≤ 32 := by
    calc w * i + w = w * (i + 1) := rfl
      _ ≤ w * (32 / w) := Nat.mul_le_mul_left w hi
      _ ≤ 32 := Nat.mul_div_le 32 w
  rw [elem, w32, BitVec.toNat_ofNat]
  apply Nat.eq_of_testBit_eq
  intro j
  rw [Nat.testBit_mod_two_pow, Nat.testBit_mod_two_pow, Nat.testBit_div_two_pow, Nat.testBit_div_two_pow, Nat.testBit_mod_two_pow]
  by_cases hj : j < w
  · simp [hj, show j + w * i < 32 by omega]
  · simp [hj]

theorem elem_packed {w i : Nat} (hi : i < 32 / w) (x : Nat → Nat) :
    elem w i (w32 (fromElems w ((List.range (32 / w)).map x))) = x i % 2 ^ w := by
  rw [elem_w32 hi, fromElems_div_mod]
  simp [List.getD, hi]


/-! Sums over elements. -/

theorem fromElems_append_singleton (w : Nat) (l : List Nat) (e : Nat) :
    fromElems w (l ++ [e]) = fromElems w l + e % 2 ^ w * 2 ^ (w * l.length) := by
  induction l with
  | nil => simp [fromElems]
  | cons x l ih =>
    rw [List.cons_append, fromElems, fromElems, ih, List.length_cons, Nat.mul_succ, Nat.pow_add]
    ring

theorem fromElems_range (w n : Nat) (x : Nat → Nat) :
    fromElems w ((List.range n).map x) = ∑ i ∈ Finset.range n, x i % 2 ^ w * 2 ^ (w * i) := by
  induction n with
  | zero => rfl
  | succ n ih =>
    rw [List.range_succ, List.map_append, List.map_singleton, fromElems_append_singleton, ih, Finset.sum_range_succ,
      List.length_map, List.length_range]

theorem foldl_add_range (n : Nat) (x : Nat → Nat) :
    (List.range n).foldl (fun acc i => acc + x i) 0 = ∑ i ∈ Finset.range n, x i := by
  induction n with
  | zero => rfl
  | succ n ih => rw [List.range_succ, List.foldl_concat, ih, Finset.sum_range_succ]

/-! What the element operations answer (R125, R126). -/

theorem wrapN_lt (w : Nat) (x : Int) : wrapN w x < 2 ^ w := by
  have h := Int.emod_lt_of_pos x (show (0 : Int) < 2 ^ w by positivity)
  rw [wrapN, Int.toNat_lt (Int.emod_nonneg x (by positivity))]
  exact_mod_cast h

/-- Wrapping a number that was read as signed gives it back. -/
theorem wrapN_sgn {w n : Nat} (hn : n < 2 ^ w) : wrapN w (sgn w n) = n := by
  have hmod : (n : Int) % 2 ^ w = n := Int.emod_eq_of_lt (Int.natCast_nonneg n) (by exact_mod_cast hn)
  have h : sgn w n % 2 ^ w = n := by
    rw [sgn, Nat.mod_eq_of_lt hn]
    split
    · exact hmod
    · rw [Int.sub_emod_right, hmod]
  rw [wrapN, h, Int.toNat_natCast]

theorem sMin_le_sMax (w : Nat) : sMin w ≤ sMax w := by
  have : (0 : Int) < 2 ^ (w - 1) := by positivity
  rw [sMin, sMax]
  omega

theorem clampS_eq_satResult (w : Nat) (sat : Bool) (x : Int) : clampS w sat x = satResult w sat x := by
  have hm := sMin_le_sMax w
  cases sat with
  | false => rfl
  | true =>
    simp only [clampS, satResult, Bool.true_and, decide_eq_true_eq, if_true]
    by_cases hlo : x < sMin w
    · rw [if_pos hlo, if_pos (.inl hlo), max_eq_left (min_le_of_left_le hlo.le)]
    · by_cases hhi : sMax w < x
      · rw [if_neg hlo, if_pos hhi, if_pos (.inr hhi), min_eq_right hhi.le, max_eq_right hm]
      · rw [if_neg hlo, if_neg hhi, if_neg (by tauto), min_eq_left (not_lt.mp hhi), max_eq_right (not_lt.mp hlo)]

theorem satResult_lt (w : Nat) (sat : Bool) (x : Int) : (satResult w sat x).1 < 2 ^ w := by
  cases sat <;> exact wrapN_lt w _

/-- On elements an operation of the model answers what a rule says, and the answer fits the element. -/
structure Gives (g f : ElemOp) : Prop where
  same : ∀ {w sat a b d}, 0 < w → a < 2 ^ w → b < 2 ^ w → g w sat a b d = f w sat a b d
  fits : ∀ {w sat a b d}, 0 < w → a < 2 ^ w → b < 2 ^ w → (f w sat a b d).1 < 2 ^ w

/-- An instruction that applies an element operation writes the elements of its rule and raises their FLAGS bits (R124). -/
theorem packed_of_gives {mk : Opnd → Opnd → Opnd → Instr} {g f : ElemOp} (h : Gives g f)
    (hi : ∀ s d a b, exec (mk d a b) s = packed s d a b g) : Packed mk f := by
  intro s d a b w r
  have hw : 0 < w := packWidth_pos _
  have elem_lt (i : Nat) (x : Word) : elem w i x < 2 ^ w := Nat.mod_lt _ (by positivity)
  have same (j i : Nat) : g w (mSat (cf s).mode) (elem w i (src s .pack a j)) (elem w i (src s .pack b j))
      (elem w i (srcAt s d 0 j)) = r j i := h.same hw (elem_lt i _) (elem_lt i _)
  have result (j : Nat) : onElems w (mSat (cf s).mode) g (src s .pack a j) (src s .pack b j) (srcAt s d 0 j) =
      (w32 (fromElems w ((List.range (32 / w)).map fun i => (r j i).1)),
        orFlags ((List.range (32 / w)).map fun i => (r j i).2)) := by
    simp only [← same, onElems, List.map_map]
    rfl
  obtain ⟨t, ht, hwrote, hflags, hgen, hframe⟩ := perThread_spec s d fun j =>
    onElems w (mSat (cf s).mode) g (src s .pack a j) (src s .pack b j) (srcAt s d 0 j)
  simp only [result] at hwrote hflags
  refine ⟨t, _, (hi s d a b).trans ht, hwrote, fun j i hlt => ?_, hflags, hgen, hframe⟩
  rw [elem_packed hlt, Nat.mod_eq_of_lt (h.fits hw (elem_lt i _) (elem_lt i _))]

section

variable {w a b : Nat}

theorem gives_signedOp (f : Int → Int → Int → Int) :
    Gives (signedOp f) fun w sat a b d => satResult w sat (f (sgn w a) (sgn w b) (sgn w d)) where
  same _ _ _ := clampS_eq_satResult _ _ _
  fits _ _ _ := satResult_lt _ _ _

theorem gives_signedWrap (f : Nat → Int → Int → Int) :
    Gives (signedWrap f) fun w _ a b _ => (wrapN w (f w (sgn w a) (sgn w b)), 0) where
  same _ _ _ := rfl
  fits _ _ _ := wrapN_lt _ _

/-- A choice between the signed values of two elements is a choice between the elements. -/
theorem gives_signedWrap_of_sgn {F : Int → Int → Int} {f : Nat → Nat → Nat → Nat}
    (hs : ∀ w a b, F (sgn w a) (sgn w b) = sgn w (f w a b)) (hf : ∀ {w a b}, a < 2 ^ w → b < 2 ^ w → f w a b < 2 ^ w) :
    Gives (signedWrap fun _ => F) fun w _ a b _ => (f w a b, 0) where
  same _ ha hb := by rw [signedWrap, hs, wrapN_sgn (hf ha hb)]
  fits _ ha hb := hf ha hb

theorem gives_unsignedOp {f : Nat → Nat → Nat → Nat} (hf : ∀ {w a b}, a < 2 ^ w → b < 2 ^ w → f w a b < 2 ^ w) :
    Gives (unsignedOp f) fun w _ a b _ => (f w a b, 0) where
  same _ ha hb := by rw [unsignedOp, Nat.mod_eq_of_lt (hf ha hb)]
  fits _ ha hb := hf ha hb

theorem ite_lt_two_pow (p : Prop) [Decidable p] (ha : a < 2 ^ w) (hb : b < 2 ^ w) : (if p then a else b) < 2 ^ w := by
  split
  · exact ha
  · exact hb

theorem mul_div_two_pow_lt (ha : a < 2 ^ w) (hb : b < 2 ^ w) : a * b / 2 ^ w < 2 ^ w :=
  Nat.div_lt_of_lt_mul (Nat.mul_lt_mul'' ha hb)

theorem gives_divOp : Gives divOp fun w sat a b _ =>
    if b = 0 then (if sgn w a < 0 then 2 ^ (w - 1) else 2 ^ (w - 1) - 1, fDZ)
    else satResult w sat ((sgn w a).tdiv (sgn w b)) where
  same hw _ _ := by simp only [divOp, wrapN_sMin hw, wrapN_sMax hw, clampS_eq_satResult]
  fits {w _ a b _} hw _ _ := by
    have half : 2 ^ (w - 1) < 2 ^ w := Nat.pow_lt_pow_right (by decide) (by omega)
    split
    · dsimp only
      split <;> omega
    · exact satResult_lt _ _ _

theorem gives_divnOp : Gives divnOp fun w _ a b _ => if b = 0 then (2 ^ w - 1, fDZ) else (a / b, 0) where
  same _ _ _ := rfl
  fits _ ha _ := by
    split
    · exact Nat.sub_one_lt (by positivity)
    · exact (Nat.div_le_self _ _).trans_lt ha

theorem gives_remOp : Gives remOp fun w _ a b _ =>
    if b = 0 then (a, fDZ) else (wrapN w ((sgn w a).tmod (sgn w b)), 0) where
  same _ _ _ := rfl
  fits _ ha _ := by
    split
    · exact ha
    · exact wrapN_lt _ _

theorem gives_remnOp : Gives remnOp fun _ _ a b _ => if b = 0 then (a, fDZ) else (a % b, 0) where
  same _ _ _ := rfl
  fits _ ha _ := by
    split
    · exact ha
    · exact (Nat.mod_le _ _).trans_lt ha

end

/-- Settles O7: each instruction applies its element operation, whose answer is that of the rule. -/
theorem integerArithmetic : Obligations.IntegerArithmetic := by
  refine ⟨?add, ?sub, ?mul, ?mad, ?abs, ?mulh, ?mulhn, ?min, ?max, ?minn, ?maxn, ?div, ?divn, ?rem, ?remn⟩
  case add => exact packed_of_gives (gives_signedOp fun a b _ => a + b) fun _ _ _ _ => rfl
  case sub => exact packed_of_gives (gives_signedOp fun a b _ => a - b) fun _ _ _ _ => rfl
  case mul => exact packed_of_gives (gives_signedOp fun a b _ => a * b) fun _ _ _ _ => rfl
  case mad => exact packed_of_gives (gives_signedOp fun a b d => a * b + d) fun _ _ _ _ => rfl
  case abs => exact packed_of_gives (gives_signedOp fun a _ _ => (a.natAbs : Int)) fun _ _ _ _ => rfl
  case mulh => exact packed_of_gives (gives_signedWrap fun w a b => a * b / 2 ^ w) fun _ _ _ _ => rfl
  case mulhn => exact packed_of_gives (gives_unsignedOp mul_div_two_pow_lt) fun _ _ _ _ => rfl
  case min =>
    exact packed_of_gives (gives_signedWrap_of_sgn (fun _ _ _ => (apply_ite _ _ _ _).symm)
      fun ha hb => ite_lt_two_pow _ ha hb) fun _ _ _ _ => rfl
  case max =>
    exact packed_of_gives (gives_signedWrap_of_sgn (fun _ _ _ => (apply_ite _ _ _ _).symm)
      fun ha hb => ite_lt_two_pow _ hb ha) fun _ _ _ _ => rfl
  case minn => exact packed_of_gives (gives_unsignedOp fun ha _ => (min_le_left _ _).trans_lt ha) fun _ _ _ _ => rfl
  case maxn => exact packed_of_gives (gives_unsignedOp fun ha hb => max_lt ha hb) fun _ _ _ _ => rfl
  case div => exact packed_of_gives gives_divOp fun _ _ _ _ => rfl
  case divn => exact packed_of_gives gives_divnOp fun _ _ _ _ => rfl
  case rem => exact packed_of_gives gives_remOp fun _ _ _ _ => rfl
  case remn => exact packed_of_gives gives_remnOp fun _ _ _ _ => rfl

/-! Shifts, rotations and counts (R125). -/

section

variable {w a : Nat}

theorem gives_shlOp : Gives shlOp fun w _ a n _ => (if w ≤ n then 0 else a * 2 ^ n % 2 ^ w, 0) where
  same _ _ _ := rfl
  fits _ _ _ := ite_lt_two_pow _ (by positivity) (Nat.mod_lt _ (by positivity))

theorem gives_shrOp : Gives shrOp fun w _ a n _ => (if w ≤ n then 0 else a / 2 ^ n, 0) where
  same _ _ _ := rfl
  fits _ ha _ := ite_lt_two_pow _ (by positivity) ((Nat.div_le_self _ _).trans_lt ha)

theorem gives_sarOp : Gives sarOp fun w _ a n _ => (wrapN w (sgn w a / 2 ^ min n w), 0) where
  same _ _ _ := by rw [sarOp, min_comm, min_def]
  fits _ _ _ := wrapN_lt _ _

/-- The two parts that a rotation puts together do not overlap. -/
theorem rot_parts_lt {k : Nat} (ha : a < 2 ^ w) (hk : k ≤ w) : a * 2 ^ k % 2 ^ w + a / 2 ^ (w - k) < 2 ^ w := by
  obtain ⟨m, rfl⟩ := Nat.exists_eq_add_of_le hk
  have high : a / 2 ^ m < 2 ^ k := Nat.div_lt_of_lt_mul (by rwa [← Nat.pow_add, Nat.add_comm])
  have low : a % 2 ^ m < 2 ^ m := Nat.mod_lt _ (by positivity)
  rw [Nat.add_sub_cancel_left, Nat.pow_add, Nat.mul_comm a, Nat.mul_mod_mul_left]
  calc 2 ^ k * (a % 2 ^ m) + a / 2 ^ m
      < 2 ^ k * (a % 2 ^ m) + 2 ^ k := Nat.add_lt_add_left high _
    _ = 2 ^ k * (a % 2 ^ m + 1) := by ring
    _ ≤ 2 ^ k * 2 ^ m := Nat.mul_le_mul_left _ low

theorem gives_rotOp : Gives rotOp fun w _ a n _ => ((a * 2 ^ (n % w) + a / 2 ^ (w - n % w)) % 2 ^ w, 0) where
  same hw ha _ := by rw [rotOp, ← Nat.mod_add_mod, Nat.mod_eq_of_lt (rot_parts_lt ha (Nat.mod_lt _ hw).le)]
  fits _ _ _ := Nat.mod_lt _ (by positivity)

theorem bitLen_le_iff {n k : Nat} : bitLen n ≤ k ↔ n < 2 ^ k := by
  rw [bitLen]
  split
  next h => simp [h]
  next h => exact Nat.log2_lt h

theorem length_filter_range_le (w k : Nat) : ((List.range w).filter fun i => decide (k ≤ i)).length = w - k := by
  induction w with
  | zero => simp
  | succ w ih =>
    rw [List.range_succ, List.filter_append, List.length_append, ih]
    by_cases h : k ≤ w <;> simp [h] <;> omega

theorem length_filter_range_lt (w : Nat) (p : Nat → Bool) : ((List.range w).filter p).length < 2 ^ w := by
  have h := List.length_filter_le p (List.range w)
  rw [List.length_range] at h
  exact h.trans_lt Nat.lt_two_pow_self

theorem gives_clzOp : Gives clzOp fun w _ a _ _ => (((List.range w).filter fun i => decide (a < 2 ^ i)).length, 0) where
  same _ _ _ := by simp only [clzOp, ← bitLen_le_iff, length_filter_range_le]
  fits _ _ _ := length_filter_range_lt _ _

theorem gives_popOp : Gives popOp fun w _ a _ _ => (((List.range w).filter fun i => bit a i).length, 0) where
  same _ _ _ := rfl
  fits _ _ _ := length_filter_range_lt _ _

theorem b2n_bit (x i : Nat) : b2n (bit x i) = x / 2 ^ i % 2 := by
  unfold b2n bit
  obtain h | h := Nat.mod_two_eq_zero_or_one (x / 2 ^ i) <;> simp [h]

/-- Summing each bit at its mirrored place gives the bits in reverse order. -/
theorem sum_mirrored_bits (w a : Nat) : (List.range w).foldl (fun acc i => acc + b2n (bit a i) * 2 ^ (w - 1 - i)) 0 =
    fromElems 1 ((List.range w).map fun i => a / 2 ^ (w - 1 - i) % 2) := by
  rw [foldl_add_range, fromElems_range, ← Finset.sum_range_reflect]
  refine Finset.sum_congr rfl fun i hi => ?_
  have hi := Finset.mem_range.mp hi
  rw [b2n_bit, show w - 1 - (w - 1 - i) = i by omega, pow_one, Nat.mod_mod, Nat.one_mul]

theorem gives_brevOp : Gives brevOp fun w _ a _ _ =>
    (fromElems 1 ((List.range w).map fun i => a / 2 ^ (w - 1 - i) % 2), 0) where
  same _ _ _ := by rw [brevOp, sum_mirrored_bits]
  fits {w _ a _ _} _ _ _ := by simpa using fromElems_lt 1 ((List.range w).map fun i => a / 2 ^ (w - 1 - i) % 2)

end

/-- Settles O8: each instruction applies its element operation, whose answer is that of the rule. -/
theorem shiftsAndCounts : Obligations.ShiftsAndCounts := by
  refine ⟨?shl, ?shr, ?sar, ?rot, ?clz, ?popc, ?brev⟩
  case shl => exact packed_of_gives gives_shlOp fun _ _ _ _ => rfl
  case shr => exact packed_of_gives gives_shrOp fun _ _ _ _ => rfl
  case sar => exact packed_of_gives gives_sarOp fun _ _ _ _ => rfl
  case rot => exact packed_of_gives gives_rotOp fun _ _ _ _ => rfl
  case clz => exact packed_of_gives gives_clzOp fun _ _ _ _ => rfl
  case popc => exact packed_of_gives gives_popOp fun _ _ _ _ => rfl
  case brev => exact packed_of_gives gives_brevOp fun _ _ _ _ => rfl

end Sys2Proof.Machine

end

/-! Word logic, bit fields, chained carries, selection and predicates (R125, R127 to R132, R146). -/

section

namespace Sys2Proof.Machine

open Sys2Proof.Claim

/-! Bit fields (R128). -/

theorem sgn_toNat {n : Nat} (x : BitVec n) (hn : 0 < n) : sgn n x.toNat = x.toInt := by
  obtain ⟨m, rfl⟩ := Nat.exists_eq_add_one.2 hn
  have half : x.toNat < 2 ^ m ↔ 2 * x.toNat < 2 ^ (m + 1) := by rw [pow_succ]; omega
  rw [sgn, Nat.mod_eq_of_lt x.isLt, BitVec.toInt_eq_toNat_cond, Nat.add_sub_cancel]
  simp only [half]
  norm_cast

theorem w32_wrapN (x : Int) : w32 (wrapN 32 x) = BitVec.ofInt 32 x := by
  apply BitVec.eq_of_toNat_eq
  rw [w32, BitVec.toNat_ofNat, wrapN, BitVec.toNat_ofInt]
  omega

/-- The field that a control word names in A: its width, cut at bit 31 (R128). -/
def fieldWidth (c : Word) : Nat := min (bits c.toNat 4 0 + bits c.toNat 13 8) 32 - bits c.toNat 4 0

theorem fieldWidth_eq (c : Word) :
    Nat.min (bits c.toNat 4 0 + Nat.min (bits c.toNat 13 8) 32) 32 - bits c.toNat 4 0 = fieldWidth c := by
  show min (_ + min _ 32) 32 - _ = _
  unfold fieldWidth
  omega

/-- A field as a word, extended by zeros or by copies of its highest bit. -/
theorem extended_field {n : Nat} (x : BitVec n) (sx : Bool) :
    (if n = 0 then 0#32 else if sx then w32 (wrapN 32 (sgn n x.toNat)) else w32 x.toNat) =
      if sx then x.signExtend 32 else x.setWidth 32 := by
  by_cases hn : n = 0
  · subst hn
    rw [BitVec.eq_nil x]
    cases sx <;> rfl
  · rw [if_neg hn, sgn_toNat x (Nat.pos_of_ne_zero hn), w32_wrapN, w32, BitVec.ofNat_toNat]
    rfl

theorem bfeWord_eq (a c : Word) : bfeWord a c =
    if bit c.toNat 15 then (a.extractLsb' (bits c.toNat 4 0) (fieldWidth c)).signExtend 32
    else (a.extractLsb' (bits c.toNat 4 0) (fieldWidth c)).setWidth 32 := by
  rw [← extended_field, BitVec.extractLsb'_toNat, Nat.shiftRight_eq_div_pow, ← fieldWidth_eq]
  rfl

theorem getLsbD_bfeWord (a c : Word) {k : Nat} (hk : k < 32) : (bfeWord a c).getLsbD k =
    if k < fieldWidth c then a.getLsbD (bits c.toNat 4 0 + k)
    else decide (0 < fieldWidth c) && bit c.toNat 15 && a.getLsbD (bits c.toNat 4 0 + fieldWidth c - 1) := by
  rw [bfeWord_eq]
  have top : (a.extractLsb' (bits c.toNat 4 0) (fieldWidth c)).msb =
      (decide (0 < fieldWidth c) && a.getLsbD (bits c.toNat 4 0 + fieldWidth c - 1)) := by
    rw [BitVec.msb_eq_getLsbD_last, BitVec.getLsbD_extractLsb']
    by_cases hn : 0 < fieldWidth c
    · simp [hn, Nat.add_sub_assoc hn]
    · simp [hn]
  by_cases hs : bit c.toNat 15 = true
  · rw [if_pos hs, BitVec.getLsbD_signExtend, top, BitVec.getLsbD_extractLsb']
    by_cases hf : k < fieldWidth c <;> simp [hk, hs, hf]
  · rw [if_neg hs, BitVec.getLsbD_setWidth, BitVec.getLsbD_extractLsb']
    simp [hk, hs]

theorem getLsbD_w32 {k : Nat} (hk : k < 32) (x : Nat) : (w32 x).getLsbD k = x.testBit k := by
  rw [w32, BitVec.getLsbD_ofNat, decide_eq_true hk, Bool.true_and]

theorem getLsbD_bfiWord (a c d : Word) {k : Nat} (hk : k < 32) : (bfiWord a c d).getLsbD k =
    if bits c.toNat 4 0 ≤ k ∧ k < bits c.toNat 4 0 + fieldWidth c then a.getLsbD (k - bits c.toNat 4 0) else d.getLsbD k := by
  have mask : (w32 ((2 ^ Nat.min (bits c.toNat 13 8) 32 - 1) * 2 ^ bits c.toNat 4 0)).getLsbD k =
      decide (bits c.toNat 4 0 ≤ k ∧ k < bits c.toNat 4 0 + fieldWidth c) := by
    rw [getLsbD_w32 hk, Nat.testBit_mul_two_pow, Nat.testBit_two_pow_sub_one, fieldWidth, Bool.eq_iff_iff]
    have cut : Nat.min (bits c.toNat 13 8) 32 = min (bits c.toNat 13 8) 32 := rfl
    simp only [cut, Bool.and_eq_true, decide_eq_true_eq]
    omega
  have field : (w32 (a.toNat * 2 ^ bits c.toNat 4 0)).getLsbD k =
      (decide (bits c.toNat 4 0 ≤ k) && a.getLsbD (k - bits c.toNat 4 0)) := by
    rw [getLsbD_w32 hk, Nat.testBit_mul_two_pow]
    rfl
  rw [bfiWord, BitVec.getLsbD_or, BitVec.getLsbD_and, BitVec.getLsbD_and, BitVec.getLsbD_not, mask, field]
  split
  next h => simp [h]
  next h => simp [h, hk]

/-- Settles O9: each instruction has one result word per thread; those of BFE and BFI bit by bit. -/
theorem wordLogic : Obligations.WordLogic := by
  intro s d a b
  refine ⟨word1_of_perThread rfl, word1_of_perThread rfl, word1_of_perThread rfl, word1_of_perThread rfl,
    word1_of_perThread rfl, fun j => bfeWord (src s .plain a j) (src s .plain b j),
    fun j => bfiWord (src s .plain a j) (src s .plain b j) (srcAt s d 0 j), word1_of_perThread rfl, word1_of_perThread rfl,
    fun j k hk => ⟨getLsbD_bfeWord _ _ hk, getLsbD_bfiWord _ _ _ hk⟩⟩

/-! Chained carries (R127). -/

theorem onlyGroup_runOver (s : State) (d : Opnd) (f : Nat → Env → List Word × Env) : OnlyGroup s (runOver s d f) := by
  unfold runOver
  split
  · split
    · exact onlyGroup_refl s
    · exact onlyGroup_updCG s _
  · exact onlyGroup_updCG s _

/-- An instruction run over its threads writes no predicate, and of the acting group only registers, FLAGS and SRGEN. -/
theorem cg_runOver (s : State) (d : Opnd) (f : Nat → Env → List Word × Env) : cg (runOver s d f) = { cg s with
    v := (cg (runOver s d f)).v, s := (cg (runOver s d f)).s, flags := (cg (runOver s d f)).flags
    srgen := (cg (runOver s d f)).srgen } := by
  unfold runOver
  split
  · split
    · rfl
    · rw [cg_updCG, wrSs_eq]
      rfl
  · rw [cg_updCG, wrThreads_eq]
    rfl

/-- p7 after a chained addition or subtraction: the carry of each thread written, or that of the one execution (R127). -/
def carriesOut (s : State) (d : Opnd) (out : Nat → Bool) : Word :=
  match d with
  | .s _ =>
    match lowest (active s) with
    | none => rdP (cg s) 7
    | some l => (threads (active s)).foldl (fun w t => setBit w t (out l)) (rdP (cg s) 7)
  | _ => (threads (selected s)).foldl (fun w t => setBit w t (out t)) (rdP (cg s) 7)

theorem getLsbD_carriesOut (s : State) (d : Opnd) (out : Nat → Bool) {j : Nat} (hj : j < 32) :
    (carriesOut s d out).getLsbD j =
      if uniform d then (if (active s).getLsbD j then out ((lowest (active s)).getD 0) else pbit (cg s) 7 j)
      else if (selected s).getLsbD j then out j else pbit (cg s) 7 j := by
  have each (m : Word) (f : Nat → Bool) : ((threads m).foldl (fun w t => setBit w t (f t)) (rdP (cg s) 7)).getLsbD j =
      if m.getLsbD j then f j else pbit (cg s) 7 j := by
    rw [getLsbD_foldl_setBit _ _ _ _ hj]
    simp only [mem_threads, pbit]
  cases d with
  | s n =>
    cases hl : lowest (active s) with
    | none =>
      have hout : (active s).getLsbD j = false := by
        rw [← Bool.not_eq_true, ← mem_threads, List.isEmpty_iff.mp (threads_isEmpty_iff.mpr hl)]
        exact List.not_mem_nil
      simp [carriesOut, hl, hout, pbit, uniform]
    | some l => simp only [carriesOut, hl, each, uniform, if_true, Option.getD_some]
  | _ => exact each _ _

/-- The state after each executing thread has taken a word. -/
def wroteWords (s : State) (d : Opnd) (val : Nat → Word) : State := runOver s d fun j e => ([val j], e)

theorem wroteWords_spec (s : State) (d : Opnd) (val : Nat → Word) :
    Wrote s (advance (wroteWords s d val)) d 1 (fun j _ => val j) ∧ SameFlags s (advance (wroteWords s d val)) := by
  have hres : perThread s d (fun j => (val j, 0)) = .next (advance (wroteWords s d val)) := by
    simp only [perThread, Env.flag, Nat.or_zero]
    rfl
  obtain ⟨t, ht, hwrote, hflags, hgen, -⟩ := perThread_spec s d fun j => (val j, 0)
  obtain rfl : advance (wroteWords s d val) = t := Host.Outcome.next.inj (hres.symm.trans ht)
  rw [RaisedFlags, orFlags_map_zero] at hflags
  exact ⟨hwrote, by simpa [w32] using hflags, hgen⟩

/-- What is written may be told of any state whose acting group is the same. -/
theorem WroteIn.of_cg_eq {m : Word} {s t u : State} {d : Opnd} {k : Nat} {val : Nat → Nat → Word} (hc : cg u = cg t)
    (h : WroteIn m s t d k val) : WroteIn m s u d k val := by
  cases d <;> simpa only [WroteIn, SameRegs, hc] using h

/-- A chained instruction writes words and p7, raises no flag, and changes no other predicate (R127). -/
theorem carries {s : State} {d : Opnd} {val : Nat → Word} {out : Nat → Bool} {res : Res}
    (hres : res = done (updCG (wroteWords s d val) fun g => wrP g 7 (carriesOut s d out))) :
    ∃ t, res = .next t ∧ RegFrame s t ∧ SameFlags s t ∧
      Wrote s (updCG t fun g => { g with p := (cg s).p }) d 1 (fun j _ => val j) ∧
      (∀ q, q ≠ 7 → rdP (cg t) q = rdP (cg s) q) ∧
      ∀ j, j < 32 → pbit (cg t) 7 j =
        if uniform d then (if (active s).getLsbD j then out ((lowest (active s)).getD 0) else pbit (cg s) 7 j)
        else if (selected s).getLsbD j then out j else pbit (cg s) 7 j := by
  have only : OnlyGroup s (wroteWords s d val) := onlyGroup_runOver s d _
  have group := cg_runOver s d fun j e => ([val j], e)
  change cg (wroteWords s d val) = _ at group
  obtain ⟨hwrote, hflags⟩ := wroteWords_spec s d val
  refine ⟨_, hres, regFrame_of_cg ((only.trans (onlyGroup_updCG _ _)).trans (onlyGroup_advance _)) ?_, ?_,
    WroteIn.of_cg_eq ?_ hwrote, fun q hq => ?_, fun j hj => ?_⟩
  · rw [cg_advance, cg_updCG, wrP, updCG_curF, only.curF, group]
  · simpa [SameFlags, wrP] using hflags
  · rw [cg_updCG, cg_advance, cg_updCG, cg_advance, group]
    rfl
  · rw [cg_advance, cg_updCG]
    show rdP (wrP _ 7 _) q = _
    rw [rdP_wrP, if_neg hq, group]
    rfl
  · rw [cg_advance, cg_updCG]
    show (rdP (wrP _ 7 _) 7).getLsbD j = _
    rw [rdP_wrP, if_pos rfl, getLsbD_carriesOut s d out hj]

/-- A chained instruction by the word and the carry out of each thread. -/
theorem carryOp_eq {s : State} {d a b : Opnd} {f : Nat → Nat → Nat → Nat × Bool} {val : Nat → Word} {out : Nat → Bool}
    (h : ∀ j, f (src s .plain a j).toNat (src s .plain b j).toNat (b2n (pbit (cg s) 7 j)) = ((val j).toNat, out j)) :
    carryOp s d a b f = done (updCG (wroteWords s d val) fun g => wrP g 7 (carriesOut s d out)) := by
  simp only [carryOp, h, w32, BitVec.ofNat_toNat, BitVec.setWidth_eq]
  rfl

theorem exec_addc (d a b : Opnd) (s : State) : exec (.addc d a b) s =
    carryOp s d a b fun a b c => ((a + b + c) % 2 ^ 32, decide (2 ^ 32 ≤ a + b + c)) := rfl

theorem exec_subb (d a b : Opnd) (s : State) : exec (.subb d a b) s =
    carryOp s d a b fun a b c => ((a + 2 ^ 33 - b - c) % 2 ^ 32, decide (a < b + c)) := rfl

theorem b2n_le_one (b : Bool) : b2n b ≤ 1 := by cases b <;> decide

/-- Settles O10: the word and the carry out of each thread, and what `carries` says of such an instruction. -/
theorem carryChain : Obligations.CarryChain := by
  intro s d a b A B C Chained
  refine ⟨carries ((exec_addc d a b s).trans (carryOp_eq fun j => ?_)),
    carries ((exec_subb d a b s).trans (carryOp_eq fun j => ?_))⟩
  · rw [w32, BitVec.toNat_ofNat]
  · refine Prod.ext ?_ rfl
    have hA := (src s .plain a j).isLt
    have hB := (src s .plain b j).isLt
    have hC := b2n_le_one (pbit (cg s) 7 j)
    simp only [BitVec.toNat_sub, w32, BitVec.toNat_ofNat, C]
    omega

/-! Selection (R129). -/

/-- A register of a thread after each thread of a mask has taken its own word. -/
theorem rdV_wrThreads_threads (g : Group) (n : Nat) (m : Word) (val : Nat → Word) (r : Nat) {j : Nat} (hj : j < 32) :
    rdV (wrThreads g (.v n) ((threads m).map fun t => (t, [val t]))) r j =
      if n ≤ r ∧ r < n + 1 ∧ m.getLsbD j then val j else rdV g r j := by
  rw [rdV_wrThreads _ _ _ _ 1 _ hj, find_map_self]
  · by_cases hr : n ≤ r ∧ r < n + 1
    · rw [if_pos hr, show r - n = 0 by omega]
      by_cases ha : m.getLsbD j = true <;> simp [hr, ha, mem_threads]
    · rw [if_neg hr, if_neg fun h => hr ⟨h.1, h.2.1⟩]
  · simp only [List.mem_map]
    rintro _ ⟨t, ht, rfl⟩
    exact ⟨lt_of_mem_threads ht, rfl⟩
  · simpa [Function.comp_def] using nodup_threads m

/-- The word that SEL gives a thread. -/
def selectedWord (s : State) (a b : Opnd) (j : Nat) : Word :=
  if (guardMask (cg s) (cf s).mode).getLsbD j then src s .plain a j else src s .plain b j

theorem exec_sel_vector (n : Nat) (a b : Opnd) (s : State) : exec (.sel (.v n) a b) s =
    done (updCG s fun g => wrThreads g (.v n) ((threads (active s)).map fun t => (t, [selectedWord s a b t]))) := rfl

/-- In the uniform class SEL writes the word of the lowest-numbered active thread. -/
theorem exec_sel_uniform (n : Nat) (a b : Opnd) (s : State) : exec (.sel (.s n) a b) s =
    done (writeAll s (.s n) (selectedWord s a b ((lowest (active s)).getD 0))) := by
  show execSel (.s n) a b s = _
  cases hl : lowest (active s) with
  | none =>
    rw [writeAll, if_pos (threads_isEmpty_iff.mpr hl)]
    simp only [execSel, hl]
  | some l =>
    rw [writeAll, if_neg fun h => Option.some_ne_none l (hl.symm.trans (threads_isEmpty_iff.mp h))]
    simp only [execSel, hl]
    rfl

/-- Settles O11: the vector class by the words of the active threads, the others by the one value that is written. -/
theorem selectByGuard : Obligations.SelectByGuard := by
  intro s d a b
  cases d with
  | v n =>
    refine ⟨_, exec_sel_vector n a b s, WroteIn.advance ⟨fun r j hj => ?_, ?_⟩, ?_, regFrame_of s _ ?_⟩
    · rw [cg_updCG]
      exact rdV_wrThreads_threads _ _ _ _ _ hj
    · rw [cg_updCG, wrThreads_eq]
      exact ⟨rfl, rfl⟩
    · rw [SameFlags, cg_advance, cg_updCG, wrThreads_eq]
      exact ⟨rfl, rfl⟩
    · rw [wrThreads_eq]
  | s n =>
    obtain ⟨t, ht, hwrote, hflags, hframe⟩ := done_writeAll s (.s n) (selectedWord s a b ((lowest (active s)).getD 0))
    refine ⟨t, (exec_sel_uniform n a b s).trans ht, ?_, hflags, hframe⟩
    cases hl : lowest (active s) with
    | none => simpa [WroteIn, hl] using hwrote
    | some l => simpa [WroteIn, hl, selectedWord] using hwrote
  | _ =>
    refine ⟨_, rfl, WroteIn.advance ?_, ?_, regFrame_of s _ rfl⟩
    all_goals simp [wrThreads, WroteIn, SameRegs, SameFlags]

/-! Predicates (R130 to R132, R146). -/

theorem pred1_of_perPred {s : State} {i : Instr} {p : BitVec 3} {f : Nat → Bool} (hi : exec i s = perPred s p.toNat f) :
    Pred1 s i p f := by
  rw [Pred1, hi]
  exact perPred_spec s p.toNat f

/-- Settles O12: each instruction writes one predicate by `perPred`. -/
theorem predicates : Obligations.Predicates := by
  intro s a b c p q r n m x y
  refine ⟨?cmp, ?cmpn, ?fcmp, ?pand, ?por, ?pxor, ?pset⟩
  case cmp => exact pred1_of_perPred rfl
  case cmpn => exact pred1_of_perPred rfl
  case fcmp => exact pred1_of_perPred rfl
  case pand => exact pred1_of_perPred rfl
  case por => exact pred1_of_perPred rfl
  case pxor => exact pred1_of_perPred rfl
  case pset => exact pred1_of_perPred rfl

end Sys2Proof.Machine

end

/-! Exchanges between threads, and lookups byte by byte (R27, R133 to R136). -/

section

namespace Sys2Proof.Machine

open Sys2Proof.Claim

/-! The threads of a quad (R134). -/

/-- Flipping low bits of a thread's number stays in its quad. -/
theorem xor_eq_quad (j : Nat) {m : Nat} (hm : m < 4) : j ^^^ m = j / 4 * 4 + (j % 4 ^^^ m) := by
  have hdiv : (j ^^^ m) / 4 = j / 4 := by
    rw [show 4 = 2 ^ 2 from rfl, Nat.xor_div_two_pow, Nat.div_eq_of_lt hm, Nat.xor_zero]
  have hmod : (j ^^^ m) % 4 = j % 4 ^^^ m := by
    rw [show 4 = 2 ^ 2 from rfl, Nat.xor_mod_two_pow, Nat.mod_eq_of_lt (show m < 2 ^ 2 from hm)]
  rw [← hdiv, ← hmod, Nat.div_add_mod']

theorem xor_three (j : Nat) : j ^^^ 3 = j / 4 * 4 + (3 - j % 4) := by
  have flip : ∀ i < 4, i ^^^ 3 = 3 - i := by decide
  rw [xor_eq_quad j (by decide), flip _ (Nat.mod_lt _ (by decide))]

theorem xor_one (j : Nat) : j ^^^ 1 = if j % 2 = 0 then j + 1 else j - 1 := by
  have flip : ∀ i < 4, i ^^^ 1 = if i % 2 = 0 then i + 1 else i - 1 := by decide
  rw [xor_eq_quad j (by decide), flip _ (Nat.mod_lt _ (by decide))]
  split_ifs <;> omega

theorem xor_two (j : Nat) : j ^^^ 2 = if j % 4 < 2 then j + 2 else j - 2 := by
  have flip : ∀ i < 4, i ^^^ 2 = if i < 2 then i + 2 else i - 2 := by decide
  rw [xor_eq_quad j (by decide), flip _ (Nat.mod_lt _ (by decide))]
  split_ifs <;> omega

/-- Field k of two bits in a swizzle word. -/
theorem bits_pair (n k : Nat) : bits n (2 * k + 1) (2 * k) = n / 4 ^ k % 4 := by
  have place : 2 ^ (2 * k) = 4 ^ k := Nat.pow_mul 2 2 k
  have size : 2 ^ (2 * k + 1 + 1 - 2 * k) = 4 := congrArg (2 ^ ·) (show 2 * k + 1 + 1 - 2 * k = 2 by omega)
  exact congrArg₂ (fun x y => n / x % y) place size

/-! Exchanges (R27, R133). -/

/-- What a thread takes from the thread that is named, and 0 where none is. -/
def taken (s : State) (d a : Opnd) (source : Option Nat) : Word :=
  match source with
  | some j => leafSrc s .plain d a j
  | none => 0#32

theorem leafSrc_eq (s : State) (k : SrcKind) (d a : Opnd) (j : Nat) : leafSrc s k d a j =
    src s k a (if uniform d = true ∧ a = .tid then (lowest (active s)).getD 0 else j) := by
  simp only [leafSrc, Bool.and_eq_true, beq_iff_eq]

theorem word1_of_exchange {s : State} {i : Instr} {d a : Opnd} {source : Nat → Option Nat} {val : Nat → Word}
    (res : Res) (hi : exec i s = res) (hres : res = exchange s d a source) (hval : ∀ j, taken s d a (source j) = val j) :
    Word1 s i d val := by
  have hv : taken s d a ∘ source = val := funext hval
  subst hv hres
  exact word1_of_perThread hi

/-- Settles O14: each exchange by the thread that it names. -/
theorem exchanges : Obligations.Exchanges := by
  intro s d a b A n
  have named (j : Nat) : taken s d a (some j) = A j := leafSrc_eq s .plain d a j
  have beyond (p : Prop) [Decidable p] (j : Nat) : taken s d a (if p then none else some j) = if p then 0#32 else A j := by
    split
    · rfl
    · exact named j
  refine ⟨?shfl, ?shup, ?shdn, ?qswz, ?qxh, ?qxv, ?qxd⟩
  case shfl => exact word1_of_exchange (execShfl d a b s) rfl rfl fun j => (named _).trans (congrArg A (by simp [bits]))
  case shup => exact word1_of_exchange (execShup d a b s) rfl rfl fun j => beyond (j < n) _
  case shdn => exact word1_of_exchange (execShdn d a b s) rfl rfl fun j => beyond (31 < j + n) _
  case qswz => exact word1_of_exchange (execQswz d a b s) rfl rfl fun j => (named _).trans (congrArg A (by rw [bits_pair]))
  case qxh => exact word1_of_exchange (execQxh d a s) rfl rfl fun j => (named _).trans (congrArg A (xor_one j))
  case qxv => exact word1_of_exchange (execQxv d a s) rfl rfl fun j => (named _).trans (congrArg A (xor_two j))
  case qxd => exact word1_of_exchange (execQxd d a s) rfl rfl fun j => (named _).trans (congrArg A (xor_three j))

/-! Bytes (R135, R136). -/

theorem byteOf_eq_elem (x : Word) (i : Nat) : byteOf x i = elem 8 i x := by
  rw [byteOf, bits, elem, show 8 * i + 7 + 1 - 8 * i = 8 by omega]

theorem byteOf_lt (x : Word) (i : Nat) : byteOf x i < 256 := by
  rw [byteOf_eq_elem]
  exact Nat.mod_lt _ (by decide)

/-- The bytes that a word is put together from. -/
theorem byteOf_fromElems {i : Nat} (hi : i < 4) (x : Nat → Nat) (hx : x i < 256) :
    byteOf (w32 (fromElems 8 ((List.range 4).map x))) i = x i := by
  rw [byteOf_eq_elem]
  exact (elem_packed hi x).trans (Nat.mod_eq_of_lt hx)

/-- The word of four table bytes that nibbles of A name (R135). -/
def nibbleWord (s : State) (a b : Opnd) (lo j : Nat) : Word :=
  w32 (fromElems 8 ((List.range 4).map fun i =>
    byteOf (srcAt s b (bits (byteOf (src s .plain a j) i) (lo + 3) lo / 4) j)
      (bits (byteOf (src s .plain a j) i) (lo + 3) lo % 4)))

theorem byteOf_nibbleWord (s : State) (a b : Opnd) (lo j : Nat) {i k : Nat} (hi : i < 4)
    (hk : bits (byteOf (src s .plain a j) i) (lo + 3) lo = k) :
    byteOf (nibbleWord s a b lo j) i = byteOf (srcAt s b (k / 4) j) (k % 4) := by
  subst hk
  exact byteOf_fromElems hi _ (byteOf_lt _ _)

/-- By how much the byte that PRMT names goes on from one byte of the result to the next (R136). -/
def prmtStride (c : Nat) : Nat :=
  match bits c 5 4 with
  | 0 => 1
  | 1 => 7
  | 2 => 0
  | _ => 2

/-- Byte i of PRMT's result (R136). -/
def prmtByte (a d c : Word) (i : Nat) : Nat :=
  let k := (bits c.toNat 2 0 + i * prmtStride c.toNat) % 8
  if bit c.toNat (8 + i) then 0 else if k < 4 then byteOf a k else byteOf d (k - 4)

theorem prmtByte_lt (a d c : Word) (i : Nat) : prmtByte a d c i < 256 := by
  unfold prmtByte
  dsimp only
  split_ifs
  · decide
  · exact byteOf_lt _ _
  · exact byteOf_lt _ _

theorem byteOf_prmtWord (a d c : Word) {i : Nat} (hi : i < 4) : byteOf (prmtWord a d c) i = prmtByte a d c i :=
  byteOf_fromElems hi (prmtByte a d c) (prmtByte_lt a d c i)

/-- Settles O15: each byte of the result word is the one that the nibble or the selector names. -/
theorem byteLookups : Obligations.ByteLookups := by
  intro s d a b
  refine ⟨nibbleWord s a b 0, nibbleWord s a b 4, fun j => prmtWord (src s .plain a j) (srcAt s d 0 j) (src s .plain b j),
    word1_of_perThread rfl, word1_of_perThread rfl, word1_of_perThread rfl,
    fun j i hi => ⟨?_, ?_, byteOf_prmtWord _ _ _ hi⟩⟩
  · exact byteOf_nibbleWord s a b 0 j hi (by simp [bits])
  · have := byteOf_lt (src s .plain a j) i
    exact byteOf_nibbleWord s a b 4 j hi (by simp [bits]; omega)

end Sys2Proof.Machine

end

/-! Conversions that round once, and packed types where they are required (R142, R144, R149 to R154). -/

section

namespace Sys2Proof.Machine

open Sys2Proof.Claim

/-! Instructions that need a packed type (R144, R151). -/

theorem threads_eq_nil {m : Word} : threads m = [] ↔ m = 0#32 := by
  refine ⟨fun h => BitVec.eq_of_getLsbD_eq fun j _ => ?_, fun h => by rw [h]; rfl⟩
  rw [BitVec.getLsbD_zero, ← Bool.not_eq_true, ← mem_threads, h]
  exact List.not_mem_nil

/-- The mask of the threads from which an instruction takes those that it executes for is empty where there are none. -/
theorem execThreads_eq_nil {s : State} {d : Opnd} :
    execThreads s d = [] ↔ (if uniform d then active s else selected s) = 0#32 := by
  cases d with
  | s n => simp [execThreads, lowest, uniform, threads_eq_nil]
  | _ => exact threads_eq_nil

section

variable {s : State} {d : Opnd}

theorem unpacked_traps (h : execThreads s d ≠ []) : unpacked s d = .next (raiseAll s cOPERAND 0#64) :=
  congrArg _ (if_neg (mt execThreads_eq_nil.mpr h))

theorem unpacked_goesOn (h : execThreads s d = []) : unpacked s d = .next (advance s) :=
  congrArg _ (if_pos (execThreads_eq_nil.mp h))

theorem exec_fdot2_f32 (a b : Opnd) (h : mFtype (cf s).mode = 0) : exec (.fdot2 d a b) s = unpacked s d := if_pos h

theorem exec_f2h_f32 (a b : Opnd) (h : mFtype (cf s).mode = 0) : exec (.f2h d a b) s = unpacked s d := if_pos h

theorem exec_h2f_f32 (a : Opnd) (k : BitVec 1) (h : mFtype (cf s).mode = 0) : exec (.h2f d a k) s = unpacked s d := if_pos h

end

/-- Settles O20: under F32 each of the three answers as `unpacked` does. -/
theorem packedTypeRequired : Obligations.PackedTypeRequired := by
  intro s d a b k h i hi
  have hexec : exec i s = unpacked s d := by
    simp only [List.mem_cons, List.not_mem_nil, or_false] at hi
    obtain rfl | rfl | rfl := hi
    · exact exec_fdot2_f32 a b h
    · exact exec_f2h_f32 a b h
    · exact exec_h2f_f32 a k h
  rw [hexec]
  exact ⟨fun hst hd => ⟨_, unpacked_traps hd, trapped_raiseAll hst _ _⟩,
    fun hd => ⟨_, unpacked_goesOn hd, onlyGoesOn_advance s⟩⟩

/-! Results of instructions that read the generator, and of those that do not (R82). -/

section

variable {s : State} {i : Instr} {d : Opnd} {f : Nat → Env → List Word × Env} {words : Nat}

/-- An instruction that makes `n` roundings for each thread, whose words and flags `g` tells from the generator's state. -/
theorem roundedResults_of_runOver {n : Nat} {g : Nat → Word → List Word × Nat} (hi : exec i s = done (runOver s d f))
    (hf : ∀ j e, f j e = ((g j e.sr).1, ⟨e.fl ||| (g j e.sr).2, generatorAfter (mRound (cf s).mode) e.sr n⟩))
    (hg : ∀ j x, (g j x).1.length = words) : ∃ t, exec i s = .next t ∧
      RoundedResults s t d words n fun j k => g j (generatorAfter (mRound (cf s).mode) (cg s).srgen k) := by
  have hrun := runOver_spec s d f g (fun x => generatorAfter (mRound (cf s).mode) x n) words hf hg
  simp only [iterate_generatorAfter] at hrun
  exact ⟨_, hi, hrun⟩

theorem generatorAfter_zero (mode : Nat) (x : Word) : generatorAfter mode x 0 = x := ite_self _

/-- An instruction that rounds nothing, whose words and flags `g` tells. -/
theorem roundedResults_of_exact {g : Nat → List Word × Nat} (hi : exec i s = done (runOver s d f))
    (hf : ∀ j e, f j e = ((g j).1, e.flag (g j).2)) (hg : ∀ j, (g j).1.length = words) :
    ∃ t, exec i s = .next t ∧ RoundedResults s t d words 0 fun j _ => g j :=
  roundedResults_of_runOver (g := fun j _ => g j) hi (fun j e => by rw [hf, generatorAfter_zero]; rfl) fun j _ => hg j

end

/-! Conversions of each element (R142, R144, R149 to R151). -/

section

variable {s : State} {d : Opnd}

/-- A word of one element is that element. -/
theorem w32_fromElems_singleton (x : Nat) : w32 (fromElems 32 [x]) = w32 x := by
  apply BitVec.eq_of_toNat_eq
  simp [fromElems, w32]

/-- Element i by `g` from its drawn value, with its flags. -/
def rounding (mode : Nat) (g : Nat → Nat → Nat × Nat) (i : Nat) (e : Env) : Nat × Env :=
  ((g (e.draw mode).1 i).1, (e.draw mode).2.flag (g (e.draw mode).1 i).2)

/-- The elements of a result word, each rounded once. -/
def roundedElems (mode w n : Nat) (g : Nat → Nat → Nat × Nat) (e : Env) : Word × Env :=
  let r := overElems (rounding mode g) (List.range n) e
  (w32 (fromElems w r.1), r.2)

theorem rounds_of_roundedElems {i : Instr} {w n : Nat} {g : Nat → Nat → Nat → Nat × Nat}
    (hi : exec i s = perThreadEnv s d fun j => roundedElems (mRound (cf s).mode) w n fun v => g v j) : Rounds s i d w n g :=
  rounds_of_overElems hi fun _ _ _ => rfl

/-- A word that is one element. -/
theorem roundedElems_word (mode : Nat) (g : Nat → Nat → Nat × Nat) :
    roundedElems mode 32 1 g = fun e => (w32 (rounding mode g 0 e).1, (rounding mode g 0 e).2) := by
  funext e
  simp only [roundedElems, List.range_one, overElems, w32_fromElems_singleton]

/-- Nothing raised leaves the flags. -/
theorem Env.flag_zero (e : Env) : e.flag 0 = e := by simp [Env.flag]

end

/-- FRND rounds each number to an integer; an infinity or a NaN it delivers (R142). -/
theorem rounds_frnd (s : State) (d a : Opnd) :
    let m := fmode s
    Rounds s (.frnd d a) d m.fmt.width (32 / m.fmt.width) fun v j e => match fsrc s m a j e with
      | .fin x => ((m.fmt.finish 1 false false 0 (.fin ⟨x.neg, (roundAt m.mode v x 0).1, 0, false⟩)).1,
          if (roundAt m.mode v x 0).2 then fNX else 0)
      | y => ((m.fmt.finish 1 false false 0 y).1, 0) := by
  refine rounds_of_overElems rfl fun j k e => ?_
  dsimp only
  cases fsrc s (fmode s) a j k with
  | fin x => rfl
  | _ => exact congrArg (Prod.mk _) (Env.flag_zero _).symm

theorem rounds_f2h {s : State} (d a b : Opnd) (h : mFtype (cf s).mode ≠ 0) :
    let m := fmode s
    Rounds s (.f2h d a b) d 16 2 fun v j e =>
      m.fmt.finish m.mode m.sat m.ftz v (f32.dec m.ftz (src s .fp (if e = 0 then a else b) j).toNat) :=
  rounds_of_roundedElems (if_neg h)

theorem rounds_fdot2 {s : State} (d a b : Opnd) (h : mFtype (cf s).mode ≠ 0) :
    let m := fmode s
    Rounds s (.fdot2 d a b) d 32 1 fun v j _ =>
      let p := (fsrc s m a j 0).mul (fsrc s m b j 0)
      let q := (fsrc s m a j 1).mul (fsrc s m b j 1)
      let c := f32.dec m.ftz (srcAt s d 0 j).toNat
      let r := f32.finish m.mode false m.ftz v ((p.add m.mode q).add m.mode c)
      (r.1, r.2 ||| oppInf [p, q, c]) := by
  refine rounds_of_roundedElems ?_
  simp only [roundedElems_word]
  exact if_neg h

/-! Scale words (R152). -/

theorem scaleOk_iff (x : Word) : scaleOk x = true ↔
    (bits x.toNat 11 8 = 2 ∨ bits x.toNat 11 8 = 3 ∨ bits x.toNat 11 8 = 7 ∨ bits x.toNat 11 8 = 8) ∧
      bits x.toNat 7 0 ≠ 128 := by
  simp [scaleOk, or_assoc]

section

variable {s : State} {d b : Opnd}

/-- In the vector class each thread reads the scale word of a v source for itself. -/
theorem badScale_vector {r : Nat} (hd : uniform d = false) :
    badScale s d (.v r) = maskOf ((threads (selected s)).filter fun j => !scaleOk (src s .fp (.v r) j)) := by
  simp [badScale, hd, isV]

theorem getLsbD_badScale {r j : Nat} (hd : uniform d = false) (hj : j < 32) :
    (badScale s d (.v r)).getLsbD j = true ↔ (selected s).getLsbD j = true ∧ ¬scaleOk (src s .fp (.v r) j) = true := by
  rw [badScale_vector hd, ballot_getLsbD hj]
  simp

/-- A scale word that all executing threads read, one for the fragment in the uniform class (R152). -/
def SharedScale (d b : Opnd) : Prop := (∀ r, b ≠ .v r) ∧ b ≠ .tid ∨ uniform d = true

theorem src_of_shared (hv : ∀ r, b ≠ .v r) (ht : b ≠ .tid) (k : SrcKind) (j : Nat) : src s k b j = src s k b 0 := by
  cases b with
  | v r => exact absurd rfl (hv r)
  | tid => exact absurd rfl ht
  | _ => rfl

theorem badScale_uniform (n : Nat) : badScale s (.s n) b =
    if (lowest (active s)).all fun j => scaleOk (src s .fp b j) then 0#32 else active s := by
  cases h : lowest (active s) <;> simp [badScale, uniform, h]

theorem badScale_shared (hv : ∀ r, b ≠ .v r) (hd : uniform d = false) : badScale s d b =
    if threads (selected s) = [] ∨ scaleOk (src s .fp b 0) = true then 0#32 else active s := by
  have hb : isV b = false := by
    cases b with
    | v r => exact absurd rfl (hv r)
    | _ => rfl
  simp [badScale, hd, hb]

theorem execThreads_vector (hd : uniform d = false) : execThreads s d = threads (selected s) := by
  cases d with
  | s n => cases hd
  | _ => rfl

/-- One illegal scale word for all threads is bad for all. -/
theorem badScale_of_shared (h : SharedScale d b) : badScale s d b =
    if ∀ j ∈ execThreads s d, scaleOk (src s .fp b j) = true then 0#32 else active s := by
  by_cases hd : uniform d = true
  · obtain ⟨n, rfl⟩ : ∃ n, d = .s n := by
      cases d with
      | s n => exact ⟨n, rfl⟩
      | _ => cases hd
    rw [badScale_uniform]
    cases hl : lowest (active s) <;> simp [execThreads, hl]
  · obtain ⟨hv, ht⟩ := h.resolve_right hd
    rw [Bool.not_eq_true] at hd
    rw [badScale_shared hv hd, execThreads_vector hd]
    refine if_congr ?_ rfl rfl
    simp only [src_of_shared hv ht .fp]
    cases threads (selected s) <;> simp +contextual

/-- Where some but not all threads are bad, each has read its own scale word. -/
theorem vector_of_badScale (h0 : badScale s d b ≠ 0#32) (ha : badScale s d b ≠ active s) :
    uniform d = false ∧ ∃ r, b = .v r := by
  have hd : uniform d = false := by
    rw [← Bool.not_eq_true]
    intro hd
    rw [badScale_of_shared (.inr hd)] at h0 ha
    split_ifs at h0 ha <;> contradiction
  refine ⟨hd, ?_⟩
  by_contra hv
  rw [badScale_shared (fun r hr => hv ⟨r, hr⟩) hd] at h0 ha
  split_ifs at h0 ha <;> contradiction

end

/-! PK8 and UPK8 (R152, R153). -/

section

variable {s : State} {i : Nat} {flt : Word}

theorem selected_splitAt (hst : (cf s).st = .ready) (hi : freeFrag (cg s) = some i) (cause : Nat) (fadr : Quad) :
    selected (splitAt s cause flt fadr false i) = selected s &&& ~~~flt := by
  obtain ⟨⟨-, -, hp⟩, -, -⟩ := sameReads_splitAt (flt := flt) hst hi cause fadr
  rw [selected, selected, active, cf_splitAt hst hi, guardMask, guardMask]
  simp only [rdP, hp, BitVec.and_assoc, BitVec.and_comm (~~~flt)]

/-- A fragment keeps its MODE when some of its threads split off. -/
theorem fmode_splitAt (hst : (cf s).st = .ready) (hi : freeFrag (cg s) = some i) (cause : Nat) (fadr : Quad) :
    fmode (splitAt s cause flt fadr false i) = fmode s := by
  rw [fmode, fmode, cf_splitAt hst hi]

/-- Once the threads with an illegal scale word have split off, none is left. -/
theorem badScale_splitAt {d b : Opnd} (hst : (cf s).st = .ready) (hi : freeFrag (cg s) = some i) (cause : Nat) (fadr : Quad)
    (h0 : badScale s d b ≠ 0#32) (ha : badScale s d b ≠ active s) :
    badScale (splitAt s cause (badScale s d b) fadr false i) d b = 0#32 := by
  obtain ⟨hd, r, rfl⟩ := vector_of_badScale h0 ha
  refine BitVec.eq_of_getLsbD_eq fun j hj => ?_
  rw [BitVec.getLsbD_zero, ← Bool.not_eq_true, getLsbD_badScale hd hj, selected_splitAt hst hi,
    (sameReads_splitAt hst hi cause fadr).src, BitVec.getLsbD_and, BitVec.getLsbD_not, Bool.and_eq_true]
  rintro ⟨⟨hsel, hnot⟩, hbad⟩
  simp [(getLsbD_badScale hd hj).mpr ⟨hsel, hbad⟩] at hnot

end

/-- An instruction that first raises OPERAND for the threads whose scale word is not legal, and goes on as `go` says. -/
def ChecksScale (i : Instr) (d b : Opnd) (go : FMode → State → State) : Prop :=
  ∀ s, exec i s = .next (raiseSome s cOPERAND (badScale s d b) 0#64 [] (go (fmode s)))

section

variable {s : State} {i : Instr} {d b : Opnd} {go : FMode → State → State}

theorem ChecksScale.legal (h : ChecksScale i d b go) (hb : badScale s d b = 0#32) : exec i s = .next (go (fmode s) s) := by
  rw [h s, hb]
  exact congrArg _ (if_pos rfl)

theorem ChecksScale.traps (h : ChecksScale i d b go) (hst : (cf s).st = .ready) (h0 : badScale s d b ≠ 0#32)
    (hw : TakesWhole s (badScale s d b)) : ∃ t, exec i s = .next t ∧ Trapped s t cOPERAND (badScale s d b) 0#64 :=
  ⟨_, (h s).trans (congrArg _ (raiseSome_takesWhole hw h0 _ _ _)), trapped_of_takesWhole hst hw _ _⟩

theorem ChecksScale.splits (h : ChecksScale i d b go) (hst : (cf s).st = .ready) (h0 : badScale s d b ≠ 0#32)
    (ha : badScale s d b ≠ active s) (hf : freeFrag (cg s) ≠ none) :
    let u := raiseSome s cOPERAND (badScale s d b) 0#64 [] id
    badScale u d b = 0#32 ∧ exec i s = exec i u := by
  obtain ⟨k, hk⟩ := Option.ne_none_iff_exists'.mp hf
  have split (go : State → State) := raiseSome_splits hst h0 ha hk cOPERAND 0#64 go false
  have hu := badScale_splitAt hst hk cOPERAND 0#64 h0 ha
  dsimp only
  rw [split id, id]
  exact ⟨hu, by rw [h.legal hu, h s, split, fmode_splitAt hst hk]⟩

end

/-- Element e of PK8's result for thread j (R153). -/
def pk8Elem (m : FMode) (s : State) (a b : Opnd) (v j e : Nat) : Nat × Nat :=
  toByte m (bits (src s .fp b j).toNat 11 8) v
    ((f32.dec m.ftz (srcAt s a e j).toNat).scale (-(sgn 8 (bits (src s .fp b j).toNat 7 0))))

/-- The words and the flags of UPK8 for thread j (R153). -/
def upk8Words (m : FMode) (s : State) (a b : Opnd) (j : Nat) : List Word × Nat :=
  let rs := [0, 1, 2, 3].map fun i => f32.finish 0 m.sat m.ftz 0
    ((elemVal (bits (src s .fp b j).toNat 11 8) (byteOf (src s .fp a j) i)).scale (sgn 8 (bits (src s .fp b j).toNat 7 0)))
  (rs.map (fun r => w32 r.1), orFlags (rs.map (·.2)))

theorem checksScale_pk8 (d a b : Opnd) : ChecksScale (.pk8 d a b) d b fun m s =>
    advance (runOver s d fun j e =>
      let (x, e) := roundedElems m.mode 8 4 (fun v => pk8Elem m s a b v j) e
      ([x], e)) := by
  have hrange : List.range 4 = [0, 1, 2, 3] := rfl
  intro s
  show execPk8 d a b s = _
  unfold execPk8 roundedElems
  rw [hrange]
  -- the elements are the same: no element is to be evaluated
  generalize overElems = run
  rfl

theorem checksScale_upk8 (d a b : Opnd) : ChecksScale (.upk8 d a b) d b fun m s =>
    advance (runOver s d fun j e => ((upk8Words m s a b j).1, e.flag (upk8Words m s a b j).2)) :=
  fun _ => rfl

section

variable {s : State} {d b : Opnd} (hb : badScale s d b = 0#32)

include hb

theorem rounds_pk8 (a : Opnd) : Rounds s (.pk8 d a b) d 8 4 (pk8Elem (fmode s) s a b) :=
  rounds_of_roundedElems ((checksScale_pk8 d a b).legal hb)

theorem roundedResults_upk8 (a : Opnd) : ∃ t, exec (.upk8 d a b) s = .next t ∧
    RoundedResults s t d 4 0 fun j _ => upk8Words (fmode s) s a b j :=
  roundedResults_of_exact ((checksScale_upk8 d a b).legal hb) (fun _ _ => rfl) fun _ => rfl

end

/-! QFPK and QFUPK (R154). -/

theorem draws16_eq (mode : Nat) (e : Env) :
    draws16 mode e = ((List.range 16).map (drawn mode e.sr), ⟨e.fl, generatorAfter mode e.sr 16⟩) := by
  have h := overElems_draw (f := fun _ e => e.draw mode) (g := fun v _ => (v, 0))
    (fun _ e => congrArg (Prod.mk _) (Env.flag_zero _).symm) 16 e
  simp only [roundings, List.map_map, Function.comp_def, orFlags_map_zero, Nat.or_zero] at h
  exact h

/-- The words and the flags of QFPK for thread j, whose rounding i takes the value `vs i` (R89, R154). -/
def qfpkWords (m : FMode) (s : State) (a : Opnd) (f : BitVec 3) (j : Nat) (vs : Nat → Nat) : List Word × Nat :=
  let r := qfEncode f.toNat m.mode (fun i => ((List.range 16).map vs).getD i 0)
    ((List.range 16).map fun i => f32.dec m.ftz (srcAt s a i j).toNat)
  (wordsUp (qfLen f) r.1, r.2)

/-- The words of QFUPK for thread j (R87, R154). -/
def qfupkWords (s : State) (a : Opnd) (f : BitVec 3) (j : Nat) : List Word :=
  (qfDecode f.toNat ((((List.range (qfLen f)).map fun i => leBytes 4 (srcAt s a i j).toNat).flatten).take (qfBytes f.toNat))).map
    fun v => w32 (f32.finish 0 false false 0 v).1

theorem roundedResults_qfpk (s : State) (d a : Opnd) (f : BitVec 3) : ∃ t, exec (.qfpk d a f) s = .next t ∧
    RoundedResults s t d (qfLen f) 16 fun j k =>
      qfpkWords (fmode s) s a f j fun i => drawn (mRound (cf s).mode) (cg s).srgen (k + i) := by
  simp only [← drawn_generatorAfter]
  refine roundedResults_of_runOver (g := fun j x => qfpkWords (fmode s) s a f j fun i => drawn (mRound (cf s).mode) x i) rfl
    (fun j e => ?_) fun j x => by simp [qfpkWords, wordsUp]
  dsimp only
  rw [draws16_eq]
  rfl

theorem roundedResults_qfupk (s : State) (d a : Opnd) (f : BitVec 3) : ∃ t, exec (.qfupk d a f) s = .next t ∧
    RoundedResults s t d 16 0 fun j _ => (qfupkWords s a f j, 0) :=
  roundedResults_of_exact (g := fun j => (qfupkWords s a f j, 0)) rfl (fun _ e => congrArg (Prod.mk _) (Env.flag_zero e).symm)
    fun _ => by simp [qfupkWords, qfDecode]

/-- Settles O18: a conversion by the rounding of each element, PK8 and UPK8 by the check of their scale words, QFPK by the
sixteen values that it draws. -/
theorem floatConversions : Obligations.FloatConversions := by
  intro s d a b f m w n
  refine ⟨rounds_frnd s d a, rounds_of_roundedElems rfl, rounds_of_roundedElems rfl, rounds_of_roundedElems rfl,
    rounds_of_roundedElems rfl, fun h => ⟨rounds_fdot2 d a b h, rounds_f2h d a b h⟩, ?_⟩
  intro ex code legal bad
  have hlegal (j : Nat) : legal j ↔ scaleOk (src s .fp b j) = true := (scaleOk_iff _).symm
  refine ⟨?own, ?shared, ?traps, ?packs, ?qfpk, fun _ => roundedResults_qfupk s d a f⟩
  case own =>
    rintro r rfl hd j hj
    rw [hlegal]
    exact getLsbD_badScale hd hj
  case shared =>
    intro h
    simp only [hlegal, bad, badScale_of_shared h]
    exact ⟨fun ⟨j, hj, hn⟩ => if_neg fun hall => hn (hall j hj), fun hall => if_pos hall⟩
  case traps =>
    intro i hi hst h0
    obtain ⟨go, hgo⟩ : ∃ go, ChecksScale i d b go := by
      simp only [List.mem_cons, List.not_mem_nil, or_false] at hi
      obtain rfl | rfl := hi
      · exact ⟨_, checksScale_pk8 d a b⟩
      · exact ⟨_, checksScale_upk8 d a b⟩
    exact ⟨hgo.traps hst h0, hgo.splits hst h0⟩
  case packs => exact fun hb => ⟨rounds_pk8 hb a, roundedResults_upk8 hb a⟩
  case qfpk => exact roundedResults_qfpk s d a f

end Sys2Proof.Machine

end

/-! Reductions over floating-point values (R147). -/

section

namespace Sys2Proof.Machine

open Sys2Proof.Claim

/-- The state once a reduction has raised its flags and moved the generator on. -/
def reducedEnv (s : State) (e : Env) : State := updCG s fun g => orFl { g with srgen := e.sr } e.fl

section

variable {s : State} {e : Env}

theorem cg_reducedEnv : cg (reducedEnv s e) = { cg s with flags := (cg s).flags ||| w32 e.fl, srgen := e.sr } := cg_updCG s _

theorem cf_reducedEnv : cf (reducedEnv s e) = cf s := cf_updCG s _ rfl

theorem active_reducedEnv : active (reducedEnv s e) = active s := congrArg Frag.mask cf_reducedEnv

theorem selected_reducedEnv : selected (reducedEnv s e) = selected s := by
  rw [selected, selected, active_reducedEnv, cf_reducedEnv, cg_reducedEnv]
  rfl

/-- What is in the frame after the flags and the generator have changed is in the frame. -/
theorem regFrame_of_reducedEnv {t : State} (h : RegFrame (reducedEnv s e) t) : RegFrame s t := by
  obtain ⟨only, hcg, hfrag, hcf⟩ := h
  have hf (i : Nat) : fragAt (reducedEnv s e) s.curG i = fragAt s s.curG i := fragAt_updG (fun _ => by rfl) s _ _ i
  refine ⟨(onlyGroup_updCG s _).trans only, ?_, fun i hi => (hfrag i hi).trans (hf i), hcf.trans (by rw [cf_reducedEnv])⟩
  rw [cg_reducedEnv] at hcg
  exact hcg

/-- An instruction that raises flags, moves the generator on and delivers one word to every executing thread. -/
theorem perThread_reducedEnv (s : State) (d : Opnd) (e : Env) (x : Word) :
    ∃ t, perThread (reducedEnv s e) d (fun _ => (x, 0)) = .next t ∧ Wrote s t d 1 (fun _ _ => x) ∧
      (cg t).flags = (cg s).flags ||| w32 e.fl ∧ (cg t).srgen = e.sr ∧ RegFrame s t := by
  obtain ⟨t, ht, hwrote, hflags, hgen, hframe⟩ := perThread_spec (reducedEnv s e) d fun _ => (x, 0)
  rw [Wrote, selected_reducedEnv] at hwrote
  rw [RaisedFlags, orFlags_map_zero, cg_reducedEnv] at hflags
  rw [cg_reducedEnv] at hgen
  have hregs : SameRegs s (reducedEnv s e) := by
    rw [SameRegs, cg_reducedEnv]
    exact ⟨rfl, rfl, rfl⟩
  exact ⟨t, ht, hwrote.of_sameRegs hregs active_reducedEnv, by simpa [w32] using hflags, hgen, regFrame_of_reducedEnv hframe⟩

end

/-- The root of FRADD's tree first, and what its nodes have raised and drawn. -/
def faddTree (s : State) (d a : Opnd) : List Node × Env :=
  let up := fun (x : List Node × Env) => faddLevel (fmode s) x.1 x.2
  up (up (up (up (up ((List.range 32).map (fleaf s d a (fmode s)), ⟨0, (cg s).srgen⟩)))))

theorem exec_fradd (d a : Opnd) (s : State) : exec (.fradd d a) s = perThread (reducedEnv s (faddTree s d a).2) d fun _ =>
    (w32 (fromElems (fmode s).fmt.width (((faddTree s d a).1.headD none).getD [])), 0) := by
  show execFradd d a s = _
  unfold execFradd faddTree
  -- the tree is the same: no level is to be evaluated
  generalize faddLevel = level
  rfl

/-- Settles O19: FRADD delivers the root of its tree in the state whose flags and generator its nodes have changed, FRMAX the
root of a tree that changes neither. -/
theorem floatReductions : Obligations.FloatReductions := by
  intro s d a m w up tree top
  refine ⟨?fradd, word1_of_perThread rfl⟩
  have htree : faddTree s d a = tree := rfl
  obtain ⟨t, ht, hroot⟩ := perThread_reducedEnv s d tree.2 (w32 (fromElems w ((tree.1.headD none).getD [])))
  exact ⟨t, (htree ▸ exec_fradd d a s).trans ht, hroot⟩

end Sys2Proof.Machine

end

/-! SCALEQ and AMAXR become pending operations on amax entries (R155 to R157). -/

section

namespace Sys2Proof.Machine

open Sys2Proof.Claim

/-! The issue of a memory access whose checks all pass, and of one whose checks all fail (R35, R227). -/

@[simp] theorem passing_map_ok (as : List Acc) : passing (as.map .ok) = as := by simp [passing, List.filterMap_map]

@[simp] theorem trapping_map_ok (as : List Acc) : trapping (as.map .ok) = [] := by simp [trapping, List.filterMap_map]

section

variable {s : State} {cls : Nat} {uni : Bool} {kind : Nat} {mk : List Acc → Pend}

theorem issueMem_stalls {cs : List ThreadCheck} (shut : Bool) (h : passing cs ≠ []) (hf : ¬flagOpen s cls) :
    issueMem s cls uni shut kind cs mk = .next (stallHere s) := if_pos (by simpa [flagOpen, h] using hf)

theorem issueMem_nothing : issueMem s cls uni false kind [] mk = .next (advance s) := rfl

theorem issueMem_passes {as : List Acc} (h : as ≠ []) (hf : flagOpen s cls) :
    issueMem s cls uni false kind (as.map .ok) mk = .next (advance (addPend s cls (mk as)).1) := by
  unfold flagOpen at hf
  simp [issueMem, hf, h, raiseSome, emptyMask]

/-- An instruction that adds an operation and goes on leaves it pending. -/
theorem pended_advance {p : Pend} {P : Pend → Prop} (hp : P (newPend s cls p)) : Pended s (advance (addPend s cls p).1) cls P :=
  pended_addPend (onlyFragment_updCF _ _) (by rw [cf_advance, cf_addPend]) hp

/-- The check of a thread that raises OPERAND (R155). -/
def refused (t : Nat) : ThreadCheck := .trap t cOPERAND false 0 0

@[simp] theorem passing_map_refused (ts : List Nat) : passing (ts.map refused) = [] := by
  simp [passing, refused, List.filterMap_map, Function.comp_def]

@[simp] theorem trapping_map_refused (ts : List Nat) : trapping (ts.map refused) = ts := by
  simp [trapping, refused, List.filterMap_map, Function.comp_def]

theorem firstTrap_refused {ts : List Nat} (h : ts ≠ []) : firstTrap (ts.map refused) = (cOPERAND, 0) := by
  cases ts with
  | nil => exact absurd rfl h
  | cons t ts => rfl

theorem trapRecords_refused (ts : List Nat) : trapRecords kind (ts.map refused) = [] := by
  simp [trapRecords, refused, List.filterMap_map, Function.comp_def, distinct]

/-- Where the threads that an access executes for are all refused, the whole fragment traps (R69; log entry 14). -/
theorem issueMem_refused {ts : List Nat} (h : ts ≠ []) (h0 : active s ≠ 0#32)
    (hall : (if uni then active s else maskOf ts) = active s) :
    issueMem s cls uni false kind (ts.map refused) mk = .next (raiseAll s cOPERAND 0#64) := by
  have hw : trapsWhole s (active s) = true := trapsWholeOf_of_takesWhole (.inl rfl)
  have hr : raiseSome s cOPERAND (active s) (w64 0) [] advance = raiseAll s cOPERAND 0#64 :=
    raiseSome_takesWhole (.inl rfl) h0 _ _ _
  simp [issueMem, h, hall, firstTrap_refused h, trapRecords_refused, hw, hr]

theorem maskOf_threads (m : Word) : maskOf (threads m) = m :=
  BitVec.eq_of_getLsbD_eq fun j hj => by rw [getLsbD_maskOf _ _ hj, Bool.eq_iff_iff, decide_eq_true_iff, mem_threads]

end

/-! Checks of amax accesses (R155). -/

/-- The checks of the amax accesses of some threads. -/
def amaxChecks (s : State) (a : Opnd) (ts : List Nat) : List ThreadCheck := ts.map fun t => checkAmax s t (src s .fp a t).toNat

section

variable {s : State} {a : Opnd} {ts : List Nat} {as : List Acc}

/-- Threads that name entries of the table whose places can be accessed. -/
theorem amaxChecks_of_named (ht : as.map (·.t) = ts) (hc : ∀ c ∈ as, (src s .fp a c.t).toNat < 4096 ∧ ∃ pa pl win,
    checkGlobal s .atomic false (amaxVa s (src s .fp a c.t).toNat) 96 = .ok pa pl win ∧
      c = { (default : Acc) with t := c.t, va := amaxVa s (src s .fp a c.t).toNat, pa := pa, n := 96, pl := pl, win := win }) :
    amaxChecks s a ts = as.map .ok := by
  rw [amaxChecks, ← ht, List.map_map]
  refine List.map_congr_left fun c hmem => ?_
  obtain ⟨hid, pa, pl, win, hok, hacc⟩ := hc c hmem
  rw [Function.comp_apply, checkAmax, if_neg (by omega), checkThread]
  simp only [Bool.false_eq_true, if_false, hok]
  rw [← hacc]

theorem amaxChecks_refused (h : ∀ j, 4096 ≤ (src s .fp a j).toNat) : amaxChecks s a ts = ts.map refused :=
  List.map_congr_left fun t _ => if_pos (h t)

end

/-! SCALEQ (R156). -/

/-- The operation that SCALEQ becomes. -/
def scaleqPend (d : Opnd) (f : BitVec 3) (as : List Acc) : Pend :=
  { (default : Pend) with kind := .scaleq, dst := d, uni := uniform d, op := f.toNat, accs := as }

theorem exec_scaleq (d a : Opnd) (f : BitVec 3) (s : State) : exec (.scaleq d a f) s =
    issueMem s 1 (uniform d) false AccKind.atomic.bit (amaxChecks s a (execThreads s d)) (scaleqPend d f) := by
  rw [← accThreads_uniform]
  rfl

/-! AMAXR (R157). -/

/-- Does a thread of some accesses give AMAXR a NaN? -/
def amaxNan (s : State) (x : Opnd) (as : List Acc) : Prop :=
  x ≠ .nul ∧ ∃ c ∈ as, (f32.val (src s .fp x c.t).toNat).isNan = true

/-- The state once AMAXR has set NV for a NaN. -/
def amaxFlagged (s : State) (x : Opnd) (as : List Acc) : State :=
  if !decide (x = .nul) && as.any (fun c => (f32.val (src s .fp x c.t).toNat).isNan) then updCG s fun g => orFl g fNV else s

/-- The accesses that AMAXR makes. -/
def amaxAccesses (s : State) (x : Opnd) (as : List Acc) : List Acc := amaxGroups (decide (x = .nul)) (src s .fp x) as

/-- The operation that AMAXR becomes. -/
def amaxPend (as : List Acc) : Pend := { (default : Pend) with kind := .amax, dst := .nul, accs := as }

section

variable {s : State} {x a : Opnd} {as : List Acc}

/-- The checks that fail. -/
def failing (cs : List ThreadCheck) : List ThreadCheck := cs.filter fun c => match c with
  | .trap .. => true
  | .ok _ => false

@[simp] theorem failing_map_ok (as : List Acc) : failing (as.map .ok) = [] := by simp [failing]

@[simp] theorem failing_map_refused (ts : List Nat) : failing (ts.map refused) = ts.map refused :=
  List.filter_eq_self.mpr (by simp [refused])

/-- What AMAXR answers: the checks that fail come before the accesses of the entries. -/
theorem exec_amaxr {cs : List ThreadCheck} (hc : amaxChecks s a (threads (selected s)) = cs) (hp : passing cs = as) :
    exec (.amaxr x a) s =
      if !(amaxAccesses s x as).isEmpty && flagFull s 2 then .next (stallHere s)
      else issueMem (amaxFlagged s x as) 2 false false AccKind.atomic.bit
        (failing cs ++ (amaxAccesses s x as).map .ok) amaxPend := by
  subst hc hp
  rfl

theorem exec_amaxr_refused (h : amaxChecks s a (threads (selected s)) = (threads (selected s)).map refused) :
    exec (.amaxr x a) s =
      issueMem s 2 false false AccKind.atomic.bit ((threads (selected s)).map refused) amaxPend := by
  have hnone : amaxAccesses s x [] = [] := rfl
  have hs : amaxFlagged s x [] = s := by simp [amaxFlagged]
  rw [exec_amaxr h (passing_map_refused _), failing_map_refused, hnone, hs, List.map_nil, List.append_nil]
  rfl

theorem exec_amaxr_stalls (h : amaxChecks s a (threads (selected s)) = as.map .ok) (hg : amaxAccesses s x as ≠ [])
    (hf : ¬flagOpen s 2) : exec (.amaxr x a) s = .next (stallHere s) :=
  (exec_amaxr h (passing_map_ok as)).trans (if_pos (by simpa [flagOpen, hg] using hf))

theorem exec_amaxr_issues (h : amaxChecks s a (threads (selected s)) = as.map .ok)
    (hf : flagOpen s 2 ∨ amaxAccesses s x as = []) : exec (.amaxr x a) s =
      issueMem (amaxFlagged s x as) 2 false false AccKind.atomic.bit ((amaxAccesses s x as).map .ok) amaxPend := by
  rw [exec_amaxr h (passing_map_ok as), failing_map_ok, List.nil_append]
  refine if_neg ?_
  obtain hf | hf := hf
  · rw [flagOpen] at hf
    simp [hf]
  · simp [hf]

theorem amaxFlagged_of_nan (h : amaxNan s x as) :
    amaxFlagged s x as = updCG s fun g => { g with flags := g.flags ||| 1#32 } := by
  obtain ⟨hx, c, hc, hn⟩ := h
  exact if_pos (by simpa [hx] using ⟨c, hc, hn⟩)

theorem amaxFlagged_of_not_nan (h : ¬amaxNan s x as) : amaxFlagged s x as = s :=
  if_neg fun hn => h (by simpa [amaxNan] using hn)

theorem flagOpen_amaxFlagged (cls : Nat) : flagOpen (amaxFlagged s x as) cls ↔ flagOpen s cls := by
  unfold amaxFlagged
  split
  · rw [flagOpen, flagOpen, flagFull, flagFull, cf_updCG s _ rfl, cg_updCG]
    rfl
  · rfl

end

/-- Settles O35: each instruction by what `issueMem` makes of checks that all pass, or that all fail for an id. -/
theorem amaxTables : Obligations.AmaxTables := by
  intro s d x a f ts as id Named groups nan
  have checks : Named → amaxChecks s a ts = as.map .ok := fun ⟨_, ht, hc⟩ => amaxChecks_of_named ht hc
  have nonempty : Named → as ≠ [] := fun ⟨hne, ht, _⟩ h0 => hne (by rw [← ht, h0, List.map_nil])
  have nanIff (h : Named) : nan ↔ amaxNan s x as := by
    obtain ⟨-, rfl, -⟩ := h
    simp [nan, amaxNan]
  refine ⟨?scaleq, ?amaxr, ?traps, ?scaleqStalls, ?amaxrStalls⟩
  case scaleq =>
    rintro rfl h hf
    rw [exec_scaleq, checks h]
    exact ⟨_, issueMem_passes (nonempty h) hf, pended_advance ⟨rfl, rfl, rfl, rfl, rfl⟩⟩
  case amaxr =>
    rintro rfl h hf
    have raised (hn : nan) := amaxFlagged_of_nan ((nanIff h).mp hn)
    have kept (hn : ¬nan) := amaxFlagged_of_not_nan (mt (nanIff h).mpr hn)
    rw [exec_amaxr_issues (checks h) hf]
    by_cases hg : amaxAccesses s x as = []
    · rw [hg]
      exact ⟨_, _, issueMem_nothing, raised, kept, fun _ => onlyGoesOn_advance _, absurd hg⟩
    · have hopen : flagOpen (amaxFlagged s x as) 2 := (flagOpen_amaxFlagged 2).mpr (hf.resolve_right hg)
      exact ⟨_, _, issueMem_passes hg hopen, raised, kept, fun h0 => absurd h0 hg,
        fun _ => pended_advance ⟨rfl, rfl, rfl⟩⟩
  case traps =>
    intro hst h0 hsel hid
    have hd : execThreads s d ≠ [] := by rwa [Ne, execThreads_eq_nil, hsel, ite_self]
    have hall : (if uniform d then active s else maskOf (execThreads s d)) = active s := by
      split_ifs with hu
      · rfl
      · rw [execThreads_vector (Bool.not_eq_true _ ▸ hu), maskOf_threads, hsel]
    refine ⟨⟨_, ?_, trapped_raiseAll hst cOPERAND 0#64⟩, _, ?_, trapped_raiseAll hst cOPERAND 0#64⟩
    · rw [exec_scaleq, amaxChecks_refused hid]
      exact issueMem_refused hd h0 hall
    · rw [exec_amaxr_refused (amaxChecks_refused hid)]
      refine issueMem_refused (mt threads_eq_nil.mp (hsel ▸ h0)) h0 ?_
      rw [maskOf_threads, hsel]
      rfl
  case scaleqStalls =>
    rintro rfl h hf
    rw [exec_scaleq, checks h]
    exact issueMem_stalls false (by rw [passing_map_ok]; exact nonempty h) hf
  case amaxrStalls =>
    rintro rfl h hf hg
    exact exec_amaxr_stalls (checks h) hg hf

end Sys2Proof.Machine

end

/-! Ganged instructions arrive at the Cinch, or trap, and MZRO joins the engine queue (R35, R163, R165, R173, R174, R176, R181,
R190 to R196). -/

section

namespace Sys2Proof.Machine

open Sys2Proof.Claim

/-! Arrivals (R163). -/

section

variable {s : State} {m : Member}

/-- An arrival whose gang has a rendezvous joins it. -/
theorem arrive_joins (h : clashes s m = []) (hr : ∃ r ∈ s.rdvs, r.blk = blkOf m.g ∧ r.gang = m.gang) :
    arrive s m = { waitFor s .cinch with
      rdvs := s.rdvs.map fun r => if r.blk = blkOf m.g ∧ r.gang = m.gang then { r with arrs := r.arrs ++ [m] } else r
      nextId := s.nextId + 1 } := by
  have hany : (waitFor s .cinch).rdvs.any (fun r => r.blk == blkOf m.g && r.gang == m.gang) = true := by
    obtain ⟨r, hmem, hblk, hgang⟩ := hr
    exact List.any_eq_true.mpr ⟨r, hmem, by simp [hblk, hgang]⟩
  simp only [arrive, h, hany, if_true, Bool.and_eq_true, beq_iff_eq]
  rfl

/-- An arrival whose gang has none opens one. -/
theorem arrive_opens (h : clashes s m = []) (hr : ∀ r ∈ s.rdvs, ¬(r.blk = blkOf m.g ∧ r.gang = m.gang)) :
    arrive s m = { waitFor s .cinch with
      rdvs := s.rdvs ++ [⟨s.nextId, blkOf m.g, m.gang, [m]⟩], nextId := s.nextId + 1 } := by
  have hany : (waitFor s .cinch).rdvs.any (fun r => r.blk == blkOf m.g && r.gang == m.gang) = false :=
    List.any_eq_false.mpr fun r hmem => by simpa using hr r hmem
  simp only [arrive, h, hany, Bool.false_eq_true, if_false]
  rfl

/-- Either way the fragment waits at the Cinch and one number is taken. -/
theorem arrive_eq (h : clashes s m = []) :
    arrive s m = { waitFor s .cinch with rdvs := (arrive s m).rdvs, nextId := s.nextId + 1 } := by
  by_cases hr : ∃ r ∈ s.rdvs, r.blk = blkOf m.g ∧ r.gang = m.gang
  · rw [arrive_joins h hr]
  · rw [arrive_opens h fun r hmem he => hr ⟨r, hmem, he⟩]

/-- The state as it arrives: that at the issue, or the same with the region closed. -/
def closedIf (closing : Bool) (s : State) : State := if closing then shut s else s

@[simp] theorem closedIf_rdvs (b : Bool) (s : State) : (closedIf b s).rdvs = s.rdvs := by cases b <;> rfl
@[simp] theorem closedIf_nextId (b : Bool) (s : State) : (closedIf b s).nextId = s.nextId := by cases b <;> rfl
@[simp] theorem closedIf_curG (b : Bool) (s : State) : (closedIf b s).curG = s.curG := by cases b <;> rfl

@[simp] theorem cf_closedIf (b : Bool) (s : State) : cf (closedIf b s) = cf s := by
  cases b
  · rfl
  · exact cf_shut s

@[simp] theorem active_closedIf (b : Bool) (s : State) : active (closedIf b s) = active s := by
  rw [active, active, cf_closedIf]

@[simp] theorem gang_closedIf (b : Bool) (s : State) : (cg (closedIf b s)).gang = (cg s).gang := by
  cases b
  · rfl
  · rw [closedIf, if_pos rfl, shut, cg_updCG]

/-- An instruction that arrives does so as the statements say it. -/
theorem arrives_of_arrive {i : Instr} {b : Bool} (hi : exec i s = .next (arrive (closedIf b s) m)) :
    Arrives s (closedIf b s) i m := by
  intro h
  have heq := arrive_eq h
  refine ⟨_, hi, ?_, ?_, ?_, fun hr => ?_, fun hr => ?_⟩
  · have hw : { arrive (closedIf b s) m with rdvs := s.rdvs, nextId := s.nextId } = waitFor (closedIf b s) .cinch := by
      rw [heq, ← closedIf_rdvs b s, ← closedIf_nextId b s]
      rfl
    rw [hw]
    exact onlyFragment_updCF _ _
  · rw [heq, closedIf_nextId]
  · rw [heq, ← cf_closedIf b s]
    exact cf_updCF _ _
  · rw [arrive_opens h (by rwa [closedIf_rdvs]), closedIf_rdvs, closedIf_nextId]
  · rw [arrive_joins h (by rwa [closedIf_rdvs]), closedIf_rdvs]

end

/-! Traps at ganged instructions (R165). -/

/-- A trap at a ganged instruction of a group that no rendezvous lists is the trap of its whole fragment. -/
theorem traps_of_raiseGanged {s : State} {i : Instr} {b : Bool} {cause : Nat} {fadr : Quad}
    (hl : ∀ x ∈ s.rdvs, x.lists s.curG = false) (hi : exec i s = raiseGanged (closedIf b s) cause fadr) :
    Traps s (closedIf b s) i cause fadr := by
  intro hst
  have ht : Trapped (closedIf b s) (raiseAll (closedIf b s) cause fadr) cause (active s) fadr := by
    rw [← active_closedIf b s]
    exact trapped_raiseAll (by rwa [cf_closedIf]) cause fadr
  refine ⟨_, ?_, ht⟩
  obtain ⟨⟨hgroup, -, -⟩, -⟩ := ht
  rw [hi, raiseGanged, rdvDrop_unlisted]
  rw [hgroup]
  simpa using hl

/-! What MMA, MMAS and the attention instructions answer (R163, R173, R190 to R196). -/

section

variable {s : State}

theorem mma_arrives {op j : Nat} {f a : Opnd} (hg : (cg s).gang ≠ 0#32) (hq : readPending (cg s) (fragRegs f) = false)
    (hok : mmaOk (mdOf (cg s) j) (cf s).mode (decide (op = 0xA3)) = true) :
    mma s op f a j = .next (arrive s (arrival s op j (regNo f) none (fragRegs f) a)) := by
  simp [mma, arriveWhen, hg, hq, hok]

theorem mma_refused {op j : Nat} {f a : Opnd} (hg : (cg s).gang ≠ 0#32)
    (hok : mmaOk (mdOf (cg s) j) (cf s).mode (decide (op = 0xA3)) = false) : mma s op f a j = raiseGanged s cOPERAND 0#64 := by
  simp [mma, hg, hok]

theorem mma_gangless {op j : Nat} {f a : Opnd} (hg : (cg s).gang = 0#32) : mma s op f a j = raiseGanged s cGANG 0#64 :=
  if_pos hg

/-- A fragment that is no register waits for no read. -/
theorem readPending_nil (g : Group) : readPending g [] = false := by simp [readPending]

theorem attend_arrives {closing : Bool} {frag : Opnd} {m : Member} (hg : (cg s).gang ≠ 0#32)
    (hq : readPending (cg s) (fragRegs frag) = false) : attend s closing frag m = .next (arrive (closedIf closing s) m) := by
  rw [attend, hq, Bool.and_false, if_neg Bool.false_ne_true]
  exact if_neg (by rwa [← gang_closedIf closing s] at hg)

theorem attend_gangless {closing : Bool} {frag : Opnd} {m : Member} (hg : (cg s).gang = 0#32) :
    attend s closing frag m = raiseGanged (closedIf closing s) cGANG 0#64 := by
  rw [attend, hg, bne_self_eq_false, Bool.false_and, if_neg Bool.false_ne_true]
  exact if_pos (by rwa [← gang_closedIf closing s] at hg)

end

/-! MZRO (R35, R174, R176). -/

section

variable {s : State} {f : Opnd}

theorem exec_mzro_stalls (h : ¬flagOpen s 2 ∨ 8 ≤ queueLen s (coreOf s.curG)) : exec (.mzro f) s = .next (stallHere s) :=
  if_pos (by simpa [flagOpen] using h)

/-- The operation that MZRO becomes in the group. -/
def mzroPend : Pend := { (default : Pend) with kind := .matrix, dst := .nul, sent := true }

theorem exec_mzro_queues (h : flagOpen s 2) (hq : queueLen s (coreOf s.curG) < 8) : exec (.mzro f) s = .next (advance
    { (addPend s 2 mzroPend).1 with
      nextId := s.nextId + 2
      mxq := s.mxq ++ [⟨s.nextId + 1, coreOf s.curG, 0xA4,
        [{ arrival s 0xA4 0 (regNo f) none (fragRegs f) .nul with id := s.nextId }], false, [], []⟩] }) :=
  if_neg (by simpa [flagOpen] using ⟨h, hq⟩)

end

/-- Settles O39: each instruction by what `mma` or `attend` answers, and its arrival or its trap by the rule of all of them. -/
theorem gangedInstructions : Obligations.GangedInstructions := by
  intro s f d a b j r l word quiet M sel
  have closes : (if l = 1#1 then shut s else s) = closedIf (l == 1#1) s := by simp [closedIf]
  rw [closes]
  refine ⟨fun hg => ⟨?mma, ?mmas, ?ascore, ?avacc, ?afin, ?arstZero, ?arst, ?refused, ?arow⟩, fun hg hl => ?gangless,
    exec_mzro_stalls, ?mzro⟩
  case mma => exact fun hq hok => arrives_of_arrive (b := false) (mma_arrives hg hq hok)
  case mmas => exact fun hq hok => arrives_of_arrive (b := false) (mma_arrives hg hq hok)
  case ascore => exact arrives_of_arrive (b := true) (attend_arrives hg (readPending_nil _))
  case avacc => exact fun hq => arrives_of_arrive (b := true) (attend_arrives hg hq)
  case afin => exact fun hq => arrives_of_arrive (attend_arrives hg hq)
  case arstZero => exact arrives_of_arrive (b := true) (attend_arrives hg (readPending_nil _))
  case arst =>
    intro ha
    refine arrives_of_arrive (b := true) ((attend_arrives hg (readPending_nil _)).trans ?_)
    simp only [ne_eq, ha, not_false_eq_true, decide_true, if_true]
    rfl
  case refused =>
    exact fun hl => ⟨fun hok => traps_of_raiseGanged (b := false) hl (mma_refused hg hok),
      fun hok => traps_of_raiseGanged (b := false) hl (mma_refused hg hok)⟩
  case arow => exact fun n => arrives_of_arrive (b := false) (attend_arrives hg (readPending_nil _))
  case gangless =>
    exact ⟨traps_of_raiseGanged (b := false) hl (mma_gangless hg), traps_of_raiseGanged (b := false) hl (mma_gangless hg),
      traps_of_raiseGanged (b := true) hl (attend_gangless hg), traps_of_raiseGanged (b := true) hl (attend_gangless hg),
      traps_of_raiseGanged hl (attend_gangless hg), traps_of_raiseGanged (b := true) hl (attend_gangless hg),
      traps_of_raiseGanged (b := false) hl (attend_gangless hg)⟩
  case mzro => exact fun h hq => ⟨_, exec_mzro_queues h hq, pended_advance ⟨rfl, rfl⟩, rfl, rfl⟩

end Sys2Proof.Machine

end

/-! A complete rendezvous becomes an operation of the engine queue, or fails (R163 to R166, R176, R188). -/

section

namespace Sys2Proof.Machine

open Sys2Proof.Claim

/-! Members go on at a release (R163). -/

theorem fragAt_updF_at (s : State) (g i j k : Nat) (h : Frag → Frag) :
    fragAt (updF s g i h) j k = if j = g ∧ k = i then h (fragAt s g i) else fragAt s j k := by
  by_cases hj : j = g
  · subst hj
    simp [fragAt_updF]
  · rw [if_neg fun hk => hj hk.1, fragAt, updF, gAt_updG_ne _ _ hj, fragAt]

theorem pend_updF (s : State) (g i j : Nat) (h : Frag → Frag) : (gAt (updF s g i h) j).pend = (gAt s j).pend := by
  rw [updF, gAt_updG]
  split_ifs with hj
  · rw [hj]
  · rfl

/-- The operation that a member of a rendezvous counts. -/
def memberPend : Pend := { (default : Pend) with kind := .matrix, dst := .nul, scratch := true }

/-- The state with the operation of a member counted. -/
def countedFor (s : State) (m : Member) : State := (addPend { s with curG := m.g, curF := m.f } 2 memberPend).1

/-- A member of a rendezvous counts its operation and goes on. -/
def goesOnWith (s : State) (m : Member) : State :=
  withCur s m.g m.f fun s => advance (wake (addPend s 2 memberPend).1 m.g m.f)

theorem gAt_goesOnWith (s : State) (m : Member) (g : Nat) : gAt (goesOnWith s m) g =
    gAt (updF (updF (countedFor s m) m.g m.f Frag.woken) m.g m.f Frag.onward) g := rfl

theorem fragAt_goesOnWith (s : State) (m : Member) (g f : Nat) : fragAt (goesOnWith s m) g f =
    if g = m.g ∧ f = m.f then (fragAt s g f).woken.onward else fragAt s g f := by
  have hcounted (g f : Nat) : fragAt (countedFor s m) g f = fragAt s g f := fragAt_addPend _ 2 memberPend g f
  rw [fragAt, gAt_goesOnWith, ← fragAt, fragAt_updF_at, fragAt_updF_self, fragAt_updF_at, hcounted, hcounted]
  split_ifs with h
  · rw [h.1, h.2]
  · rfl

theorem pend_goesOnWith (s : State) (m : Member) (g : Nat) : ∃ q : Pend, q.kind = .matrix ∧
    (gAt (goesOnWith s m) g).pend = if g = m.g then (gAt s g).pend ++ [q] else (gAt s g).pend := by
  refine ⟨newPend { s with curG := m.g, curF := m.f } 2 memberPend, rfl, ?_⟩
  rw [gAt_goesOnWith, pend_updF, pend_updF]
  split_ifs with h
  · rw [h]
    exact congrArg Group.pend (cg_addPend { s with curG := m.g, curF := m.f } 2 memberPend)
  · exact congrArg Group.pend (gAt_updG_ne _ _ h)

/-- A member has gone on: its fragment waits no more, and its group counts an operation of the engine. -/
def GoneOn (t : State) (x : Member) : Prop := (fragAt t x.g x.f).wait = .no ∧ ∃ q ∈ (gAt t x.g).pend, q.kind = .matrix

theorem goneOn_self (s : State) (m : Member) : GoneOn (goesOnWith s m) m := by
  obtain ⟨q, hq, hpend⟩ := pend_goesOnWith s m m.g
  refine ⟨?_, q, by simp [hpend], hq⟩
  rw [fragAt_goesOnWith, if_pos ⟨rfl, rfl⟩]
  rfl

theorem GoneOn.goesOnWith {s : State} {x : Member} (h : GoneOn s x) (m : Member) : GoneOn (goesOnWith s m) x := by
  obtain ⟨hwait, q, hmem, hq⟩ := h
  obtain ⟨q', -, hpend⟩ := pend_goesOnWith s m x.g
  refine ⟨?_, q, ?_, hq⟩
  · rw [fragAt_goesOnWith]
    split_ifs
    · rfl
    · exact hwait
  · rw [hpend]
    split_ifs
    · exact List.mem_append_left _ hmem
    · exact hmem

/-! A release (R163, R176). -/

/-- One member more of a release: the state, and the members with the numbers of their operations. -/
def releaseMember (acc : State × List Member) (m : Member) : State × List Member :=
  (goesOnWith acc.1 m, acc.2 ++ [{ m with id := acc.1.nextId }])

section

variable (l : List Member) (acc : State × List Member)

theorem foldl_releaseMember_rdvs : (l.foldl releaseMember acc).1.rdvs = acc.1.rdvs := by
  induction l generalizing acc with
  | nil => rfl
  | cons m l ih => exact ih (releaseMember acc m)

theorem foldl_releaseMember_mxq : (l.foldl releaseMember acc).1.mxq = acc.1.mxq := by
  induction l generalizing acc with
  | nil => rfl
  | cons m l ih => exact ih (releaseMember acc m)

theorem length_foldl_releaseMember : (l.foldl releaseMember acc).2.length = acc.2.length + l.length := by
  induction l generalizing acc with
  | nil => rfl
  | cons m l ih =>
    rw [List.foldl_cons, ih, releaseMember, List.length_append, List.length_cons, List.length_nil, List.length_cons]
    omega

theorem goneOn_foldl_releaseMember {x : Member} (h : x ∈ l ∨ GoneOn acc.1 x) : GoneOn (l.foldl releaseMember acc).1 x := by
  induction l generalizing acc with
  | nil => exact h.resolve_left List.not_mem_nil
  | cons m l ih =>
    refine ih (releaseMember acc m) ?_
    obtain hmem | hgone := h
    · obtain rfl | hl := List.mem_cons.mp hmem
      · exact .inr (goneOn_self acc.1 x)
      · exact .inl hl
    · exact .inr (hgone.goesOnWith m)

end

theorem length_sortBy {α : Type} (f : α → Nat) (l : List α) : (sortBy f l).length = l.length := by
  have ins (x : α) (l : List α) : (sortBy.insertFront f x l).length = l.length + 1 := by
    induction l with
    | nil => rfl
    | cons y l ih =>
      rw [sortBy.insertFront]
      split_ifs
      · rfl
      · rw [List.length_cons, ih, List.length_cons]
  induction l with
  | nil => rfl
  | cons x l ih => rw [sortBy, ins, ih, List.length_cons]

/-- The operation that a release puts at the end of the engine queue. -/
def releasedOp (s : State) (r : Rdv) : MatOp :=
  let u := r.arrs.foldl releaseMember (s, [])
  ⟨u.1.nextId, r.blk / 4, (r.arrs.head?.map (·.op)).getD 0, sortBy (·.g) u.2, false, r.banks, []⟩

theorem length_releasedOp_mem (s : State) (r : Rdv) : (releasedOp s r).mem.length = r.arrs.length := by
  rw [releasedOp, length_sortBy, length_foldl_releaseMember, List.length_nil, Nat.zero_add]

theorem releaseRdv_rdvs (s : State) (r : Rdv) : (releaseRdv s r).rdvs = s.rdvs.filter fun x => x.id != r.id :=
  congrArg (List.filter _) (foldl_releaseMember_rdvs r.arrs (s, []))

theorem releaseRdv_mxq (s : State) (r : Rdv) : (releaseRdv s r).mxq = s.mxq ++ [releasedOp s r] :=
  congrArg (· ++ [releasedOp s r]) (foldl_releaseMember_mxq r.arrs (s, []))

theorem goneOn_releaseRdv (s : State) {r : Rdv} {x : Member} (h : x ∈ r.arrs) : GoneOn (releaseRdv s r) x :=
  goneOn_foldl_releaseMember r.arrs (s, []) (.inl h)

/-! CINCH_RELEASE (R163 to R166, R188). -/

/-- The row-state slot that an ARST takes for its block (R188). -/
def rowBound (s : State) (c : Nat) (r : Rdv) (m : Member) : State :=
  if m.op = 0xA8 then updRow s c (selRow m.sel) fun x => { x with bound := true, blk := r.blk % 4 } else s

theorem rowBound_rdvs (s : State) (c : Nat) (r : Rdv) (m : Member) : (rowBound s c r m).rdvs = s.rdvs := by
  unfold rowBound
  split_ifs <;> rfl

theorem rowBound_mxq (s : State) (c : Nat) (r : Rdv) (m : Member) : (rowBound s c r m).mxq = s.mxq := by
  unfold rowBound
  split_ifs <;> rfl

theorem exec_cinchRelease (c n : Nat) (s : State) : exec (.cinchRelease c n) s = execCinchRelease c n s := rfl

section

variable {s : State} {c n : Nat} {r : Rdv} {m : Member} {ms : List Member}
  (hr : (s.rdvs.find? fun r => r.id == n) = some r) (hc : complete s c r = true) (ha : r.arrs = m :: ms)
include hr hc ha

theorem exec_cinchRelease_disagrees (h : agree (decide (m.op < 0xA7)) r.arrs = false) :
    exec (.cinchRelease c n) s = .next (failRdvs s [r]) := by
  rw [ha] at h
  simp [exec_cinchRelease, execCinchRelease, hr, hc, ha, h]

theorem exec_cinchRelease_traps {cause fadr : Nat} (h : agree (decide (m.op < 0xA7)) r.arrs = true)
    (hv : verdict s r = .trap cause fadr) : exec (.cinchRelease c n) s = .next (failAll s r cause (w64 fadr)) := by
  rw [ha] at h
  simp [exec_cinchRelease, execCinchRelease, hr, hc, ha, h, hv]

theorem exec_cinchRelease_releases (h : agree (decide (m.op < 0xA7)) r.arrs = true) (hv : verdict s r = .go)
    (hroom : roomForAll s r = true) (hq : queueLen s c < 8) :
    exec (.cinchRelease c n) s = .next (releaseRdv (rowBound s c r m) r) := by
  rw [ha] at h
  simp [exec_cinchRelease, execCinchRelease, hr, hc, ha, h, hv, hroom, hq, rowBound]

end

end Sys2Proof.Machine

end

/-! The engine performs its operations, and each member takes its results (R173 to R176, R193 to R196, R199). -/

section

namespace Sys2Proof.Machine

open Sys2Proof.Claim

/-! What the engine leaves in its queue (R176). -/

theorem foldl_mxq {α : Type} {f : State → α → State} (h : ∀ s a, (f s a).mxq = s.mxq) (l : List α) (s : State) :
    (l.foldl f s).mxq = s.mxq := by
  induction l generalizing s with
  | nil => rfl
  | cons a l ih => rw [List.foldl_cons, ih, h]

theorem scrPut_mxq (s : State) (core : Nat) (banks : List Nat) (off : Nat) (bs : List Byte) :
    (scrPut s core banks off bs).mxq = s.mxq := by
  induction bs generalizing s off with
  | nil => rfl
  | cons b bs ih => exact ih _ _

/-- Only pending operations of the members learn that an operation has read its operands. -/
theorem markRead_groups (s : State) (o : MatOp) : markRead s o = { s with groups := (markRead s o).groups } := by
  unfold markRead
  induction o.mem generalizing s with
  | nil => rfl
  | cons m l ih =>
    rw [List.foldl_cons, ih]
    rfl

theorem markRead_mxq (s : State) (o : MatOp) : (markRead s o).mxq = s.mxq := by rw [markRead_groups]

theorem rowSlot_markRead (s : State) (o : MatOp) (c k : Nat) : rowSlot (markRead s o) c k = rowSlot s c k := by
  rw [markRead_groups]
  rfl

/-- An operation once it is performed, with what its members have become. -/
def performedWith (o : MatOp) (ms : List Member) : MatOp := { o with mem := ms, perf := true }

/-- ASCORE writes the scores of a member's rows to its strip (R192). -/
def storeStrip (o : MatOp) (s : State) (e : Member × List (Nat × List Nat)) : State :=
  match e.1.strip with
  | some off => e.2.foldl (fun s row =>
      scrPut s o.core o.banks (off + 256 * row.1) (row.2.flatMap fun n => leBytes 4 n)) s
  | none => s

theorem storeStrip_mxq (o : MatOp) (s : State) (e : Member × List (Nat × List Nat)) : (storeStrip o s e).mxq = s.mxq := by
  unfold storeStrip
  split
  · exact foldl_mxq (fun s row => scrPut_mxq s _ _ _ _) _ _
  · rfl

/-- ASCORE stores its strips, and then its operation is performed. -/
theorem performScore_strips (s : State) (o : MatOp) :
    ∃ (u : State) (outs : List (Member × List (Nat × List Nat))) (ms : List Member), u.mxq = s.mxq ∧
      performScore s o = putOp (outs.foldl (storeStrip o) u) (performedWith o ms) := by
  refine ⟨_, _, _, ?_, rfl⟩
  rfl

theorem performScore_mxq (s : State) (o : MatOp) :
    ∃ ms, (performScore s o).mxq = (putOp s (performedWith o ms)).mxq := by
  obtain ⟨u, outs, ms, hu, hs⟩ := performScore_strips s o
  refine ⟨ms, ?_⟩
  rw [hs]
  exact congrArg (List.map _) ((foldl_mxq (storeStrip_mxq o) outs u).trans hu)

/-- What the members of an operation have become, by its opcode, once it is performed on the row state x (R173, R174, R193,
R194, R196). -/
structure Results (s : State) (x : RowSlot) (o : MatOp) (ms : List Member) : Prop where
  mma : o.op = 0xA2 ∨ o.op = 0xA3 → ms = o.mem.map (mmaTile s o)
  mzro : o.op = 0xA4 → ms = o.mem.map mzroTile
  avacc : o.op = 0xA6 → ms = o.mem.map (vaccMember s o x)
  afin : o.op = 0xA7 → ms = o.mem.map (finMember s x)
  arow : o.op = 0xA9 → ms = o.mem.map (rowMember x)

/-- The row-state slot of an operation. -/
def MatOp.row (o : MatOp) : Nat := selRow ((o.mem.head?.map (·.sel)).getD 0)

theorem performOp_results (s : State) (o : MatOp) : ∃ ms, Results s (rowSlot s o.core o.row) o ms ∧
    (performOp s o).mxq = (putOp s (performedWith o ms)).mxq := by
  unfold performOp
  split
  case h_4 h =>
    obtain ⟨ms, hms⟩ := performScore_mxq s o
    exact ⟨ms, by constructor <;> simp [h], hms⟩
  case h_8 => exact ⟨_, by constructor <;> simp_all [MatOp.row], rfl⟩
  all_goals
    rename_i h
    exact ⟨_, by constructor <;> simp [h, MatOp.row], rfl⟩

theorem rowSlot_updRow (s : State) (c k : Nat) (f : RowSlot → RowSlot) : rowSlot (updRow s c k f) c k = f (rowSlot s c k) :=
  Store.get_upd_self s.rows _ f

theorem performOp_score {o : MatOp} (s : State) (h : o.op = 0xA5) : performOp s o = performScore s o := by
  simp only [performOp, h]

theorem rowSlot_performOp_rest {o : MatOp} (s : State) (h : o.op = 0xA8) :
    rowSlot (performOp s o) o.core o.row = restRow (rowSlot s o.core o.row) o.mem := by
  simp only [performOp, h]
  exact rowSlot_updRow _ _ _ _

/-! ARST resets the rows of a slot (R195). -/

/-- A row of a slot at its reset. -/
def RowSlot.reset (x : RowSlot) (r : Nat) : RowSlot :=
  (((RowSlot.setM x r ninf32).setL r 0#32).setAlpha r one32).setP r (List.replicate 64 0#32)

/-- M, L and ALPHA of a row. -/
def RowSlot.entry (x : RowSlot) (r : Nat) : Word × Word × Word := (x.m r, x.l r, x.alpha r)

theorem entry_reset (x : RowSlot) (r q : Nat) :
    (x.reset r).entry q = if q = r then (ninf32, 0#32, one32) else x.entry q := by
  unfold RowSlot.entry RowSlot.m RowSlot.l RowSlot.alpha
  split_ifs with h
  · subst h
    simp (disch := omega) only [RowSlot.reset, RowSlot.setM, RowSlot.setL, RowSlot.setAlpha, RowSlot.setP,
      Store.get_set_self, Store.get_set_ne]
  · simp (disch := omega) only [RowSlot.reset, RowSlot.setM, RowSlot.setL, RowSlot.setAlpha, RowSlot.setP, Store.get_set_ne]

theorem entry_foldl_reset (l : List Nat) (x : RowSlot) (q : Nat) :
    (l.foldl RowSlot.reset x).entry q = if q ∈ l then (ninf32, 0#32, one32) else x.entry q := by
  induction l generalizing x with
  | nil => simp
  | cons r l ih =>
    rw [List.foldl_cons, ih, entry_reset]
    by_cases hl : q ∈ l <;> by_cases hr : q = r <;> simp [hl, hr]

/-- Without a restored row, ARST leaves every row at its reset. -/
theorem restRow_of_nothing {ms : List Member} (x : RowSlot) (h : ∀ m ∈ ms, m.xs = []) :
    restRow x ms = (List.range 96).foldl RowSlot.reset { x with pf := 0 } :=
  (List.foldl_ext _ _ _ fun _ m hm => if_pos (by rw [h m hm]; rfl)).trans (List.foldl_fixed ms)

theorem restRow_entry {ms : List Member} (x : RowSlot) (h : ∀ m ∈ ms, m.xs = []) {r : Nat} (hr : r < 96) :
    (restRow x ms).m r = ninf32 ∧ (restRow x ms).l r = 0#32 ∧ (restRow x ms).alpha r = one32 := by
  have he : (restRow x ms).entry r = (ninf32, 0#32, one32) := by
    rw [restRow_of_nothing x h, entry_foldl_reset, if_pos (List.mem_range.mpr hr)]
  simpa [RowSlot.entry] using he

/-! AROW gives each member its rows (R196). -/

/-- M and L of row p of a member, as results in registers v and v + 1. -/
def Member.takeRow (x : RowSlot) (v : Nat) (m : Member) (p : Nat) : Member :=
  { m with res := Store.ins (Store.ins m.res (32 * v + p) (x.m (16 * m.rank + p))) (32 * (v + 1) + p) (x.l (16 * m.rank + p)) }

theorem rowMember_eq (x : RowSlot) (m : Member) :
    rowMember x m = (List.range 16).foldl (Member.takeRow x (m.out.getD 0)) m := rfl

section

variable (x : RowSlot) (v : Nat) {q : Nat} (hq : q < 32)
include hq

theorem get_res_takeRow (m : Member) {p : Nat} (hp : p < 32) :
    Store.get (m.takeRow x v p).res (32 * v + q) =
      (if q = p then x.m (16 * m.rank + p) else Store.get m.res (32 * v + q)) ∧
    Store.get (m.takeRow x v p).res (32 * (v + 1) + q) =
      (if q = p then x.l (16 * m.rank + p) else Store.get m.res (32 * (v + 1) + q)) := by
  have hm : 32 * v + q ≠ 32 * (v + 1) + p := by omega
  have hl : 32 * (v + 1) + q ≠ 32 * v + p := by omega
  simp only [Member.takeRow, Store.get_ins, hm, hl, if_false, Nat.add_left_cancel_iff, and_self]

theorem get_res_foldl_takeRow {l : List Nat} (hl : ∀ p ∈ l, p < 32) (m : Member) :
    Store.get (l.foldl (Member.takeRow x v) m).res (32 * v + q) =
      (if q ∈ l then x.m (16 * m.rank + q) else Store.get m.res (32 * v + q)) ∧
    Store.get (l.foldl (Member.takeRow x v) m).res (32 * (v + 1) + q) =
      (if q ∈ l then x.l (16 * m.rank + q) else Store.get m.res (32 * (v + 1) + q)) := by
  induction l generalizing m with
  | nil => simp
  | cons p l ih =>
    obtain ⟨hp, hl⟩ := List.forall_mem_cons.mp hl
    obtain ⟨ihm, ihl⟩ := ih hl (m.takeRow x v p)
    obtain ⟨hm, hL⟩ := get_res_takeRow x v hq m hp
    have hrank : (m.takeRow x v p).rank = m.rank := rfl
    rw [List.foldl_cons, ihm, ihl, hm, hL, hrank]
    by_cases h : q ∈ l <;> by_cases hqp : q = p <;> simp [h, hqp]

end

theorem g_foldl_takeRow (x : RowSlot) (v : Nat) (l : List Nat) (m : Member) :
    (l.foldl (Member.takeRow x v) m).g = m.g := by
  induction l generalizing m with
  | nil => rfl
  | cons p l ih => exact ih (m.takeRow x v p)

theorem rowMember_rows (x : RowSlot) (m : Member) : (rowMember x m).g = m.g ∧ ∀ q, q < 16 →
    Store.get (rowMember x m).res (32 * m.out.getD 0 + q) = x.m (16 * m.rank + q) ∧
    Store.get (rowMember x m).res (32 * (m.out.getD 0 + 1) + q) = x.l (16 * m.rank + q) := by
  rw [rowMember_eq]
  refine ⟨g_foldl_takeRow x _ _ m, fun q hq => ?_⟩
  have hl : ∀ p ∈ List.range 16, p < 32 := fun p hp => (List.mem_range.mp hp).trans (by omega)
  simpa [hq] using get_res_foldl_takeRow x (m.out.getD 0) (show q < 32 by omega) hl m

/-! MXE_QUEUE_PERFORM (R176). -/

/-- What an operation is performed on: where its reads met writes, a free value is spent (R179; log entry 3). -/
def performOn (s : State) (o : MatOp) : State := if o.olds.isEmpty then s else spend s

theorem performOn_mxq (s : State) (o : MatOp) : (performOn s o).mxq = s.mxq := by
  unfold performOn
  split_ifs <;> rfl

theorem rowSlot_performOn (s : State) (o : MatOp) (c k : Nat) : rowSlot (performOn s o) c k = rowSlot s c k := by
  unfold performOn
  split_ifs <;> rfl

theorem exec_mxeQueuePerform {s : State} {c : Nat} {o : MatOp} (ho : (s.mxq.find? fun o => o.core == c && !o.perf) = some o)
    (hh : engineHeld s o = false) : exec (.mxeQueuePerform c) s =
      .next (markRead (performOp (performOn s o) o) o) := by
  have hx : exec (.mxeQueuePerform c) s = execMxeQueuePerform c s := rfl
  rw [hx, execMxeQueuePerform, ho]
  simp only [hh, Bool.false_eq_true, if_false]
  rfl

/-! A member takes its results (R165, R175, R199). -/

/-- The results of a member written to its registers. -/
def writeResults (x : Group) (res : Store Word) : Group := res.foldl (fun g e => wrV g (e.1 / 32) (e.1 % 32) e.2) x

theorem pend_writeResults (x : Group) (res : Store Word) : (writeResults x res).pend = x.pend := by
  unfold writeResults
  induction res generalizing x with
  | nil => rfl
  | cons e res ih => exact ih _

theorem flags_writeResults (x : Group) (res : Store Word) : (writeResults x res).flags = x.flags := by
  unfold writeResults
  induction res generalizing x with
  | nil => rfl
  | cons e res ih => exact ih _

/-- Each register holds the one result for it, or what it held. -/
theorem rdV_writeResults (x : Group) {res : Store Word} (h : (res.map (·.1)).Nodup) (r : Nat) {j : Nat} (hj : j < 32) :
    rdV (writeResults x res) r j = (res.find? fun e => e.1 == 32 * r + j).elim (rdV x r j) (·.2) := by
  induction res generalizing x with
  | nil => rfl
  | cons e res ih =>
    rw [List.map_cons, List.nodup_cons] at h
    obtain ⟨hnew, hnodup⟩ := h
    have hw : writeResults x (e :: res) = writeResults (wrV x (e.1 / 32) (e.1 % 32) e.2) res := rfl
    rw [hw, ih _ hnodup, rdV_wrV _ _ _ _ _ _ (Nat.mod_lt _ (by omega)) hj]
    by_cases he : e.1 = 32 * r + j
    · have hnone : (res.find? fun e => e.1 == 32 * r + j) = none := by
        rw [List.find?_eq_none]
        intro e' hmem heq
        rw [beq_iff_eq] at heq
        exact hnew (List.mem_map.mpr ⟨e', hmem, heq.trans he.symm⟩)
      rw [hnone, List.find?_cons_of_pos (by simpa using he), Option.elim_none, Option.elim_some, if_pos (by omega)]
    · rw [List.find?_cons_of_neg (by simpa using he), if_neg (by omega)]

/-- A group once it has taken the results of a member whose operation was p. -/
def tookResults (x : Group) (m : Member) (p : Pend) : Group :=
  let y := writeResults x m.res
  { y with pend := y.pend.filter fun q => q.id != m.id, flags := y.flags ||| w32 (p.fl ||| m.fl) }

theorem findPend_tookResults (x : Group) (m : Member) (p : Pend) : findPend (tookResults x m p) m.id = none := by
  simp [findPend, tookResults]

theorem flags_tookResults (x : Group) (m : Member) (p : Pend) :
    (tookResults x m p).flags = x.flags ||| w32 (p.fl ||| m.fl) := by
  rw [tookResults, flags_writeResults]

/-- An operation with the FLAGS bits of its member. -/
def withFlags (m : Member) (p : Pend) : Pend := if p.id == m.id then { p with fl := p.fl ||| m.fl } else p

theorem withFlags_id (m : Member) (p : Pend) : (withFlags m p).id = p.id := by
  unfold withFlags
  split_ifs <;> rfl

section

variable {m : Member} {p : Pend} (ps : List Pend)

theorem find_map_withFlags (h : (ps.find? fun q => q.id == m.id) = some p) :
    ((ps.map (withFlags m)).find? fun q => q.id == m.id) = some { p with fl := p.fl ||| m.fl } := by
  have hp := List.find?_some h
  simp only [List.find?_map, Function.comp_def, withFlags_id, h, Option.map_some]
  rw [withFlags, if_pos hp]

theorem filter_map_withFlags : (ps.map (withFlags m)).filter (fun q => q.id != m.id) = ps.filter fun q => q.id != m.id := by
  simp only [List.filter_map, Function.comp_def, withFlags_id]
  refine (List.map_congr_left fun q hq => ?_).trans (List.map_id _)
  exact if_neg (by simpa using (List.mem_filter.mp hq).2)

end

theorem gAt_finishMember {s : State} {m : Member} {p : Pend} (o : MatOp) (h : findPend (gAt s m.g) m.id = some p) :
    gAt (finishMember s o m) m.g = tookResults (gAt s m.g) m p := by
  let y := writeResults (gAt s m.g) m.res
  let u := updPend (updG s m.g fun g => writeResults g m.res) m.g m.id fun p => { p with fl := p.fl ||| m.fl }
  have hu : gAt u m.g = { y with pend := y.pend.map (withFlags m) } := by
    simp only [u, updPend, gAt_updG_self]
    rfl
  have hfind : findPend (gAt u m.g) m.id = some { p with fl := p.fl ||| m.fl } := by
    rw [hu]
    exact find_map_withFlags _ (by rwa [pend_writeResults])
  have hdone : (finishMember s o m).groups = (dropPend u m.g m.id).groups := by
    simp only [finishMember, h, Option.isSome_some, if_true]
    split_ifs <;> rfl
  have hg : gAt (finishMember s o m) m.g = gAt (dropPend u m.g m.id) m.g := congrArg (Store.get · m.g) hdone
  rw [hg, dropPend, gAt_updG_self, hfind, hu]
  dsimp only
  rw [filter_map_withFlags]
  rfl

/-- A member that may complete does; what follows its last member changes no group. -/
theorem completeMember_groups {s : State} {n g : Nat} {cls : MatOp → Bool} {last : MatOp → State → State} {o : MatOp}
    {m : Member}
    (ho : (s.mxq.find? fun o => o.id == n) = some o) (hm : (o.mem.find? fun m => m.g == g && !m.fin) = some m)
    (hp : o.perf = true) (hc : cls o = true) (he : earlierOf s o g = false) (hl : ∀ o s, (last o s).groups = s.groups) :
    (completeMember s n g cls last).groups = (finishMember s o m).groups := by
  simp only [completeMember, ho, hm, hp, hc, he, Bool.not_true, Bool.or_self, Bool.false_eq_true, if_false]
  split_ifs
  · rfl
  · exact hl o _

section

variable {s : State} {c n g : Nat} {o : MatOp} {m : Member}
  (ho : (s.mxq.find? fun o => o.id == n) = some o) (hm : (o.mem.find? fun m => m.g == g && !m.fin) = some m)
  (hp : o.perf = true) (hc : o.core = c) (he : earlierOf s o g = false)
include ho hm hp hc he

theorem exec_matrixOpComplete (hop : o.op ≤ 0xA4) :
    ∃ t, exec (.matrixOpComplete c n g) s = .next t ∧ t.groups = (finishMember s o m).groups :=
  ⟨_, rfl, completeMember_groups ho hm hp (by simp [hc, hop]) he fun _ _ => (pmcCount_onlyHomes _ _ _ _).groups⟩

theorem exec_attentionOpComplete (hop : 0xA5 ≤ o.op) :
    ∃ t, exec (.attentionOpComplete c n g) s = .next t ∧ t.groups = (finishMember s o m).groups := by
  refine ⟨_, rfl, completeMember_groups ho hm hp (by simp [hc, hop]) he fun o s => ?_⟩
  have hpmc := (pmcCount_onlyHomes s (clusterPmcs (c / 16)) 0x20 1).groups
  split
  · split_ifs <;> exact hpmc
  · exact hpmc

end

/-- Settles O54: a release by its verdict, the engine by what each opcode makes of the members, and a completion by what the
member's group takes. -/
theorem matrixEngine : Obligations.MatrixEngine := by
  intro s c n g cause fadr r o m ms p k u Takes
  refine ⟨fun hr hc ha => ⟨exec_cinchRelease_disagrees hr hc ha,
    fun hag => ⟨exec_cinchRelease_traps hr hc ha hag, fun hv hroom hq => ?releases⟩⟩, fun ho hh => ?performs,
    fun ho hm hp hc he hf hn => ?completes⟩
  case releases =>
    have hop : (r.arrs.head?.map (·.op)).getD 0 = m.op := by rw [ha]; rfl
    refine ⟨_, releasedOp (rowBound s c r m) r, exec_cinchRelease_releases hr hc ha hag hv hroom hq, ?_, ?_, rfl, hop, rfl, rfl,
      length_releasedOp_mem _ r, fun x hx => goneOn_releaseRdv _ hx⟩
    · rw [releaseRdv_rdvs, rowBound_rdvs]
    · rw [releaseRdv_mxq, rowBound_mxq]
  case performs =>
    obtain ⟨hcore, -⟩ : o.core = c ∧ o.perf = false := by simpa using List.find?_some ho
    obtain ⟨out, hres, hmxq⟩ := performOp_results u o
    have hrow : rowSlot u o.core o.row = rowSlot s c k := by rw [hcore]; exact rowSlot_performOn s o c k
    rw [hrow] at hres
    refine ⟨_, performedWith o out, exec_mxeQueuePerform ho hh, ?_, rfl, rfl, hres.mma, hres.mzro, fun h => ?_, hres.avacc,
      hres.afin, fun h hx r hr => ?_, fun h x hx => ?_⟩
    · rw [markRead_mxq]
      exact hmxq.trans (congrArg (List.map _) (performOn_mxq s o))
    · exact congrArg (markRead · o) (performOp_score u h)
    · have hslot : rowSlot (performOp u o) c k = restRow (rowSlot u o.core o.row) o.mem := hcore ▸ rowSlot_performOp_rest u h
      rw [rowSlot_markRead, show rowSlot (performOp (performOn s o) o) c k = _ from hslot]
      exact restRow_entry _ hx hr
    · refine ⟨rowMember (rowSlot s c k) x, ?_, rowMember_rows _ x⟩
      rw [performedWith, hres.arow h]
      exact List.mem_map_of_mem hx
  case completes =>
    obtain ⟨rfl, -⟩ : m.g = g ∧ m.fin = false := by simpa using List.find?_some hm
    have takes {i : Instr} (hi : ∃ t, exec i s = .next t ∧ t.groups = (finishMember s o m).groups) : Takes i := by
      obtain ⟨t, hexec, hgroups⟩ := hi
      have ht : gAt t m.g = tookResults (gAt s m.g) m p := (congrArg (Store.get · m.g) hgroups).trans (gAt_finishMember o hf)
      refine ⟨t, hexec, fun r j hj => ?_, ?_, ?_⟩
      · rw [ht]
        exact (rdV_writeResults _ hn r hj).trans (by cases m.res.find? _ <;> rfl)
      · rw [ht, findPend_tookResults]
      · rw [ht, flags_tookResults]
    exact ⟨fun hop => takes (exec_matrixOpComplete ho hm hp hc he hop),
      fun hop => takes (exec_attentionOpComplete ho hm hp hc he hop)⟩

end Sys2Proof.Machine

end

/-! QWAIT and LBCL read and clear what their queues report, and BANKM begins to drain a bank (R205, R245, R292, R301). -/

section

namespace Sys2Proof.Machine

open Sys2Proof.Claim

/-! Instructions that close the region (R416). -/

section

variable {s : State} {i : Instr}

theorem held_closed {w : Wait} (hi : exec i s = .next (waitFor (shut s) w)) :
    ∃ t, exec i s = .next t ∧ OnlyFragment (shut s) t ∧
      cf t = { cf s with st := if (cf s).st = .handler then .handler else .waiting, wait := w } :=
  ⟨_, hi, onlyFragment_updCF _ _, by rw [waitFor, cf_updCF, cf_shut]⟩

theorem active_shut (s : State) : active (shut s) = active s := congrArg Frag.mask (cf_shut s)

theorem traps_closed {cause : Nat} {fadr : Quad} (hi : exec i s = .next (raiseAll (shut s) cause fadr)) :
    Traps s (shut s) i cause fadr :=
  fun hst => ⟨_, hi, active_shut s ▸ trapped_raiseAll (by rwa [cf_shut]) cause fadr⟩

theorem WroteUniform.of_shut {t : State} {d : Opnd} {ws : List Word} (h : WroteUniform (shut s) t d ws) :
    WroteUniform s t d ws := by
  have hc : cg (shut s) = { cg s with rgnx := (cg s).rgnx &&& 0x7FFFFFFF#32 } := cg_updCG s _
  cases d with
  | s n =>
    obtain ⟨hs, hv, hp⟩ := h
    rw [hc] at hs hv hp
    exact ⟨hs, hv, hp⟩
  | _ =>
    obtain ⟨hv, hs, hp⟩ := h
    rw [hc] at hv hs hp
    exact ⟨hv, hs, hp⟩

theorem SameFlags.of_shut {t : State} (h : SameFlags (shut s) t) : SameFlags s t := by
  have hc : cg (shut s) = { cg s with rgnx := (cg s).rgnx &&& 0x7FFFFFFF#32 } := cg_updCG s _
  rw [SameFlags, hc] at h
  exact h

/-- An instruction that closes the region and writes s registers once, where it has changed state of its block or of a line
buffer besides. -/
theorem done_wrDst_closed (s : State) (blocks : Store Block) (lbmax : Store Word) (d : Opnd) (ws : List Word) :
    ∃ t, done (updCG { shut s with blocks := blocks, lbmax := lbmax } fun g => wrDst g d ws) = .next t ∧
      t.blocks = blocks ∧ t.lbmax = lbmax ∧ WroteUniform s t d ws ∧ SameFlags s t ∧
      RegFrame (shut s) { t with blocks := s.blocks, lbmax := s.lbmax } := by
  obtain ⟨t, ht, hw, hf, ⟨ht', hothers, hmem⟩, hcg, hfrags, hcf⟩ := done_wrDst { shut s with blocks := blocks, lbmax := lbmax } d ws
  exact ⟨t, ht, by rw [ht'], by rw [ht'], WroteUniform.of_shut hw, SameFlags.of_shut hf,
    ⟨by rw [ht']; rfl, hothers, hmem⟩, hcg, hfrags, hcf⟩

end

/-! QWAIT reads and clears the halts (R301). -/

/-- Word 0 of a QSTAT with HALT and CNT cleared. -/
def qCleared (x : Nat) : Nat := x - b2n (qHalt x) - qCnt x * 2 ^ 16

theorem b2n_qHalt (x : Nat) : b2n (qHalt x) = x % 2 := by
  simp only [b2n, qHalt, bit, Nat.pow_zero, Nat.div_one, beq_iff_eq]
  split_ifs <;> omega

theorem qHalt_qCleared (x : Nat) : qHalt (qCleared x) = false := by
  rw [qHalt, bit, beq_eq_false_iff_ne, qCleared, b2n_qHalt, qCnt, bits]
  omega

theorem qCnt_qCleared (x : Nat) : qCnt (qCleared x) = 0 := by
  rw [qCnt, bits, qCleared, b2n_qHalt, qCnt, bits]
  omega

theorem qstat_lt (s : State) (b q : Nat) : qstat s b q < 2 ^ 64 := BitVec.isLt _

theorem qstat_setQstat (s : State) (b : Nat) {k n : Nat} (hn : n < 2 ^ 64) (q : Nat) :
    qstat (setQstat s b (2 * k) n) b q = if q = k then n else qstat s b q := by
  rw [qstat, setQstat, bAt_updB_self, Store.get_set]
  by_cases h : q = k
  · rw [if_pos (by omega), if_pos h, w64, BitVec.toNat_ofNat, Nat.mod_eq_of_lt hn]
  · rw [if_neg (by omega), if_neg h, qstat]

/-- One queue's halt is cleared. -/
def clearHalt (b : Nat) (s : State) (q : Nat) : State := setQstat s b (2 * q) (qCleared (qstat s b q))

theorem qstat_clearHalts (b : Nat) {l : List Nat} (hl : l.Nodup) (s : State) (q : Nat) :
    qstat (l.foldl (clearHalt b) s) b q = if q ∈ l then qCleared (qstat s b q) else qstat s b q := by
  induction l generalizing s with
  | nil => rfl
  | cons k l ih =>
    obtain ⟨hk, hl⟩ := List.nodup_cons.mp hl
    have hlt : qCleared (qstat s b k) < 2 ^ 64 := by
      have := qstat_lt s b k
      unfold qCleared
      omega
    rw [List.foldl_cons, ih hl, clearHalt, qstat_setQstat s b hlt]
    by_cases h : q = k
    · simp [h, hk]
    · simp [h]

theorem mem_queuesOf {m q : Nat} : q ∈ queuesOf m ↔ q < 4 ∧ bit m q = true := by
  have h4 : q ∈ [0, 1, 2, 3] ↔ q < 4 := by
    simp only [List.mem_cons, List.not_mem_nil, or_false]
    omega
  rw [queuesOf, List.mem_filter, h4]

theorem nodup_queuesOf (m : Nat) : (queuesOf m).Nodup := List.Nodup.filter _ (by decide)

/-- The queues of a mask that are halted. -/
def haltsOf (s : State) (b m : Nat) : List Nat := (queuesOf m).filter fun q => qHalt (qstat s b q)

theorem qwaitTake_eq (s : State) (b m : Nat) : qwaitTake s b m = ((queuesOf m).foldl (clearHalt b) s,
    w32 (((haltsOf s b m).map (2 ^ ·)).sum + ((haltsOf s b m).head?.map fun q => qCause (qstat s b q) * 256).getD 0)) := by
  have hsum : (haltsOf s b m).foldl (fun n q => n + 2 ^ q) 0 = ((haltsOf s b m).map (2 ^ ·)).sum := by
    rw [List.sum_eq_foldl, List.foldl_map]
  rw [← hsum]
  unfold qwaitTake
  dsimp only
  rw [← haltsOf]
  cases haltsOf s b m <;> rfl

theorem clearHalts_blocks (b : Nat) (l : List Nat) (s : State) :
    l.foldl (clearHalt b) s = { s with blocks := (l.foldl (clearHalt b) s).blocks } := by
  induction l generalizing s with
  | nil => rfl
  | cons q l ih => exact ih _

section

variable {s : State} {d : Opnd} {m : BitVec 4}

theorem exec_qwait_waits (h : copiesLeft s s.curG (queuesOf m.toNat) s.nextId (fun _ => true) = true) :
    exec (.qwait d m) s = .next (waitFor (shut s) (.qwait d m.toNat s.nextId)) := if_pos h

theorem exec_qwait_takes (h : copiesLeft s s.curG (queuesOf m.toNat) s.nextId (fun _ => true) = false) :
    exec (.qwait d m) s = done (updCG (qwaitTake (shut s) (blkOf s.curG) m.toNat).1 fun g =>
      wrDst g d [(qwaitTake (shut s) (blkOf s.curG) m.toNat).2]) := if_neg (Bool.eq_false_iff.mp h)

/-- QWAIT where the copies are over. -/
theorem qwait_reads (h : copiesLeft s s.curG (queuesOf m.toNat) s.nextId (fun _ => true) = false) :
    ∃ t, exec (.qwait d m) s = .next t ∧
      WroteUniform s t d [w32 (((haltsOf s (blkOf s.curG) m.toNat).map (2 ^ ·)).sum +
        ((haltsOf s (blkOf s.curG) m.toNat).head?.map fun q => qCause (qstat s (blkOf s.curG) q) * 256).getD 0)] ∧
      (∀ q, q < 4 → qstat t (blkOf s.curG) q =
        if bit m.toNat q then qCleared (qstat s (blkOf s.curG) q) else qstat s (blkOf s.curG) q) ∧
      SameFlags s t ∧ RegFrame (shut s) { t with blocks := s.blocks } := by
  have hq : ∀ q, qstat (shut s) (blkOf s.curG) q = qstat s (blkOf s.curG) q := fun _ => rfl
  rw [exec_qwait_takes h, qwaitTake_eq, clearHalts_blocks]
  obtain ⟨t, ht, hb, hl, hw, hf, hr⟩ := done_wrDst_closed s ((queuesOf m.toNat).foldl (clearHalt (blkOf s.curG)) (shut s)).blocks
    s.lbmax d [w32 (((haltsOf s (blkOf s.curG) m.toNat).map (2 ^ ·)).sum +
        ((haltsOf s (blkOf s.curG) m.toNat).head?.map fun q => qCause (qstat s (blkOf s.curG) q) * 256).getD 0)]
  refine ⟨t, ht, hw, fun q h4 => ?_, hf, ?_⟩
  · have hs := qstat_clearHalts (blkOf s.curG) (nodup_queuesOf m.toNat) (shut s) q
    simp only [hq, mem_queuesOf, h4, true_and] at hs
    rw [qstat, bAt, hb]
    exact hs
  · rw [← hl] at hr
    exact hr

end

/-! LBCL reads and clears the largest magnitude (R292). -/

section

variable {s : State} {d : Opnd} {l : BitVec 2}

theorem exec_lbcl_waits (h : copiesLeft s s.curG [l.toNat] s.nextId (fun m => m.op == 0xB3) = true) :
    exec (.lbcl d l) s = .next (waitFor (shut s) (.lbcl d l.toNat s.nextId)) := if_pos h

theorem exec_lbcl_takes (h : copiesLeft s s.curG [l.toNat] s.nextId (fun m => m.op == 0xB3) = false) :
    exec (.lbcl d l) s = done (updCG { shut s with lbmax := Store.set s.lbmax (4 * coreOf s.curG + l.toNat) 0#32 } fun g =>
      wrDst g d [Store.get s.lbmax (4 * coreOf s.curG + l.toNat)]) := if_neg (Bool.eq_false_iff.mp h)

/-- LBCL where the CPYCs are over. -/
theorem lbcl_reads (h : copiesLeft s s.curG [l.toNat] s.nextId (fun m => m.op == 0xB3) = false) :
    ∃ t, exec (.lbcl d l) s = .next t ∧ WroteUniform s t d [Store.get s.lbmax (4 * coreOf s.curG + l.toNat)] ∧
      (∀ i, Store.get t.lbmax i = if i = 4 * coreOf s.curG + l.toNat then 0#32 else Store.get s.lbmax i) ∧
      SameFlags s t ∧ RegFrame (shut s) { t with lbmax := s.lbmax } := by
  rw [exec_lbcl_takes h]
  obtain ⟨t, ht, hb, hl, hw, hf, hr⟩ := done_wrDst_closed s s.blocks (Store.set s.lbmax (4 * coreOf s.curG + l.toNat) 0#32) d
    [Store.get s.lbmax (4 * coreOf s.curG + l.toNat)]
  rw [← hb] at hr
  exact ⟨t, ht, hw, fun i => by rw [hl, Store.get_set], hf, hr⟩

end

/-! BANKM (R205, R245). -/

section

variable {s : State} {k : BitVec 2} {a : Opnd}

theorem exec_bankm_waits (h32 : (usrc s a).toNat < 32) (hd : (bankAt s (coreOf s.curG) (usrc s a).toNat).drain = true) :
    exec (.bankm k a) s = .next s := if_pos (by simp [h32, hd])

/-- A bank that BANKM refuses: of another block, or one in which a valid ring lies (R245). -/
def bankRefused (s : State) (b : Nat) : Bool :=
  decide (32 ≤ b) || !(bankAt s (coreOf s.curG) b).owned || (bankAt s (coreOf s.curG) b).blk != blkOf s.curG % 4 ||
    ((bankAt s (coreOf s.curG) b).mode == 2 && ringIn s (blkOf s.curG) (placeIn (fifoBanks s (blkOf s.curG)) b))

theorem exec_bankm (hf : flagOpen s 2)
    (hd : ¬((usrc s a).toNat < 32 ∧ (bankAt s (coreOf s.curG) (usrc s a).toNat).drain = true)) :
    exec (.bankm k a) s = if bankRefused s (usrc s a).toNat then .next (raiseAll (shut s) cOPERAND (w64 (usrc s a).toNat))
      else .next (advance (updBank (addPend (shut s) 2 { (default : Pend) with kind := .bank, dst := .nul }).1 (coreOf s.curG)
        (usrc s a).toNat fun x => { x with mode := k.toNat, drain := true, by_ := (s.curG, s.nextId), left := some x.mode })) := by
  unfold flagOpen at hf
  exact (if_neg (by simpa using hd)).trans (if_neg (by simp [hf]))

theorem banks_advance_updBank (u : State) (c b : Nat) (f : Bank → Bank) :
    (advance (updBank u c b f)).banks = Store.upd u.banks (32 * c + b) f := rfl

theorem advance_updBank_frame (u : State) (c b : Nat) (f : Bank → Bank) :
    { advance (updBank u c b f) with banks := u.banks } = advance u := rfl

/-- BANKM of a bank of the block begins its exit action. -/
theorem bankm_drains (hf : flagOpen s 2) (hd : (bankAt s (coreOf s.curG) (usrc s a).toNat).drain = false)
    (hr : bankRefused s (usrc s a).toNat = false) :
    ∃ t, exec (.bankm k a) s = .next t ∧ (Pended (shut s) { t with banks := s.banks } 2 fun p => p.kind = .bank) ∧
      bankAt t (coreOf s.curG) (usrc s a).toNat = { bankAt s (coreOf s.curG) (usrc s a).toNat with
        mode := k.toNat, drain := true, by_ := (s.curG, s.nextId)
        left := some (bankAt s (coreOf s.curG) (usrc s a).toNat).mode } ∧
      ∀ i, i ≠ 32 * coreOf s.curG + (usrc s a).toNat → Store.get t.banks i = Store.get s.banks i := by
  have hp : Pended (shut s) (advance (addPend (shut s) 2 { (default : Pend) with kind := .bank, dst := .nul }).1) 2
      fun p => p.kind = .bank := pended_advance rfl
  have hb : (addPend (shut s) 2 { (default : Pend) with kind := .bank, dst := .nul }).1.banks = s.banks := rfl
  rw [exec_bankm hf (by simp [hd]), hr]
  refine ⟨_, rfl, ?_⟩
  generalize (addPend (shut s) 2 { (default : Pend) with kind := .bank, dst := .nul }).1 = u at hp hb
  have hbanks := banks_advance_updBank u (coreOf s.curG) (usrc s a).toNat fun x =>
    { x with mode := k.toNat, drain := true, by_ := (s.curG, s.nextId), left := some x.mode }
  rw [hb] at hbanks
  refine ⟨?_, ?_, fun i hi => ?_⟩
  · rw [← hb, advance_updBank_frame]
    exact hp
  · rw [bankAt, hbanks, Store.get_upd_self]
    rfl
  · rw [hbanks, Store.get_upd_ne _ _ hi]

end

/-- Settles O42: each instruction by what it finds; the values that it clears are those of `qstat_clearHalts` and of the line
buffer's store. -/
theorem queueWaitsAndBanks : Obligations.QueueWaitsAndBanks := by
  intro s d a m l k c blk halts b x Held
  refine ⟨fun h => ?_, fun h => held_closed (exec_qwait_waits h), lbcl_reads, fun h => held_closed (exec_lbcl_waits h),
    fun hf h32 hd ho hb hring => ?_, fun hf h => traps_closed ?_, exec_bankm_waits⟩
  · obtain ⟨t, ht, hw, hq, hflags, hframe⟩ := qwait_reads (d := d) h
    refine ⟨t, ht, hw, fun q h4 => ?_, fun q h4 => ?_, hflags, hframe⟩
    · rw [hq q h4]
      cases bit m.toNat q <;> simp [qHalt_qCleared, blk]
    · rw [hq q h4]
      cases bit m.toNat q <;> simp [qCnt_qCleared, blk]
  · refine bankm_drains hf hd ?_
    simp only [bankRefused, Bool.or_eq_false_iff, Bool.and_eq_false_imp, decide_eq_false_iff_not, Bool.not_eq_false',
      bne_eq_false_iff_eq, beq_iff_eq]
    exact ⟨⟨⟨by omega, ho⟩, hb⟩, hring⟩
  · have hr : bankRefused s b = true := by
      simp only [bankRefused, Bool.or_eq_true, Bool.and_eq_true, decide_eq_true_iff, Bool.not_eq_true', bne_iff_ne, beq_iff_eq]
      rcases h with h | ⟨-, h | h | h⟩
      · exact .inl (.inl (.inl h))
      · exact .inl (.inl (.inr h))
      · exact .inl (.inr h)
      · exact .inr h
    have hb : ¬(b < 32 ∧ x.drain = true) := by
      rintro ⟨h32, hd⟩
      rcases h with h | ⟨h, -⟩
      · omega
      · rw [h] at hd
        cases hd
    rw [exec_bankm hf hb, if_pos hr]

end Sys2Proof.Machine

end

/-! Writes at the homes where no migration redirects a line and no event table opens: memory holds the bytes last written
(R213, R220, R310). -/

section

namespace Sys2Proof.Machine

open Sys2Proof.Claim

/-! Bytes written over others in order. -/

/-- What each place holds once bytes have been written over what it held: the last byte written to it stays. -/
def written (bs : List (Nat × Byte)) (old : Nat → Byte) (x : Nat) : Byte :=
  match bs.reverse.find? fun e => e.1 == x with
  | some e => e.2
  | none => old x

theorem holdsBytes_iff {s t : State} {bs : List (Nat × Byte)} :
    HoldsBytes s t bs ↔ ∀ x, memByte t x = written bs (memByte s) x := Iff.rfl

theorem written_of_forall_ne {bs : List (Nat × Byte)} {x : Nat} (h : ∀ e ∈ bs, e.1 ≠ x) (old : Nat → Byte) :
    written bs old x = old x := by
  have hn : (bs.reverse.find? fun e => e.1 == x) = none := by simpa [List.find?_eq_none] using h
  rw [written, hn]

theorem written_congr (bs : List (Nat × Byte)) {old new : Nat → Byte} {x : Nat} (h : old x = new x) :
    written bs old x = written bs new x := by rw [written, h, written]

theorem written_cons (e : Nat × Byte) (bs : List (Nat × Byte)) (old : Nat → Byte) (x : Nat) :
    written (e :: bs) old x = written bs (fun y => if y = e.1 then e.2 else old y) x := by
  unfold written
  rw [List.reverse_cons, List.find?_append]
  cases bs.reverse.find? fun e => e.1 == x with
  | some a => rfl
  | none =>
    by_cases h : x = e.1
    · simp [h]
    · simp [h, Ne.symm h]

theorem written_filter {bs : List (Nat × Byte)} {p : Nat × Byte → Bool} {x : Nat} (h : ∀ e ∈ bs, e.1 = x → p e = true)
    (old : Nat → Byte) : written (bs.filter p) old x = written bs old x := by
  have hf : ((bs.filter p).reverse.find? fun e => e.1 == x) = bs.reverse.find? fun e => e.1 == x := by
    rw [← List.filter_reverse, List.find?_filter]
    refine List.find?_congr fun e he => ?_
    by_cases hx : e.1 = x
    · simp [hx, h e (List.mem_reverse.mp he) hx]
    · simp [hx]
  rw [written, hf, written]

theorem get_foldl_set_pairs (bs : List (Nat × Byte)) (m : Store Byte) (x : Nat) :
    Store.get (bs.foldl (fun m e => Store.set m e.1 e.2) m) x = written bs (Store.get m) x := by
  induction bs generalizing m with
  | nil => rfl
  | cons e bs ih =>
    rw [List.foldl_cons, ih, written_cons]
    congr 1
    exact funext fun y => Store.get_set m e.1 y e.2

/-- Bytes put one by one into memory. -/
theorem foldl_memPut (bs : List (Nat × Byte)) (s : State) :
    bs.foldl (fun s e => memPut s e.1 [e.2]) s = { s with mem := bs.foldl (fun m e => Store.set m e.1 e.2) s.mem } := by
  induction bs generalizing s with
  | nil => rfl
  | cons e bs ih => exact ih _

theorem memByte_foldl_memPut (bs : List (Nat × Byte)) (s : State) (x : Nat) :
    memByte (bs.foldl (fun s e => memPut s e.1 [e.2]) s) x = written bs (memByte s) x := by
  rw [foldl_memPut]
  exact get_foldl_set_pairs bs s.mem x

theorem memByte_congr {s t : State} (h : t.mem = s.mem) : memByte t = memByte s := by
  funext x
  rw [memByte, h, memByte]

theorem mem_bytesAt {pa : Nat} {bs : List Byte} {e : Nat × Byte} (h : e ∈ bytesAt pa bs) :
    pa ≤ e.1 ∧ e.1 < pa + bs.length := by
  induction bs generalizing pa with
  | nil => cases h
  | cons b bs ih =>
    rw [List.length_cons]
    rcases List.mem_cons.mp h with rfl | h
    · exact ⟨le_rfl, by dsimp only; omega⟩
    · have := ih h
      omega

/-! Addresses, and where a line is performed without a migration (R212, R220, R344). -/

theorem linePa_lineOf {pa : Nat} (h : pa < 2 ^ 52) : linePa (lineOf pa) + lineOff pa = pa := by
  have hspace : pa / 2 ^ 50 < 4 := by omega
  have hline : pa % 2 ^ 50 / 192 < 2 ^ 48 := by omega
  have hdiv : (pa / 2 ^ 50 * 2 ^ 48 + pa % 2 ^ 50 / 192) / 2 ^ 48 = pa / 2 ^ 50 := by omega
  have hmod : (pa / 2 ^ 50 * 2 ^ 48 + pa % 2 ^ 50 / 192) % 2 ^ 48 = pa % 2 ^ 50 / 192 := by omega
  simp only [linePa, lineOf, lineOff, paSpace, Nat.mod_eq_of_lt hspace, hdiv, hmod]
  omega

theorem redirectLine_still {s : State} (h : s.migs = []) (line : Nat) : redirectLine s line = line := by
  rw [redirectLine, h]
  rfl

theorem homeByte_still {s : State} (h : s.migs = []) {pa : Nat} (hpa : pa < 2 ^ 52) : homeByte s pa = memByte s pa := by
  rw [homeByte, redirectLine_still h, linePa_lineOf hpa]

theorem filterSet_still {s : State} (h : s.migs = []) (line : Nat) : filterSet s line = s := by
  rw [filterSet, h, List.map_nil, ← h]

/-! What such a write changes. -/

/-- From s to t only memory, the lines of the L2 with their eviction maxima, and the count of free values may differ. -/
def OnlyWritten (s t : State) : Prop := t = { s with mem := t.mem, l2 := t.l2, evmax := t.evmax, fresh := t.fresh }

theorem OnlyWritten.refl (s : State) : OnlyWritten s s := rfl

theorem OnlyWritten.trans {s t u : State} (h : OnlyWritten s t) (k : OnlyWritten t u) : OnlyWritten s u := by
  unfold OnlyWritten at *
  rw [k, h]

theorem OnlyWritten.migs {s t : State} (h : OnlyWritten s t) : t.migs = s.migs := by rw [show t = _ from h]
theorem OnlyWritten.gt {s t : State} (h : OnlyWritten s t) : t.gt = s.gt := by rw [show t = _ from h]
theorem OnlyWritten.ctxs {s t : State} (h : OnlyWritten s t) : t.ctxs = s.ctxs := by rw [show t = _ from h]

theorem foldl_memPut_onlyWritten (bs : List (Nat × Byte)) (s : State) :
    OnlyWritten s (bs.foldl (fun s e => memPut s e.1 [e.2]) s) := by
  rw [foldl_memPut]
  rfl

theorem l2Hold_frame (s : State) (line : Nat) :
    l2Hold s line = { s with l2 := (l2Hold s line).l2, evmax := (l2Hold s line).evmax, fresh := (l2Hold s line).fresh } := by
  unfold l2Hold
  dsimp only
  split
  · rfl
  · split
    · rfl
    · split
      · rfl
      · split_ifs <;> rfl

theorem l2Hold_onlyWritten (s : State) (line : Nat) : OnlyWritten s (l2Hold s line) := by
  rw [l2Hold_frame]
  rfl

section

variable {s : State} (hs : s.migs = [])

include hs

theorem perform_onlyWritten (line : Nat) (bs : List (Nat × Byte)) : OnlyWritten s (perform s line bs).1 := by
  unfold perform
  dsimp only
  split_ifs
  · exact foldl_memPut_onlyWritten _ s
  · have h : OnlyWritten s (homeBytes (l2Hold s (redirectLine s line)) (redirectLine s line)
        (bs.map fun e => (linePa (redirectLine s line) + lineOff e.1, e.2))) :=
      ((l2Hold_onlyWritten s _).trans (foldl_memPut_onlyWritten _ _)).trans rfl
    rwa [filterSet_still (h.migs.trans hs)]

/-- A write of one line at its own place. -/
theorem memByte_perform {line : Nat} {bs : List (Nat × Byte)} (hbs : ∀ e ∈ bs, lineOf e.1 = line ∧ e.1 < 2 ^ 52) (x : Nat) :
    memByte (perform s line bs).1 x = written bs (memByte s) x := by
  have hmap : (bs.map fun e => (linePa line + lineOff e.1, e.2)) = bs := by
    refine (List.map_congr_left fun e he => ?_).trans (List.map_id bs)
    obtain ⟨hl, hpa⟩ := hbs e he
    rw [← hl, linePa_lineOf hpa]
    rfl
  unfold perform
  dsimp only
  rw [redirectLine_still hs, hmap]
  split_ifs
  · exact memByte_foldl_memPut bs s x
  · have h := ((l2Hold_onlyWritten s line).trans (foldl_memPut_onlyWritten bs _)).migs.trans hs
    have hmem : memByte (l2Hold s line) = memByte s := memByte_congr (by rw [l2Hold_frame])
    rw [filterSet_still (s := homeBytes (l2Hold s line) line bs) h, ← hmem]
    exact memByte_foldl_memPut bs _ x

omit hs in
theorem lt_perform_time (line : Nat) (bs : List (Nat × Byte)) : s.gt < (perform s line bs).2 := by
  have hc : ∀ (u : State) (l : Nat), u.gt < completion u l := fun u l => Nat.lt_succ_of_le (Nat.le_max_left _ _)
  unfold perform
  dsimp only
  split_ifs
  · exact hc s _
  · refine lt_of_eq_of_lt ?_ (hc _ _)
    rw [l2Hold_frame]

end

/-! Writes of several lines. -/

/-- One line of a write of several. -/
def performLine (bs : List (Nat × Byte)) (acc : State × Nat) (l : Nat) : State × Nat :=
  let p := perform acc.1 l (bs.filter fun e => lineOf e.1 == l)
  (p.1, Nat.max acc.2 p.2)

theorem performAll_eq (s : State) (bs : List (Nat × Byte)) :
    performAll s bs = (distinct (bs.map fun e => lineOf e.1)).foldl (performLine bs) (s, 0) := rfl

section

variable {bs : List (Nat × Byte)} {ls : List Nat} {acc : State × Nat}

theorem performLine_onlyWritten (h : acc.1.migs = []) (l : Nat) : OnlyWritten acc.1 (performLine bs acc l).1 :=
  perform_onlyWritten h l _

theorem foldl_performLine_onlyWritten (h : acc.1.migs = []) : OnlyWritten acc.1 (ls.foldl (performLine bs) acc).1 := by
  induction ls generalizing acc with
  | nil => exact .refl _
  | cons l ls ih =>
    have hl := performLine_onlyWritten (bs := bs) h l
    exact hl.trans (ih (hl.migs.trans h))

theorem memByte_foldl_performLine (h : acc.1.migs = []) (hbs : ∀ e ∈ bs, e.1 < 2 ^ 52) (hls : ls.Nodup) (x : Nat) :
    memByte (ls.foldl (performLine bs) acc).1 x =
      if lineOf x ∈ ls then written bs (memByte acc.1) x else memByte acc.1 x := by
  induction ls generalizing acc with
  | nil => rfl
  | cons l ls ih =>
    obtain ⟨hl, hls⟩ := List.nodup_cons.mp hls
    have hp : memByte (performLine bs acc l).1 x = if lineOf x = l then written bs (memByte acc.1) x else memByte acc.1 x := by
      refine (memByte_perform h (fun e he => ?_) x).trans ?_
      · obtain ⟨hmem, hline⟩ := List.mem_filter.mp he
        exact ⟨by simpa using hline, hbs e hmem⟩
      · split_ifs with hx
        · exact written_filter (fun e _ he => by simp [he, hx]) _
        · refine written_of_forall_ne (fun e he hex => hx ?_) _
          have := (List.mem_filter.mp he).2
          rw [← hex]
          simpa using this
    have hmigs : (performLine bs acc l).1.migs = [] := (performLine_onlyWritten h l).migs.trans h
    rw [List.foldl_cons]
    rw [ih hmigs hls]
    by_cases hx : lineOf x = l
    · rw [if_neg (hx ▸ hl), hp, if_pos hx, if_pos (hx ▸ List.mem_cons_self)]
    · rw [if_neg hx] at hp
      rw [written_congr bs hp, hp]
      simp [hx]

end

section

variable {s : State} {bs : List (Nat × Byte)} (hs : s.migs = [])

include hs

theorem performAll_onlyWritten (bs : List (Nat × Byte)) : OnlyWritten s (performAll s bs).1 := by
  rw [performAll_eq]
  exact foldl_performLine_onlyWritten hs

/-- Bytes written at their homes are what memory then holds. -/
theorem performAll_holds (hbs : ∀ e ∈ bs, e.1 < 2 ^ 52) : HoldsBytes s (performAll s bs).1 bs := by
  rw [holdsBytes_iff, performAll_eq]
  obtain ⟨hnodup, hmem⟩ := distinct_spec (bs.map fun e => lineOf e.1)
  intro x
  rw [memByte_foldl_performLine hs hbs hnodup]
  split_ifs with hx
  · rfl
  · refine (written_of_forall_ne (fun e he hex => hx ?_) _).symm
    rw [hmem, ← hex]
    exact List.mem_map_of_mem he

theorem homePut_onlyWritten (pa : Nat) (bs : List Byte) : OnlyWritten s (homePut s pa bs) := performAll_onlyWritten hs _

theorem homePut_holds {pa : Nat} {bs : List Byte} (h : pa + bs.length ≤ 2 ^ 52) : HoldsBytes s (homePut s pa bs) (bytesAt pa bs) :=
  performAll_holds hs fun e he => by have := mem_bytesAt he; omega

end

section

variable {s : State} {bs : List (Nat × Byte)}

theorem le_foldl_performLine_time (bs : List (Nat × Byte)) (ls : List Nat) (acc : State × Nat) :
    acc.2 ≤ (ls.foldl (performLine bs) acc).2 := by
  induction ls generalizing acc with
  | nil => exact le_rfl
  | cons l ls ih =>
    have hl : acc.2 ≤ (performLine bs acc l).2 := Nat.le_max_left _ _
    exact hl.trans (ih _)

/-- A write of some bytes completes after the present time (R248). -/
theorem lt_performAll_time (h : bs ≠ []) : s.gt < (performAll s bs).2 := by
  obtain ⟨-, hmem⟩ := distinct_spec (bs.map fun e => lineOf e.1)
  rw [performAll_eq]
  cases hls : distinct (bs.map fun e => lineOf e.1) with
  | nil =>
    obtain ⟨e, he⟩ := List.exists_mem_of_ne_nil bs h
    have := (hmem (lineOf e.1)).mpr (List.mem_map_of_mem he)
    rw [hls] at this
    cases this
  | cons l ls =>
    have hl : s.gt < (performLine bs (s, 0) l).2 := (lt_perform_time l _).trans_le (Nat.le_max_right _ _)
    exact hl.trans_le (le_foldl_performLine_time bs ls _)

/-- Where no event table is open no write meets one. -/
theorem openEvents_still (h : ∀ e ∈ s.ctxs, e.2.evpages = []) (to_ : Nat → Nat) (pas : List Nat) : openEvents s to_ pas = s := by
  have hn : (pas.filter fun pa => s.ctxs.any fun c => (c.2.st == 1 || c.2.st == 2) && inEventTable c.2 pa) = [] := by
    rw [List.filter_eq_nil_iff]
    intro pa _
    simp only [List.any_eq_true, Bool.and_eq_true, not_exists, not_and]
    intro e he _
    simp [inEventTable, h e he]
  unfold openEvents
  rw [hn]
  rfl

theorem putPlaces_plain (h : Plain s) : putPlaces s none bs = performAll s bs := by
  have hw := performAll_onlyWritten h.1 bs
  have he : openEvents (performAll s bs).1 (homePa (performAll s bs).1) (bs.map (·.1)) = (performAll s bs).1 :=
    openEvents_still (hw.ctxs ▸ h.2) _ _
  exact Prod.ext he rfl

end

end Sys2Proof.Machine

end

/-! Fault batches, record rings and bank drains (R205, R277 to R279, R422, R451). -/

section

namespace Sys2Proof.Machine

open Sys2Proof.Claim

/-! What the statement's parts share: a signalled vector, a completed operation, the entries that a table keeps. -/

theorem bit_or_two_pow (x v : Nat) : bit (x ||| 2 ^ v) v = true := by
  have h : (x ||| 2 ^ v).testBit v = true := by rw [Nat.testBit_or, Nat.testBit_two_pow_self, Bool.or_true]
  rw [Nat.testBit_eq_decide_div_mod_eq, decide_eq_true_iff] at h
  rw [bit, h]
  rfl

theorem findPend_dropPend_self (s : State) (g id : Nat) : findPend (gAt (dropPend s g id) g) id = none := by
  rw [dropPend, gAt_updG_self]
  cases h : findPend (gAt s g) id with
  | none => exact h
  | some p => simp [findPend, orFl]

theorem Store.get_keep {α : Type} [Inhabited α] (m : Store α) (p : Nat → Bool) (j : Nat) :
    Store.get (Store.keep m p) j = if p j then Store.get m j else default := by
  induction m with
  | nil => simp [Store.keep]
  | cons e m ih =>
    obtain ⟨k, v⟩ := e
    have hkeep : Store.keep ((k, v) :: m) p = if p k then (k, v) :: Store.keep m p else Store.keep m p := List.filter_cons
    rw [hkeep]
    by_cases hk : k = j
    · subst hk
      cases hp : p k <;> simp [Store.get, ih, hp]
    · cases p k <;> simp [Store.get, ih, hk]

theorem holdsBytes_congr {s s' t t' : State} {bs : List (Nat × Byte)} (h : HoldsBytes s t bs) (hs : s'.mem = s.mem)
    (ht : t'.mem = t.mem) : HoldsBytes s' t' bs := by
  rw [holdsBytes_iff, memByte_congr hs, memByte_congr ht]
  exact h

/-! Batches (R277, R278). -/

/-- The range of one record. -/
def oneRange (r : FaultRec) : Range := ⟨r.ctx, r.page, r.page, 1, kindBits r.kind⟩

/-- A batch that closes. -/
theorem closeBatch_closes (s : State) (r : FaultRec) : closeBatch s = { s with fq := (closeBatch s).fq } ∧
    (closeBatch s).fq.opened = [] ∧ (closeBatch s).fq.held = s.fq.opened.length ∧
    (closeBatch s).fq.waiting = s.fq.waiting ∧
    (s.fq.opened = [r] → (closeBatch s).fq.deliver = [(oneRange r).bytes s.gt]) :=
  ⟨rfl, rfl, rfl, rfl, fun h => by simp only [closeBatch, h]; rfl⟩

theorem batchTimed_iff (s : State) : batchTimed s = true ↔ s.fq.opened ≠ [] ∧ s.fq.since + s.fq.tmr ≤ s.gt := by
  simp [batchTimed]

theorem batchFull_iff (s : State) : batchFull s = true ↔ s.fq.opened ≠ [] ∧ s.fq.cnt ≤ s.fq.opened.length := by
  simp [batchFull, and_comm]

section

variable {s : State}

theorem exec_faultBatchTimeout (hd : s.fq.deliver = []) (h : batchTimed s = true) :
    exec .faultBatchTimeout s = .next (closeBatch s) := congrArg _ (if_pos (by simp [hd, h]))

theorem exec_faultBatchFull (hd : s.fq.deliver = []) (h : batchFull s = true) :
    exec .faultBatchFull s = .next (closeBatch s) := congrArg _ (if_pos (by simp [hd, h]))

end

/-! Delivery (R278, R279). -/

section

variable {s : State} {bs : List Byte}

/-- The state when the last range of a batch has been written. -/
def delivered (s : State) (bs : List Byte) : State :=
  homePut { s with fring := s.fring.place.2, fq := { s.fq with deliver := [] } } s.fring.place.1 bs

theorem deliverRanges_one (h : s.fq.deliver = [bs]) (hroom : s.fring.room = true) : deliverRanges s 1 = delivered s bs := by
  rw [deliverRanges, h]
  exact if_pos hroom

theorem delivered_onlyWritten (hs : s.migs = []) (bs : List Byte) :
    OnlyWritten { s with fring := s.fring.place.2, fq := { s.fq with deliver := [] } } (delivered s bs) :=
  homePut_onlyWritten (s := { s with fring := s.fring.place.2, fq := { s.fq with deliver := [] } }) hs _ _

theorem fq_delivered (hs : s.migs = []) (bs : List Byte) : (delivered s bs).fq = { s.fq with deliver := [] } := by
  rw [show delivered s bs = _ from delivered_onlyWritten hs bs]

/-- With no batch open and no record waiting, a delivered batch signals its vector. -/
theorem exec_faultDelivery (h : s.fq.deliver = [bs]) (hroom : s.fring.room = true) (hw : s.fq.waiting = [])
    (ho : s.fq.opened = []) (hs : s.migs = []) : exec .faultDelivery s =
      .next (interrupt { delivered s bs with fq := { s.fq with deliver := [], held := 0 } } 0) := by
  have hfq := fq_delivered hs bs
  show execFaultDelivery s = _
  rw [execFaultDelivery, h, List.length_singleton, deliverRanges_one h hroom]
  simp [hfq, ho, hw, batchTimed, batchFull, acceptWaiting]

end

/-! Record rings (R422, R451). -/

section

variable {s : State} {k : Nat} {bs : List Byte}

@[simp] theorem ringOf_setRing (s : State) (k : Nat) (r : RecRing) : ringOf (setRing s k r) k = r :=
  match k with
  | 0 => rfl
  | 1 => rfl
  | _ + 2 => rfl

theorem setRing_setRing (s : State) (k : Nat) (r r' : RecRing) : setRing (setRing s k r) k r' = setRing s k r' :=
  match k with
  | 0 => rfl
  | 1 => rfl
  | _ + 2 => rfl

theorem setRing_frame (s : State) (k : Nat) (r : RecRing) : setRing s k r =
    { s with fring := (setRing s k r).fring, vring := (setRing s k r).vring, lring := (setRing s k r).lring } :=
  match k with
  | 0 => rfl
  | 1 => rfl
  | _ + 2 => rfl

theorem HomeWrites.ringOf {s t : State} (h : HomeWrites s t) (k : Nat) : ringOf t k = Machine.ringOf s k := by
  rw [show t = _ from h.frame]
  rfl

/-- A record is written at the tail. -/
theorem ringOf_ringWrite (s : State) (k : Nat) (bs : List Byte) :
    ringOf (ringWrite s k bs) k = { ringOf s k with tail := (ringOf s k).tail + 1#32 } := by
  have h : HomeWrites (setRing s k (ringOf s k).place.2) (homePut (setRing s k (ringOf s k).place.2) (ringOf s k).place.1 bs) :=
    performAll_homeWrites _ _
  have hr := h.ringOf k
  rw [ringOf_setRing] at hr
  exact hr

theorem ringFlush_succ (n : Nat) {rest : List (List Byte)} (h : (ringOf s k).buf = bs :: rest) :
    ringFlush s k (n + 1) = if (ringOf s k).room then
      ringFlush (ringWrite (setRing s k { ringOf s k with buf := rest }) k bs) k n else s := by
  rw [ringFlush, h]

theorem ringFlush_nil (n : Nat) (h : (ringOf s k).buf = []) : ringFlush s k n = s := by
  cases n with
  | zero => rfl
  | succ n => rw [ringFlush, h]

/-- The waiting records leave the head as it is. -/
theorem head_ringFlush (n : Nat) (s : State) : (ringOf (ringFlush s k n) k).head = (ringOf s k).head := by
  induction n generalizing s with
  | zero => rfl
  | succ n ih =>
    cases hb : (ringOf s k).buf with
    | nil => rw [ringFlush_nil _ hb]
    | cons bs rest =>
      rw [ringFlush_succ n hb]
      split_ifs
      · rw [ih, ringOf_ringWrite, ringOf_setRing]
      · rfl

/-- A ring's record goes to its place, and its vector is signalled. -/
theorem ringWrite_holds (hs : s.migs = []) (h : (ringOf s k).place.1 + bs.length ≤ 2 ^ 50) :
    HoldsBytes s (ringWrite s k bs) (bytesAt (ringOf s k).place.1 bs) ∧ bit (ringWrite s k bs).msix k = true := by
  have hm : (setRing s k (ringOf s k).place.2).migs = [] := by rw [setRing_frame, hs]
  exact ⟨holdsBytes_congr (homePut_holds hm (by omega)) (by rw [setRing_frame]) rfl, bit_or_two_pow _ _⟩

/-- The head of a ring moves, and what waits is written while there is room. -/
def freeRing (s : State) (k : Nat) (v : Word) : State :=
  ringFlush (setRing s k { ringOf s k with head := v }) k (ringOf s k).buf.length

theorem head_freeRing (s : State) (k : Nat) (v : Word) : (ringOf (freeRing s k v) k).head = v := by
  rw [freeRing, head_ringFlush, ringOf_setRing]

theorem freeRing_empty (v : Word) (h : (ringOf s k).buf = []) : freeRing s k v = setRing s k { ringOf s k with head := v } :=
  ringFlush_nil _ (by rw [ringOf_setRing, h])

/-- The one record that waits for room is written. -/
theorem freeRing_one {v : Word} (h : (ringOf s k).buf = [bs]) (hroom : { ringOf s k with head := v }.room = true) :
    freeRing s k v = ringWrite (setRing s k { ringOf s k with head := v, buf := [] }) k bs := by
  rw [freeRing, h, List.length_singleton, ringFlush_succ 0 (rest := []) (by rw [ringOf_setRing]; exact h), ringOf_setRing,
    if_pos hroom, setRing_setRing]
  rfl

end

theorem exec_vrheadWrite {s : State} (v : Word) (h : s.hostq = []) : exec (.vrheadWrite v) s = .next (freeRing s 1 v) :=
  if_pos (by rw [h]; rfl)

theorem exec_lerheadWrite {s : State} (v : Word) (h : s.hostq = []) : exec (.lerheadWrite v) s = .next (freeRing s 2 v) :=
  if_pos (by rw [h]; rfl)

/-! The exit action of a bank (R205). -/

section

variable {s : State} {c k : Nat}

theorem bankAt_updBank_self (s : State) (c k : Nat) (f : Bank → Bank) : bankAt (updBank s c k f) c k = f (bankAt s c k) :=
  Store.get_upd_self _ _ _

theorem writeBack_frame (s : State) (b k set : Nat) : writeBack s b k set = { s with
    hw := (writeBack s b k set).hw, l1 := (writeBack s b k set).l1, nextId := (writeBack s b k set).nextId } := by
  unfold writeBack
  dsimp only
  split_ifs <;> rfl

theorem bankAt_dropPend (s : State) (g id c k : Nat) : bankAt (dropPend s g id) c k = bankAt s c k := rfl

/-- The write-backs of a bank. -/
def writeBacks (s : State) (b k : Nat) : State := (List.range 256).foldl (fun s t => writeBack s b k t) s

theorem foldl_writeBack_frame (b k : Nat) (l : List Nat) (s : State) : ∃ hw l1 id,
    l.foldl (fun s t => writeBack s b k t) s = { s with hw := hw, l1 := l1, nextId := id } := by
  induction l generalizing s with
  | nil => exact ⟨_, _, _, rfl⟩
  | cons t l ih =>
    obtain ⟨hw, l1, id, h⟩ := ih (writeBack s b k t)
    refine ⟨hw, l1, id, h.trans ?_⟩
    rw [writeBack_frame]

theorem exec_bankDrainComplete_begins {old : Nat} (hd : (bankAt s c k).drain = true) (hl : (bankAt s c k).left = some old)
    (hb : bankBusy s c k (bankAt s c k).by_.2 = false) : ∃ u, exec (.bankDrainComplete c k) s =
      .next (updBank u c k fun x => { x with left := none, bound := u.nextId }) ∧
      u = if old = 0 then dropBank (writeBacks s (4 * c + (bankAt s c k).blk) k) c k else s := by
  refine ⟨_, ?_, rfl⟩
  show execBankDrainComplete c k s = _
  rw [execBankDrainComplete]
  simp only [hd, hl, hb]
  rfl

theorem exec_bankDrainComplete_ends (hd : (bankAt s c k).drain = true) (hl : (bankAt s c k).left = none)
    (hb : bankWb s (4 * c + (bankAt s c k).blk) (bankAt s c k).bound = false) : exec (.bankDrainComplete c k) s =
      .next (dropPend (updBank { s with ls := Store.keep s.ls fun i => i / 49152 != 32 * c + k } c k fun x =>
        { x with drain := false, by_ := (0, 0), bound := 0 }) (bankAt s c k).by_.1 (bankAt s c k).by_.2) := by
  show execBankDrainComplete c k s = _
  rw [execBankDrainComplete]
  simp only [hd, hl, hb]
  rfl

/-- A draining bank whose earlier accesses are done begins its exit action. -/
theorem bankDrain_begins {old : Nat} (hd : (bankAt s c k).drain = true) (hl : (bankAt s c k).left = some old)
    (hb : bankBusy s c k (bankAt s c k).by_.2 = false) : ∃ t, exec (.bankDrainComplete c k) s = .next t ∧
      bankAt t c k = { bankAt s c k with left := none, bound := t.nextId } ∧ t.mem = s.mem ∧
      (old ≠ 0 → t.hw = s.hw ∧ t.l1 = s.l1) ∧
      (old = 0 → ∀ j, j / 256 = 32 * c + k → (Store.get t.l1 j).v = false) := by
  obtain ⟨u, hu, hdef⟩ := exec_bankDrainComplete_begins hd hl hb
  obtain ⟨hw, l1, id, hf⟩ := foldl_writeBack_frame (4 * c + (bankAt s c k).blk) k (List.range 256) s
  refine ⟨_, hu, ?_⟩
  rw [bankAt_updBank_self]
  by_cases h0 : old = 0
  · rw [if_pos h0, writeBacks, hf] at hdef
    subst hdef
    refine ⟨rfl, rfl, fun h => absurd h0 h, fun _ j hj => ?_⟩
    show (Store.get (Store.keep l1 fun i => i / 256 != 32 * c + k) j).v = false
    rw [Store.get_keep, if_neg (by simp [hj])]
    rfl
  · rw [if_neg h0] at hdef
    subst hdef
    exact ⟨rfl, rfl, fun _ => ⟨rfl, rfl⟩, fun h => absurd h h0⟩

/-- A drained bank reads zero, and its operation is complete. -/
theorem bankDrain_ends (hd : (bankAt s c k).drain = true) (hl : (bankAt s c k).left = none)
    (hb : bankWb s (4 * c + (bankAt s c k).blk) (bankAt s c k).bound = false) :
    ∃ t, exec (.bankDrainComplete c k) s = .next t ∧
      bankAt t c k = { bankAt s c k with drain := false, by_ := (0, 0), bound := 0 } ∧
      (∀ j, Store.get t.ls j = if j / 49152 = 32 * c + k then 0#8 else Store.get s.ls j) ∧
      findPend (gAt t (bankAt s c k).by_.1) (bankAt s c k).by_.2 = none := by
  refine ⟨_, exec_bankDrainComplete_ends hd hl hb, ?_, fun j => ?_, findPend_dropPend_self _ _ _⟩
  · rw [bankAt_dropPend, bankAt_updBank_self]
    rfl
  · refine (Store.get_keep s.ls (fun i => i / 49152 != 32 * c + k) j).trans ?_
    by_cases h : j / 49152 = 32 * c + k
    · simp only [h, bne_self_eq_false, if_true]
      rfl
    · simp [h]

end

/-- A ring whose head the host has moved takes a record that waits. -/
theorem freeRing_frees (s : State) (v : Word) (k : Nat) (bs : List Byte) : (ringOf (freeRing s k v) k).head = v ∧
    ((ringOf s k).buf = [] → freeRing s k v = setRing s k { ringOf s k with head := v }) ∧
    ((ringOf s k).buf = [bs] → { ringOf s k with head := v }.room = true → s.migs = [] →
      (ringOf s k).place.1 + bs.length ≤ 2 ^ 50 → HoldsBytes s (freeRing s k v) (bytesAt (ringOf s k).place.1 bs) ∧
      (ringOf (freeRing s k v) k).tail = (ringOf s k).tail + 1#32 ∧ (ringOf (freeRing s k v) k).buf = [] ∧
      bit (freeRing s k v).msix k = true) := by
  refine ⟨head_freeRing s k v, freeRing_empty v, fun hb hroom hs hplace => ?_⟩
  have hm : (setRing s k { ringOf s k with head := v, buf := [] }).migs = [] := by rw [setRing_frame, hs]
  rw [freeRing_one hb hroom, ringOf_ringWrite, ringOf_setRing]
  obtain ⟨hmem, hmsix⟩ := ringWrite_holds (k := k) (bs := bs) hm (by rw [ringOf_setRing]; exact hplace)
  rw [ringOf_setRing] at hmem
  exact ⟨holdsBytes_congr hmem (by rw [setRing_frame]) rfl, rfl, rfl, hmsix⟩

/-- The last range of a batch at the tail of its ring. -/
theorem faultDelivery_delivers {s : State} {bs : List Byte} (h : s.fq.deliver = [bs]) (hroom : s.fring.room = true)
    (hw : s.fq.waiting = []) (ho : s.fq.opened = []) (hs : s.migs = []) (hp : s.fring.place.1 + bs.length ≤ 2 ^ 50) :
    ∃ t, exec .faultDelivery s = .next t ∧ HoldsBytes s t (bytesAt s.fring.place.1 bs) ∧
      t.fring = { s.fring with tail := s.fring.tail + 1#32 } ∧ t.fq = { s.fq with deliver := [], held := 0 } ∧
      bit t.msix 0 = true ∧
      t = { s with mem := t.mem, fring := t.fring, fq := t.fq, msix := t.msix, l2 := t.l2, evmax := t.evmax, fresh := t.fresh } := by
  have hd := delivered_onlyWritten hs bs
  have hholds : HoldsBytes s (delivered s bs) (bytesAt s.fring.place.1 bs) :=
    holdsBytes_congr (homePut_holds (s := { s with fring := s.fring.place.2, fq := { s.fq with deliver := [] } }) hs
      (by omega)) rfl rfl
  refine ⟨_, exec_faultDelivery h hroom hw ho hs, holdsBytes_congr hholds rfl rfl, ?_, rfl, bit_or_two_pow _ _, ?_⟩
  · show (delivered s bs).fring = _
    rw [show delivered s bs = _ from hd]
    rfl
  · rw [show delivered s bs = _ from hd]
    rfl

/-- Settles O52: batches by `closeBatch_closes`, deliveries and rings by the bytes that `homePut` leaves, banks by the two
steps of their exit action. -/
theorem faultQueuesAndDrains : Obligations.FaultQueuesAndDrains := by
  intro s v c k old r bs one Closes place Frees x
  refine ⟨fun hd => ⟨fun ho hdue => ?_, fun ho hdue => ?_⟩, fun hd hroom hw ho hs hp =>
    faultDelivery_delivers hd hroom hw ho hs hp, fun h => if_pos (by rw [h]; rfl), ?_, ?_, fun h => ?_, bankDrain_begins, bankDrain_ends⟩
  · exact ⟨_, exec_faultBatchTimeout hd ((batchTimed_iff s).mpr ⟨ho, hdue⟩), closeBatch_closes s r⟩
  · exact ⟨_, exec_faultBatchFull hd ((batchFull_iff s).mpr ⟨ho, hdue⟩), closeBatch_closes s r⟩
  · exact fun h => ⟨_, exec_vrheadWrite v h, freeRing_frees s v 1 bs⟩
  · exact fun h => ⟨_, exec_lerheadWrite v h, freeRing_frees s v 2 bs⟩
  · have hq : s.hostq.isEmpty = false := by simpa using h
    exact ⟨if_neg (by simp [hq]), if_neg (by simp [hq]), if_neg (by simp [hq])⟩

end Sys2Proof.Machine

end

/-! The homes serve reads and perform writes, the host's accesses are served there, and the caches of translations take and
lose entries (R209, R213, R248, R259, R350, R352, R452, R453). -/

section

namespace Sys2Proof.Machine

open Sys2Proof.Claim

theorem findPend_updPend_self (s : State) (g id : Nat) {f : Pend → Pend} (hf : ∀ p, (f p).id = p.id) :
    findPend (gAt (updPend s g id f) g) id = (findPend (gAt s g) id).map f := by
  rw [updPend, gAt_updG_self, findPend, findPend]
  induction (gAt s g).pend with
  | nil => rfl
  | cons p ps ih =>
    rw [List.map_cons]
    by_cases hp : p.id = id
    · rw [List.find?_cons_of_pos (by simp [hp, hf]), List.find?_cons_of_pos (by simp [hp])]
      simp [hp]
    · rw [List.find?_cons_of_neg (by simp [hp]), List.find?_cons_of_neg (by simp [hp]), ih]

/-! A request meets its line at the home (R213, R214, R405). -/

theorem homeMeet_onlyHomes (s : State) (b slot line : Nat) (as : List Acc) : OnlyHomes s (homeMeet s b slot line as) := by
  unfold homeMeet
  dsimp only
  split_ifs
  · exact .refl s
  · split
    · exact (l2Meet_onlyHomes s _ _).trans (pinPl_onlyHomes _ _ _ _ _)
    · exact l2Meet_onlyHomes s _ _

theorem reqMeet_onlyHomes (s : State) (r : HomeReq) : OnlyHomes s (reqMeet s r) := by
  unfold reqMeet
  cases r.blk with
  | none => exact .refl s
  | some b => exact homeMeet_onlyHomes s _ _ _ _

/-! Reads (R209, R213). -/

section

variable {s : State}

theorem OnlyHomes.mergeDirty {t : State} (h : OnlyHomes s t) (b pa n : Nat) :
    Machine.mergeDirty t b pa n = Machine.mergeDirty s b pa n := by
  rw [show t = _ from h]
  rfl

/-- From s to t neither memory nor what belongs to the groups differs. -/
def SameMemGroups (s t : State) : Prop := t.mem = s.mem ∧ t.groups = s.groups

theorem SameMemGroups.trans {s t u : State} (h : SameMemGroups s t) (k : SameMemGroups t u) : SameMemGroups s u :=
  ⟨k.1.trans h.1, k.2.trans h.2⟩

theorem SameMemGroups.foldl {α : Type} {f : State → α → State} (h : ∀ s a, SameMemGroups s (f s a)) (l : List α) (s : State) :
    SameMemGroups s (l.foldl f s) := by
  induction l generalizing s with
  | nil => exact ⟨rfl, rfl⟩
  | cons a l ih => exact (h s a).trans (ih _)

theorem OnlyHomes.sameMemGroups {t : State} (h : OnlyHomes s t) : SameMemGroups s t := ⟨h.mem, h.groups⟩

theorem writeBack_sameMemGroups (s : State) (b k set : Nat) : SameMemGroups s (writeBack s b k set) := by
  rw [writeBack_frame]
  exact ⟨rfl, rfl⟩

theorem aged_sameMemGroups (s : State) (c t up : Nat) (l : List Nat) : SameMemGroups s
    (l.foldl (fun s j => let x := l1At s c j t; setL1 s c j t { x with rrpv := x.rrpv + up }) s) := by
  refine SameMemGroups.foldl (fun _ _ => ?_) l s
  exact ⟨rfl, rfl⟩

theorem l1Alloc_sameMemGroups (s : State) (b line rrpv : Nat) : SameMemGroups s (l1Alloc s b line rrpv).1 := by
  unfold l1Alloc
  split
  · exact ⟨rfl, rfl⟩
  · split
    · exact ⟨rfl, rfl⟩
    · dsimp only
      split_ifs
      · exact (writeBack_sameMemGroups s _ _ _).trans ⟨rfl, rfl⟩
      · exact (aged_sameMemGroups s _ _ _ _).trans ((writeBack_sameMemGroups _ _ _ _).trans ⟨rfl, rfl⟩)

theorem l1Fill_sameMemGroups (s : State) (b line lease rrpv sectors : Nat) :
    SameMemGroups s (l1Fill s b line lease rrpv sectors) := by
  have ha := l1Alloc_sameMemGroups s b line rrpv
  unfold l1Fill
  split
  next u h => rwa [h] at ha
  next u k h =>
    rw [h] at ha
    refine ha.trans (.trans (SameMemGroups.foldl (fun v o => ?_) _ u) ⟨rfl, rfl⟩)
    split_ifs <;> exact ⟨rfl, rfl⟩

theorem homeFill_sameMemGroups (s : State) (b line rrpv sectors : Nat) : SameMemGroups s (homeFill s b line rrpv sectors) :=
  (show SameMemGroups s (grantLease s (redirectLine s line)).1 from ⟨rfl, rfl⟩).trans (l1Fill_sameMemGroups _ _ _ _ _ _)

/-- An access once the home has served it. -/
def served (s : State) (b : Nat) (a : Acc) : Acc := { a with got := true, bs := mergeDirty s b a.pa a.n }

/-- The access, once those of a list that are of its thread have been served. -/
def takenFrom (s : State) (b : Nat) (as : List Acc) (a : Acc) : Acc :=
  match as.find? fun c => c.t == a.t with
  | some c => served s b c
  | none => a

theorem getD_find_served (s : State) (b : Nat) (as : List Acc) (a : Acc) :
    ((as.map (served s b)).find? fun c => c.t == a.t).getD a = takenFrom s b as a := by
  have hf : ((fun c : Acc => c.t == a.t) ∘ served s b) = fun c => c.t == a.t := rfl
  rw [List.find?_map, hf, takenFrom]
  cases as.find? fun c => c.t == a.t <;> rfl

/-- The misses of a load in one line have met their home. -/
def metMisses (s : State) (g line : Nat) (p : Pend) : State :=
  homeMeet (pmcCount s (clusterPmcs (blkOf g / 64)) 0x10 1) (blkOf g) (gAt s g).ctx line (missesIn s g p line)

/-- The block's L1 has taken the line, where the load allocates. -/
def filledMisses (s : State) (g line : Nat) (p : Pend) : State :=
  if allocates (metMisses s g line p) g p line then
    homeFill (metMisses s g line p) (blkOf g) line (fillRrpv p.rd)
      (sectorsOf ((p.accs.filter fun a => !a.zero && lineOf a.pa == line).map fun a => lineOff a.pa))
  else metMisses s g line p

theorem metMisses_onlyHomes (s : State) (g line : Nat) (p : Pend) : OnlyHomes s (metMisses s g line p) :=
  (pmcCount_onlyHomes s _ _ _).trans (homeMeet_onlyHomes _ _ _ _ _)

theorem filledMisses_sameMemGroups (s : State) (g line : Nat) (p : Pend) : SameMemGroups s (filledMisses s g line p) := by
  refine (metMisses_onlyHomes s g line p).sameMemGroups.trans ?_
  unfold filledMisses
  split_ifs
  · exact homeFill_sameMemGroups _ _ _ _ _
  · exact ⟨rfl, rfl⟩

/-- The operation once those of its accesses that miss in the line have been served. -/
def servedPend (s : State) (b : Nat) (as : List Acc) (p : Pend) : Pend := { p with accs := p.accs.map (takenFrom s b as) }

section

variable {g id line : Nat} {p : Pend}

theorem exec_homeRead (hp : findPend (gAt s g) id = some p) (hk : p.kind = .load) (hm : missesIn s g p line ≠ [])
    (hf : inFlight s (blkOf g) line = false) (hb : l1Blocked s (blkOf g) line id = false) : exec (.homeRead g id line) s =
      .next (updPend (filledMisses s g line p) g id (servedPend s (blkOf g) (missesIn s g p line))) := by
  have hserved : served (metMisses s g line p) (blkOf g) = served s (blkOf g) :=
    funext fun a => by rw [served, (metMisses_onlyHomes s g line p).mergeDirty, served]
  have hpend : (fun q : Pend => { q with accs := q.accs.map fun a =>
      (((missesIn s g p line).map (served (metMisses s g line p) (blkOf g))).find? fun c => c.t == a.t).getD a }) =
      servedPend s (blkOf g) (missesIn s g p line) := by
    funext q
    simp only [hserved, getD_find_served]
    rfl
  show execHomeRead g id line s = _
  rw [execHomeRead, hp, ← hpend]
  exact if_neg (by simp [hk, hm, hf, hb])

/-- A load's misses in one line take the bytes that the home holds. -/
theorem homeRead_serves (hp : findPend (gAt s g) id = some p) (hk : p.kind = .load) (hm : missesIn s g p line ≠ [])
    (hf : inFlight s (blkOf g) line = false) (hb : l1Blocked s (blkOf g) line id = false) :
    ∃ t, exec (.homeRead g id line) s = .next t ∧ t.mem = s.mem ∧
      findPend (gAt t g) id = some (servedPend s (blkOf g) (missesIn s g p line) p) := by
  obtain ⟨hmem, hgroups⟩ := filledMisses_sameMemGroups s g line p
  have hg : gAt (filledMisses s g line p) g = gAt s g := congrArg (Store.get · g) hgroups
  refine ⟨_, exec_homeRead hp hk hm hf hb, hmem, ?_⟩
  rw [findPend_updPend_self _ g id (f := servedPend _ _ _) fun _ => rfl, hg, hp, Option.map_some]

end

end

end Sys2Proof.Machine

end

/-! The home performs a request (R213, R248). -/

section

namespace Sys2Proof.Machine

open Sys2Proof.Claim

/-- From s to t only lines of the L2, counts, free values and what the streamers keep of words that are written differ. -/
def OnlyLines (s t : State) : Prop :=
  t = { s with l2 := t.l2, evmax := t.evmax, fresh := t.fresh, pmc := t.pmc, msix := t.msix, strq := t.strq }

section

variable {s t u : State}

theorem OnlyLines.trans (h : OnlyLines s t) (k : OnlyLines t u) : OnlyLines s u := by
  unfold OnlyLines at *
  rw [k, h]

theorem OnlyLines.mem (h : OnlyLines s t) : t.mem = s.mem := by rw [show t = _ from h]
theorem OnlyLines.migs (h : OnlyLines s t) : t.migs = s.migs := by rw [show t = _ from h]
theorem OnlyLines.ctxs (h : OnlyLines s t) : t.ctxs = s.ctxs := by rw [show t = _ from h]
theorem OnlyLines.gt (h : OnlyLines s t) : t.gt = s.gt := by rw [show t = _ from h]
theorem OnlyLines.hw (h : OnlyLines s t) : t.hw = s.hw := by rw [show t = _ from h]
theorem OnlyLines.groups (h : OnlyLines s t) : t.groups = s.groups := by rw [show t = _ from h]
theorem OnlyLines.blocks (h : OnlyLines s t) : t.blocks = s.blocks := by rw [show t = _ from h]

theorem OnlyHomes.onlyLines (h : OnlyHomes s t) : OnlyLines s t := by
  rw [OnlyLines, show t = _ from h]

theorem OnlyWritten.onlyLines (h : OnlyWritten s t) (hm : t.mem = s.mem) : OnlyLines s t := by
  rw [OnlyLines, show t = _ from h, hm]

theorem noteGlobal_onlyLines (s : State) (blk : Option Nat) (pas : List Nat) : OnlyLines s (noteGlobal s blk pas) := by
  unfold noteGlobal
  dsimp only
  split_ifs <;> rfl

theorem perform_nil_mem (s : State) (line : Nat) : (perform s line []).1.mem = s.mem := by
  unfold perform
  dsimp only
  split_ifs
  · rfl
  · exact (show (l2Hold s (redirectLine s line)).mem = s.mem by rw [l2Hold_frame])

theorem farNote_onlyLines (s : State) (blk : Option Nat) (line m : Nat) : OnlyLines s (farNote s blk line m) := by
  unfold farNote
  cases blk with
  | none => rfl
  | some b =>
    dsimp only
    split_ifs <;> rfl

/-- A change of a line touches no byte itself; its time is later than the present (R248). -/
theorem changeLine_onlyLines (hs : s.migs = []) (r : HomeReq) (pas : List Nat) : OnlyLines s (changeLine s r pas).1 ∧
    s.gt < (changeLine s r pas).2 := by
  have hn := noteGlobal_onlyLines s r.blk (pas.map (r.place s))
  have hp := (perform_onlyWritten (hn.migs.trans hs) (r.dest.getD r.line) []).onlyLines (perform_nil_mem _ _)
  refine ⟨(hn.trans hp).trans (.trans ?_ (farNote_onlyLines _ _ _ _)), hn.gt ▸ lt_perform_time _ _⟩
  split_ifs <;> rfl

end

/-- A request has met its line, and is no longer on its way. -/
def arrived (s : State) (r : HomeReq) : State := reqMeet { s with hw := s.hw.filter fun q => q.id != r.id } r

/-- A performed request is over: its accesses are done, and LCT of its block rises. -/
def concluded (s : State) (r : HomeReq) (as : List Acc) (fl t : Nat) : State := raiseLct (markAccs s r as fl t) r.blk t

section

variable {s u : State} {r : HomeReq} {as : List Acc} {fl t : Nat}

/-- The operation of a request once its accesses are done: those of `as` have taken their values. -/
def marked (r : HomeReq) (as : List Acc) (fl t : Nat) (p : Pend) : Pend :=
  { p with
    accs := p.accs.map fun a =>
      if r.accs.any fun c => c.t == a.t then (as.find? fun c => c.t == a.t).getD { a with got := true } else a
    fl := p.fl ||| fl, time := Nat.max p.time t }

theorem markAccs_some {g id : Nat} (ho : r.own = some (g, id)) : markAccs s r as fl t = updPend s g id (marked r as fl t) := by
  rw [markAccs, ho]
  rfl

theorem markAccs_groups (s : State) (r : HomeReq) (as : List Acc) (fl t : Nat) :
    markAccs s r as fl t = { s with groups := (markAccs s r as fl t).groups } := by
  unfold markAccs
  cases r.own <;> rfl

theorem raiseLct_blocks (s : State) (blk : Option Nat) (t : Nat) :
    raiseLct s blk t = { s with blocks := (raiseLct s blk t).blocks } := by
  cases blk <;> rfl

theorem concluded_frame (s : State) (r : HomeReq) (as : List Acc) (fl t : Nat) :
    concluded s r as fl t = { s with groups := (markAccs s r as fl t).groups, blocks := (concluded s r as fl t).blocks } := by
  unfold concluded
  rw [raiseLct_blocks, markAccs_groups]

theorem lct_concluded {b : Nat} (hb : r.blk = some b) : (bAt (concluded s r as fl t) b).lct = Nat.max (bAt s b).lct t := by
  rw [concluded, hb, raiseLct, bAt_updB_self, markAccs_groups]
  rfl

/-- What a performed request leaves of its owner's operation (R239). -/
theorem findPend_concluded {h op : Nat} {q : Pend} (ho : r.own = some (h, op)) (hq : findPend (gAt s h) op = some q)
    (hall : ∀ a ∈ q.accs, ∃ c ∈ r.accs, c.t = a.t) :
    ∃ q', findPend (gAt (concluded s r [] fl t) h) op = some q' ∧ (q'.accs.all fun a => a.got) = true := by
  have hg : gAt (concluded s r [] fl t) h = gAt (markAccs s r [] fl t) h := by
    rw [concluded_frame]
    rfl
  refine ⟨marked r [] fl t q, ?_, ?_⟩
  · rw [hg, markAccs_some ho, findPend_updPend_self s h op (f := marked r [] fl t) fun _ => rfl, hq, Option.map_some]
  · rw [marked, List.all_map, List.all_eq_true]
    intro a ha
    simp [hall a ha]

theorem arrived_onlyLines (s : State) (r : HomeReq) :
    OnlyLines { s with hw := s.hw.filter fun q => q.id != r.id } (arrived s r) :=
  (reqMeet_onlyHomes _ r).onlyLines

theorem exec_homeWrite {id : Nat} (hr : (s.hw.find? fun r => r.id == id) = some r) (hb : homeBlocked s r = false)
    (hw : windowHeld s r = false) : exec (.homeWrite id) s = .next (homePerform s r) := by
  show execHomeWrite id s = _
  rw [execHomeWrite, hr]
  exact congrArg _ (if_neg (by simp [hb, hw]))

/-- A place of a request that no migration redirects. -/
theorem place_still (hs : s.migs = []) (hd : r.dest = none) (pa : Nat) : r.place s pa = linePa r.line + lineOff pa := by
  rw [HomeReq.place, HomeReq.at_, redirectLine_still hs, hd]
  rfl

/-- The bytes of a request where no migration redirects its line. -/
def placed (r : HomeReq) : List (Nat × Byte) := r.bytes.map fun e => (linePa r.line + lineOff e.1, e.2)

theorem foldl_place (hs : s.migs = []) (hd : r.dest = none) (bs : List (Nat × Byte)) :
    bs.foldl (fun s b => memPut s (r.place s b.1) [b.2]) s =
      (bs.map fun e => (linePa r.line + lineOff e.1, e.2)).foldl (fun s e => memPut s e.1 [e.2]) s := by
  induction bs generalizing s with
  | nil => rfl
  | cons e bs ih =>
    rw [List.foldl_cons, List.map_cons, List.foldl_cons, place_still hs hd]
    exact ih hs

/-- What every performed request does besides its change of memory: u is the state once memory has changed. -/
theorem concluded_performs {v : State} (hv : OnlyLines (arrived s r) v) (hu : u = { v with mem := u.mem }) (ht : s.gt < t) :
    (concluded u r as fl t).hw = (s.hw.filter fun q => q.id != r.id) ∧
    (∀ b, r.blk = some b → s.gt < (bAt (concluded u r as fl t) b).lct ∧ (bAt s b).lct ≤ (bAt (concluded u r as fl t) b).lct) ∧
    (concluded u r as fl t).mem = u.mem ∧ ∀ h, gAt u h = gAt s h := by
  have hl := (arrived_onlyLines s r).trans hv
  have hgroups : u.groups = s.groups := by rw [hu]; exact hl.groups
  have hblocks : u.blocks = s.blocks := by rw [hu]; exact hl.blocks
  have hhw : u.hw = s.hw.filter fun q => q.id != r.id := by rw [hu]; exact hl.hw
  refine ⟨by rw [concluded_frame, hhw], fun b hb => ?_, by rw [concluded_frame], fun h => congrArg (Store.get · h) hgroups⟩
  have hbu : bAt u b = bAt s b := congrArg (Store.get · b) hblocks
  rw [lct_concluded hb, hbu]
  exact ⟨ht.trans_le (Nat.le_max_right _ _), Nat.le_max_left _ _⟩

end

section

variable {s : State} {r : HomeReq} (hp : Plain s) (hd : r.dest = none)

include hp

/-- What a request's change of its line leaves. -/
theorem changed_arrived (pas : List Nat) : OnlyLines (arrived s r) (changeLine (arrived s r) r pas).1 ∧
    s.gt < (changeLine (arrived s r) r pas).2 ∧ (changeLine (arrived s r) r pas).1.migs = [] ∧
    (∀ e ∈ (changeLine (arrived s r) r pas).1.ctxs, e.2.evpages = []) ∧ (changeLine (arrived s r) r pas).1.mem = s.mem := by
  have ha := arrived_onlyLines s r
  have hm : (arrived s r).migs = [] := ha.migs.trans hp.1
  obtain ⟨hl, ht⟩ := changeLine_onlyLines hm r pas
  rw [ha.gt] at ht
  exact ⟨hl, ht, hl.migs.trans hm, (hl.ctxs.trans ha.ctxs) ▸ hp.2, hl.mem.trans ha.mem⟩

include hd

/-- A masked write of no window. -/
theorem homePerform_masked (hk : r.kind = .masked) (h0 : r.op = 0) (hw : r.win = none) :
    homePerform s r = concluded ((placed r).foldl (fun s e => memPut s e.1 [e.2])
      (changeLine (arrived s r) r (r.bytes.map (·.1))).1) r [] 0 (changeLine (arrived s r) r (r.bytes.map (·.1))).2 := by
  obtain ⟨-, -, hm, he, -⟩ := changed_arrived hp (r := r) (r.bytes.map (·.1))
  have hfate : windowFate (arrived s r) r = none := by rw [windowFate, hw]
  have hput := foldl_place hm hd r.bytes
  have hopen : openEvents ((placed r).foldl (fun s e => memPut s e.1 [e.2]) (changeLine (arrived s r) r (r.bytes.map (·.1))).1)
      (r.place (changeLine (arrived s r) r (r.bytes.map (·.1))).1) (r.bytes.map (·.1)) = _ :=
    openEvents_still (by rw [foldl_memPut]; exact he) _ _
  rw [homePerform, hk, ← arrived]
  dsimp only
  rw [if_pos h0, hfate]
  dsimp only
  rw [hput]
  show concluded (openEvents _ _ _) _ _ _ _ = _
  rw [show r.bytes.map (fun e => (linePa r.line + lineOff e.1, e.2)) = placed r from rfl, hopen]

/-- One atomic of a request (R233). -/
theorem homePerform_atomic {a : Acc} (hk : r.kind = .atomic) (ha : r.accs = [a]) : ∃ as fl, homePerform s r =
    concluded (memPut (changeLine (arrived s r) r [a.pa]).1 (linePa r.line + lineOff a.pa)
      (leBytes 4 (atomicNew r.op r.ftype (w32 (memNat s (linePa r.line + lineOff a.pa) 4)) a.x a.y).1.toNat))
      r as fl (changeLine (arrived s r) r [a.pa]).2 := by
  obtain ⟨-, -, hm, he, hmem⟩ := changed_arrived hp (r := r) [a.pa]
  have hold : memNat (changeLine (arrived s r) r [a.pa]).1 (linePa r.line + lineOff a.pa) 4 =
      memNat s (linePa r.line + lineOff a.pa) 4 := by rw [memNat, memBytes, hmem, memNat, memBytes]
  have hpas : r.accs.map (·.pa) = [a.pa] := by rw [ha]; rfl
  rw [homePerform, hk, ← arrived]
  dsimp only
  rw [hpas, atomicsAt, ha]
  dsimp only [List.foldl_cons, List.foldl_nil]
  rw [place_still hm hd, hold, openEvents_still (s := memPut _ _ _) he]
  exact ⟨_, _, rfl⟩

/-- One record or advance of a request (R91). -/
theorem homePerform_amax {a : Acc} (hk : r.kind = .amax) (ha : r.accs = [a]) (ho : r.own = none) : ∃ as pas, homePerform s r =
    concluded (memPut (changeLine (arrived s r) r pas).1 (linePa r.line + lineOff a.pa) (leBytes 96
      (if a.y = 1#32 then amaxAdvance (memNat s (linePa r.line + lineOff a.pa) 96)
        else amaxRecord (memNat s (linePa r.line + lineOff a.pa) 96) a.x)))
      r as 0 (changeLine (arrived s r) r pas).2 := by
  obtain ⟨-, -, hm, -, hmem⟩ := changed_arrived hp (r := r) (r.accs.flatMap fun (a : Acc) => (List.range 96).map (a.pa + ·))
  rw [homePerform, hk, ← arrived, ho]
  dsimp only
  rw [if_neg Bool.false_ne_true]
  generalize (r.accs.flatMap fun (a : Acc) => (List.range 96).map (a.pa + ·)) = pas at hm hmem
  have hold : memNat (changeLine (arrived s r) r pas).1 (linePa r.line + lineOff a.pa) 96 =
      memNat s (linePa r.line + lineOff a.pa) 96 := by rw [memNat, memBytes, hmem, memNat, memBytes]
  rw [amaxAt, ha]
  dsimp only [List.foldl_cons, List.foldl_nil]
  rw [place_still hm hd, hold]
  exact ⟨_, pas, rfl⟩

omit hd in
/-- A request that changes some bytes of its line is over, and its time is later than the present. -/
theorem homeWrite_performs {id : Nat} {pas : List Nat} {mem : Store Byte} {as : List Acc} {fl : Nat}
    (hr : (s.hw.find? fun r => r.id == id) = some r) (hb : homeBlocked s r = false) (hw : windowHeld s r = false)
    (h : homePerform s r = concluded { (changeLine (arrived s r) r pas).1 with mem := mem } r as fl
      (changeLine (arrived s r) r pas).2) : ∃ t, exec (.homeWrite id) s = .next t ∧
    t.hw = s.hw.filter (fun q => q.id != r.id) ∧
    (∀ b, r.blk = some b → s.gt < (bAt t b).lct ∧ (bAt s b).lct ≤ (bAt t b).lct) ∧ t.mem = mem ∧
    (as = [] → ∀ h op q, r.own = some (h, op) → findPend (gAt s h) op = some q → (∀ a ∈ q.accs, ∃ c ∈ r.accs, c.t = a.t) →
      ∃ q', findPend (gAt t h) op = some q' ∧ (q'.accs.all fun a => a.got) = true) := by
  obtain ⟨hl, ht, -⟩ := changed_arrived hp (r := r) pas
  obtain ⟨hhw, hlct, hmem, hg⟩ := concluded_performs (u := { (changeLine (arrived s r) r pas).1 with mem := mem }) (as := as)
    (fl := fl) hl rfl ht
  refine ⟨_, (exec_homeWrite hr hb hw).trans (congrArg _ h), hhw, hlct, hmem, ?_⟩
  rintro rfl h op q ho hq hall
  exact findPend_concluded ho (by rw [hg]; exact hq) hall

include hd

/-- A masked write puts its bytes at their places, and its owner's accesses that it carries are done. -/
theorem homeWrite_masked {id : Nat} (hr : (s.hw.find? fun r => r.id == id) = some r) (hb : homeBlocked s r = false)
    (hw : windowHeld s r = false) (hk : r.kind = .masked) (h0 : r.op = 0) (hwin : r.win = none) :
    ∃ t, exec (.homeWrite id) s = .next t ∧ t.hw = s.hw.filter (fun q => q.id != r.id) ∧
    (∀ b, r.blk = some b → s.gt < (bAt t b).lct ∧ (bAt s b).lct ≤ (bAt t b).lct) ∧ HoldsBytes s t (placed r) ∧
    ∀ h op q, r.own = some (h, op) → findPend (gAt s h) op = some q → (∀ a ∈ q.accs, ∃ c ∈ r.accs, c.t = a.t) →
      ∃ q', findPend (gAt t h) op = some q' ∧ (q'.accs.all fun a => a.got) = true := by
  obtain ⟨-, -, -, -, hmem⟩ := changed_arrived hp (r := r) (r.bytes.map (·.1))
  obtain ⟨t, ht, hhw, hlct, htm, hown⟩ := homeWrite_performs hp hr hb hw
    ((homePerform_masked hp hd hk h0 hwin).trans (by rw [foldl_memPut]))
  refine ⟨t, ht, hhw, hlct, ?_, hown rfl⟩
  rw [hmem] at htm
  rw [holdsBytes_iff, show memByte t = Store.get t.mem from rfl, htm]
  exact get_foldl_set_pairs (placed r) s.mem

omit hp hd in
theorem getList_setList_self (m : Store Byte) (k : Nat) (l : List Byte) : Store.getList (Store.setList m k l) k l.length = l := by
  refine List.ext_getElem (getList_length _ _ _) fun i _ hi => ?_
  simp [Store.getList, Store.get_setList, hi]

omit hd in
/-- A change of `n` bytes at one place by a request. -/
theorem homeWrite_bytes {id : Nat} {pas : List Nat} {x n : Nat} {bs : List Byte} {as : List Acc} {fl : Nat} (hlen : bs.length = n)
    (hr : (s.hw.find? fun r => r.id == id) = some r) (hb : homeBlocked s r = false) (hw : windowHeld s r = false)
    (h : homePerform s r = concluded (memPut (changeLine (arrived s r) r pas).1 x bs) r as fl
      (changeLine (arrived s r) r pas).2) : ∃ t, exec (.homeWrite id) s = .next t ∧
    t.hw = s.hw.filter (fun q => q.id != r.id) ∧
    (∀ b, r.blk = some b → s.gt < (bAt t b).lct ∧ (bAt s b).lct ≤ (bAt t b).lct) ∧ memBytes t x n = bs ∧
    ∀ z, z < x ∨ x + n ≤ z → memByte t z = memByte s z := by
  obtain ⟨-, -, -, -, hmem⟩ := changed_arrived hp (r := r) pas
  obtain ⟨t, ht, hhw, hlct, htm, -⟩ := homeWrite_performs hp hr hb hw h
  rw [hmem] at htm
  refine ⟨t, ht, hhw, hlct, ?_, fun z hz => ?_⟩
  · rw [memBytes, htm, ← hlen]
    exact getList_setList_self _ _ _
  · rw [memByte, htm, Store.get_setList, if_neg (by omega)]
    rfl

end

/-! The host's accesses (R259, R452, R453). -/

section

variable {s : State} {pa n : Nat} {bs : List Byte}

theorem hostRange_le (h : hostRange s pa n = true) : pa + n ≤ 2 ^ 50 := by
  rw [hostRange, Bool.and_eq_true, decide_eq_true_iff] at h
  exact h.1

theorem hostPlace_of_hostRange (h : hostRange s pa n = true) : hostPlace s pa n = some pa := by
  have hle := hostRange_le h
  have hlt : pa < 2 ^ 52 := by omega
  unfold hostPlace
  dsimp only
  rw [if_pos hlt, decide_eq_true hlt, h]
  rfl

theorem exec_hostMemoryWrite (h : s.hostq = []) : exec (.hostMemoryWrite pa bs) s = .next (hostWrite pa bs s) :=
  if_pos (by rw [h]; rfl)

theorem exec_hostMemoryWrite_waits (h : s.hostq ≠ [] ∨ s.gt < s.hostT) :
    exec (.hostMemoryWrite pa bs) s = .next { s with hostq := s.hostq ++ [.write pa bs] } := by
  by_cases hq : s.hostq = []
  · have ht : s.gt < s.hostT := h.resolve_left (absurd hq)
    rw [exec_hostMemoryWrite hq, hostWrite, if_pos ht]
  · exact if_neg (by simpa using hq)

/-- A write of the host is performed at the homes. -/
theorem hostMemoryWrite_holds (hr : hostRange s pa bs.length = true) (hp : Plain s) (hq : s.hostq = []) (ht : s.hostT ≤ s.gt) :
    ∃ t, exec (.hostMemoryWrite pa bs) s = .next t ∧ HoldsBytes s t (bytesAt pa bs) ∧ (bs ≠ [] → s.gt < t.hostT) := by
  have hw := performAll_onlyWritten hp.1 (bytesAt pa bs)
  have hopen := openEvents_still (s := { (performAll s (bytesAt pa bs)).1 with hostT := (performAll s (bytesAt pa bs)).2 })
    (hw.ctxs ▸ hp.2) (homePa { (performAll s (bytesAt pa bs)).1 with hostT := (performAll s (bytesAt pa bs)).2 })
    ((bytesAt pa bs).map (·.1))
  have hexec : exec (.hostMemoryWrite pa bs) s = .next
      { (performAll s (bytesAt pa bs)).1 with hostT := (performAll s (bytesAt pa bs)).2 } := by
    rw [exec_hostMemoryWrite hq, hostWrite, if_neg (by omega), hostPlace_of_hostRange hr]
    exact congrArg _ hopen
  have hle := hostRange_le hr
  refine ⟨_, hexec, homePut_holds hp.1 (by omega), fun hne => lt_performAll_time ?_⟩
  cases bs with
  | nil => exact absurd rfl hne
  | cons b bs => exact List.cons_ne_nil _ _

theorem exec_hostMemoryRead (h : s.hostq = []) : exec (.hostMemoryRead pa n) s = .next (hostRead pa n s) :=
  if_pos (by rw [h]; rfl)

theorem hostRead_of_some {bs : List Byte} (h : hostBytes s pa n = some bs) : hostRead pa n s = { s with out := s.out ++ [(96, bs)] } := by
  rw [hostRead, h]

/-- A read of the host gives what the homes hold. -/
theorem hostBytes_memory (hr : hostRange s pa n = true) (hp : Plain s) : hostBytes s pa n = some (memBytes s pa n) := by
  have hle := hostRange_le hr
  rw [hostBytes, if_neg (by omega), hostPlace_of_hostRange hr]
  refine congrArg some (List.map_congr_left fun i hi => ?_)
  have := List.mem_range.mp hi
  exact homeByte_still hp.1 (by omega)

/-- A read through BAR4 is one at APBASE. -/
theorem hostBytes_aperture (h36 : pa < 2 ^ 36) (h16 : pa % 16 = 0) (ha : s.apbase < 2 ^ 14) :
    hostBytes s (2 ^ 52 + pa) 16 = hostBytes s (s.apbase * 2 ^ 36 + pa) 16 := by
  have hplace : hostPlace s (2 ^ 52 + pa) 16 = hostPlace s (s.apbase * 2 ^ 36 + pa) 16 := by
    have hto : s.apbase * 2 ^ 36 + (2 ^ 52 + pa - 2 ^ 52) = s.apbase * 2 ^ 36 + pa := by omega
    have hlow : s.apbase * 2 ^ 36 + pa < 2 ^ 52 := by omega
    have hal : (2 ^ 52 + pa) % 16 = 0 := by omega
    have hin : 2 ^ 52 + pa - 2 ^ 52 < 2 ^ 36 := by omega
    unfold hostPlace
    dsimp only
    rw [if_neg (by omega : ¬2 ^ 52 + pa < 2 ^ 52), if_pos hlow, hto, hal, decide_eq_true hin, decide_eq_true hlow]
    simp
  rw [hostBytes, hostBytes, if_neg (by omega), if_neg (by omega), hplace]

theorem hostBytes_bar0 (h : pa + n ≤ 2 ^ 24) : hostBytes s (2 ^ 53 + pa) n = some (imageBytes (bar0Image s) pa n) := by
  rw [hostBytes, if_pos (by omega), if_pos (by omega), Nat.add_sub_cancel_left]

theorem hostBytes_bar2 (h : pa + n ≤ 2 ^ 18) : hostBytes s (2 ^ 54 + pa) n = some (imageBytes (bar2Image s) pa n) := by
  have h1 : 2 ^ 54 ≤ 2 ^ 54 + pa := by omega
  have h2 : 2 ^ 54 + pa + n ≤ 2 ^ 54 + 2 ^ 18 := by omega
  rw [hostBytes, if_pos (by omega), if_neg (by omega), decide_eq_true h1, decide_eq_true h2, Nat.add_sub_cancel_left]
  rfl

end

/-! Leases, walks and invalidations (R209, R350, R352). -/

section

variable {s : State}

theorem exec_l1LeaseExpiry {c k : Nat} (h : (Store.get s.l1 (8192 * c + k)).lease ≤ s.gt) : exec (.l1LeaseExpiry c k) s =
    .next { s with l1 := Store.set s.l1 (8192 * c + k) { Store.get s.l1 (8192 * c + k) with sv := 0 } } :=
  congrArg _ (if_pos h)

/-- From s to t only the caches of translations and the count of free values differ, and every entry is an old one or of
those that `p` holds of. -/
def CachesTook (p : TlbEnt → Prop) (s t : State) : Prop :=
  t = { s with tlb := t.tlb, fresh := t.fresh } ∧ ∀ e ∈ t.tlb, e ∈ s.tlb ∨ p e

theorem cacheEntry_took (s : State) (x : TlbEnt) : CachesTook (· = x) s (cacheEntry s x) := by
  unfold cacheEntry
  dsimp only
  split_ifs
  · exact ⟨rfl, fun e he => .inl he⟩
  · exact ⟨rfl, fun e he => (List.mem_append.mp he).imp id List.eq_of_mem_singleton⟩
  · split
    · exact ⟨rfl, fun e he => (List.mem_append.mp he).imp (fun h => (List.mem_filter.mp h).1) List.eq_of_mem_singleton⟩
    · exact ⟨rfl, fun e he => .inl he⟩

/-- A cache with room takes an entry, and none loses one. -/
theorem cacheEntry_room (x : TlbEnt) (h : s.tlb.length < 64) : (∀ e ∈ s.tlb, e ∈ (cacheEntry s x).tlb) ∧
    (cacheRoom x.cache x.kind ≠ 0 → x ∈ (cacheEntry s x).tlb) ∧ (cacheEntry s x).tlb.length ≤ s.tlb.length + 1 := by
  have hroom : cacheRoom x.cache x.kind = 0 ∨ 64 ≤ cacheRoom x.cache x.kind := by
    unfold cacheRoom
    split_ifs <;> simp
  have hheld := List.length_filter_le (fun e => e.cache == x.cache && decide (3 ≤ e.kind) == decide (3 ≤ x.kind)) s.tlb
  unfold cacheEntry
  dsimp only
  by_cases hin : (s.tlb.contains x || decide (cacheRoom x.cache x.kind = 0)) = true
  · rw [if_pos hin]
    refine ⟨fun e he => he, fun hne => ?_, Nat.le_succ _⟩
    simpa [hne] using hin
  · rw [if_neg hin]
    have hne : cacheRoom x.cache x.kind ≠ 0 := by
      simp only [Bool.or_eq_true, decide_eq_true_iff, not_or] at hin
      exact hin.2
    rw [if_pos (by omega)]
    exact ⟨fun e he => List.mem_append_left _ he, fun _ => List.mem_append_right _ (List.mem_singleton.mpr rfl), by simp⟩

/-- The entry that a cache takes of a walk. -/
def walkEntry (cache slot : Nat) (s : State) (k : Nat × Nat × Nat) : TlbEnt :=
  ⟨if 3 ≤ k.1 ∧ cache < 512 then 512 + cache / 16 else cache, ctxidOf s slot, k.1, k.2.1, k.2.2⟩

/-- A cache takes an entry of a walk. -/
def takeWalked (cache slot : Nat) (s : State) (k : Nat × Nat × Nat) : State := cacheEntry s (walkEntry cache slot s k)

theorem foldl_takeWalked_took (cache slot : Nat) (l : List (Nat × Nat × Nat)) (s : State) :
    CachesTook (fun e => ∃ k ∈ l, e = walkEntry cache slot s k) s (l.foldl (takeWalked cache slot) s) := by
  induction l generalizing s with
  | nil => exact ⟨rfl, fun e he => .inl he⟩
  | cons k l ih =>
    obtain ⟨hf, hmem⟩ := cacheEntry_took s (walkEntry cache slot s k)
    obtain ⟨hf', hmem'⟩ := ih (takeWalked cache slot s k)
    have hent : ∀ j, walkEntry cache slot (takeWalked cache slot s k) j = walkEntry cache slot s j := fun j => by
      rw [takeWalked, hf]
      rfl
    refine ⟨?_, fun e he => ?_⟩
    · rw [List.foldl_cons, hf', takeWalked, hf]
    · rcases hmem' e he with h | ⟨j, hj, h⟩
      · exact (hmem e h).imp id fun h => ⟨k, List.mem_cons_self, h⟩
      · exact .inr ⟨j, List.mem_cons_of_mem _ hj, h.trans (hent j)⟩

theorem foldl_takeWalked_room (cache slot : Nat) (l : List (Nat × Nat × Nat)) (s : State) (h : s.tlb.length + l.length ≤ 64) :
    (∀ e ∈ s.tlb, e ∈ (l.foldl (takeWalked cache slot) s).tlb) ∧
    ∀ k ∈ l, cacheRoom (walkEntry cache slot s k).cache k.1 ≠ 0 →
      walkEntry cache slot s k ∈ (l.foldl (takeWalked cache slot) s).tlb := by
  induction l generalizing s with
  | nil => exact ⟨fun e he => he, fun k hk => absurd hk List.not_mem_nil⟩
  | cons k l ih =>
    rw [List.length_cons] at h
    obtain ⟨hold, hnew, hlen⟩ := cacheEntry_room (walkEntry cache slot s k) (by omega : s.tlb.length < 64)
    obtain ⟨hold', hnew'⟩ := ih (takeWalked cache slot s k) (by rw [takeWalked]; omega)
    have hent : ∀ j, walkEntry cache slot (takeWalked cache slot s k) j = walkEntry cache slot s j := fun j => by
      rw [takeWalked, (cacheEntry_took s (walkEntry cache slot s k)).1]
      rfl
    refine ⟨fun e he => hold' e (hold e he), fun j hj hr => ?_⟩
    rcases List.mem_cons.mp hj with rfl | hj
    · exact hold' _ (hnew hr)
    · rw [← hent] at hr ⊢
      exact hnew' j hj hr

theorem exec_pageWalk {cache slot page : Nat} (h : page < 2 ^ 36) : exec (.pageWalk cache slot page) s =
    .next ((walkFrom s cache slot page).keep.foldl (takeWalked cache slot) s) := by
  have hat : ∀ kind : Nat, (if (3 ≤ kind && cache < 512) = true then 512 + cache / 16 else cache) =
      if 3 ≤ kind ∧ cache < 512 then 512 + cache / 16 else cache := fun kind => by simp
  refine congrArg _ ((if_neg (by omega)).trans (List.foldl_ext _ _ _ fun u k _ => ?_))
  rw [takeWalked, walkEntry, ← hat]

/-- An invalidation has reached every cache, and its pins are gone. -/
def invalidated (s : State) (id : Nat) (i : Inv) : State :=
  unpinCleared { s with tlb := s.tlb.filter fun e => !i.drops e, invs := s.invs.filter fun x => x.id != id }
    { i with reached := true, bound := s.nextId }

section

variable {id : Nat} {i : Inv} (hi : (s.invs.find? fun i => i.id == id) = some i) (hr : i.reached = false)
  (hp : invPending s { i with reached := true, bound := s.nextId } = false)

include hi hr hp

theorem exec_invalidationComplete : exec (.invalidationComplete id) s =
    .next (i.own.elim (invalidated s id i) fun o => dropPend (invalidated s id i) o.1 o.2) := by
  have hp' : invPending { s with tlb := s.tlb.filter fun e => !i.drops e } { i with reached := true, bound := s.nextId } =
    false := hp
  show execInvalidationComplete id s = _
  rw [execInvalidationComplete, hi]
  simp only [hr, Bool.false_eq_true, if_false, hp']
  cases i.own <;> rfl

/-- An invalidation reaches every cache and is complete. -/
theorem invalidationComplete_drops : ∃ t, exec (.invalidationComplete id) s = .next t ∧
    t.tlb = s.tlb.filter (fun e => !i.drops e) ∧ t.invs = s.invs.filter (fun j => j.id != id) ∧
    ∀ g op, i.own = some (g, op) → findPend (gAt t g) op = none := by
  refine ⟨_, exec_invalidationComplete hi hr hp, ?_⟩
  cases i.own with
  | none => exact ⟨rfl, rfl, fun g op h => nomatch h⟩
  | some o =>
    refine ⟨rfl, rfl, fun g op h => ?_⟩
    obtain rfl := Option.some.inj h
    exact findPend_dropPend_self _ g op

end

end

/-- Settles O51: reads by `homeRead_serves`, requests by what `homePerform` leaves, the host's accesses by the homes, the
caches by `cacheEntry`. -/
theorem homesAndTranslation : Obligations.HomesAndTranslation := by
  intro s g id line c k cache slot page pa n p r a i bs mine x old Performs i' keep entry tag
  refine ⟨homeRead_serves, fun hr hd hb hw hp => ⟨fun hk h0 hwin => ?_, fun hk ha => ?_, fun hk ha ho => ?_⟩,
    hostMemoryWrite_holds, exec_hostMemoryWrite_waits, fun hr hp hq => ?_, fun hq => if_neg (by simpa using hq),
    fun h36 h16 ha hq => ?_, fun hq h => ?_, fun hq h => ?_, exec_l1LeaseExpiry, fun h => ?_, invalidationComplete_drops⟩
  · exact homeWrite_masked hp hd hr hb hw hk h0 hwin
  · obtain ⟨as, fl, h⟩ := homePerform_atomic hp hd hk ha
    obtain ⟨t, ht, hhw, hlct, hmem, hrest⟩ := homeWrite_bytes hp (leBytes_length 4 _) hr hb hw h
    refine ⟨t, ht, hhw, hlct, ?_, hrest⟩
    rw [memNat, hmem, leNat_leBytes]
    exact Nat.mod_eq_of_lt (BitVec.isLt _)
  · obtain ⟨as, pas, h⟩ := homePerform_amax hp hd hk ha ho
    exact homeWrite_bytes hp (leBytes_length 96 _) hr hb hw h
  · rw [exec_hostMemoryRead hq, hostRead_of_some (hostBytes_memory hr hp)]
  · rw [exec_hostMemoryRead hq, exec_hostMemoryRead hq, hostRead, hostBytes_aperture h36 h16 ha, hostRead]
  · rw [exec_hostMemoryRead hq, hostRead_of_some (hostBytes_bar0 h)]
  · rw [exec_hostMemoryRead hq, hostRead_of_some (hostBytes_bar2 h)]
  · obtain ⟨hf, hmem⟩ := foldl_takeWalked_took cache slot keep s
    exact ⟨_, exec_pageWalk h, hf, hmem, foldl_takeWalked_room cache slot keep s⟩

end Sys2Proof.Machine

end

/-! Streamer queues and Skiver commands proceed (R206, R274, R276, R287, R288, R295, R299, R300, R381). -/

section

namespace Sys2Proof.Machine

open Sys2Proof.Claim

/-! STREAMER_ACTIVATE (R274, R276, R295). -/

/-- The CPYRs of a queue that wait for a slot have tried to claim theirs. -/
def claimsMade (s : State) (c q : Nat) : State := ((strQueue s c q).filter Cmd.unclaimed).foldl (fun s m => cmdClaim s c q m) s

section

variable {s : State} {c q : Nat} {m : Cmd}

theorem exec_streamerActivate_claims (h : claimsMade s c q ≠ s) : exec (.streamerActivate c q) s = .next (claimsMade s c q) :=
  if_pos h

theorem exec_streamerActivate_idle (h : claimsMade s c q = s) (hn : nextCmd s c q = none) :
    exec (.streamerActivate c q) s = .next s := by
  show execStreamerActivate c q s = _
  rw [execStreamerActivate, ← claimsMade, hn]
  exact if_neg (not_not.mpr h)

theorem exec_streamerActivate_next (h : claimsMade s c q = s) (hn : nextCmd s c q = some m) :
    exec (.streamerActivate c q) s = .next (if m.op = 0xB4 then
      cmdClaim (updCmd s c q m.id fun k => { k with active := true }) c q { m with active := true }
      else updCmd s c q m.id fun k => { k with active := true }) := by
  show execStreamerActivate c q s = _
  rw [execStreamerActivate, ← claimsMade, hn]
  exact if_neg (not_not.mpr h)

end

/-! STREAMER_CHUNK (R287, R300). -/

/-- A command whose gather has read the index of its row. -/
def indexed (s : State) (m : Cmd) : Cmd := if m.op = 0xB2 then { m with idx := some (m.index s) } else m

/-- The lines that a chunk reads and writes have met the L2, and those of PL = 1 leaves are pinned. -/
def chunkMet (s : State) (m : Cmd) (from_ to_ : List Nat) : State :=
  let u := pinPlaces s m (!m.usesSrc || m.srcScr) (m.rowSrc s + m.chunkSrc.1) m.chunkSrc.2
  let u := pinPlaces u m m.local_ (m.dst + m.row * m.dstr + m.chunkDst.1) m.chunkDst.2
  meetPlaces (meetPlaces u m (!m.usesSrc || m.srcScr) from_) m m.local_ to_

section

variable {s : State} {c q n cause fadr : Nat} {m : Cmd} {from_ to_ pages : List Nat}

theorem pinPlaces_onlyHomes (s : State) (m : Cmd) (loc : Bool) (va n : Nat) : OnlyHomes s (pinPlaces s m loc va n) := by
  unfold pinPlaces
  split_ifs
  · exact .refl s
  · exact pinRange_onlyHomes _ _ _ _ _ _

theorem chunkMet_onlyHomes (s : State) (m : Cmd) (from_ to_ : List Nat) : OnlyHomes s (chunkMet s m from_ to_) :=
  (pinPlaces_onlyHomes s _ _ _ _).trans ((pinPlaces_onlyHomes _ _ _ _ _).trans
    ((meetPlaces_onlyHomes _ _ _ _).trans (meetPlaces_onlyHomes _ _ _ _)))

section

variable (hm : ((strQueue s c q).find? fun m => m.id == n) = some m) (hv : mayMove s c q m = true)

include hm hv

theorem exec_streamerChunk_source (hs : cmdSource s (indexed s m) = .inr (cause, fadr, pages)) :
    exec (.streamerChunk c q n) s = .next (cmdFault (cmdRecords s (indexed s m)
      (chunkPages (.inr (cause, fadr, pages)) (cmdDest s (indexed s m)))) c q (indexed s m) cause) := by
  show execStreamerChunk c q n s = _
  rw [execStreamerChunk, hm]
  dsimp only
  rw [if_neg (by simp [hv]), ← indexed, hs]

theorem exec_streamerChunk_dest (hs : cmdSource s (indexed s m) = .inl from_)
    (hd : cmdDest s (indexed s m) = .inr (cause, fadr, pages)) : exec (.streamerChunk c q n) s =
      .next (cmdFault (cmdRecords s (indexed s m) (pages.map (·, 9))) c q (indexed s m) cause) := by
  show execStreamerChunk c q n s = _
  rw [execStreamerChunk, hm]
  dsimp only
  rw [if_neg (by simp [hv]), ← indexed, hs, hd]
  rfl

theorem exec_streamerChunk_places (hs : cmdSource s (indexed s m) = .inl from_) (hd : cmdDest s (indexed s m) = .inl to_) :
    exec (.streamerChunk c q n) s = if chunkHeld s (indexed s m) from_ to_ then .next s
      else .next (cmdMove (chunkMet s (indexed s m) from_ to_) c q (indexed s m) from_ to_) := by
  show execStreamerChunk c q n s = _
  rw [execStreamerChunk, hm]
  dsimp only
  rw [if_neg (by simp [hv]), ← indexed, hs, hd]
  rfl

end

/-- The bytes that a chunk reads where nothing that it reads is being written. -/
def chunkData (s : State) (m : Cmd) (from_ : List Nat) : List Byte :=
  if m.srcScr then from_.map fun k => Store.get s.ls k else from_.map (homeByte s)

theorem peek_still (ho : m.olds = []) (s : State) (k : Nat) (ps : List Nat) : m.peek s k m.srcScr ps = chunkData s m ps := by
  rw [Cmd.peek, ho, chunkData]
  cases m.srcScr <;> rfl

theorem chunkData_onlyHomes {u : State} (h : OnlyHomes s u) (m : Cmd) (ps : List Nat) : chunkData u m ps = chunkData s m ps := by
  rw [show u = _ from h]
  rfl

/-- A chunk that neither converts nor ends a slot moves its bytes as they are. -/
theorem cmdMove_moves (hu : m.usesSrc = true) (ho : m.olds = []) (h3 : m.op ≠ 0xB3) (h4 : m.op ≠ 0xB4) (u : State)
    (from_ to_ : List Nat) : ∃ f, cmdMove u c q m from_ to_ =
      updCmd (cmdPut u c q m (zipBytes to_ (chunkData u m from_))).1 c q m.id f := by
  have hrest : m.slotRest = [] := by simp [Cmd.slotRest, h4]
  unfold cmdMove
  simp only [hu, if_true, peek_still ho, ho, List.isEmpty_nil, if_neg h3, decide_eq_false h3, Bool.false_and,
    Bool.false_eq_true, if_false, hrest, List.foldl_nil]
  exact ⟨_, rfl⟩

end

/-! Bytes in the local store. -/

theorem foldl_lsPut (bs : List (Nat × Byte)) (s : State) :
    bs.foldl (fun s e => lsPut s e.1 [e.2]) s = { s with ls := bs.foldl (fun m e => Store.set m e.1 e.2) s.ls } := by
  induction bs generalizing s with
  | nil => rfl
  | cons e bs ih => exact ih _

theorem ls_noteScratch (s : State) (c : Nat) (own : Option (Nat × Nat)) (bs : List (Nat × Byte)) :
    (noteScratch s c own bs).ls = s.ls := by
  unfold noteScratch
  dsimp only
  split_ifs <;> rfl

theorem ls_putPlaces (s : State) (c : Nat) (bs : List (Nat × Byte)) (x : Nat) :
    Store.get (putPlaces s (some c) bs).1.ls x = written bs (Store.get s.ls) x := by
  rw [putPlaces, foldl_lsPut]
  exact (get_foldl_set_pairs bs _ x).trans (by rw [ls_noteScratch])

theorem mem_zipBytes {ks : List Nat} {bs : List Byte} {e : Nat × Byte} (h : e ∈ zipBytes ks bs) : e.1 ∈ ks := by
  induction ks generalizing bs with
  | nil => cases h
  | cons k ks ih =>
    cases bs with
    | nil => cases h
    | cons b bs =>
      rcases List.mem_cons.mp h with rfl | h
      · exact List.mem_cons_self
      · exact List.mem_cons_of_mem _ (ih h)

section

variable {s u : State} {c q : Nat} {m : Cmd} {from_ to_ : List Nat} (h : OnlyHomes s u) (hu : m.usesSrc = true) (ho : m.olds = [])
  (h3 : m.op ≠ 0xB3) (h4 : m.op ≠ 0xB4)

include h hu ho h3 h4

/-- A chunk of a command that writes the local store. -/
theorem ls_cmdMove (hl : m.local_ = true) (x : Nat) : Store.get (cmdMove u c q m from_ to_).ls x =
    written (zipBytes to_ (chunkData s m from_)) (Store.get s.ls) x := by
  obtain ⟨f, hf⟩ := cmdMove_moves (c := c) (q := q) hu ho h3 h4 u from_ to_
  have hls : u.ls = s.ls := by rw [show u = _ from h]
  rw [hf, chunkData_onlyHomes h, ← hls, ← ls_putPlaces u c, updCmd, updQueue, cmdPut, hl]
  rfl

/-- A chunk of a command that writes memory. -/
theorem holdsBytes_cmdMove (hl : m.local_ = false) (hp : Plain s) (hto : ∀ x ∈ to_, x < 2 ^ 50) :
    HoldsBytes s (cmdMove u c q m from_ to_) (zipBytes to_ (chunkData s m from_)) := by
  obtain ⟨f, hf⟩ := cmdMove_moves (c := c) (q := q) hu ho h3 h4 u from_ to_
  have hpu : Plain u := ⟨h.migs.trans hp.1, h.ctxs ▸ hp.2⟩
  have hall : ∀ e ∈ zipBytes to_ (chunkData s m from_), e.1 < 2 ^ 52 := fun e he => by
    have := hto _ (mem_zipBytes he)
    omega
  refine holdsBytes_congr (performAll_holds hpu.1 hall) h.mem.symm ?_
  rw [hf, chunkData_onlyHomes h, ← putPlaces_plain hpu, updCmd, updQueue, cmdPut, hl]
  rfl

end

end Sys2Proof.Machine

end

/-! Commands of the streamers and Skivers end (R258, R288, R299, R381). -/

section

namespace Sys2Proof.Machine

open Sys2Proof.Claim

/-! What a signal of an engine changes (R312 to R314). -/

/-- From s to t only what a signal of an event reaches may differ: memory with its lines, what waits on events, and the reflector. -/
def OnlySignalled (s t : State) : Prop := t = { s with
  mem := t.mem, l2 := t.l2, evmax := t.evmax, pmc := t.pmc, msix := t.msix, fresh := t.fresh, migs := t.migs, ops := t.ops
  tokq := t.tokq, refl := t.refl, nextId := t.nextId, streams := t.streams, evBad := t.evBad }

section

variable {s t u : State}

theorem OnlySignalled.refl (s : State) : OnlySignalled s s := rfl

theorem OnlySignalled.trans (h : OnlySignalled s t) (k : OnlySignalled t u) : OnlySignalled s u := by
  unfold OnlySignalled at *
  rw [k, h]

theorem OnlySignalled.foldl {α : Type} {f : State → α → State} (h : ∀ s a, OnlySignalled s (f s a)) (l : List α) (s : State) :
    OnlySignalled s (l.foldl f s) := by
  induction l generalizing s with
  | nil => exact .refl s
  | cons a l ih => exact (h s a).trans (ih _)

theorem OnlySignalled.strq (h : OnlySignalled s t) : t.strq = s.strq := by rw [show t = _ from h]
theorem OnlySignalled.kvq (h : OnlySignalled s t) : t.kvq = s.kvq := by rw [show t = _ from h]

theorem HomeWrites.onlySignalled (h : HomeWrites s t) : OnlySignalled s t := by
  rw [OnlySignalled, show t = _ from h.frame]

theorem homePut_homeWrites (s : State) (pa : Nat) (bs : List Byte) : HomeWrites s (homePut s pa bs) :=
  performAll_homeWrites s _

theorem evWrite_eq_homePut (s : State) (pa e : Nat) : evWrite s pa e = homePut s pa (leBytes 8 e) := rfl

theorem evWrite_onlySignalled (s : State) (pa e : Nat) : OnlySignalled s (evWrite s pa e) :=
  evWrite_eq_homePut s pa e ▸ (homePut_homeWrites s pa _).onlySignalled

theorem askTokens_onlySignalled (s : State) : OnlySignalled s (askTokens s) := by
  refine OnlySignalled.foldl (fun s e => ?_) s.ops s
  split_ifs
  · refine OnlySignalled.foldl (fun s p => ?_) e.2.points s
    split_ifs <;> rfl
  · rfl

theorem evNotify_onlySignalled (s : State) (slot idx : Nat) (ctr : Word) : OnlySignalled s (evNotify s slot idx ctr) :=
  .trans (t := { s with ops := _ }) rfl (askTokens_onlySignalled _)

theorem evRelink_onlySignalled (s : State) (slot idx : Nat) : OnlySignalled s (evRelink s slot idx) := by
  unfold evRelink
  split
  · dsimp only
    split_ifs
    · rfl
    · exact .trans (t := spend s) rfl (evWrite_onlySignalled _ _ _)
    · exact .trans (t := spend s) rfl (evWrite_onlySignalled _ _ _)
  · rfl

theorem evTell_onlySignalled (s : State) (slot idx : Nat) (v : Word) : OnlySignalled s (evTell s slot idx v) := by
  unfold evTell
  dsimp only
  split_ifs
  · exact evNotify_onlySignalled s slot idx v
  · exact (evNotify_onlySignalled s slot idx v).trans (evRelink_onlySignalled _ _ _)

theorem evSetOwned_onlySignalled (s : State) (slot idx pa e : Nat) (v : Word) :
    OnlySignalled s (evSetOwned s slot idx pa e v) := by
  have h := (evWrite_onlySignalled s pa (evSetCtr e v)).trans (evTell_onlySignalled _ slot idx v)
  unfold evSetOwned
  dsimp only
  split_ifs
  · refine h.trans (OnlySignalled.foldl (fun s c => ?_) _ _)
    rfl
  · exact h

theorem evAdd_onlySignalled (s : State) (slot idx pa e : Nat) (inc : Word) : OnlySignalled s (evAdd s slot idx pa e inc) := by
  unfold evAdd
  split_ifs
  · rfl
  · exact evSetOwned_onlySignalled _ _ _ _ _ _

theorem engineSignal_onlySignalled (s : State) (slot g id : Nat) (name inc : Word) :
    OnlySignalled s (engineSignal s slot g id name inc) := by
  unfold engineSignal
  split_ifs
  · rfl
  · split
    · split_ifs
      · rfl
      · exact evAdd_onlySignalled _ _ _ _ _ _
    · rfl
  · rfl

end

/-! STREAMER_COMPLETE and QUEUE_FENCE_LEAVE (R288, R299). -/

section

variable {s : State} {c q n : Nat} {m e : Cmd}

theorem strQueue_updQueue (s : State) (c q p : Nat) (f : List Cmd → List Cmd) :
    strQueue (updQueue s c q f) c p = if p = q then f (strQueue s c q) else strQueue s c p := by
  refine (Store.get_upd s.strq (4 * c + q) (4 * c + p) f).trans ?_
  by_cases h : p = q
  · rw [if_pos h, if_pos (by omega)]
    rfl
  · rw [if_neg h, if_neg (by omega)]
    rfl

/-- The slot of a CPYR that ends is filled (R276). -/
def slotFilled (s : State) (m : Cmd) : State :=
  match m.slot with
  | some w => updRing s m.blk m.ringNo fun r => ringFilled r w (!m.fault.isNone)
  | none => s

theorem strq_slotFilled (s : State) (m : Cmd) : (slotFilled s m).strq = s.strq := by
  unfold slotFilled
  cases m.slot <;> rfl

/-- A command whose writes are over and whose records are accepted leaves its queue. -/
theorem exec_streamerComplete (hm : ((strQueue s c q).find? fun m => m.id == n) = some m) (hcopy : m.isCopy = true)
    (hmoved : m.moved = true) (ht : m.time < s.gt) (hrec : recWaiting s (m.g, 8 + m.pend) = false)
    (hroom : m.fault = none → m.op ≠ 0xB2 → signalRoom s (gAt s m.g).ctx m.ev 1#32 1 = true) :
    ∃ u, exec (.streamerComplete c q n) s = .next (dropPend u m.g m.pend) ∧
      u.strq = (updQueue s c q fun l => l.filter fun k => k.id != n).strq := by
  have hgo : ¬(!m.isCopy || !m.moved || decide (s.gt ≤ m.time) || recWaiting s (m.g, 8 + m.pend) ||
      ((m.fault.isNone && m.op != 0xB2) && !signalRoom s (gAt s m.g).ctx m.ev 1#32 1)) = true := by
    have hle : ¬s.gt ≤ m.time := by omega
    simp only [hcopy, hmoved, hrec, decide_eq_false hle, Bool.not_true, Bool.false_or, Bool.and_eq_true, Option.isNone_iff_eq_none,
      bne_iff_ne, Bool.not_eq_true', not_and, Bool.not_eq_false, and_imp]
    exact hroom
  show ∃ u, execStreamerComplete c q n s = _ ∧ _
  rw [execStreamerComplete, hm]
  dsimp only
  rw [if_neg hgo]
  refine ⟨_, rfl, ?_⟩
  split_ifs
  · exact (engineSignal_onlySignalled _ _ _ _ _ _).strq.trans (strq_slotFilled _ m)
  · exact strq_slotFilled _ m
  · exact (engineSignal_onlySignalled _ _ _ _ _ _).strq.trans (strq_slotFilled _ m)
  · exact strq_slotFilled _ m

/-- Each queue's oldest entry has left it. -/
def headsLeft (s : State) (c : Nat) (qs : List Nat) : State := qs.foldl (fun s q => updQueue s c q fun l => l.drop 1) s

theorem strQueue_headsLeft (s : State) (c p : Nat) {qs : List Nat} (hqs : qs.Nodup) :
    strQueue (headsLeft s c qs) c p = if p ∈ qs then (strQueue s c p).tail else strQueue s c p := by
  induction qs generalizing s with
  | nil => rfl
  | cons q qs ih =>
    obtain ⟨hq, hqs⟩ := List.nodup_cons.mp hqs
    rw [headsLeft, List.foldl_cons, ← headsLeft, ih _ hqs, strQueue_updQueue, List.drop_one]
    by_cases h : p = q
    · simp [h, hq]
    · simp [h]

/-- The queues that hold an entry of a fence. -/
def fenceQueues (s : State) (c n : Nat) : List Nat :=
  [0, 1, 2, 3].filter fun q => (strQueue s c q).any fun m => m.id == n && m.op == 0xBA

theorem exec_queueFenceLeave (hqs : fenceQueues s c n ≠ []) (hh : ∀ q ∈ fenceQueues s c n, (strQueue s c q).head? = some e)
    (he : e.id = n) : exec (.queueFenceLeave c n) s = .next (dropPend (headsLeft s c (fenceQueues s c n)) e.g n) := by
  have hready : ((fenceQueues s c n).all fun q => match strQueue s c q with
      | m :: _ => m.id == n
      | [] => false) = true := by
    rw [List.all_eq_true]
    intro q hq
    have := hh q hq
    cases hl : strQueue s c q with
    | nil => simp [hl] at this
    | cons m l =>
      rw [hl, List.head?_cons] at this
      obtain rfl := Option.some.inj this
      simp [he]
  show execQueueFenceLeave c n s = _
  rw [execQueueFenceLeave]
  dsimp only
  rw [← fenceQueues]
  cases hl : fenceQueues s c n with
  | nil => exact absurd hl hqs
  | cons q qs =>
    rw [hl] at hready
    dsimp only
    rw [hh q (hl ▸ List.mem_cons_self)]
    refine if_neg ?_
    rw [Bool.not_eq_true', Bool.not_eq_false]
    exact hready

theorem queueFenceLeave_leaves (hqs : fenceQueues s c n ≠ []) (hh : ∀ q ∈ fenceQueues s c n, (strQueue s c q).head? = some e)
    (he : e.id = n) : ∃ t, exec (.queueFenceLeave c n) s = .next t ∧ findPend (gAt t e.g) n = none ∧
      ∀ q, q < 4 → strQueue t c q = if q ∈ fenceQueues s c n then (strQueue s c q).tail else strQueue s c q :=
  ⟨_, exec_queueFenceLeave hqs hh he, findPend_dropPend_self _ _ _,
    fun q _ => strQueue_headsLeft s c q (List.Nodup.filter _ (by decide))⟩

end

end Sys2Proof.Machine

end

/-! A Skiver accepts a command and completes it (R258, R381, R383, R388, R399). -/

section

namespace Sys2Proof.Machine

open Sys2Proof.Claim

/-- The descriptor of a command does not lie at a multiple of 64 bytes (R381). -/
def kvUnaligned (m : KvCmd) : Bool :=
  match m.desc with
  | some va => va % 64 != 0
  | none => false

/-- What a Skiver decides of a command at its acceptance (R381). -/
def kvDecided (s : State) (m : KvCmd) : Kv :=
  if kvUnaligned m then (kvStart s m).fail ⟨cOPERAND, 0, []⟩ else kvRun m (kvStart s m)

/-- The state with which a command is accepted: a read of words that are being written takes a free value, but an MFOLD's
(R399). -/
def kvFresh (s : State) (m : KvCmd) : State := if m.olds.isEmpty || m.op = 0xE4 then s else spend s

section

variable {s : State} {die : Nat} {m : KvCmd} {e : KvFault}

theorem kvFresh_eq (s : State) (m : KvCmd) : kvFresh s m = if m.olds.isEmpty ∨ m.op = 0xE4 then s else spend s := by
  by_cases h : m.op = 0xE4 <;> simp [kvFresh, h]

theorem kvFresh_onlyHomes (s : State) (m : KvCmd) : OnlyHomes s (kvFresh s m) := by
  unfold kvFresh
  split_ifs <;> rfl

theorem inPart_kvPin (s : State) (m : KvCmd) (k : Kv) (g : Nat) : inPart (kvPin (kvFresh s m) k) g = inPart s g := by
  have h := (kvFresh_onlyHomes s m).trans (kvPin_onlyHomes (kvFresh s m) k)
  rw [show kvPin (kvFresh s m) k = _ from h]
  rfl

section

variable (hm : (Store.get s.kvq die).find? (kvMay s) = some m)

include hm

/-- The acceptance of the first command that may be accepted. -/
theorem execKvAccept_eq : execKvAccept die s = (kvDecided s m).err.elim
    (.next (wakeWith (kvMarked (kvKept (kvFresh s m) die m (kvDecided s m)) m) m.g m.f .nul []))
    fun e => if inPart (kvPin (kvFresh s m) (kvDecided s m)) m.g then .next s
      else if e.cause = cKV_NO_FREE_PAGE && !(kvDecided s m).plan.isEmpty then
        .next (kvTrap (kvKept (kvFresh s m) die m (kvDecided s m)) m e)
      else .next (kvTrap (dropPend (dropKv (kvPin (kvFresh s m) (kvDecided s m)) die m.id) m.g m.pend) m e) := by
  rw [execKvAccept]
  dsimp only
  rw [hm]
  change (match (kvDecided s m).err with
    | none => _
    | some e => _) = _
  cases (kvDecided s m).err <;> rfl

theorem exec_kvAccept_accepts (he : (kvDecided s m).err = none) : exec (.kvAccept die) s =
    .next (wakeWith (kvMarked (kvKept (kvFresh s m) die m (kvDecided s m)) m) m.g m.f .nul []) :=
  (execKvAccept_eq hm).trans (by rw [he]; rfl)

theorem exec_kvAccept_held (he : (kvDecided s m).err = some e) (hp : inPart s m.g = true) : exec (.kvAccept die) s = .next s :=
  (execKvAccept_eq hm).trans (by rw [he, inPart_kvPin]; exact if_pos hp)

theorem exec_kvAccept_keeps (he : (kvDecided s m).err = some e) (hp : inPart s m.g = false) (hc : e.cause = cKV_NO_FREE_PAGE)
    (hl : (kvDecided s m).plan ≠ []) : exec (.kvAccept die) s =
      .next (kvTrap (kvKept (kvFresh s m) die m (kvDecided s m)) m e) := by
  refine (execKvAccept_eq hm).trans ?_
  rw [he, inPart_kvPin]
  exact (if_neg (by simp [hp])).trans (if_pos (by simp [hc, hl]))

theorem exec_kvAccept_drops (he : (kvDecided s m).err = some e) (hp : inPart s m.g = false)
    (hc : e.cause ≠ cKV_NO_FREE_PAGE ∨ (kvDecided s m).plan = []) : exec (.kvAccept die) s =
      .next (kvTrap (dropPend (dropKv (kvPin (kvFresh s m) (kvDecided s m)) die m.id) m.g m.pend) m e) := by
  refine (execKvAccept_eq hm).trans ?_
  rw [he, inPart_kvPin]
  refine (if_neg (by simp [hp])).trans (if_neg ?_)
  rcases hc with h | h <;> simp [h]

end

/-! A command whose descriptor is aligned is run; any other fails before it has touched a line. -/

theorem kvDecided_aligned (h : ∀ va, m.desc = some va → va % 64 = 0) : kvDecided s m = kvRun m (kvStart s m) := by
  refine if_neg ?_
  rw [kvUnaligned]
  cases hd : m.desc with
  | none => exact Bool.false_ne_true
  | some va => simp [h va hd]

theorem kvDecided_unaligned {va : Nat} (hd : m.desc = some va) (h : va % 64 ≠ 0) :
    kvDecided s m = { kvStart s m with err := some ⟨cOPERAND, 0, []⟩ } := by
  refine (if_pos ?_).trans rfl
  rw [kvUnaligned, hd]
  simpa using h

theorem kvMarked_of_evict (s : State) (h : m.op = 0xE3) :
    kvMarked s m = ((kvStart s m).upd (m.pair 0) 64 fun d => putBits d 362 362 1).s := if_pos h

theorem kvMarked_of_other (s : State) (h : m.op ≠ 0xE3) : kvMarked s m = s := if_neg h

/-! KV_COMPLETE. -/

/-- An accepted command may end: its writes are over, its records are accepted, and its event has room (R258, R388). -/
def kvEnds (s : State) (m : KvCmd) : Bool :=
  m.acc && m.perf && decide (m.time < s.gt) && !recWaiting s (m.g, 8 + m.pend) &&
    (m.op != 0xE3 || signalRoom s m.ctx (w32 (m.reg 5)) 1#32 1)

theorem exec_kvComplete_performs (he : (Store.get s.kvq die).find? (kvEnds s) = none)
    (hm : ((Store.get s.kvq die).find? fun m => m.acc && !m.perf) = some m) :
    exec (.kvComplete die) s = .next (kvPerform s die m) := by
  show execKvComplete die s = _
  rw [execKvComplete]
  dsimp only
  unfold kvEnds at he
  rw [he, hm]

/-- A command that may end leaves its line. -/
theorem kvComplete_ends (he : (Store.get s.kvq die).find? (kvEnds s) = some m) : ∃ t, exec (.kvComplete die) s = .next t ∧
    Store.get t.kvq die = (Store.get s.kvq die).filter (fun k => k.id != m.id) ∧ findPend (gAt t m.g) m.pend = none := by
  have hline : Store.get (dropKv s die m.id).kvq die = (Store.get s.kvq die).filter (fun k => k.id != m.id) :=
    Store.get_upd_self _ _ _
  show ∃ t, execKvComplete die s = .next t ∧ _
  rw [execKvComplete]
  dsimp only
  unfold kvEnds at he
  rw [he]
  refine ⟨_, rfl, ?_, findPend_dropPend_self _ _ _⟩
  split_ifs
  · exact (congrArg (Store.get · die) (engineSignal_onlySignalled _ _ _ _ _ _).kvq).trans hline
  · exact hline

end

/-! A gather that has read its index is the same command but for that. -/

theorem indexed_eq (s : State) (m : Cmd) : indexed s m = { m with idx := (indexed s m).idx } := by
  unfold indexed
  split_ifs <;> rfl

theorem chunkData_indexed (s : State) (m : Cmd) (ps : List Nat) : chunkData s (indexed s m) ps = chunkData s m ps := by
  rw [indexed_eq]
  rfl

/-- A chunk whose places are known, and that no bank holds back, moves its bytes. -/
theorem streamerChunk_moves {s : State} {c q n : Nat} {m : Cmd} {from_ to_ : List Nat}
    (hm : ((strQueue s c q).find? fun m => m.id == n) = some m) (hv : mayMove s c q m = true)
    (hs : cmdSource s (indexed s m) = .inl from_) (hd : cmdDest s (indexed s m) = .inl to_)
    (hh : chunkHeld s (indexed s m) from_ to_ = false) :
    ∃ u, exec (.streamerChunk c q n) s = .next (cmdMove u c q (indexed s m) from_ to_) ∧ OnlyHomes s u ∧
      (m.usesSrc = true → m.olds = [] → m.op ≠ 0xB3 → m.op ≠ 0xB4 → m.local_ = true →
        ∀ x, Store.get (cmdMove u c q (indexed s m) from_ to_).ls x =
          written (zipBytes to_ (chunkData s m from_)) (Store.get s.ls) x) ∧
      (m.usesSrc = true → m.olds = [] → m.op ≠ 0xB3 → m.op ≠ 0xB4 → m.local_ = false → Plain s → (∀ x ∈ to_, x < 2 ^ 50) →
        HoldsBytes s (cmdMove u c q (indexed s m) from_ to_) (zipBytes to_ (chunkData s m from_))) := by
  have hu := chunkMet_onlyHomes s (indexed s m) from_ to_
  refine ⟨_, (exec_streamerChunk_places hm hv hs hd).trans (if_neg (by simp [hh])), hu, fun h1 h2 h3 h4 h5 => ?_,
    fun h1 h2 h3 h4 h5 => ?_⟩
  · rw [← chunkData_indexed]
    rw [indexed_eq] at hu ⊢
    exact ls_cmdMove hu h1 h2 h3 h4 h5
  · rw [← chunkData_indexed]
    rw [indexed_eq] at hu ⊢
    exact holdsBytes_cmdMove hu h1 h2 h3 h4 h5

/-- Settles O55: the streamer's steps by what each leaves of its queue and of the bytes that it moves, the Skiver's by what it
decides at a command's acceptance. -/
theorem streamersAndSkivers : Obligations.StreamersAndSkivers := by
  intro s c q n die cause fadr va m e km from_ to_ pages stop data mine read qs claimed line k fresh pinned keeps ended
  have hfresh : kvFresh s km = fresh := kvFresh_eq s km
  refine ⟨exec_streamerActivate_claims, exec_streamerActivate_idle, fun hc hn => ⟨fun h => ?_, fun h => ?_⟩,
    fun hm hv => ⟨exec_streamerChunk_source hm hv, exec_streamerChunk_dest hm hv, fun hs hd hh => ?_, streamerChunk_moves hm hv⟩,
    fun hm hcopy hmoved ht hrec hroom => ?_, queueFenceLeave_leaves, fun hm => ⟨fun hd h64 hp => ?_, fun hd h64 hp => ?_,
      fun hal => ⟨fun he hop => ?_, fun he hop => ?_, fun he hp => ?_, fun he hp hc => ?_, fun he hp hc hl => ?_⟩⟩,
    kvComplete_ends, exec_kvComplete_performs⟩
  · exact (exec_streamerActivate_next hc hn).trans (congrArg _ (if_neg h))
  · exact (exec_streamerActivate_next hc hn).trans (congrArg _ (if_pos h))
  · exact (exec_streamerChunk_places hm hv hs hd).trans (if_pos hh)
  · obtain ⟨u, hu, hstrq⟩ := exec_streamerComplete hm hcopy hmoved ht hrec hroom
    refine ⟨_, hu, ?_, findPend_dropPend_self _ _ _⟩
    refine (congrArg (Store.get · (4 * c + q)) hstrq).trans ?_
    exact (strQueue_updQueue s c q q _).trans (if_pos rfl)
  · exact exec_kvAccept_held hm (by rw [kvDecided_unaligned hd h64]) hp
  · have hdec := kvDecided_unaligned (s := s) hd h64
    have hexec := exec_kvAccept_drops hm (by rw [hdec]) hp (.inr (by rw [hdec]; rfl))
    rw [hdec, hfresh] at hexec
    exact hexec
  all_goals have hdec : kvDecided s km = k := kvDecided_aligned hal
  · refine ⟨_, exec_kvAccept_accepts hm (hdec ▸ he), ?_⟩
    rw [hdec, hfresh, kvMarked_of_other _ hop]
    exact woken_wakeWith _ _ _ _ _
  · refine (exec_kvAccept_accepts hm (hdec ▸ he)).trans ?_
    rw [hdec, hfresh, kvMarked_of_evict _ hop]
    rfl
  · exact exec_kvAccept_held hm (hdec ▸ he) hp
  · have hexec := exec_kvAccept_drops hm (hdec ▸ he) hp (hdec ▸ hc)
    rw [hdec, hfresh] at hexec
    exact hexec
  · have hexec := exec_kvAccept_keeps hm (hdec ▸ he) hp hc (hdec ▸ hl)
    rw [hdec, hfresh] at hexec
    exact hexec

end Sys2Proof.Machine

end

/-! Loads become pending operations (R223 to R229). -/

section

namespace Sys2Proof.Machine

open Sys2Proof.Claim

/-! A trap of all threads of a fragment at an access of their own (R75, R418). -/

theorem raiseAt_own {s : State} (h : (cf s).st = .ready) (cause : Nat) (fadr : Quad) (own : Bool) :
    raiseAt s cause (active s) fadr (cf s).pc [] own =
      noteTrap (updCF s fun _ => Frag.splitOff s cause (active s) fadr own) s.curG cause (active s) := by
  have hw : trapsWholeOf s s.curG s.curF (active s) = true := trapsWholeOf_of_takesWhole (.inl rfl)
  rw [raiseAt, isHandler_of_ready h, enterHandler, hw]
  rfl

theorem trapped_raiseAt_own {s : State} (h : (cf s).st = .ready) (cause : Nat) (fadr : Quad) (own : Bool) :
    Trapped s (raiseAt s cause (active s) fadr (cf s).pc [] own) cause (active s) fadr own := by
  have hu := onlyFragment_updCF s fun _ => Frag.splitOff s cause (active s) fadr own
  have frag (i : Nat) : fragAt (noteTrap (updCF s fun _ => Frag.splitOff s cause (active s) fadr own) s.curG cause (active s))
      s.curG i = fragAt (updCF s fun _ => Frag.splitOff s cause (active s) fadr own) s.curG i :=
    fragAt_updG (fun _ => by rfl) _ _ _ _
  rw [raiseAt_own h]
  exact ⟨hu.1.trans (onlyGroup_updCG _ _), trapNoted_noteTrap hu.1 hu.2.1 cause _, fun i hi => (frag i).trans (hu.2.2 i hi),
    (frag s.curF).trans ((cf_updCF s _).trans (splitOff_of_ready h cause fadr own))⟩

/-! The checks of the threads' accesses (R227, R246). -/

/-- The checks of the accesses of some threads. -/
def accessChecks (s : State) (k : AccKind) (a b : Opnd) (nrz : Bool) (n : Nat) (ts : List Nat) : List ThreadCheck :=
  ts.map fun t => checkThread s k (isLs a) nrz t (addrOf s a b t) n

section

variable {s : State} {k : AccKind} {a b : Opnd} {nrz : Bool} {n : Nat}

theorem checkThread_passes {t : Nat} (h : ∀ c r, reach s k a nrz (addrOf s a b t) n ≠ .trap c r) :
    ∃ x, checkThread s k (isLs a) nrz t (addrOf s a b t) n = .ok x ∧ x.t = t ∧ AccessOf s k a b nrz n x := by
  cases hr : reach s k a nrz (addrOf s a b t) n with
  | trap c r => exact absurd hr (h c r)
  | ok pa pl win =>
    have hc := hr
    rw [reach] at hc
    rw [checkThread, hc]
    exact ⟨_, rfl, rfl, rfl, rfl, by rw [hr]; exact ⟨rfl, rfl, rfl, rfl, rfl⟩⟩
  | zero =>
    have hc := hr
    rw [reach] at hc
    rw [checkThread, hc]
    exact ⟨_, rfl, rfl, rfl, rfl, by rw [hr]; exact ⟨rfl, rfl, rfl⟩⟩

theorem checkThread_traps {t cause : Nat} {rec : Bool} (h : reach s k a nrz (addrOf s a b t) n = .trap cause rec) :
    checkThread s k (isLs a) nrz t (addrOf s a b t) n = .trap t cause rec (addrOf s a b t) (addrOf s a b t / frameBytes) := by
  rw [reach] at h
  rw [checkThread, h]

/-- Where every thread's access passes, the checks are one access for each, in order. -/
theorem accessChecks_pass {ts : List Nat} (h : ∀ t ∈ ts, ∀ c r, reach s k a nrz (addrOf s a b t) n ≠ .trap c r) :
    ∃ as : List Acc, accessChecks s k a b nrz n ts = as.map .ok ∧ as.map (·.t) = ts ∧ ∀ c ∈ as, AccessOf s k a b nrz n c := by
  induction ts with
  | nil => exact ⟨[], rfl, rfl, by simp⟩
  | cons t ts ih =>
    obtain ⟨as, hcs, hts, has⟩ := ih fun x hx => h x (List.mem_cons_of_mem _ hx)
    obtain ⟨x, hx, hxt, hxa⟩ := checkThread_passes (h t List.mem_cons_self)
    exact ⟨x :: as, by rw [accessChecks, List.map_cons, hx]; exact congrArg _ hcs, by rw [List.map_cons, hxt, hts],
      List.forall_mem_cons.mpr ⟨hxa, has⟩⟩

theorem passing_ne_nil {cs : List ThreadCheck} {x : Acc} (h : .ok x ∈ cs) : passing cs ≠ [] :=
  List.ne_nil_of_mem (List.mem_filterMap.mpr ⟨_, h, rfl⟩)

/-- A check that fails without a fault record. -/
def TrapsUnrecorded (c : ThreadCheck) (t cause fadr : Nat) : Prop := ∃ page, c = .trap t cause false fadr page

theorem passing_of_traps {f : Nat → ThreadCheck} {ts : List Nat} (h : ∀ t ∈ ts, ∃ c x, TrapsUnrecorded (f t) t c x) :
    passing (ts.map f) = [] := by
  rw [passing, List.filterMap_map, List.filterMap_eq_nil_iff]
  intro t ht
  obtain ⟨c, x, p, hc⟩ := h t ht
  simp [hc]

theorem trapping_of_traps {f : Nat → ThreadCheck} {ts : List Nat} (h : ∀ t ∈ ts, ∃ c x, TrapsUnrecorded (f t) t c x) :
    trapping (ts.map f) = ts := by
  rw [trapping, List.filterMap_map]
  refine (List.filterMap_congr fun t ht => ?_).trans List.filterMap_some
  obtain ⟨c, x, p, hc⟩ := h t ht
  simp [hc]

theorem trapRecords_of_traps {f : Nat → ThreadCheck} {ts : List Nat} (kind : Nat)
    (h : ∀ t ∈ ts, ∃ c x, TrapsUnrecorded (f t) t c x) : trapRecords kind (ts.map f) = [] := by
  rw [trapRecords, List.filterMap_map, List.filterMap_eq_nil_iff.mpr]
  · rfl
  · intro t ht
    obtain ⟨c, x, p, hc⟩ := h t ht
    simp [hc]

end

/-! The issue of an access that changes nothing of the region (R35, R227, R247). -/

section

variable {s : State} {cls kind : Nat} {uni : Bool} {mk : List Acc → Pend}

/-- Where the checks of all threads fail without a fault record, the whole fragment traps with the first. -/
theorem issueMem_traps {cs : List ThreadCheck} {cause fadr : Nat} (hp : passing cs = []) (ht : trapping cs ≠ [])
    (hf : firstTrap cs = (cause, fadr)) (hr : trapRecords kind cs = []) (h0 : active s ≠ 0#32)
    (hall : (if uni then active s else maskOf (trapping cs)) = active s) : issueMem s cls uni false kind cs mk =
      .next (raiseAt s cause (active s) (w64 fadr) (cf s).pc [] (cause != cOPERAND)) := by
  have hw : trapsWhole s (active s) = true := trapsWholeOf_of_takesWhole (.inl rfl)
  simp [issueMem, hp, ht, hf, hr, hall, hw, raiseSome, emptyMask, h0]

variable {i : Instr} {d a b : Opnd} {k : AccKind} {nrz : Bool} {n : Nat} {p : Pend → Prop}

/-- Where an instruction executes for all active threads, or for the lowest, the lowest is the first. -/
theorem lowest_execThreads {j : Nat} (hj : lowest (active s) = some j)
    (hall : uniform d = true ∨ selected s = active s) : ∃ ts, execThreads s d = j :: ts := by
  by_cases hu : uniform d = true
  · rw [← accThreads_uniform, accThreads, if_pos hu, hj]
    exact ⟨[], rfl⟩
  · rw [execThreads_vector (by simpa using hu), hall.resolve_left hu]
    exact ⟨_, List.eq_cons_of_mem_head? hj⟩

theorem maskOf_execThreads (hall : uniform d = true ∨ selected s = active s) :
    (if uniform d then active s else maskOf (execThreads s d)) = active s := by
  by_cases hd : uniform d = true
  · rw [if_pos hd]
  · rw [if_neg hd, execThreads_vector (by simpa using hd), hall.resolve_left hd, maskOf_threads]

/-- A memory instruction that leaves the region alone, by the operation that it becomes. -/
theorem issues_of_exec (hi : exec i s = issueMem s cls (uniform d) false kind (accessChecks s k a b nrz n (execThreads s d)) mk)
    (haccs : ∀ as, (mk as).accs = as) (hls : ∀ as, (mk as).scratch = isLs a) (hp : ∀ as, p (newPend s cls (mk as))) :
    Issues s i d cls false k a b nrz n p := by
  refine ⟨?stalls, ?nobody, ?passes, ?traps⟩
  case stalls =>
    intro ⟨j, hj, hpass⟩ hfull
    obtain ⟨x, hx, -, -⟩ := checkThread_passes hpass
    exact hi.trans (issueMem_stalls false (passing_ne_nil (List.mem_map.mpr ⟨j, hj, hx⟩)) hfull)
  case nobody =>
    intro hjs
    exact ⟨_, hi.trans (by rw [hjs]; exact issueMem_nothing), onlyGoesOn_advance s⟩
  case passes =>
    intro hopen hjs hpass
    obtain ⟨as, hcs, hts, has⟩ := accessChecks_pass hpass
    have hne : as ≠ [] := fun h => hjs (by rw [← hts, h]; rfl)
    refine ⟨_, hi.trans (by rw [hcs]; exact issueMem_passes hne hopen), pended_advance ⟨?_, ?_, hls as, hp as⟩⟩
    · exact (congrArg (List.map _) (haccs as)).trans hts
    · exact fun c hc => has c (haccs as ▸ hc)
  case traps =>
    intro j cause hst hj hall hfail hcause
    obtain ⟨ts, hts⟩ := lowest_execThreads hj hall
    have htraps : ∀ t ∈ execThreads s d, ∃ c x, TrapsUnrecorded (checkThread s k (isLs a) nrz t (addrOf s a b t) n) t c x :=
      fun t ht => let ⟨c, hc⟩ := hfail t ht; ⟨c, _, _, checkThread_traps hc⟩
    have htrapping := trapping_of_traps htraps
    have hfirst : firstTrap (accessChecks s k a b nrz n (execThreads s d)) = (cause, addrOf s a b j) := by
      rw [hts, accessChecks, List.map_cons, checkThread_traps hcause]
      rfl
    refine ⟨_, hi.trans (issueMem_traps (passing_of_traps htraps) ?_ hfirst (trapRecords_of_traps _ htraps) ?_ ?_),
      trapped_raiseAt_own hst cause _ _⟩
    · rw [accessChecks, htrapping, hts]
      exact List.cons_ne_nil _ _
    · intro h0
      rw [h0] at hj
      cases hj
    · rw [accessChecks, htrapping]
      exact maskOf_execThreads hall

end

/-! The statement. -/

/-- A load issues as one operation that carries what it does with the bytes (R228, R229). -/
theorem issues_load {s : State} {i : Instr} {n : Nat} {sx : Bool} {d a b : Opnd} (hi : exec i s = load s n sx d a b) :
    Issues s i d 1 false .read a b (mNrz (cf s).mode) n fun q => q.kind = .load ∧ q.dst = d ∧ q.uni = uniform d ∧ q.sx = sx ∧
      q.nrp = if mNrz (cf s).mode then some (mNrp (cf s).mode) else none := by
  rw [load, accThreads_uniform] at hi
  exact issues_of_exec hi (fun _ => rfl) (fun _ => rfl) fun _ => ⟨rfl, rfl, rfl, rfl, rfl⟩

/-- Settles O32: the seven loads differ in their width and in the extension of the sign alone. -/
theorem loadsIssue : Obligations.LoadsIssue := fun _ _ _ _ =>
  ⟨issues_load rfl, issues_load rfl, issues_load rfl, issues_load rfl, issues_load rfl, issues_load rfl, issues_load rfl⟩

end Sys2Proof.Machine

end

/-! PRF and PGREQ change no register and no byte of memory when they issue (R237, R238). -/

section

namespace Sys2Proof.Machine

open Sys2Proof.Claim

/-! What a prefetch changes (R209 to R213, R237). -/

/-- From s to t only the lines of the caches and at the homes, the write-backs of victims, and counters may differ. -/
def OnlyCaches (s t : State) : Prop := t = { s with
  l1 := t.l1, l2 := t.l2, ls := t.ls, hw := t.hw, nextId := t.nextId, evmax := t.evmax, fresh := t.fresh, pmc := t.pmc
  msix := t.msix }

section

variable {s t u : State}

theorem OnlyCaches.refl (s : State) : OnlyCaches s s := rfl

theorem OnlyCaches.trans (h : OnlyCaches s t) (k : OnlyCaches t u) : OnlyCaches s u := by
  unfold OnlyCaches at *
  rw [k, h]

theorem OnlyCaches.foldl {α : Type} {f : State → α → State} (h : ∀ s a, OnlyCaches s (f s a)) (l : List α) (s : State) :
    OnlyCaches s (l.foldl f s) := by
  induction l generalizing s with
  | nil => exact .refl s
  | cons a l ih => exact (h s a).trans (ih _)

theorem OnlyHomes.onlyCaches (h : OnlyHomes s t) : OnlyCaches s t := by
  rw [OnlyCaches, show t = _ from h]

/-- What follows a change of the caches is, but for it, what follows without. -/
theorem OnlyCaches.onlyGoesOn (h : OnlyCaches s t) : OnlyGoesOn s { advance t with
    l1 := s.l1, l2 := s.l2, ls := s.ls, hw := s.hw, nextId := s.nextId, evmax := s.evmax, fresh := s.fresh, pmc := s.pmc
    msix := s.msix } := by
  have hs : { advance t with
      l1 := s.l1, l2 := s.l2, ls := s.ls, hw := s.hw, nextId := s.nextId, evmax := s.evmax, fresh := s.fresh, pmc := s.pmc
      msix := s.msix } = advance s := by
    rw [show t = _ from h]
    rfl
  rw [hs]
  exact onlyGoesOn_advance s

end

theorem writeBack_onlyCaches (s : State) (b k set : Nat) : OnlyCaches s (writeBack s b k set) := by
  rw [OnlyCaches, writeBack_frame]

theorem setL1_onlyCaches (s : State) (c k t : Nat) (x : L1Tag) : OnlyCaches s (setL1 s c k t x) := rfl

theorem l1Alloc_onlyCaches (s : State) (b line rrpv : Nat) : OnlyCaches s (l1Alloc s b line rrpv).1 := by
  unfold l1Alloc
  split
  · exact .refl s
  · split
    · exact .refl s
    · dsimp only
      split_ifs
      · exact (writeBack_onlyCaches s _ _ _).trans (setL1_onlyCaches _ _ _ _ _)
      · exact (OnlyCaches.foldl (fun s j => setL1_onlyCaches s _ _ _ _) _ s).trans
          ((writeBack_onlyCaches _ _ _ _).trans (setL1_onlyCaches _ _ _ _ _))

theorem l1Fill_onlyCaches (s : State) (b line lease rrpv sectors : Nat) : OnlyCaches s (l1Fill s b line lease rrpv sectors) := by
  have ha := l1Alloc_onlyCaches s b line rrpv
  unfold l1Fill
  split
  next u h => rwa [h] at ha
  next u k h =>
    rw [h] at ha
    refine ha.trans (.trans (OnlyCaches.foldl (fun v o => ?_) _ u) (setL1_onlyCaches _ _ _ _ _))
    split_ifs <;> rfl

theorem homeFill_onlyCaches (s : State) (b line rrpv sectors : Nat) : OnlyCaches s (homeFill s b line rrpv sectors) :=
  (show OnlyCaches s (grantLease s (redirectLine s line)).1 from rfl).trans (l1Fill_onlyCaches _ _ _ _ _ _)

theorem prefetchLine_onlyCaches (s : State) (level rd b slot line : Nat) (as : List Acc) :
    OnlyCaches s (prefetchLine s level rd b slot line as) := by
  have hm := (homeMeet_onlyHomes s b slot line as).onlyCaches
  unfold prefetchLine
  split_ifs
  · exact .refl s
  · exact hm
  · exact .refl s
  · exact hm.trans (homeFill_onlyCaches _ _ _ _ _)

/-- PRF goes on after its lines. -/
theorem exec_prf (l : BitVec 1) (a b : Opnd) (s : State) : ∃ u, exec (.prf l a b) s = .next (advance u) ∧ OnlyCaches s u ∧
    (a = .ls → u = s) := by
  show ∃ u, execPrf l a b s = .next (advance u) ∧ _
  unfold execPrf
  split_ifs with ha
  · exact ⟨s, rfl, .refl s, fun _ => rfl⟩
  · exact ⟨_, rfl, .foldl (fun s line => prefetchLine_onlyCaches s _ _ _ _ _ _) _ s,
      fun h => absurd (by rw [h]; rfl) ha⟩

/-! Fault records that an operation offers (R277). -/

/-- From s to t only the fault records and the performance counters, with their interrupt, may differ. -/
def OnlyRecords (s t : State) : Prop := t = { s with fq := t.fq, pmc := t.pmc, msix := t.msix }

theorem OnlyRecords.trans {s t u : State} (h : OnlyRecords s t) (k : OnlyRecords t u) : OnlyRecords s u := by
  unfold OnlyRecords at *
  rw [k, h]

theorem OnlyRecords.foldl {α : Type} {f : State → α → State} (h : ∀ s a, OnlyRecords s (f s a)) (l : List α) (s : State) :
    OnlyRecords s (l.foldl f s) := by
  induction l generalizing s with
  | nil => rfl
  | cons a l ih => exact (h s a).trans (ih _)

theorem pmcCount_onlyRecords (s : State) (ks : List Nat) (code n : Nat) : OnlyRecords s (pmcCount s ks code n) := by
  unfold pmcCount
  split_ifs
  · rfl
  · refine .foldl (fun s k => ?_) ks s
    unfold pmcAdd
    dsimp only
    split_ifs <;> rfl

theorem faultRec_onlyRecords (s : State) (r : FaultRec) : OnlyRecords s (faultRec s r) := by
  unfold faultRec
  refine (pmcCount_onlyRecords s (bridgePmcs 0) 0x30 1).trans ?_
  dsimp only
  split_ifs
  · unfold putRec
    dsimp only
    split_ifs <;> rfl
  · rfl

/-! PGREQ (R238). -/

/-- What PGREQ finds of the page of a thread's address. -/
def pageStatus (s : State) (a b : Opnd) (t : Nat) : Nat :=
  if isLs a then 0
  else if vaEnd ≤ addrOf s a b t then 2
  else match translate s (coreCaches (coreOf s.curG)) (cg s).ctx (addrOf s a b t / frameBytes) with
    | .notResident => 1
    | _ => 0

/-- The operation that PGREQ becomes. -/
def pageRequest (s : State) (d a b : Opnd) : Pend :=
  { (default : Pend) with
    kind := .pgreq, dst := d, uni := uniform d
    accs := (execThreads s d).map fun t =>
      { (default : Acc) with t := t, n := 4, got := true, bs := leBytes 4 (pageStatus s a b t) } }

/-- The pages that PGREQ requests. -/
def pagesAsked (s : State) (d a b : Opnd) : List Nat :=
  distinct (((execThreads s d).filter fun t => pageStatus s a b t == 1).map fun t => addrOf s a b t / frameBytes)

/-- The state with the records of those pages offered. -/
def pagesRequested (s : State) (d a b : Opnd) : State :=
  (pagesAsked s d a b).foldl (fun u p => faultRec u ⟨ctxidOf u (cg u).ctx, p, 4, some (u.curG, 8 + s.nextId)⟩)
    (addPend s 1 (pageRequest s d a b)).1

section

variable {s : State} {d a b : Opnd}

theorem execPgreq_eq (s : State) (d a b : Opnd) : execPgreq d a b s =
    if (execThreads s d).isEmpty then done s
    else if flagFull s 1 then .next (stallHere s)
    else .next (advance (pagesRequested s d a b)) := by
  rw [← accThreads_uniform]
  unfold execPgreq pagesRequested pagesAsked pageRequest
  rw [← accThreads_uniform]
  rfl

theorem pagesRequested_onlyRecords (s : State) (d a b : Opnd) :
    OnlyRecords (addPend s 1 (pageRequest s d a b)).1 (pagesRequested s d a b) :=
  .foldl (fun s _ => faultRec_onlyRecords s _) _ _

/-- But for the records that it offers, PGREQ only becomes pending. -/
theorem pended_pageRequest {P : Pend → Prop} (hp : P (newPend s 1 (pageRequest s d a b))) :
    Pended s { advance (pagesRequested s d a b) with fq := s.fq, pmc := s.pmc, msix := s.msix } 1 P := by
  have hu : { advance (pagesRequested s d a b) with fq := s.fq, pmc := s.pmc, msix := s.msix } =
      advance (addPend s 1 (pageRequest s d a b)).1 := by
    rw [show pagesRequested s d a b = _ from pagesRequested_onlyRecords s d a b]
    rfl
  rw [hu]
  exact pended_advance hp

/-- The page at an address of a thread, where the address is in range. -/
def pageFound (s : State) (a b : Opnd) (t : Nat) : Option Tr :=
  if vaEnd ≤ addrOf s a b t then none
  else some (translate s (coreCaches (coreOf s.curG)) (cg s).ctx (addrOf s a b t / frameBytes))

theorem pageStatus_scratch (ha : a = .ls) (t : Nat) : pageStatus s a b t = 0 := if_pos (by rw [ha]; rfl)

theorem pageStatus_global (ha : a ≠ .ls) (t : Nat) : pageStatus s a b t = match pageFound s a b t with
    | none => 2
    | some .notResident => 1
    | some _ => 0 := by
  rw [pageStatus, if_neg (by simpa [isLs] using ha), pageFound]
  by_cases hv : vaEnd ≤ addrOf s a b t
  · rw [if_pos hv, if_pos hv]
  · rw [if_neg hv, if_neg hv]
    cases translate s (coreCaches (coreOf s.curG)) (cg s).ctx (addrOf s a b t / frameBytes) <;> rfl

theorem pagesAsked_eq_nil (h : a = .ls ∨ ∀ t ∈ execThreads s d, pageFound s a b t ≠ some .notResident) :
    pagesAsked s d a b = [] := by
  have hn : (execThreads s d).filter (fun t => pageStatus s a b t == 1) = [] := by
    refine List.filter_eq_nil_iff.mpr fun t ht => ?_
    by_cases ha : a = .ls
    · rw [pageStatus_scratch ha]
      exact Bool.false_ne_true
    · rw [pageStatus_global ha]
      have hf := h.resolve_left ha t ht
      split
      · decide
      · next hr => exact absurd hr hf
      · decide
  rw [pagesAsked, hn]
  rfl

end

/-- Settles O36: PRF changes only caches and counters on the way, PGREQ adds its operation and offers its records. -/
theorem prefetchAndPageRequests : Obligations.PrefetchAndPageRequests := by
  intro s l d a b
  refine ⟨?prf, ?nobody, ?asks, ?stalls⟩
  case prf =>
    obtain ⟨u, hu, hc, hls⟩ := exec_prf l a b s
    refine ⟨advance u, hu, ?_, fun h => hls h ▸ onlyGoesOn_advance s, hc.onlyGoesOn⟩
    rw [show u = _ from hc]
    rfl
  case nobody =>
    exact fun h => ⟨_, (execPgreq_eq s d a b).trans (if_pos (by rw [h]; rfl)), onlyGoesOn_advance s⟩
  case asks =>
    intro h hopen
    have hi : exec (.pgreq d a b) s = .next (advance (pagesRequested s d a b)) := by
      unfold flagOpen at hopen
      exact (execPgreq_eq s d a b).trans (by rw [if_neg (by simpa using h), if_neg (by simpa using hopen)])
    refine ⟨_, hi, pended_pageRequest ⟨rfl, rfl, rfl, ?threads, ?results⟩, ?records⟩
    case threads => exact (List.map_map ..).trans (List.map_id _)
    case results =>
      intro c hc
      obtain ⟨t, -, rfl⟩ := List.mem_map.mp hc
      have status (ha : a ≠ .ls) {r : Option Tr} (hr : pageFound s a b t = r) := hr ▸ pageStatus_global (b := b) ha t
      refine ⟨rfl, fun ha => congrArg (leBytes 4) (pageStatus_scratch ha t), fun ha => ⟨fun hr => ?_, fun hr => ?_, fun x hr hx => ?_⟩⟩
      · exact congrArg (leBytes 4) (status ha hr)
      · exact congrArg (leBytes 4) (status ha hr)
      · refine congrArg (leBytes 4) ((status ha hr).trans ?_)
        cases x with
        | notResident => exact absurd rfl hx
        | _ => rfl
    case records =>
      intro hn
      have hp : pagesRequested s d a b = (addPend s 1 (pageRequest s d a b)).1 := by
        rw [pagesRequested, pagesAsked_eq_nil hn]
        rfl
      rw [hp]
      rfl
  case stalls =>
    intro h hfull
    unfold flagOpen at hfull
    exact (execPgreq_eq s d a b).trans (by rw [if_neg (by simpa using h), if_pos (by simpa using hfull)])

end Sys2Proof.Machine

end

/-! Fences, FRC, WTIME and FLUSH (R240 to R244). -/

section

namespace Sys2Proof.Machine

open Sys2Proof.Claim

/-! The write-backs of a block (R210, R240). -/

/-- From s to t only lines of the L1 and the requests to the homes, with their numbers, may differ. -/
def OnlySent (s t : State) : Prop := t = { s with hw := t.hw, l1 := t.l1, nextId := t.nextId }

theorem foldl_writeBacks_onlySent (b : Nat) (ks : List Nat) (s : State) :
    OnlySent s (ks.foldl (fun s k => writeBacks s b k) s) := by
  induction ks generalizing s with
  | nil => rfl
  | cons k ks ih =>
    obtain ⟨hw, l1, id, h⟩ := foldl_writeBack_frame b k (List.range 256) s
    have hk := ih (writeBacks s b k)
    unfold OnlySent at hk ⊢
    rw [List.foldl_cons, hk, writeBacks, h]

theorem writeBackAll_onlySent (s : State) (b : Nat) : OnlySent s (writeBackAll s b) := foldl_writeBacks_onlySent b _ s

/-- Another state of the groups changes nothing of a write-back. -/
theorem writeBack_withGroups (s : State) (gs : Store Group) (b k set : Nat) :
    writeBack { s with groups := gs } b k set = { writeBack s b k set with groups := gs } := by
  have ht : l1At { s with groups := gs } (b / 4) k set = l1At s (b / 4) k set := rfl
  unfold writeBack
  dsimp only
  rw [ht]
  split_ifs <;> rfl

theorem foldl_withGroups {α : Type} {f : State → α → State} (gs : Store Group)
    (h : ∀ s a, f { s with groups := gs } a = { f s a with groups := gs }) (l : List α) (s : State) :
    l.foldl f { s with groups := gs } = { l.foldl f s with groups := gs } := by
  induction l generalizing s with
  | nil => rfl
  | cons a l ih => rw [List.foldl_cons, h, ih, List.foldl_cons]

theorem writeBackAll_withGroups (s : State) (gs : Store Group) (b : Nat) :
    writeBackAll { s with groups := gs } b = { writeBackAll s b with groups := gs } :=
  foldl_withGroups gs (fun s k => foldl_withGroups gs (fun s t => writeBack_withGroups s gs b k t) _ s) _ s

theorem dropL1_onlySent (s : State) (b : Nat) : dropL1 s b = { s with l1 := (dropL1 s b).l1 } := by
  unfold dropL1
  generalize lineBanks s b = ks
  induction ks generalizing s with
  | nil => rfl
  | cons k ks ih =>
    rw [List.foldl_cons, ih]
    rfl

/-! A fence that is over at once (R240, R241). -/

section

variable {s : State} {sc : Nat} {rel acq : Bool}

theorem onlyFragment_wakeWith (s : State) : OnlyFragment s (wakeWith s s.curG s.curF .nul []) := by
  obtain ⟨ht, hothers, hg, hfrags, -, hs⟩ := woken_wakeWith s s.curG s.curF .nul []
  have hc : (wakeWith s s.curG s.curF .nul []).curG = s.curG := wakeWith_curG _ _ _ _ _
  refine ⟨⟨ht, hothers, by rw [ht]; exact ⟨fun _ => rfl, fun _ => rfl⟩⟩, ?_, hfrags⟩
  rw [cg, cg, hc, hg, hs]

theorem cf_waitFor (s : State) (w : Wait) : cf (waitFor s w) =
    { cf s with st := if (cf s).st = .handler then .handler else .waiting, wait := w } := cf_updCF s _

/-- A fragment that waits and goes on at once is where it is after its instruction. -/
theorem afterWait_eq (h : (cf s).st = .ready ∨ (cf s).st = .handler) (w : Wait) :
    (cf (waitFor s w)).woken.onward = afterWait s := by
  rw [cf_waitFor, Frag.woken, afterWait]
  obtain h | h := h <;> simp [h, Frag.onward]

/-- The wait of a fence at its issue, or once its write-backs have been sent. -/
def fenceWait (s : State) (sc : Nat) (rel acq : Bool) (n : Option Nat) : Wait := .fence sc rel acq s.nextId n 0 0#32 0#32

/-- The state in which a fence begins its first round. -/
def fenceStart (s : State) (sc : Nat) (rel acq : Bool) : State := waitFor s (fenceWait s sc rel acq none)

/-- Does an earlier operation of the group keep a fence waiting? -/
def fenceHeld (s : State) (rel acq : Bool) : Bool :=
  (rel && pendBefore (cg s) s.nextId PendKind.counted) || (acq && pendBefore (cg s) s.nextId PendKind.loads)

/-- The write-backs of the acting block have been sent. -/
def sentAll (s : State) : State := writeBackAll s (blkOf s.curG)

theorem sentAll_onlySent (s : State) : OnlySent s (sentAll s) := writeBackAll_onlySent s _

theorem sentAll_mem (s : State) : (sentAll s).mem = s.mem := by rw [show sentAll s = _ from sentAll_onlySent s]

/-- The state once a fence has sent its write-backs; `v` is that in which it began. -/
def fenceSent (v : State) (w : Wait) : State := updCF (sentAll v) fun f => { f with wait := w }

/-- The first round of a fence: it is held, is over, or sends its write-backs and may be over then. -/
theorem fenceRound_first {v : State} {n after : Nat} {x y : Word} (hw : (cf v).wait = .fence sc rel acq n none after x y) :
    fenceRound v v.curG v.curF =
      if (rel && pendBefore (cg v) n PendKind.counted) || (acq && pendBefore (cg v) n PendKind.loads) then (v, false)
      else if !rel || sc < 2 then (v, true)
      else fenceClose (fenceSent v (.fence sc rel acq n (some (sentAll v).nextId) after x y)) (blkOf v.curG) (sentAll v).nextId sc := by
  have hc : (sentAll v).curG = v.curG ∧ (sentAll v).curF = v.curF := by
    rw [show sentAll v = _ from sentAll_onlySent v]
    exact ⟨rfl, rfl⟩
  have hw' : (fragAt v v.curG v.curF).wait = .fence sc rel acq n none after x y := hw
  rw [fenceRound, hw', fenceSent, updCF, hc.1, hc.2]
  rfl

theorem pendBefore_fenceStart (n : Nat) (k : PendKind → Bool) :
    pendBefore (cg (fenceStart s sc rel acq)) n k = pendBefore (cg s) n k := by
  rw [fenceStart, waitFor, cg_updCF]
  rfl

theorem wait_fenceStart : (cf (fenceStart s sc rel acq)).wait = fenceWait s sc rel acq none := by rw [fenceStart, cf_waitFor]

theorem fence_of_round {u : State} {ended : Bool}
    (h : fenceRound (fenceStart s sc rel acq) (fenceStart s sc rel acq).curG (fenceStart s sc rel acq).curF = (u, ended)) :
    fence s sc rel acq = .next (if ended then wakeWith u u.curG u.curF .nul [] else u) := by
  have hf : fence s sc rel acq =
      match fenceRound (fenceStart s sc rel acq) (fenceStart s sc rel acq).curG (fenceStart s sc rel acq).curF with
      | (u, ended) => .next (if ended then wakeWith u u.curG u.curF .nul [] else u) := rfl
  rw [hf, h]

theorem fence_held (h : fenceHeld s rel acq = true) : fence s sc rel acq = .next (fenceStart s sc rel acq) :=
  fence_of_round (ended := false) (by rw [fenceRound_first wait_fenceStart, pendBefore_fenceStart, pendBefore_fenceStart]; exact if_pos h)

theorem fence_over (h : fenceHeld s rel acq = false) (hs : (!rel || decide (sc < 2)) = true) :
    fence s sc rel acq = .next (wakeWith (fenceStart s sc rel acq) s.curG s.curF .nul []) :=
  fence_of_round (ended := true) (by
    rw [fenceRound_first wait_fenceStart, pendBefore_fenceStart, pendBefore_fenceStart]
    exact (if_neg (Bool.eq_false_iff.mp h)).trans (if_pos hs))

/-- The waiting fragment of a fence that has sent its write-backs, but for the caches and the requests. -/
def fenceWaiting (s : State) (sc : Nat) (rel acq : Bool) : State :=
  updCF (fenceStart s sc rel acq) fun f => { f with wait := fenceWait s sc rel acq (some (sentAll s).nextId) }

/-- The state `z` with requests, lines of the L1 and numbers of `u`, and lines `l2` at the homes. -/
def withSent (z u : State) (l2 : Store L2Line) : State := { z with hw := u.hw, l1 := u.l1, nextId := u.nextId, l2 := l2 }

theorem sentAll_fenceStart (s : State) (sc : Nat) (rel acq : Bool) :
    sentAll (fenceStart s sc rel acq) = withSent (fenceStart s sc rel acq) (sentAll s) s.l2 := by
  have h : sentAll (fenceStart s sc rel acq) = { sentAll s with groups := (fenceStart s sc rel acq).groups } :=
    writeBackAll_withGroups s _ _
  rw [h, show sentAll s = _ from sentAll_onlySent s]
  rfl

/-- Do write-backs or the time keep a fence open that has just sent its write-backs? -/
def fenceOpen (s : State) : Bool :=
  wbPending (sentAll s) (blkOf s.curG) (sentAll s).nextId || decide (s.gt ≤ (bAt s (blkOf s.curG)).lct)

/-- The lines at the homes as a fence of a scope ends. -/
def fencedL2 (s : State) (sc : Nat) : Store L2Line := if sc = 3 then (farWriteBack s (blkOf s.curG)).l2 else s.l2

theorem fenceClose_sent (s z : State) (sc : Nat) (hz : z.gt = s.gt ∧ z.blocks = s.blocks) :
    fenceClose (withSent z (sentAll s) s.l2) (blkOf s.curG) (sentAll s).nextId sc =
      if fenceOpen s then (withSent z (sentAll s) s.l2, false) else (withSent z (sentAll s) (fencedL2 s sc), true) := by
  have hopen : (wbPending (withSent z (sentAll s) s.l2) (blkOf s.curG) (sentAll s).nextId ||
      decide (z.gt ≤ (bAt z (blkOf s.curG)).lct)) = fenceOpen s := by
    rw [fenceOpen, bAt, hz.1, hz.2]
    rfl
  have hfar : (if sc = 3 then farWriteBack (withSent z (sentAll s) s.l2) (blkOf s.curG) else withSent z (sentAll s) s.l2) =
      withSent z (sentAll s) (fencedL2 s sc) := by
    rw [fencedL2]
    split_ifs <;> rfl
  rw [← hopen, ← hfar]
  rfl

/-- A fence at scope C or S that nothing holds sends its write-backs. -/
theorem fence_sends (hh : fenceHeld s true acq = false) (hs : 2 ≤ sc) : fence s sc true acq = .next
    (if fenceOpen s then withSent (fenceWaiting s sc true acq) (sentAll s) s.l2
      else wakeWith (withSent (fenceWaiting s sc true acq) (sentAll s) (fencedL2 s sc)) s.curG s.curF .nul []) := by
  have hid : (sentAll (fenceStart s sc true acq)).nextId = (sentAll s).nextId := by
    rw [sentAll_fenceStart]
    rfl
  have hsent : fenceSent (fenceStart s sc true acq) (.fence sc true acq s.nextId (some (sentAll s).nextId) 0 0#32 0#32) =
      withSent (fenceWaiting s sc true acq) (sentAll s) s.l2 := by
    rw [fenceSent, sentAll_fenceStart]
    rfl
  have hr := fenceRound_first (wait_fenceStart (s := s) (sc := sc) (rel := true) (acq := acq))
  rw [pendBefore_fenceStart, pendBefore_fenceStart, ← fenceHeld, if_neg (Bool.eq_false_iff.mp hh),
    if_neg (by simpa using Nat.lt_of_succ_le hs), hid, hsent, show blkOf (fenceStart s sc true acq).curG = blkOf s.curG from rfl,
    fenceClose_sent s (fenceWaiting s sc true acq) sc ⟨rfl, rfl⟩] at hr
  split_ifs at hr ⊢
  · rw [fence_of_round hr, if_neg Bool.false_ne_true]
  · rw [fence_of_round hr, if_pos rfl, show (withSent (fenceWaiting s sc true acq) (sentAll s) (fencedL2 s sc)).curG = s.curG from rfl,
      show (withSent (fenceWaiting s sc true acq) (sentAll s) (fencedL2 s sc)).curF = s.curF from rfl]

theorem onlyFragment_fenceWaiting : OnlyFragment s (fenceWaiting s sc rel acq) :=
  (onlyFragment_updCF s _).trans (onlyFragment_updCF _ _)

theorem cf_fenceWaiting :
    cf (fenceWaiting s sc rel acq) = cf (waitFor s (fenceWait s sc rel acq (some (sentAll s).nextId))) := by
  rw [fenceWaiting, cf_updCF, fenceStart, cf_waitFor, cf_waitFor]

theorem wakeWith_withSent (z u : State) (l2 : Store L2Line) (g f : Nat) (d : Opnd) (ws : List Word) :
    wakeWith (withSent z u l2) g f d ws = withSent (wakeWith z g f d ws) u l2 := rfl

end

/-! What becomes of a fence (R240, R241). -/

section

variable {s : State} {i : Instr} {sc : BitVec 2} {rel acq : Bool}

theorem fence_waits (hi : exec i s = fence s sc.toNat rel acq) (h : fenceHeld s rel acq = true) :
    Waits s i (fenceWait s sc.toNat rel acq none) := waits_of_waitFor (hi.trans (fence_held h))

theorem fence_becomes (hi : exec i s = fence s sc.toNat rel acq) (hst : (cf s).st = .ready ∨ (cf s).st = .handler)
    (h : fenceHeld s rel acq = false) (hs : (!rel || decide (sc.toNat < 2)) = true) : Becomes s i (afterWait s) :=
  ⟨_, hi.trans (fence_over h hs), (onlyFragment_updCF s _).trans (onlyFragment_wakeWith _),
    (cf_wakeWith rfl rfl _ _).trans (afterWait_eq hst _)⟩

/-- An instruction that has sent the block's write-backs and changed the acting fragment. -/
theorem sends_of_exec {z : State} {l2 : Store L2Line} (he : exec i s = .next (withSent z (sentAll s) l2))
    (hz : OnlyFragment s z) : ∃ t, exec i s = .next t ∧ t.mem = s.mem ∧ t.hw = (sentAll s).hw ∧ t.l1 = (sentAll s).l1 ∧
      t.nextId = (sentAll s).nextId ∧ OnlyFragment s { t with hw := s.hw, l1 := s.l1, l2 := s.l2, nextId := s.nextId } ∧
      t.l2 = l2 ∧ cf t = cf z := by
  have hf : z = { s with groups := z.groups } := hz.1.1
  have hback : { withSent z (sentAll s) l2 with hw := s.hw, l1 := s.l1, l2 := s.l2, nextId := s.nextId } = z := by
    rw [hf]
    rfl
  have hmem : (withSent z (sentAll s) l2).mem = s.mem := by
    rw [hf]
    rfl
  exact ⟨_, he, hmem, rfl, rfl, rfl, hback ▸ hz, rfl, rfl⟩

/-- A fence at scope C or S once nothing earlier is under way: whether it is over is known when its write-backs are. -/
theorem fence_closes (hi : exec i s = fence s sc.toNat true acq) (hst : (cf s).st = .ready ∨ (cf s).st = .handler)
    (h : fenceHeld s true acq = false) (hs : 2 ≤ sc.toNat) :
    ∃ t, exec i s = .next t ∧ t.mem = s.mem ∧ t.hw = (sentAll s).hw ∧ t.l1 = (sentAll s).l1 ∧
      t.nextId = (sentAll s).nextId ∧ OnlyFragment s { t with hw := s.hw, l1 := s.l1, l2 := s.l2, nextId := s.nextId } ∧
      (fenceOpen s = false → cf t = afterWait s ∧ t.l2 = fencedL2 s sc.toNat) ∧
      (fenceOpen s = true → t.l2 = s.l2 ∧ cf t = { cf s with
        st := if (cf s).st = .handler then .handler else .waiting
        wait := fenceWait s sc.toNat true acq (some (sentAll s).nextId) }) := by
  have he := hi.trans (fence_sends h hs)
  cases ho : fenceOpen s with
  | true =>
    rw [if_pos ho] at he
    obtain ⟨t, ht, hmem, hhw, hl1, hid, honly, hl2, hcf⟩ := sends_of_exec he onlyFragment_fenceWaiting
    exact ⟨t, ht, hmem, hhw, hl1, hid, honly, fun hn => absurd hn (by decide),
      fun _ => ⟨hl2, (hcf.trans cf_fenceWaiting).trans (cf_waitFor s _)⟩⟩
  | false =>
    rw [if_neg (Bool.eq_false_iff.mp ho), wakeWith_withSent] at he
    obtain ⟨t, ht, hmem, hhw, hl1, hid, honly, hl2, hcf⟩ :=
      sends_of_exec he (onlyFragment_fenceWaiting.trans (onlyFragment_wakeWith _))
    refine ⟨t, ht, hmem, hhw, hl1, hid, honly, fun _ => ⟨hcf.trans ?_, hl2⟩, fun hn => absurd hn (by decide)⟩
    refine (cf_wakeWith (s := fenceWaiting s sc.toNat true acq) rfl rfl .nul []).trans ?_
    rw [cf_fenceWaiting]
    exact afterWait_eq hst _

end

/-! FLUSH (R244). -/

/-- The block's L1 after a FLUSH, with its lines dropped under INV. -/
def flushed (s : State) (j : BitVec 1) : State := if j = 1#1 then dropL1 (sentAll s) (blkOf s.curG) else sentAll s

theorem flushed_mem (s : State) (j : BitVec 1) : (flushed s j).mem = s.mem := by
  rw [flushed]
  split_ifs
  · rw [dropL1_onlySent]
    exact sentAll_mem s
  · exact sentAll_mem s

theorem flushed_nextId (s : State) (j : BitVec 1) : (flushed s j).nextId = (sentAll s).nextId := by
  rw [flushed]
  split_ifs
  · rw [dropL1_onlySent]
  · rfl

theorem exec_flush {s : State} {j : BitVec 1} (h : flagOpen s 2) : exec (.flush j) s = .next (advance
    (addPend (flushed s j) 2 { (default : Pend) with kind := .flush, dst := .nul, op := (flushed s j).nextId }).1) :=
  if_neg (Bool.eq_false_iff.mp h)

/-! The statement. -/

/-- Settles O37: a fence by what holds it and whether it is open after its write-backs. -/
theorem fencesAndFlush : Obligations.FencesAndFlush := by
  intro s sc j d a hst blk u goesOn wait Fence
  have fenceAt {i : Instr} {acq : Bool} (hi : exec i s = fence s sc.toNat true acq) :
      Fence i true acq (fenceHeld s true acq) := by
    refine ⟨fence_waits hi, fun h hs => fence_becomes hi hst h (by simpa using hs), fun h hs => ?_⟩
    obtain ⟨t, ht, hmem, hhw, hl1, hid, honly, hclosed, hopen⟩ := fence_closes hi hst h hs
    refine ⟨t, ht, hmem, hhw, hl1, hid, honly, ?_, fun hwb hgt => ?_, fun ho => ?_⟩
    · rintro rfl
      cases ho : fenceOpen s with
      | true => exact (hopen ho).1
      | false => exact (hclosed ho).2
    · obtain ⟨hcf, hl2⟩ := hclosed (Bool.or_eq_false_iff.mpr ⟨hwb, decide_eq_false (Nat.not_le.mpr hgt)⟩)
      refine ⟨hcf, ?_⟩
      rintro rfl
      exact hl2
    · exact hopen (Bool.or_eq_true_iff.mpr (ho.imp id decide_eq_true))
  have hfrel : fenceHeld s true false = pendBefore (cg s) s.nextId PendKind.counted := by simp [fenceHeld]
  have hfseq : fenceHeld s true true =
      (pendBefore (cg s) s.nextId PendKind.counted || pendBefore (cg s) s.nextId PendKind.loads) := by simp [fenceHeld]
  have hfacq : fenceHeld s false true = pendBefore (cg s) s.nextId PendKind.loads := by simp [fenceHeld]
  refine ⟨hfrel ▸ fenceAt rfl, hfseq ▸ fenceAt rfl, fun h => ?_, fun h => ?_, fun c hc => ?_, fun hc => ?_, fun hl ho => ?_,
    fun ht => ?_, fun ht => ?_, fun hf => ⟨?_, ?_⟩, fun hf => if_pos (by simpa [flagOpen] using hf)⟩
  · exact fence_waits (sc := 0#2) rfl (hfacq.trans h)
  · exact fence_becomes (sc := 0#2) rfl hst (hfacq.trans h) rfl
  · have hi : exec (.frc d) s = done (updCG s fun g => wrDst g d [w32 c]) := by
      show execFrc d s = _
      rw [execFrc, hc]
    rw [hi]
    exact done_wrDst s d _
  · have hi : exec (.frc d) s = .next (waitFor s (.frc d s.nextId)) := by
      show execFrc d s = _
      rw [execFrc, hc]
    exact waits_of_waitFor hi
  · simp [frcStatus, hl, ho]
  · exact ⟨_, if_pos ht, onlyGoesOn_advance s⟩
  · exact waits_of_waitFor (if_neg (Nat.not_le.mpr ht))
  · exact flushed_mem s j
  · exact ⟨_, exec_flush hf, pended_advance ⟨rfl, flushed_nextId s j⟩⟩

end Sys2Proof.Machine

end

/-! Data of an operation goes into its registers, and the operation completes (R228, R36, R62). -/

section

namespace Sys2Proof.Machine

open Sys2Proof.Claim

/-! An operation completes (R35, R62). -/

theorem id_of_findPend {x : Group} {id : Nat} {p : Pend} (hp : findPend x id = some p) : p.id = id := by
  simpa using List.find?_some hp

theorem gAt_dropPend {s : State} {g id : Nat} {p : Pend} (hp : findPend (gAt s g) id = some p) :
    gAt (dropPend s g id) g = orFl { gAt s g with pend := (gAt s g).pend.filter fun q => q.id != id } p.fl := by
  rw [dropPend, gAt_updG_self]
  simp only [hp]

theorem completed_dropPend {s : State} {g id : Nat} {p : Pend} (hp : findPend (gAt s g) id = some p) :
    Completed s (dropPend s g id) g p := by
  obtain rfl := id_of_findPend hp
  exact ⟨rfl, fun _ h => gAt_updG_ne _ _ h, gAt_dropPend hp⟩

/-! Data goes into registers (R228, R36). -/

section

variable {g : Group} {ps : List Pend}

theorem wrSs_withPend (n : Nat) (ws : List Word) (g : Group) (ps : List Pend) :
    wrSs { g with pend := ps } n ws = { wrSs g n ws with pend := ps } := by
  induction ws generalizing g n with
  | nil => rfl
  | cons w ws ih => exact ih (n + 1) (wrS g n w)

theorem wrVs_withPend (n t : Nat) (ws : List Word) (g : Group) (ps : List Pend) :
    wrVs { g with pend := ps } n t ws = { wrVs g n t ws with pend := ps } := by
  induction ws generalizing g n with
  | nil => rfl
  | cons w ws ih => exact ih (n + 1) (wrV g n t w)

theorem wrDst_withPend (d : Opnd) (ws : List Word) (g : Group) (ps : List Pend) :
    wrDst { g with pend := ps } d ws = { wrDst g d ws with pend := ps } := by
  cases d with
  | s n => exact wrSs_withPend n ws g ps
  | _ => rfl

theorem foldl_withPend {α : Type} {f : Group → α → Group} (ps : List Pend)
    (h : ∀ g a, f { g with pend := ps } a = { f g a with pend := ps }) (l : List α) (g : Group) :
    l.foldl f { g with pend := ps } = { l.foldl f g with pend := ps } := by
  induction l generalizing g with
  | nil => rfl
  | cons a l ih => rw [List.foldl_cons, h, ih, List.foldl_cons]

theorem wrThreads_withPend (d : Opnd) (rs : List (Nat × List Word)) (g : Group) (ps : List Pend) :
    wrThreads { g with pend := ps } d rs = { wrThreads g d rs with pend := ps } := by
  cases d with
  | v n => exact foldl_withPend ps (fun g r => wrVs_withPend n r.1 r.2 g ps) rs g
  | _ => rfl

/-- What an access delivers does not touch the pending operations. -/
theorem deliver_withPend (p : Pend) (regs : Nat) (a : Acc) (g : Group) (ps : List Pend) :
    deliver { g with pend := ps } p regs a = { deliver g p regs a with pend := ps } := by
  unfold deliver
  dsimp only
  rw [foldl_withPend ps fun g i => ?_]
  · cases p.nrp with
    | none => rfl
    | some k =>
      dsimp only
      split_ifs <;> rfl
  · split_ifs
    · rfl
    · exact wrDst_withPend _ _ _ _
    · exact wrThreads_withPend _ _ _ _

end

/-- An access once some registers have taken its data. -/
def wrote (a : Acc) (bs : List Byte) (regs : Nat) (c : Acc) : Acc :=
  if c.t == a.t then { c with got := true, bs := bs, put := a.put ||| (regs &&& allRegs) } else c

/-- An operation whose accesses have changed. -/
def withAccs (f : Acc → Acc) (p : Pend) : Pend := { p with accs := p.accs.map f }

/-- From s to u some accesses of operation `p` have delivered their data: the group is `y` but for its pending operations, and
the operation holds the accesses `as`. -/
structure Delivered (s u : State) (g : Nat) (p : Pend) (y : Group) (as : List Acc) : Prop where
  frame : u = { s with groups := u.groups }
  others : ∀ h, h ≠ g → gAt u h = gAt s h
  group : gAt u g = { y with pend := (gAt u g).pend }
  found : findPend (gAt u g) p.id = some { p with accs := as }
  rest : (gAt u g).pend.filter (fun q => q.id != p.id) = (gAt s g).pend.filter fun q => q.id != p.id

section

variable {s u : State} {g id regs : Nat} {thr : Word} {p : Pend} {y : Group} {as : List Acc} {a : Acc} {bs : List Byte}

theorem Delivered.refl (hp : findPend (gAt s g) id = some p) : Delivered s s g p (gAt s g) p.accs := by
  obtain rfl := id_of_findPend hp
  exact ⟨rfl, fun _ _ => rfl, rfl, hp, rfl⟩

theorem filter_map_others (ps : List Pend) (id : Nat) (f : Pend → Pend) (hf : ∀ q, (f q).id = q.id) :
    (ps.map fun q => if q.id == id then f q else q).filter (fun q => q.id != id) = ps.filter fun q => q.id != id := by
  induction ps with
  | nil => rfl
  | cons q ps ih =>
    rw [List.map_cons, List.filter_cons, List.filter_cons, ih]
    by_cases hq : q.id = id <;> simp [hq, hf]

theorem Delivered.loadOne (h : Delivered s u g p y as) (regs : Nat)
    (ht : takeHit u g { p with accs := as } a = some bs) (hs : touchHit u g { p with accs := as } a = u) :
    Delivered s (loadOne u g p.id regs a) g p (deliver y p (regs &&& (a.put ^^^ allRegs)) { a with bs := bs })
      (as.map (wrote a bs regs)) := by
  have hl : Machine.loadOne u g p.id regs a = updPend
      (updG u g fun x => deliver x { p with accs := as } (regs &&& (a.put ^^^ allRegs)) { a with bs := bs }) g p.id
      (withAccs (wrote a bs regs)) := by
    rw [Machine.loadOne, h.found]
    simp only [ht, hs]
    rfl
  have hd : gAt (updG u g fun x => deliver x { p with accs := as } (regs &&& (a.put ^^^ allRegs)) { a with bs := bs }) g =
      { deliver y p (regs &&& (a.put ^^^ allRegs)) { a with bs := bs } with pend := (gAt u g).pend } := by
    rw [gAt_updG_self, h.group, deliver_withPend]
    rfl
  rw [hl]
  refine ⟨?_, fun k hk => ?_, ?_, ?_, ?_⟩
  · rw [updPend, updG, updG, h.frame]
  · rw [updPend, gAt_updG_ne _ _ hk, gAt_updG_ne _ _ hk, h.others k hk]
  · rw [updPend, gAt_updG_self, hd]
  · rw [findPend_updPend_self _ _ _ (f := withAccs _) fun _ => rfl, hd]
    exact congrArg (Option.map _) h.found
  · rw [updPend, gAt_updG_self, hd]
    exact (filter_map_others _ _ (withAccs _) fun _ => rfl).trans h.rest

/-- With the last access that has written its registers the operation is complete. -/
theorem Delivered.finish (h : Delivered s u g p y as) (hd : as.all (accDone p) = true) :
    finishLoad u g p.id = { s with groups := (finishLoad u g p.id).groups } ∧
      (∀ k, k ≠ g → gAt (finishLoad u g p.id) k = gAt s k) ∧
      gAt (finishLoad u g p.id) g = orFl { y with pend := (gAt s g).pend.filter fun q => q.id != p.id } p.fl := by
  have hf : finishLoad u g p.id = dropPend u g p.id := by
    rw [finishLoad, h.found]
    exact if_pos hd
  obtain ⟨hframe, hothers, -⟩ := completed_dropPend h.found
  rw [hf]
  refine ⟨?_, fun k hk => (hothers k hk).trans (h.others k hk), ?_⟩
  · rw [hframe, h.frame]
  · rw [gAt_dropPend h.found, h.rest, h.group]

theorem Delivered.unfinished (h : Delivered s u g p y as) (hd : as.all (accDone p) = false) : finishLoad u g p.id = u := by
  rw [finishLoad, h.found]
  exact if_neg (Bool.eq_false_iff.mp hd)

/-- The accesses `as` once those of a list have written all their registers. -/
def allWrote (as l : List Acc) : List Acc := l.foldl (fun as a => as.map (wrote a a.bs allRegs)) as

theorem Delivered.all (h : Delivered s u g p y as) {l : List Acc} (hl : ∀ a ∈ l, a.got = true ∧ a.put = 0) :
    Delivered s (l.foldl (fun s a => Machine.loadOne s g p.id allRegs a) u) g p
      (l.foldl (fun x a => deliver x p allRegs a) y) (allWrote as l) := by
  induction l generalizing u y as with
  | nil => exact h
  | cons a l ih =>
    obtain ⟨⟨hgot, hput⟩, hl⟩ := List.forall_mem_cons.mp hl
    have h1 := h.loadOne (a := a) (bs := a.bs) allRegs (by rw [takeHit, if_pos hgot])
      (by rw [touchHit, if_pos (by simp [hgot])])
    rw [show allRegs &&& (a.put ^^^ allRegs) = allRegs by rw [hput]; rfl] at h1
    exact ih h1 hl

/-- Each access of a thread of the list has written every register. -/
theorem put_allWrote {l : List Acc} (hl : ∀ a ∈ l, a.put = 0) : ∀ c ∈ allWrote as l, ∃ c0 ∈ as, c.t = c0.t ∧ c.n = c0.n ∧
    (c0.t ∈ l.map (·.t) ∨ c0.put = allRegs → c.put = allRegs) := by
  induction l generalizing as with
  | nil => exact fun c hc => ⟨c, hc, rfl, rfl, fun h => h.resolve_left (List.not_mem_nil)⟩
  | cons a l ih =>
    intro c hc
    obtain ⟨hput, hl⟩ := List.forall_mem_cons.mp hl
    obtain ⟨c1, hc1, ht, hn, hall⟩ := ih hl c hc
    obtain ⟨c0, hc0, rfl⟩ := List.mem_map.mp hc1
    refine ⟨c0, hc0, ?_, ?_, fun h => hall ?_⟩
    · rw [ht, wrote]
      split_ifs <;> rfl
    · rw [hn, wrote]
      split_ifs <;> rfl
    · by_cases he : c0.t = a.t
      · exact .inr (by simp [wrote, he, hput, allRegs])
      · have hw : wrote a a.bs allRegs c0 = c0 := by simp [wrote, he]
        rw [hw]
        simpa [he] using h

theorem accDone_of_put {c : Acc} (hn : resLen p c ≤ 16) (hp : c.put = allRegs) : accDone p c = true := by
  have h4 : Nat.max 1 (resLen p c / 4) ∈ [1, 2, 3, 4] := by
    have : resLen p c / 4 ≤ 4 := by omega
    simp only [List.mem_cons, List.not_mem_nil, or_false, Nat.max_def]
    split_ifs <;> omega
  rw [accDone, needRegs, hp]
  simp only [List.mem_cons, List.not_mem_nil, or_false] at h4
  obtain h | h | h | h := h4 <;> rw [h] <;> rfl

theorem resLen_congr {a c : Acc} (h : c.n = a.n) : resLen p c = resLen p a := by
  unfold resLen
  rw [h]

theorem accDone_unwritten {c : Acc} (h : c.put = 0) : accDone p c = false := by
  rw [accDone, h, Nat.zero_and, beq_eq_false_iff_ne, needRegs]
  omega

/-- Where all accesses have their data and none has written a register, all are written and the operation is complete. -/
theorem finishLoad_whole (hp : findPend (gAt s g) id = some p) (hall : p.accs.all (fun c => c.got) = true)
    (hw : ∀ c ∈ p.accs, c.put = 0 ∧ resLen p c ≤ 16 ∧ (p.uni = true ∨ thr.getLsbD c.t = true)) :
    ∃ t, finishLoad (loadSome s g p thr allRegs) g id = t ∧ t = { s with groups := t.groups } ∧
      (∀ h, h ≠ g → gAt t h = gAt s h) ∧
      gAt t g = orFl { p.accs.foldl (fun x c => deliver x p allRegs c) (gAt s g) with
        pend := (gAt s g).pend.filter fun q => q.id != p.id } p.fl := by
  obtain rfl := id_of_findPend hp
  have hsel : p.accs.filter (fun a => (p.uni || thr.getLsbD a.t) && !accDone p a) = p.accs := by
    refine List.filter_eq_self.mpr fun a ha => ?_
    obtain ⟨hput, -, ht⟩ := hw a ha
    rw [accDone_unwritten hput]
    simpa using ht
  have hd := (Delivered.refl hp).all fun a ha => ⟨List.all_eq_true.mp hall a ha, (hw a ha).1⟩
  rw [loadSome, hsel]
  refine ⟨_, rfl, hd.finish (List.all_eq_true.mpr fun c hc => ?_)⟩
  obtain ⟨c0, hc0, ht, hn, hput⟩ := put_allWrote (fun a ha => (hw a ha).1) c hc
  refine accDone_of_put (resLen_congr hn ▸ (hw c0 hc0).2.1) (hput (.inl ?_))
  exact List.mem_map_of_mem hc0

theorem loadSome_single (ha : p.accs = [a]) (hput : a.put = 0) (ht : thr.getLsbD a.t = true) :
    loadSome s g p thr regs = Machine.loadOne s g p.id regs a := by
  rw [loadSome, ha, List.filter_cons_of_pos (by simp [accDone_unwritten hput, ht])]
  rfl

theorem and_allRegs (h : regs < 32) : regs &&& allRegs = regs :=
  (Nat.and_two_pow_sub_one_eq_mod regs 5).trans (Nat.mod_eq_of_lt h)

/-- Some registers of an operation's only access are written, and others remain (R36). -/
theorem loadSome_part (hp : findPend (gAt s g) id = some p) (ha : p.accs = [a]) (hgot : a.got = true) (hput : a.put = 0)
    (ht : thr.getLsbD a.t = true) (hr : regs < 32) (hnot : accDone p { a with put := regs } = false) :
    findPend (gAt (finishLoad (loadSome s g p thr regs) g id) g) id = some { p with accs := [{ a with put := regs }] } ∧
      (gAt (finishLoad (loadSome s g p thr regs) g id) g).v = (deliver (gAt s g) p regs a).v ∧
      (gAt (finishLoad (loadSome s g p thr regs) g id) g).p = (deliver (gAt s g) p regs a).p := by
  obtain rfl := id_of_findPend hp
  have hd := (Delivered.refl hp).loadOne (a := a) (bs := a.bs) regs (by rw [takeHit, if_pos hgot])
    (by rw [touchHit, if_pos (by simp [hgot])])
  have hwrote : p.accs.map (wrote a a.bs regs) = [{ a with put := regs }] := by
    simp [ha, wrote, hput, and_allRegs hr, hgot]
  rw [hwrote, show regs &&& (a.put ^^^ allRegs) = regs by rw [hput, Nat.zero_xor, and_allRegs hr]] at hd
  rw [loadSome_single ha hput ht, hd.unfinished (by simpa using hnot)]
  exact ⟨hd.found, by rw [hd.group], by rw [hd.group]⟩

/-- A load's only access takes its bytes from scratch, and the load is complete (R228, R231). -/
theorem loadSome_scratch (hp : findPend (gAt s g) id = some p) (hk : p.kind = .load) (ha : p.accs = [a]) (hgot : a.got = false)
    (hput : a.put = 0) (hn : a.n ≤ 16) (hs : p.scratch = true) (ht : thr.getLsbD a.t = true)
    (hmay : mayPerform s g p a = true) (hdrain : draining s a.pa p.id = false) :
    gAt (finishLoad (loadSome s g p thr allRegs) g id) g =
      orFl { deliver (gAt s g) p allRegs { a with bs := lsBytes s a.pa a.n } with
        pend := (gAt s g).pend.filter fun q => q.id != p.id } p.fl := by
  obtain rfl := id_of_findPend hp
  have htake : takeHit s g p a = some (lsBytes s a.pa a.n) := by simp [takeHit, hgot, hmay, hs, hdrain]
  have hd := (Delivered.refl hp).loadOne (a := a) allRegs htake (by rw [touchHit, if_pos (by simp [hs])])
  rw [show allRegs &&& (a.put ^^^ allRegs) = allRegs by rw [hput]; rfl] at hd
  rw [loadSome_single ha hput ht]
  refine (hd.finish ?_).2.2
  have hlen : resLen p a ≤ 16 := by rwa [resLen, hk]
  simpa [ha, wrote, hput] using accDone_of_put (c := { a with got := true, bs := lsBytes s a.pa a.n, put := allRegs })
    (p := p) hlen rfl

end

end Sys2Proof.Machine

end

/-! Stores in scratch and in the L1, and the requests that leave for the homes (R210, R230, R231, R249). -/

section

namespace Sys2Proof.Machine

open Sys2Proof.Claim

/-! Stores in scratch (R230, R231). -/

section

variable {s t u : State} {g id : Nat} {p : Pend}

theorem noteScratch_eq (s : State) (c : Nat) (own : Option (Nat × Nat)) (bs : List (Nat × Byte)) : noteScratch s c own bs =
    { s with
      mxq := (noteScratch s c own bs).mxq, strq := (noteScratch s c own bs).strq, kvq := (noteScratch s c own bs).kvq } := by
  unfold noteScratch
  dsimp only
  split_ifs <;> rfl

/-- From s to t only bytes of the local stores differ, and what the engines keep of words that they may still read. -/
def OnlyScratch (s t : State) : Prop := t = { s with ls := t.ls, mxq := t.mxq, strq := t.strq, kvq := t.kvq }

theorem OnlyScratch.trans (h : OnlyScratch s t) (k : OnlyScratch t u) : OnlyScratch s u := by
  unfold OnlyScratch at *
  rw [k, h]

theorem OnlyScratch.groups (h : OnlyScratch s t) : t.groups = s.groups := by rw [show t = _ from h]
theorem OnlyScratch.mem (h : OnlyScratch s t) : t.mem = s.mem := by rw [show t = _ from h]

theorem scratchPut_onlyScratch (s : State) (c : Nat) (own : Option (Nat × Nat)) (bs : List (Nat × Byte)) (k : Nat)
    (l : List Byte) : OnlyScratch s (lsPut (noteScratch s c own bs) k l) := by
  rw [OnlyScratch, lsPut, noteScratch_eq]

theorem storeLocal_onlyScratch (hs : p.scratch = true) (as : List Acc) (s : State) : OnlyScratch s (storeLocal s g p as) := by
  rw [storeLocal]
  induction as generalizing s with
  | nil => rfl
  | cons a as ih =>
    rw [List.foldl_cons, if_pos hs]
    exact (scratchPut_onlyScratch s _ _ _ _ _).trans (ih _)

/-- Does a store write a byte of scratch? -/
def covers (k : Nat) (c : Acc) : Bool := decide (c.pa ≤ k) && decide (k < c.pa + c.bs.length)

/-- A byte of scratch after the stores of some threads: that of the last which writes it stays. -/
theorem storeLocal_ls (hs : p.scratch = true) (as : List Acc) (s : State) (k : Nat) :
    Store.get (storeLocal s g p as).ls k = match as.reverse.find? (covers k) with
      | some c => c.bs.getD (k - c.pa) 0#8
      | none => Store.get s.ls k := by
  rw [storeLocal]
  induction as generalizing s with
  | nil => rfl
  | cons a as ih =>
    rw [List.foldl_cons, if_pos hs, ih, List.reverse_cons, List.find?_append, ls_lsPut, ls_noteScratch]
    cases as.reverse.find? (covers k) with
    | some c => rfl
    | none =>
      by_cases h : a.pa ≤ k ∧ k < a.pa + a.bs.length
      · rw [if_pos h, List.find?_cons_of_pos (by simpa [covers] using h)]
        rfl
      · rw [if_neg h, List.find?_cons_of_neg (by simpa [covers] using h)]
        rfl

/-- A store in scratch is performed and complete. -/
theorem storeGo_scratch (hs : p.scratch = true) : storeGo s g p = dropPend (storeLocal s g p p.accs) g p.id := by
  unfold storeGo
  simp [hs]

end

/-! Stores in the L1 and requests to the homes (R210, R230, R249). -/

section

variable {s t u : State}

theorem l1Store_onlyCaches (s : State) (b pa : Nat) (bs : List Byte) : OnlyCaches s (l1Store s b pa bs) := by
  have ha := l1Alloc_onlyCaches s b (lineOf pa) 2
  unfold l1Store
  split
  next u h => rwa [h] at ha
  next u k h =>
    rw [h] at ha
    exact ha.trans (.trans (show OnlyCaches u (lsPut u (l1Data b k (lineOf pa) + lineOff pa) bs) from rfl)
      (setL1_onlyCaches _ _ _ _ _))

theorem storeLocal_onlyCaches {g : Nat} {p : Pend} (hs : p.scratch = false) (as : List Acc) (s : State) :
    OnlyCaches s (storeLocal s g p as) := by
  refine .foldl (fun s a => ?_) as s
  rw [if_neg (Bool.eq_false_iff.mp hs)]
  exact l1Store_onlyCaches _ _ _ _

theorem OnlyCaches.mem (h : OnlyCaches s t) : t.mem = s.mem := by rw [show t = _ from h]
theorem OnlyCaches.groups (h : OnlyCaches s t) : t.groups = s.groups := by rw [show t = _ from h]
theorem OnlyCaches.migs (h : OnlyCaches s t) : t.migs = s.migs := by rw [show t = _ from h]

/-- From s to t only caches and counters differ, and no request to a home is lost. -/
structure Sends (s t : State) : Prop where
  caches : OnlyCaches s t
  kept : ∀ r ∈ s.hw, r ∈ t.hw

theorem Sends.refl (s : State) : Sends s s := ⟨.refl s, fun _ h => h⟩

theorem Sends.trans (h : Sends s t) (k : Sends t u) : Sends s u := ⟨h.caches.trans k.caches, fun r hr => k.kept r (h.kept r hr)⟩

theorem Sends.foldl {α : Type} {f : State → α → State} (h : ∀ s a, Sends s (f s a)) (l : List α) (s : State) :
    Sends s (l.foldl f s) := by
  induction l generalizing s with
  | nil => exact .refl s
  | cons a l ih => exact (h s a).trans (ih _)

theorem sendHome_sends (s : State) (r : HomeReq) : Sends s (sendHome s r) := ⟨rfl, fun _ h => List.mem_append_left _ h⟩

theorem setL1_sends (s : State) (c k i : Nat) (x : L1Tag) : Sends s (setL1 s c k i x) := ⟨rfl, fun _ h => h⟩

theorem writeBack_sends (s : State) (b k i : Nat) : Sends s (writeBack s b k i) := by
  unfold writeBack
  dsimp only
  split_ifs
  · exact .refl s
  · exact (sendHome_sends s _).trans (setL1_sends _ _ _ _ _)

theorem evictAccs_sends (s : State) (b line : Nat) (as : List Acc) : Sends s (evictAccs s b line as) := by
  refine .foldl (fun s l => ?_) _ s
  unfold l1Evict
  split
  · exact (writeBack_sends s _ _ _).trans (setL1_sends _ _ _ _ _)
  · exact .refl s

/-- Each of some requests is on its way once all have been sent, whatever each needs to leave the L1 before. -/
theorem foldl_sendHome {α : Type} {f : State → α → State} (hf : ∀ s k, Sends s (f s k)) (req : α → HomeReq) (l : List α)
    (s : State) : Sends s (l.foldl (fun s k => sendHome (f s k) (req k)) s) ∧
      ∀ k ∈ l, ∃ n, { req k with id := n } ∈ (l.foldl (fun s k => sendHome (f s k) (req k)) s).hw := by
  have step (s : State) (k : α) : Sends s (sendHome (f s k) (req k)) := (hf s k).trans (sendHome_sends _ _)
  refine ⟨.foldl step l s, ?_⟩
  induction l generalizing s with
  | nil => exact fun _ h => absurd h List.not_mem_nil
  | cons k l ih =>
    intro j hj
    obtain rfl | hj := List.mem_cons.mp hj
    · exact ⟨_, (Sends.foldl step l _).kept _ (List.mem_append_right _ List.mem_cons_self)⟩
    · exact ih _ j hj

/-- An operation whose requests have left. -/
def asSent (p : Pend) : Pend := { p with sent := true }

/-- What becomes of an operation and of memory as its requests leave. -/
theorem sent_of_sends {g : Nat} {p q : Pend} (h : Sends s u) (hp : findPend (gAt s g) p.id = some q) :
    (updPend u g p.id asSent).mem = s.mem ∧ (updPend u g p.id asSent).hw = u.hw ∧
      findPend (gAt (updPend u g p.id asSent) g) p.id = some { q with sent := true } := by
  have hg : gAt u g = gAt s g := congrArg (Store.get · g) h.caches.groups
  refine ⟨h.caches.mem, rfl, ?_⟩
  rw [findPend_updPend_self _ _ _ (f := asSent) fun _ => rfl, hg, hp]
  rfl

end

/-! The writes of a store at its homes (R230, R231, R361, R471). -/

section

variable {s t u : State} {g : Nat} {p q : Pend} {as : List Acc}

/-- The accesses that belong to one write. -/
def writtenIn (s : State) (as : List Acc) (w : Nat × Option (Nat × Nat)) : List Acc := as.filter fun a => a.write s == w

/-- Does a higher-numbered thread store a byte of an access with another write? -/
def storedAbove (s : State) (as : List Acc) (w : Nat × Option (Nat × Nat)) (a : Acc) (pa : Nat) : Bool := as.any fun c =>
  c.write s != w && decide (a.t < c.t) && decide (homePa s c.pa ≤ homePa s pa) && decide (homePa s pa < homePa s c.pa + c.n)

/-- The bytes of one write. -/
def writeBytes (s : State) (as : List Acc) (w : Nat × Option (Nat × Nat)) : List (Nat × Byte) :=
  (writtenIn s as w).flatMap fun a => (storeBytes [a]).filter fun e => !storedAbove s as w a e.1

/-- The request of one write. -/
def writeReq (s : State) (g : Nat) (p : Pend) (as : List Acc) (w : Nat × Option (Nat × Nat)) : HomeReq :=
  { (default : HomeReq) with
    blk := some (blkOf g), own := some (g, p.id), kind := .masked, line := w.1
    bytes := if decide (p.kind = .rx) then [] else writeBytes s as w, win := w.2
    op := if decide (p.kind = .rx) then p.op else 0, accs := writtenIn s as w }

theorem storeSend_eq (s : State) (g : Nat) (p : Pend) (as : List Acc) : storeSend s g p as =
    updPend ((distinct (as.map (Acc.write s))).foldl (fun u w =>
      sendHome (if decide (p.kind = .rx) then u else evictAccs u (blkOf g) w.1 (writtenIn s as w)) (writeReq s g p as w)) s)
      g p.id asSent := rfl

/-- A store's accesses leave as one request for each write. -/
theorem storeSend_leaves (hp : findPend (gAt s g) p.id = some q) : (storeSend s g p as).mem = s.mem ∧
    findPend (gAt (storeSend s g p as) g) p.id = some { q with sent := true } ∧
    ∀ w ∈ as.map (Acc.write s), ∃ n, { writeReq s g p as w with id := n } ∈ (storeSend s g p as).hw := by
  obtain ⟨hs, hreq⟩ := foldl_sendHome
    (f := fun u w => if decide (p.kind = .rx) then u else evictAccs u (blkOf g) w.1 (writtenIn s as w))
    (fun u w => by split_ifs; exacts [.refl u, evictAccs_sends u _ _ _]) (writeReq s g p as) (distinct (as.map (Acc.write s))) s
  obtain ⟨hmem, hhw, hfind⟩ := sent_of_sends hs hp
  rw [storeSend_eq]
  exact ⟨hmem, hfind, fun w hw => hhw ▸ hreq w (((distinct_spec _).2 w).mpr hw)⟩

theorem redirectLine_congr (h : t.migs = s.migs) (l : Nat) : redirectLine t l = redirectLine s l := by
  rw [redirectLine, h]
  rfl

theorem homePa_congr (h : t.migs = s.migs) : homePa t = homePa s :=
  funext fun pa => by rw [homePa, redirectLine_congr h, homePa]

theorem write_congr (h : t.migs = s.migs) : Acc.write t = Acc.write s :=
  funext fun a => by rw [Acc.write, Acc.line, redirectLine_congr h, Acc.write, Acc.line]

theorem writeReq_congr (h : t.migs = s.migs) : writeReq t g p as = writeReq s g p as := by
  funext w
  simp only [writeReq, writeBytes, writtenIn, storedAbove, write_congr h, homePa_congr h]

end

/-! Which thread's byte a write carries (R231). -/

section

variable {s : State} {as : List Acc} {w : Nat × Option (Nat × Nat)} {x : Nat}

theorem find_reverse_unique {α : Type} {l : List α} {P : α → Bool} {e : α} (he : e ∈ l) (hP : P e = true)
    (huniq : ∀ y ∈ l, P y = true → y = e) : l.reverse.find? P = some e := by
  cases h : l.reverse.find? P with
  | none => exact absurd hP (List.find?_eq_none.mp h e (List.mem_reverse.mpr he))
  | some y => rw [huniq y (List.mem_reverse.mp (List.mem_of_find?_eq_some h)) (List.find?_some h)]

/-- Does an access store the byte of its home at an address? -/
def reaches (s : State) (x : Nat) (c : Acc) : Bool := decide (homePa s c.pa ≤ x) && decide (x < homePa s c.pa + c.n)

/-- Does a higher-numbered thread with another write store it too? -/
def outdone (s : State) (as : List Acc) (w : Nat × Option (Nat × Nat)) (x : Nat) (a : Acc) : Bool :=
  as.any fun c => c.write s != w && decide (a.t < c.t) && reaches s x c

theorem storedAbove_eq {a : Acc} {pa : Nat} (h : homePa s pa = x) : storedAbove s as w a pa = outdone s as w x a := by
  simp only [storedAbove, outdone, reaches, h, Bool.and_assoc]

/-- Is the byte that an access stores there in its write? -/
def lasts (s : State) (as : List Acc) (w : Nat × Option (Nat × Nat)) (x : Nat) (a : Acc) : Bool :=
  reaches s x a && !outdone s as w x a

/-- The byte that an access stores at an address of its home. -/
def storedByte (s : State) (x : Nat) (c : Acc) : Byte := (c.bs[x - homePa s c.pa]?).getD 0#8

theorem find_accBytes {a : Acc} (hline : ∀ i, i < a.n → homePa s (a.pa + i) = homePa s a.pa + i) :
    (((storeBytes [a]).filter fun e => !storedAbove s as w a e.1).reverse.find? fun e => homePa s e.1 == x).map (·.2) =
      if lasts s as w x a then some (storedByte s x a) else none := by
  have hb : storeBytes [a] = (List.range a.n).map fun i => (a.pa + i, (a.bs[i]?).getD 0#8) := by simp [storeBytes]
  have hmem {e : Nat × Byte} (he : e ∈ storeBytes [a]) (hx : homePa s e.1 = x) :
      reaches s x a = true ∧ e = (a.pa + (x - homePa s a.pa), storedByte s x a) := by
    rw [hb] at he
    obtain ⟨i, hi, rfl⟩ := List.mem_map.mp he
    have hi := List.mem_range.mp hi
    rw [hline i hi] at hx
    subst hx
    simp [reaches, storedByte, hi]
  by_cases h : lasts s as w x a = true
  · rw [if_pos h]
    obtain ⟨hr, ho⟩ := Bool.and_eq_true_iff.mp h
    simp only [reaches, Bool.and_eq_true, decide_eq_true_eq] at hr
    have hx : homePa s (a.pa + (x - homePa s a.pa)) = x := by rw [hline _ (by omega)]; omega
    rw [find_reverse_unique (e := (a.pa + (x - homePa s a.pa), storedByte s x a))]
    · rfl
    · refine List.mem_filter.mpr ⟨?_, by rw [storedAbove_eq hx]; exact ho⟩
      rw [hb]
      exact List.mem_map.mpr ⟨_, List.mem_range.mpr (by omega), rfl⟩
    · exact beq_iff_eq.mpr hx
    · exact fun e he hP => (hmem (List.mem_filter.mp he).1 (beq_iff_eq.mp hP)).2
  · rw [if_neg h, Option.map_eq_none_iff, List.find?_eq_none]
    intro e he hP
    obtain ⟨he, ha⟩ := List.mem_filter.mp (List.mem_reverse.mp he)
    have hx : homePa s e.1 = x := beq_iff_eq.mp hP
    rw [storedAbove_eq hx] at ha
    exact h (Bool.and_eq_true_iff.mpr ⟨(hmem he hx).1, ha⟩)

/-- The last access of some that stores the byte for this write. -/
theorem find_writeBytes {l : List Acc} (hline : ∀ c ∈ l, ∀ i, i < c.n → homePa s (c.pa + i) = homePa s c.pa + i) :
    ((l.flatMap fun a => (storeBytes [a]).filter fun e => !storedAbove s as w a e.1).reverse.find?
      fun e => homePa s e.1 == x).map (·.2) =
      (l.reverse.find? (lasts s as w x)).map (storedByte s x) := by
  induction l with
  | nil => rfl
  | cons a l ih =>
    obtain ⟨ha, hl⟩ := List.forall_mem_cons.mp hline
    rw [List.flatMap_cons, List.reverse_append, List.find?_append, List.reverse_cons, List.find?_append, Option.map_or,
      Option.map_or, ih hl, find_accBytes ha]
    by_cases h : lasts s as w x a = true
    · rw [if_pos h, List.find?_cons_of_pos h]
      rfl
    · rw [if_neg h, List.find?_cons_of_neg h]
      rfl

/-- The last of some accesses with a property is the highest-numbered thread's. -/
theorem last_highest {P : Acc → Bool} {c : Acc} (hsort : (as.map (·.t)).Pairwise (· < ·)) (h : as.reverse.find? P = some c) :
    ∀ b ∈ as, P b = true → b = c ∨ b.t < c.t := by
  obtain ⟨hc, l1, l2, hsplit, hl1⟩ := List.find?_eq_some_iff_append.mp h
  have has : as = l2.reverse ++ c :: l1.reverse := by
    rw [← List.reverse_reverse as, hsplit]
    simp
  intro b hb hP
  have hb : b ∈ l1 ++ c :: l2 := hsplit ▸ List.mem_reverse.mpr hb
  obtain hb | hb := List.mem_append.mp hb
  · exact absurd hP (by simpa using hl1 b hb)
  · refine (List.mem_cons.mp hb).imp id fun hb => ?_
    rw [has, List.map_append, List.pairwise_append] at hsort
    exact hsort.2.2 _ (List.mem_map_of_mem (List.mem_reverse.mpr hb)) _ (List.mem_map_of_mem List.mem_cons_self)

/-- Each byte at home is that of the highest-numbered thread which stores it. -/
theorem find_writeBytes_last (hsort : (as.map (·.t)).Pairwise (· < ·))
    (hline : ∀ c ∈ as, ∀ i, i < c.n → homePa s (c.pa + i) = homePa s c.pa + i) :
    ((writeBytes s as w).reverse.find? fun e => homePa s e.1 == x).map (·.2) =
      match as.reverse.find? (reaches s x) with
      | some c => if c.write s = w then some (storedByte s x c) else none
      | none => none := by
  rw [writeBytes, writtenIn, find_writeBytes (w := w) fun c hc => hline c (List.mem_filter.mp hc).1, ← List.filter_reverse,
    List.find?_filter]
  simp only [Bool.decide_and, Bool.decide_eq_true]
  cases h : as.reverse.find? (reaches s x) with
  | none =>
    have hnone : as.reverse.find? (fun a => a.write s == w && lasts s as w x a) = none :=
      List.find?_eq_none.mpr fun a ha => by simp [lasts, List.find?_eq_none.mp h a ha]
    rw [hnone]
    rfl
  | some c =>
    obtain ⟨hc, l1, l2, hsplit, hl1⟩ := List.find?_eq_some_iff_append.mp h
    have hmem : c ∈ as := List.mem_reverse.mp (List.mem_of_find?_eq_some h)
    have hother := last_highest hsort h
    by_cases hw : c.write s = w
    · have hnot : outdone s as w x c = false := by
        refine Bool.eq_false_iff.mpr fun ho => ?_
        obtain ⟨b, hb, ho⟩ := List.any_eq_true.mp ho
        simp only [Bool.and_eq_true, decide_eq_true_eq] at ho
        obtain ⟨⟨-, ht⟩, hr⟩ := ho
        obtain rfl | hb := hother b hb hr
        · exact lt_irrefl _ ht
        · exact lt_asymm ht hb
      have hfound : as.reverse.find? (fun a => a.write s == w && lasts s as w x a) = some c :=
        List.find?_eq_some_iff_append.mpr ⟨by simp [lasts, hw, hc, hnot], l1, l2, hsplit, fun a ha => by
          have := hl1 a ha
          simp_all [lasts]⟩
      rw [hfound]
      exact (if_pos hw).symm
    · have hnone : as.reverse.find? (fun a => a.write s == w && lasts s as w x a) = none := by
        refine List.find?_eq_none.mpr fun a ha hP => ?_
        simp only [lasts, Bool.and_eq_true, beq_iff_eq, Bool.not_eq_true'] at hP
        obtain ⟨haw, hr, hno⟩ := hP
        obtain rfl | hat := hother a (List.mem_reverse.mp ha) hr
        · exact hw haw
        · exact absurd (List.any_eq_true.mpr ⟨c, hmem, by simp [hw, hat, hc]⟩) (Bool.eq_false_iff.mp hno)
      rw [hnone]
      exact (if_neg hw).symm

end

end Sys2Proof.Machine

end

/-! Loads, stores and atomics complete (R228, R230, R231, R235, R36, R62). -/

section

namespace Sys2Proof.Machine

open Sys2Proof.Claim

/-! A store performed in the L1, or sent to its homes (R230). -/

section

variable {s : State} {g id : Nat} {thr : Word} {p : Pend} {a : Acc} {as : List Acc}

/-- The accesses of a store that go to its homes: those with a line that some access brings there. -/
def homeAccs (s : State) (g : Nat) (p : Pend) : List Acc :=
  p.accs.filter fun a => p.accs.any fun c => toHome s g c && sameLine s (lineOf c.pa) (lineOf a.pa)

/-- The accesses that a store performs in the L1. -/
def nearAccs (s : State) (g : Nat) (p : Pend) : List Acc :=
  p.accs.filter fun a => !p.accs.any fun c => toHome s g c && sameLine s (lineOf c.pa) (lineOf a.pa)

/-- An access that a list does not hold has its bytes performed. -/
def gotUnless (as : List Acc) (c : Acc) : Acc := if as.contains c then c else { c with got := true }

theorem storeGo_global (hs : p.scratch = false)
    (ht : ∀ c ∈ p.accs, c ∉ homeAccs s g p → l1Takes s (blkOf g) (lineOf c.pa) = true) :
    storeGo s g p = if (homeAccs s g p).isEmpty then dropPend (storeLocal s g p (nearAccs s g p)) g p.id
      else storeSend (updPend (storeLocal s g p (nearAccs s g p)) g p.id (withAccs (gotUnless (homeAccs s g p)))) g p
        (homeAccs s g p) := by
  have hnear : (nearAccs s g p).any (fun a => !l1Takes s (blkOf g) (lineOf a.pa)) = false := by
    refine List.any_eq_false.mpr fun c hc => ?_
    obtain ⟨hmem, hnot⟩ := List.mem_filter.mp hc
    rw [ht c hmem fun hh => ?_]
    · exact Bool.false_ne_true
    · rw [(List.mem_filter.mp hh).2] at hnot
      exact absurd hnot (by decide)
  have hgo : storeGo s g p = if !p.scratch && (nearAccs s g p).any fun a => !l1Takes s (blkOf g) (lineOf a.pa) then s
      else if (homeAccs s g p).isEmpty then dropPend (storeLocal s g p (nearAccs s g p)) g p.id
      else storeSend (updPend (storeLocal s g p (nearAccs s g p)) g p.id (withAccs (gotUnless (homeAccs s g p)))) g p
        (homeAccs s g p) := by
    unfold storeGo nearAccs homeAccs
    simp only [hs, Bool.not_false, Bool.true_and]
    rfl
  rw [hgo, hnear, Bool.and_false]
  exact if_neg Bool.false_ne_true

/-! Atomics (R234, R235). -/

/-- The request of the accesses at one line. -/
def atomicReq (s : State) (g : Nat) (p : Pend) (l : Nat) : HomeReq :=
  { (default : HomeReq) with
    blk := some (blkOf g), own := some (g, p.id), kind := if p.kind = .atomic then .atomic else .amax, line := l
    op := p.op, ftype := p.ftype, accs := p.accs.filter fun a => a.line s == l }

theorem atomicSend_eq (s : State) (g : Nat) (p : Pend) : atomicSend s g p =
    updPend ((accLines s p.accs).foldl (fun u l =>
      sendHome (evictAccs u (blkOf g) l (p.accs.filter fun a => a.line s == l)) (atomicReq s g p l)) s) g p.id asSent := rfl

theorem atomicSend_leaves (hp : findPend (gAt s g) p.id = some p) : (atomicSend s g p).mem = s.mem ∧
    findPend (gAt (atomicSend s g p) g) p.id = some { p with sent := true } ∧
    ∀ l ∈ accLines s p.accs, ∃ n, { atomicReq s g p l with id := n } ∈ (atomicSend s g p).hw := by
  obtain ⟨hs, hreq⟩ := foldl_sendHome
    (f := fun u l => evictAccs u (blkOf g) l (p.accs.filter fun a => a.line s == l))
    (fun u l => evictAccs_sends u _ _ _) (atomicReq s g p) (accLines s p.accs) s
  obtain ⟨hmem, hhw, hfind⟩ := sent_of_sends hs hp
  rw [atomicSend_eq]
  exact ⟨hmem, hfind, fun l hl => hhw ▸ hreq l hl⟩

theorem exec_atomicComplete (hp : findPend (gAt s g) p.id = some p)
    (hk : p.kind = .atomic ∨ p.kind = .scaleq ∨ p.kind = .amax) : exec (.atomicComplete g (p.id, thr)) s = .next
    (if p.accs.all (fun c => c.got) then finishLoad (loadSome s g p thr allRegs) g p.id
      else if p.sent || !allMay s g p then s
      else if p.scratch then atomicLocal s g p else atomicSend s g p) := by
  have hkind : (!(decide (p.kind = .atomic) || decide (p.kind = .scaleq) || decide (p.kind = .amax))) = false := by
    simpa [or_assoc, ← or_iff_not_imp_left] using hk
  show execAtomicComplete g (p.id, thr) s = _
  rw [execAtomicComplete, hp]
  refine (if_neg (Bool.eq_false_iff.mp hkind)).trans ?_
  split_ifs <;> rfl

/-- The word in scratch on which an access operates. -/
def scratchWord (s : State) (a : Acc) : Word := w32 (leNat (lsBytes s a.pa 4))

/-- What an operation makes of that word, with its FLAGS bits. -/
def newWord (s : State) (p : Pend) (a : Acc) : Word × Nat := atomicNew p.op p.ftype (scratchWord s a) a.x a.y

/-- The operation of one access once it has been performed in scratch. -/
def performedHere (s : State) (a : Acc) (p : Pend) (q : Pend) : Pend :=
  { q with
    accs := [{ a with got := true, bs := leBytes 4 (scratchWord s a).toNat }], fl := q.fl ||| (newWord s p a).2, done := true }

theorem atomicLocal_single (ha : p.accs = [a]) : ∃ u, OnlyScratch s u ∧
    (∀ k, Store.get u.ls k = Store.get (lsPut s a.pa (leBytes 4 (newWord s p a).1.toNat)).ls k) ∧
    atomicLocal s g p = updPend u g p.id (performedHere s a p) := by
  refine ⟨lsPut (noteScratch s (coreOf g) (some (g, p.id)) (bytesAt a.pa (leBytes 4 (newWord s p a).1.toNat))) a.pa
    (leBytes 4 (newWord s p a).1.toNat), scratchPut_onlyScratch _ _ _ _ _ _, fun k => ?_, ?_⟩
  · rw [ls_lsPut, ls_lsPut, ls_noteScratch]
  · have hf : performedHere s a p = fun q => { q with
        accs := [{ a with got := true, bs := leBytes 4 (scratchWord s a).toNat }], fl := q.fl ||| (0 ||| (newWord s p a).2)
        done := true } := by
      funext q
      rw [performedHere, Nat.zero_or]
    rw [atomicLocal, ha, hf]
    rfl

/-- What an access to an access that a list holds becomes. -/
theorem map_gotUnless_self (as : List Acc) : as.map (gotUnless as) = as :=
  (List.map_congr_left fun _ hc => if_pos (List.contains_iff_mem.mpr hc)).trans (List.map_id as)

/-- The state once a store has performed what it can in the L1 and the rest is to leave. -/
def nearStored (s : State) (g : Nat) (p : Pend) : State :=
  updPend (storeLocal s g p (nearAccs s g p)) g p.id (withAccs (gotUnless (homeAccs s g p)))

theorem findPend_nearStored (hp : findPend (gAt s g) p.id = some p) (hs : p.scratch = false) :
    findPend (gAt (nearStored s g p) g) p.id = some (withAccs (gotUnless (homeAccs s g p)) p) := by
  have hg : gAt (storeLocal s g p (nearAccs s g p)) g = gAt s g :=
    congrArg (Store.get · g) (storeLocal_onlyCaches hs _ s).groups
  rw [nearStored, findPend_updPend_self _ _ _ (f := withAccs _) fun _ => rfl, hg, hp]
  rfl

theorem nearStored_mem (hs : p.scratch = false) : (nearStored s g p).mem = s.mem := (storeLocal_onlyCaches hs _ s).mem
theorem nearStored_migs (hs : p.scratch = false) : (nearStored s g p).migs = s.migs := (storeLocal_onlyCaches hs _ s).migs

theorem writeReq_op {w : Nat × Option (Nat × Nat)} (h : p.kind = .rx) : (writeReq s g p as w).op = p.op :=
  if_pos (decide_eq_true h)

/-- A byte that several threads store is in the write of the highest-numbered. -/
theorem writeReq_last {w : Nat × Option (Nat × Nat)} {x : Nat} (h : p.kind = .store)
    (hsort : (as.map (·.t)).Pairwise (· < ·))
    (hline : ∀ c ∈ as, ∀ i, i < c.n → homePa s (c.pa + i) = homePa s c.pa + i) :
    ((writeReq s g p as w).bytes.reverse.find? fun e => homePa s e.1 == x).map (·.2) =
      match as.reverse.find? (reaches s x) with
      | some c => if c.write s = w then some (storedByte s x c) else none
      | none => none := by
  have hb : (writeReq s g p as w).bytes = writeBytes s as w := if_neg (by rw [h]; decide)
  rw [hb]
  exact find_writeBytes_last hsort hline

end

/-- Settles O50: loads and atomics by the accesses that have delivered, stores by where their accesses go, and the requests by
the list that one fold sends. -/
theorem accessesComplete : Obligations.AccessesComplete := by
  intro s g id regs thr p a hp all pend home takes whole Ends Delivers Leaves Requests at_ Writes old new
  obtain rfl := id_of_findPend hp
  have loads (hk : p.kind = .load ∨ p.kind = .pgreq ∧ recWaiting s (g, 8 + p.id) = false ∨ p.kind = .value ∧ p.done = true)
      (r : Nat) : exec (.loadComplete g p.id (thr, r)) s = .next (finishLoad (loadSome s g p thr r) g p.id) := by
    show execLoadComplete g p.id (thr, r) s = _
    obtain hk | ⟨hk, hr⟩ | ⟨hk, hd⟩ := hk
    · simp only [execLoadComplete, hp, hk, if_true]
    · simp only [execLoadComplete, hp, hk, hr, Bool.not_false, if_true]
    · simp only [execLoadComplete, hp, hk, hd, if_true]
  have ends {i : Instr} (hi : exec i s = .next (dropPend s g p.id)) : Ends i := ⟨_, hi, completed_dropPend hp⟩
  have delivers {i : Instr} (hi : exec i s = .next (finishLoad (loadSome s g p thr allRegs) g p.id)) (hall : all = true)
      (hw : whole) : Delivers i := by
    obtain ⟨t, rfl, ht⟩ := finishLoad_whole hp hall hw.1
    exact ⟨_, hi, ht⟩
  have stores (hk : p.kind = .store) : exec (.storeComplete g p.id) s = .next
      (if p.sent then (if all then dropPend s g p.id else s) else if allMay s g p then storeGo s g p else s) := by
    show execStoreComplete g p.id s = _
    simp only [execStoreComplete, hp, hk]
    rfl
  have writes {u : State} {as : List Acc} (hm : u.mem = s.mem) (hg : u.migs = s.migs)
      (hf : findPend (gAt u g) p.id = some { p with accs := p.accs.map (gotUnless as) })
      (hi : exec (.storeComplete g p.id) s = .next (storeSend u g p as)) : Writes as := by
    obtain ⟨hmem, hfind, hreq⟩ := storeSend_leaves (as := as) hf
    rw [writeReq_congr hg, write_congr hg] at hreq
    refine ⟨_, hi, hmem.trans hm, hfind, fun w hw => ?_⟩
    obtain ⟨n, hr⟩ := hreq w hw
    refine ⟨{ writeReq s g p as w with id := n }, hr, rfl, rfl, rfl, rfl, rfl, fun hrx => ⟨?_, rfl⟩, fun hst hsort hline x => ?_⟩
    · exact writeReq_op (s := s) (g := g) (as := as) (w := w) hrx
    · exact writeReq_last (g := g) hst hsort hline
  have requests {k : HwKind} (hk : p.kind = .atomic ∨ p.kind = .scaleq ∨ p.kind = .amax)
      (hkind : (if p.kind = .atomic then HwKind.atomic else .amax) = k) (hall : all = false) (hsent : p.sent = false)
      (hs : p.scratch = false) (hmay : allMay s g p = true) : Requests (.atomicComplete g (p.id, thr)) k := by
    obtain ⟨hmem, hfind, hreq⟩ := atomicSend_leaves hp
    have hi : exec (.atomicComplete g (p.id, thr)) s = .next (atomicSend s g p) := by
      rw [exec_atomicComplete hp hk, if_neg (Bool.eq_false_iff.mp hall), hsent, hmay, hs]
      rfl
    refine ⟨_, hi, hmem, ?_, fun l hl => ?_⟩
    · rw [hfind]
      exact congrArg (fun as => some { p with sent := true, accs := as }) (map_gotUnless_self p.accs).symm
    · obtain ⟨n, hr⟩ := hreq l hl
      exact ⟨_, hr, rfl, rfl, rfl, hkind, rfl, rfl⟩
  refine ⟨?loads, ?part, ?scratchLoad, ?scratchStore, ?nearStore, ?homeStore, ?reduction, ?storeEnds, ?amaxEnds, ?recordEnds,
    ?flushEnds, ?scratchAtomic, fun hk => requests (.inl hk) (if_pos hk), ?amaxRequests, ?atomicDelivers⟩
  case loads => exact fun hk => delivers (loads hk _)
  case part =>
    intro hk ha hgot hput hu ht hr hnot
    exact ⟨_, loads (.inl hk) regs, loadSome_part hp ha hgot hput ht hr hnot⟩
  case scratchLoad =>
    intro hk ha hgot hput hn hs hu ht hmay hdrain
    exact ⟨_, loads (.inl hk) allRegs, loadSome_scratch hp hk ha hgot hput hn hs ht hmay hdrain⟩
  case scratchStore =>
    intro hk hsent hmay hs
    have hi := stores hk
    rw [hsent, if_neg Bool.false_ne_true, if_pos hmay, storeGo_scratch hs] at hi
    have hu := storeLocal_onlyScratch (g := g) hs p.accs s
    have hg : findPend (gAt (storeLocal s g p p.accs) g) p.id = some p := by rw [gAt, hu.groups]; exact hp
    refine ⟨_, hi, ?_, storeLocal_ls hs p.accs s⟩
    refine (congrArg (Completed · (dropPend (storeLocal s g p p.accs) g p.id) g p) ?_).mpr (completed_dropPend hg)
    exact hu.symm
  case nearStore =>
    intro hk hsent hmay hs hhome ht
    have hi := stores hk
    rw [hsent, if_neg Bool.false_ne_true, if_pos hmay, storeGo_global hs ht, show homeAccs s g p = [] from hhome] at hi
    exact ⟨_, hi, (storeLocal_onlyCaches hs _ s).mem, findPend_dropPend_self _ _ _⟩
  case homeStore =>
    intro hk hsent hmay hs hhome ht
    have hi := stores hk
    rw [hsent, if_neg Bool.false_ne_true, if_pos hmay, storeGo_global hs ht,
      if_neg (mt List.isEmpty_iff.mp (show homeAccs s g p ≠ [] from hhome))] at hi
    exact writes (nearStored_mem hs) (nearStored_migs hs) (findPend_nearStored hp hs) hi
  case reduction =>
    intro hk hsent hmay
    refine writes rfl rfl ?_ ?_
    · rw [map_gotUnless_self, hp]
    · show execStoreComplete g p.id s = _
      simp only [execStoreComplete, hp, hk, hsent, hmay, if_true, Bool.false_eq_true, if_false]
  case storeEnds =>
    intro hk hsent hall
    refine ends ?_
    obtain hk | hk := hk
    · rw [stores hk, if_pos hsent, if_pos hall]
    · show execStoreComplete g p.id s = _
      simp only [execStoreComplete, hp, hk, hsent, if_true]
      exact congrArg _ (if_pos hall)
  case amaxEnds =>
    intro hk hall
    refine ends ?_
    show execStoreComplete g p.id s = _
    simp only [execStoreComplete, hp, hk]
    exact congrArg _ (if_pos hall)
  case recordEnds =>
    intro hk ht
    refine ends ?_
    show execStoreComplete g p.id s = _
    simp only [execStoreComplete, hp, hk, if_pos ht]
  case flushEnds =>
    intro hk hwb
    refine ends ?_
    show execStoreComplete g p.id s = _
    simp only [execStoreComplete, hp, hk, hwb, Bool.false_eq_true, if_false]
  case scratchAtomic =>
    intro hk ha hgot hsent hs hmay
    obtain ⟨u, hu, hls, he⟩ := atomicLocal_single (g := g) ha
    have hg : findPend (gAt u g) p.id = some p := by rw [gAt, hu.groups]; exact hp
    have hi : exec (.atomicComplete g (p.id, thr)) s = .next (updPend u g p.id (performedHere s a p)) := by
      rw [exec_atomicComplete hp (.inl hk), if_neg (by simp [ha, hgot]), hsent, hmay, hs, ← he]
      rfl
    refine ⟨_, hi, hu.mem, ?_, ?_, fun k hk => ?_⟩
    · rw [findPend_updPend_self _ _ _ (f := performedHere s a p) fun _ => rfl, hg]
      rfl
    · refine (List.map_congr_left fun i _ => hls _).trans ?_
      exact (congrArg (Store.getList _ a.pa) (leBytes_length 4 _).symm).trans (getList_setList_self s.ls a.pa (leBytes 4 _))
    · rw [show Store.get (updPend u g p.id (performedHere s a p)).ls k = _ from hls k, ls_lsPut, if_neg]
      rw [leBytes_length]
      omega
  case amaxRequests =>
    intro hk
    exact requests (.inr hk.symm) (if_neg (by obtain hk | hk := hk <;> rw [hk] <;> decide))
  case atomicDelivers =>
    intro hk hall
    refine delivers ?_ hall
    rw [exec_atomicComplete hp hk, if_pos hall]

end Sys2Proof.Machine

end

/-! Boot and the closing of paths under a lease reset (R460 to R462). -/

section

namespace Sys2Proof.Machine

open Sys2Proof.Claim

/-! An image runs (R460, R461). -/

section

variable {s t u : State} {m rec_ : List Byte} {k : Nat}

theorem foldl_loadImage (f : Nat → Nat) (h : Nat → Nat) (l : List Nat) (s : State) :
    l.foldl (fun s i => loadImage s m (f i) (h i)) s =
      { s with sram := (l.foldl (fun s i => loadImage s m (f i) (h i)) s).sram } := by
  induction l generalizing s with
  | nil => rfl
  | cons i l ih =>
    rw [List.foldl_cons, ih]
    rfl

/-- The LFC images load if each has its digest, and the LFCs are then released. -/
theorem loadLfcs_eq (s : State) (m : List Byte) : loadLfcs s m = { s with
    sram := (loadLfcs s m).sram, lfcUp := if imagesOk m 1 then true else s.lfcUp } := by
  unfold loadLfcs
  dsimp only
  cases imagesOk m 1 with
  | false => rfl
  | true =>
    by_cases he : (manImages m 1).isEmpty = true
    · simp only [he, if_true]
      rfl
    · simp only [he]
      exact foldl_loadImage (m := m) (fun k => k + 1) _ _ { s with lfcUp := true }

theorem runImage_eq (s : State) (m : List Byte) (k : Nat) : runImage s m k = { s with
    sram := (runImage s m k).sram, lfcUp := if imagesOk m 1 then true else s.lfcUp
    image := k, manHash := Config.sha384 (m.take (manLen m)), lfcHash := Config.sha384 (manLfc m) } := by
  unfold runImage
  dsimp only
  rw [loadLfcs_eq, show (manImages m (if k = 1 then 0 else 2)).foldl (fun s i => loadImage s m 0 i) s = _ from
    foldl_loadImage (m := m) (fun _ => 0) (fun i => i) _ s]

/-- Every image of a manifest for a target has the digest of its entry. -/
def WholeImages (m : List Byte) (target : Nat) : Prop := ∀ i, i < manNimg m → manTarget m i = target →
  Config.sha384 (manImage m i) = (manEntry m i).take 48

theorem imagesOk_iff {target : Nat} : imagesOk m target = true ↔ WholeImages m target := by
  simp [imagesOk, manImages, WholeImages, imp_iff_not_or]

theorem bootOk_iff : bootOk s m = true ↔ manOk s m = true ∧ manHas m 0 = true ∧ WholeImages m 0 := by
  rw [bootOk, Bool.and_eq_true, Bool.and_eq_true, imagesOk_iff, and_assoc]

theorem recoverOk_iff : recoverOk s m = true ↔ manOk s m = true ∧ manClass m = 0 ∧ manHas m 2 = true ∧ WholeImages m 2 := by
  rw [recoverOk, Bool.and_eq_true, Bool.and_eq_true, Bool.and_eq_true, imagesOk_iff, beq_iff_eq, and_assoc, and_assoc]

theorem boot_runs (h : bootOk (loadBad s) m = true) : boot s m rec_ = runImage (loadBad s) m 1 := if_pos h

theorem boot_recovers (h : bootOk (loadBad s) m = false) : boot s m rec_ = bootRecovery (loadBad s) rec_ :=
  if_neg (Bool.eq_false_iff.mp h)

/-- The state with the SVN floors that a recovery image raises. -/
theorem bootRecovery_runs (h : recoverOk s m = true) : bootRecovery s m =
    { runImage s m 2 with svn := [0, 1].foldl (fun v c => Store.upd v c fun n => Nat.max n (manSvn m)) s.svn } := if_pos h

theorem bootRecovery_halts (h : recoverOk s m = false) : bootRecovery s m = interrupt { s with image := 3 } 7 :=
  if_neg (Bool.eq_false_iff.mp h)

theorem get_raisedFloors (v : Store Nat) (n : Nat) {c : Nat} (hc : c < 2) :
    Store.get ([0, 1].foldl (fun v c => Store.upd v c fun x => Nat.max x n) v) c = Nat.max (Store.get v c) n := by
  simp only [List.foldl_cons, List.foldl_nil, Store.get_upd]
  have h : c = 0 ∨ c = 1 := by omega
  obtain rfl | rfl := h <;> rfl

/-- From s to t only what the firmware processors hold and run, the SVN floors and the pending vectors may differ. -/
def OnlyBoot (s t : State) : Prop := t = { s with
  sram := t.sram, lfcUp := t.lfcUp, image := t.image, manHash := t.manHash, lfcHash := t.lfcHash, svn := t.svn, msix := t.msix }

theorem bootRecovery_onlyBoot (s : State) (m : List Byte) : OnlyBoot s (bootRecovery s m) := by
  cases hr : recoverOk s m with
  | true => rw [bootRecovery_runs hr, runImage_eq]; rfl
  | false => rw [bootRecovery_halts hr]; rfl

theorem boot_onlyBoot (s : State) (m rec_ : List Byte) : OnlyBoot (loadBad s) (boot s m rec_) := by
  cases hb : bootOk (loadBad s) m with
  | true => rw [boot_runs hb, runImage_eq]; rfl
  | false =>
    rw [boot_recovers hb]
    exact bootRecovery_onlyBoot _ _

end

/-! A lease reset begins (R462). -/

section

variable {s t u : State} {k : Nat}

/-- From s to t only paths, what their closing loses, and flits on their way may differ. -/
def OnlyClosing (s t : State) : Prop := t = { s with
  paths := t.paths, refl := t.refl, txw := t.txw, groups := t.groups, rxq := t.rxq, out := t.out, optq := t.optq, optw := t.optw }

theorem OnlyClosing.trans (h : OnlyClosing s t) (k : OnlyClosing t u) : OnlyClosing s u := by
  unfold OnlyClosing at *
  rw [k, h]

/-- A flit that is urgent changes no path. -/
theorem emit_urgent {f : Flit} (h : f.urgent = true) : OnlyClosing s (emit s f) ∧ (emit s f).paths = s.paths := by
  unfold emit
  split_ifs
  · rw [takeFlit, if_pos h]
    unfold arriveControl
    split_ifs <;> exact ⟨rfl, rfl⟩
  · unfold emitOut
    dsimp only
    split_ifs
    · exact ⟨rfl, rfl⟩
    · exact ⟨rfl, rfl⟩
    · exact ⟨rfl, rfl⟩
    · exact ⟨rfl, rfl⟩
    · split
      · exact ⟨rfl, rfl⟩
      · split <;> exact ⟨rfl, rfl⟩

/-- A path whose state becomes SHUT. -/
def Path.shutDown (p : Path) : Path := { p with st := 3 }

theorem closeSend_shut (s : State) (k : Nat) :
    OnlyClosing s (closeSend s k 3) ∧ (closeSend s k 3).paths = Store.upd s.paths k Path.shutDown := ⟨rfl, rfl⟩

/-- What a lease reset does with one entry of the paths. -/
def shutEntry (s : State) (e : Nat × Path) : State :=
  if e.2.used && decide (e.2.st ≤ 1) then
    if e.2.recv then updPath s e.1 Path.shutDown
    else closeSend (if e.2.st = 1 then emit s (control s 5 e.2.peer e.2.ctx e.2.gen e.2.seqa) else s) e.1 3
  else s

theorem shutEntry_spec (s : State) (e : Nat × Path) : OnlyClosing s (shutEntry s e) ∧ (shutEntry s e).paths =
    if e.2.used = true ∧ e.2.st ≤ 1 then Store.upd s.paths e.1 Path.shutDown else s.paths := by
  unfold shutEntry
  by_cases h : e.2.used = true ∧ e.2.st ≤ 1
  · rw [if_pos h, if_pos (by simpa using h)]
    split_ifs with hr h1
    · exact ⟨rfl, rfl⟩
    · obtain ⟨hc, hp⟩ := emit_urgent (s := s) (f := control s 5 e.2.peer e.2.ctx e.2.gen e.2.seqa) rfl
      obtain ⟨hc', hp'⟩ := closeSend_shut (emit s (control s 5 e.2.peer e.2.ctx e.2.gen e.2.seqa)) e.1
      exact ⟨hc.trans hc', hp'.trans (by rw [hp])⟩
    · exact closeSend_shut s e.1
  · rw [if_neg h, if_neg (by simpa using h)]
    exact ⟨rfl, rfl⟩

theorem pathAt_shutEntry (s : State) (e : Nat × Path) (k : Nat) : (pathAt (shutEntry s e) k).st =
    if (e.2.used = true ∧ e.2.st ≤ 1) ∧ k = e.1 then 3 else (pathAt s k).st := by
  rw [pathAt, (shutEntry_spec s e).2]
  by_cases h : e.2.used = true ∧ e.2.st ≤ 1
  · rw [if_pos h, Store.get_upd]
    by_cases hk : k = e.1
    · rw [if_pos hk, if_pos ⟨h, hk⟩]
      rfl
    · rw [if_neg hk, if_neg fun h => hk h.2]
      rfl
  · rw [if_neg h, if_neg fun h' => h h'.1]
    rfl

theorem foldl_shutEntry (l : List (Nat × Path)) (s : State) : OnlyClosing s (l.foldl shutEntry s) ∧
    (∀ k, (pathAt s k).st = 3 → (pathAt (l.foldl shutEntry s) k).st = 3) ∧
    ∀ e ∈ l, e.2.used = true → e.2.st ≤ 1 → (pathAt (l.foldl shutEntry s) e.1).st = 3 := by
  induction l generalizing s with
  | nil => exact ⟨rfl, fun _ h => h, fun _ h => absurd h List.not_mem_nil⟩
  | cons x l ih =>
    obtain ⟨hc, hkeep, hall⟩ := ih (shutEntry s x)
    refine ⟨(shutEntry_spec s x).1.trans hc, fun k hk => hkeep k ?_, fun e he hu hst => ?_⟩
    · rw [pathAt_shutEntry, hk, ite_self]
    · obtain rfl | he := List.mem_cons.mp he
      · exact hkeep _ (by rw [pathAt_shutEntry, if_pos ⟨⟨hu, hst⟩, rfl⟩])
      · exact hall e he hu hst

/-- The state in which a lease reset begins, before it closes the paths. -/
def resetBegun (s : State) (nonce : Nat) : State :=
  { s with scrubPend := true, lrcHold := true, lrcStart := s.gt, lrcNonce := nonce, reqcnt := 0 }

theorem leaseRequest_begins (h : s.lrcHold = false) (nonce : Nat) :
    leaseRequest s nonce = s.paths.foldl shutEntry (resetBegun s nonce) := if_neg (Bool.eq_false_iff.mp h)

theorem leaseRequest_counts (h : s.lrcHold = true) (nonce : Nat) :
    leaseRequest s nonce = { s with reqcnt := s.reqcnt + 1 } := if_pos h

end

end Sys2Proof.Machine

end

/-! The scrub completes, and power comes (R460, R462, R463). -/

section

namespace Sys2Proof.Machine

open Sys2Proof.Claim

/-! The scrub completes (R462, R463). -/

section

variable {s : State}

theorem scrubHead_length (s : State) (n : Nat) : (scrubHead s n).length = 256 := by
  simp [scrubHead, idRomver, idFusever, idSerial, idOwnkh]

/-- The bytes of the record before the nonce. -/
def scrubStart (s : State) (n : Nat) : List Byte :=
  leBytes 2 0x5352 ++ [1#8] ++ leBytes 1 (b2n (n != 0)) ++ leBytes 4 s.reqcnt ++ leBytes 8 s.lrcStart ++ leBytes 8 s.gt

theorem scrubHead_prefix (s : State) (n : Nat) : scrubStart s n ++ leBytes 32 s.lrcNonce <+: scrubHead s n := by
  simp [scrubStart, scrubHead]

theorem nonce_of_scrubHead (s : State) (n : Nat) (bs : List Byte) :
    ((scrubHead s n ++ bs).drop 24).take 32 = leBytes 32 s.lrcNonce := by
  obtain ⟨post, h⟩ := scrubHead_prefix s n
  have hstart : (scrubStart s n).length = 24 := by simp [scrubStart]
  rw [← h, List.append_assoc, List.append_assoc, List.drop_left' hstart, List.take_left' (leBytes_length _ _)]

theorem foldl_badPut (l : List Nat) (s : State) :
    ∃ bad, l.foldl (fun t k => if k ≤ lastFrame then badPut t 1 k else t) s = { s with bad := bad } := by
  induction l generalizing s with
  | nil => exact ⟨_, rfl⟩
  | cons k l ih =>
    obtain ⟨bad, h⟩ := ih (if k ≤ lastFrame then badPut s 1 k else s)
    refine ⟨bad, h.trans ?_⟩
    unfold badPut
    split_ifs <;> rfl

/-- The record of a scrub. -/
def scrubRecord (s : State) (n : Nat) : List Byte :=
  scrubHead s n ++ freeBytes { s with fresh := s.fresh + 7 } (sigRsa + sigSlh)

theorem scrubRecord_length (s : State) (n : Nat) : (scrubRecord s n).length = 256 + 16608 := by
  simp [scrubRecord, scrubHead_length, freeBytes, sigRsa, sigSlh]

/-- The state that a scrub leaves, but for the list of bad frames. -/
def scrubbed (s : State) (n : Nat) : State := { freshState s with
  gt := s.gt, fresh := s.fresh + 7 + sigRsa + sigSlh, mem := s.mem.filter fun e => paSpace e.1 != 0
  scrubRec := scrubRecord s n, scrubPend := false }

/-- The bad-frame list as the next lease finds it. -/
def ageBad (s : State) : State := { s with bad := s.bad.map fun b => { b with old := b.pend } }

theorem exec_scrubComplete (h : s.lrcHold = true) (mismatch : List Nat) (rec_ : List Byte) : ∃ t bad,
    exec (.scrubComplete mismatch rec_) s = .next t ∧ OnlyBoot { scrubbed s mismatch.length with bad := bad } t := by
  obtain ⟨bad, hb⟩ := foldl_badPut mismatch (ageBad (loadBad (scrubbed s mismatch.length)))
  have hx : exec (.scrubComplete mismatch rec_) s = .next (bootRecovery (ageBad (mismatch.foldl
    (fun t k => if k ≤ lastFrame then badPut t 1 k else t) (ageBad (loadBad (scrubbed s mismatch.length))))) rec_) :=
    if_neg (by simp [h])
  rw [hb] at hx
  exact ⟨_, _, hx, bootRecovery_onlyBoot _ _⟩

/-- A scrub leaves only memory that is no domain of the part. -/
theorem memByte_scrubbed (n x : Nat) : memByte (scrubbed s n) x = if paSpace x = 0 then 0#8 else memByte s x := by
  have h : memByte (scrubbed s n) x = Store.get (Store.keep s.mem fun a => paSpace a != 0) x := rfl
  rw [h, Store.get_keep, memByte, show (default : Byte) = 0#8 from rfl]
  by_cases hx : paSpace x = 0
  · simp [hx]
  · simp [hx]

theorem scrubComplete_scrubs (h : s.lrcHold = true) (mismatch : List Nat) (rec_ : List Byte) :
    ∃ t, exec (.scrubComplete mismatch rec_) s = .next t ∧ t.lrcHold = false ∧ t.scrubPend = false ∧
      t.gt = s.gt ∧ t.groups = [] ∧ t.ls = [] ∧ t.keys = [] ∧ t.scrubRec.length = 256 + 16608 ∧
      (t.scrubRec.drop 24).take 32 = leBytes 32 s.lrcNonce ∧ ∀ x, memByte t x = if paSpace x = 0 then 0#8 else memByte s x := by
  obtain ⟨t, bad, hx, hb⟩ := exec_scrubComplete h mismatch rec_
  have hrec : t.scrubRec = scrubRecord s mismatch.length := by rw [hb]; rfl
  refine ⟨t, hx, by rw [hb]; rfl, by rw [hb]; rfl, by rw [hb]; rfl, by rw [hb]; rfl, by rw [hb]; rfl, by rw [hb]; rfl,
    ?_, ?_, fun x => ?_⟩
  · rw [hrec, scrubRecord_length]
  · rw [hrec, scrubRecord, nonce_of_scrubHead]
  · rw [← memByte_scrubbed mismatch.length x, memByte_congr]
    rw [hb]

end

/-! Power comes (R460). -/

section

variable {s u t : State} {m rec_ : List Byte}

theorem onlyClosing_leaseRequest (h : s.lrcHold = false) (nonce : Nat) : OnlyClosing (resetBegun s nonce) (leaseRequest s nonce) := by
  rw [leaseRequest_begins h]
  exact (foldl_shutEntry _ _).1

theorem leaseRequest_holds (s : State) (nonce : Nat) (hp : s.scrubPend = true) :
    (leaseRequest s nonce).lrcHold = true ∧ (leaseRequest s nonce).scrubPend = true := by
  cases h : s.lrcHold with
  | true =>
    rw [leaseRequest_counts h]
    exact ⟨h, hp⟩
  | false =>
    rw [onlyClosing_leaseRequest h nonce]
    exact ⟨rfl, rfl⟩

/-- What a lease reset leaves as it begins. -/
theorem leaseRequest_resets (h : s.lrcHold = false) (nonce : Nat) :
    (leaseRequest s nonce).scrubPend = true ∧ (leaseRequest s nonce).lrcHold = true ∧ (leaseRequest s nonce).lrcStart = s.gt ∧
    (leaseRequest s nonce).reqcnt = 0 ∧ (leaseRequest s nonce).lrcNonce = nonce ∧
    ∀ e ∈ s.paths, e.2.used = true → e.2.st ≤ 1 → (pathAt (leaseRequest s nonce) e.1).st = 3 := by
  have hshut := (foldl_shutEntry s.paths (resetBegun s nonce)).2.2
  rw [← leaseRequest_begins h] at hshut
  have hc := onlyClosing_leaseRequest h nonce
  exact ⟨by rw [hc]; rfl, by rw [hc]; rfl, by rw [hc]; rfl, by rw [hc]; rfl, by rw [hc]; rfl, hshut⟩

/-- The part as POWER_ON finds it, with power. -/
def powered (s : State) : State := if s.power then s else { freshState s with power := true }

theorem powered_power (s : State) : (powered s).power = true := by
  cases h : s.power <;> simp [powered, h]

theorem powered_scrubPend (s : State) : (powered s).scrubPend = s.scrubPend := by
  cases h : s.power <;> simp [powered, h, freshState]

theorem powered_svn (s : State) : (powered s).svn = s.svn := by
  cases h : s.power <;> simp [powered, h, freshState]

theorem exec_powerOn (h : s.power = false ∨ s.image = 0 ∧ s.lrcHold = false) (m rec_ : List Byte) : exec (.powerOn m rec_) s =
    .next (if (powered s).scrubPend then leaseRequest (powered s) (powered s).nonce else boot (powered s) m rec_) := by
  refine if_neg ?_
  obtain h | ⟨hi, hl⟩ := h
  · simp [h]
  · simp [hi, hl]

theorem boot_power (s : State) (m rec_ : List Byte) : (boot s m rec_).power = s.power := by
  rw [boot_onlyBoot]
  rfl

theorem powerOn_resets (h : s.power = false ∨ s.image = 0 ∧ s.lrcHold = false) (hp : s.scrubPend = true) (m rec_ : List Byte) :
    ∃ t, exec (.powerOn m rec_) s = .next t ∧ t.lrcHold = true ∧ t.scrubPend = true := by
  have hp' := (powered_scrubPend s).trans hp
  refine ⟨_, exec_powerOn h m rec_, ?_⟩
  rw [if_pos hp']
  exact leaseRequest_holds _ _ hp'

/-- Where a boot ends: the image of the manifest runs, or the recovery image, or none. -/
theorem boot_ends (u : State) (m rec_ : List Byte) (svn : Store Nat) (hsvn : u.svn = svn) :
    let t := boot u m rec_
    let runs := manOk (loadBad u) m = true ∧ manHas m 0 = true ∧ WholeImages m 0
    let recovers := manOk (loadBad u) rec_ = true ∧ manClass rec_ = 0 ∧ manHas rec_ 2 = true ∧ WholeImages rec_ 2
    (runs → t.image = 1 ∧ t.manHash = Config.sha384 (m.take (manLen m)) ∧ (WholeImages m 1 → t.lfcUp = true)) ∧
    (¬runs → recovers → t.image = 2 ∧ ∀ c, c < 2 → Store.get t.svn c = Nat.max (Store.get svn c) (manSvn rec_)) ∧
    (¬runs → ¬recovers → t.image = 3 ∧ bit t.msix 7 = true) := by
  intro t runs recovers
  have hr : bootOk (loadBad u) m = true ↔ runs := bootOk_iff
  have hv : recoverOk (loadBad u) rec_ = true ↔ recovers := recoverOk_iff
  refine ⟨fun h => ?_, fun h hrec => ?_, fun h hrec => ?_⟩
  · have ht : t = runImage (loadBad u) m 1 := boot_runs (hr.mpr h)
    rw [ht, runImage_eq]
    exact ⟨rfl, rfl, fun hw => if_pos (imagesOk_iff.mpr hw)⟩
  · have ht : t = _ := (boot_recovers (Bool.eq_false_iff.mpr fun hb => h (hr.mp hb))).trans (bootRecovery_runs (hv.mpr hrec))
    rw [ht, runImage_eq]
    refine ⟨rfl, fun c hc => ?_⟩
    rw [← hsvn]
    exact get_raisedFloors _ _ hc
  · have ht : t = _ := (boot_recovers (Bool.eq_false_iff.mpr fun hb => h (hr.mp hb))).trans
      (bootRecovery_halts (Bool.eq_false_iff.mpr fun hb => hrec (hv.mp hb)))
    rw [ht]
    exact ⟨rfl, bit_or_two_pow _ _⟩

end

end Sys2Proof.Machine

end

/-! Corrected errors, heat, counters, and data with an error (R246, R405, R457, R464, R465, R468). -/

section

namespace Sys2Proof.Machine

open Sys2Proof.Claim

/-! Errors that are corrected, heat, and the wrap of a counter (R405, R457, R464, R468). -/

section

variable {s : State}

theorem badPut_appends {reason frame : Nat} (hb : badFrame s frame = false) (hf : s.bad.length < 4096) :
    badPut s reason frame = { s with bad := s.bad ++ [⟨true, false, reason, frame⟩] } := by
  have hfull : badFull s = false := by simpa [badFull] using hf
  exact if_neg (by simp [hb, hfull])

theorem badPut_ecc (s : State) (reason frame : Nat) : (badPut s reason frame).ecc = s.ecc := by
  unfold badPut
  split_ifs <;> rfl

/-- The state that counts a corrected error. -/
def eccCounted (s : State) (frame : Nat) : State := { s with ecc := Store.set s.ecc frame (Store.get s.ecc frame + 1) }

theorem exec_eccCorrected (s : State) (frame : Nat) : exec (.eccCorrected frame) s = .next
    (if s.cethr ≠ 0 ∧ s.cethr ≤ Store.get s.ecc frame + 1 ∧ frame ≤ lastFrame then badPut (eccCounted s frame) 2 frame
      else eccCounted s frame) := by
  show execEccCorrected frame s = _
  simp [execEccCorrected, eccCounted, and_assoc]

theorem exec_tjhotExceeded {die : Nat} (h : die < 6) (temp : Nat) : exec (.tjhotExceeded die temp) s = .next
    (if die < 4 ∧ s.tjhot < temp % 2 ^ 12 ∧ bit s.thstat 0 = false then
      { s with therm := Store.set s.therm die (temp % 2 ^ 12), thstat := 1, msix := s.msix ||| 2 ^ 5 }
    else { s with therm := Store.set s.therm die (temp % 2 ^ 12) }) := by
  have hx : exec (.tjhotExceeded die temp) s = _ := if_neg (Nat.not_le.mpr h)
  rw [hx]
  simp [interrupt, and_assoc]

theorem exec_thermalTrip {die temp : Nat} (h : die < 6) (ht : 440 ≤ temp) : exec (.thermalTrip die temp) s = .next
    { s with therm := Store.set s.therm die (temp % 2 ^ 12), tripHold := true, msix := s.msix ||| 2 ^ 5 } := by
  have hx : (decide (6 ≤ die) || decide (temp < tripTemp)) = false := by
    rw [decide_eq_false (Nat.not_le.mpr h), decide_eq_false (show ¬temp < tripTemp from Nat.not_lt.mpr ht)]
    rfl
  show execThermalTrip die temp s = _
  rw [execThermalTrip, hx]
  rfl

/-- A counter that has wrapped, with OVF. -/
def Pmc.wrapped (x : Pmc) : Pmc := { x with count := 0, sel := x.sel ||| 2 ^ 30 }

theorem exec_pmcWrap {k : Nat} (hon : bit (Store.get s.pmc k).sel 31 = true) (hc : (Store.get s.pmc k).count = 2 ^ 48 - 1) :
    exec (.pmcWrap k) s = .next { s with
      pmc := Store.set s.pmc k (Store.get s.pmc k).wrapped
      msix := if bit (Store.get s.pmc k).sel 29 then s.msix ||| 2 ^ 3 else s.msix } := by
  have hx : exec (.pmcWrap k) s = .next (pmcAdd s k 1) := by
    show execPmcWrap k s = _
    simp [execPmcWrap, hon, hc]
  have hw : (2 ^ 48 - 1 + 1) % 2 ^ 48 = 0 := by norm_num
  rw [hx, pmcAdd, hc]
  dsimp only
  rw [if_neg (by norm_num), hw]
  split_ifs <;> rfl

/-! Lease resets (R462). -/

theorem exec_lrstN (h : s.power = true) : exec .lrstN s = .next (leaseRequest s s.nonce) := by
  show execLrstN s = _
  rw [execLrstN, if_pos h]

theorem spdm_live (h : s.power = true) (f : State → State) : spdm s true f = .next (f s) := by
  simp [spdm, portLive, h]

theorem exec_leaseReset (h : s.power = true) (req : List Byte) : exec (.leaseReset req) s = .next
    (if reqSigned s 2 req = true ∧ (reqBody req).length = 32 then
      leaseRequest (answer s [0x7E#8, 0x02#8]) (leNat (reqBody req)) else answer s (spdmError 0x01)) := by
  show execLeaseReset req s = _
  rw [execLeaseReset, spdm_live h]
  simp

/-! Errors that are not corrected (R246, R357, R465). -/

theorem faqPut_empty (h : s.faqHead = s.faqTail) (tier frame : Nat) : faqPut s tier frame =
    interrupt { s with faq := Store.set s.faq (s.faqTail.toNat % 64) ⟨s.gt, 1, tier, frame⟩, faqTail := s.faqTail + 1#32 } 4 := by
  have hn : (s.faqTail - s.faqHead).toNat = 0 := by simp [h]
  rw [faqPut, hn]
  rfl

theorem groupError_absent {g : Nat} (h : (gAt s g).present = false) (tier frame : Nat) : groupError s g tier frame = s :=
  if_pos (by simp [h])

/-- The state in which an error's frame has entered the fault-address queue, if it lies in one. -/
def errorNoted (s : State) (tier frame : Nat) : State := if tier ≤ 1 then faqPut s tier frame else s

theorem errorNoted_elsewhere {tier : Nat} (h : 2 ≤ tier) (frame : Nat) : errorNoted s tier frame = s := if_neg (by omega)

/-- An error that a group consumes. -/
theorem exec_uncorrectable_group (s : State) (g frame tier : Nat) :
    exec (.uncorrectable 0 g frame tier) s = .next (groupError (errorNoted s tier frame) g tier frame) := rfl

/-- An error of an event table. -/
theorem exec_uncorrectable_events {tier : Nat} (h : 2 ≤ tier) (s : State) (k frame : Nat) :
    exec (.uncorrectable 7 k frame tier) s = .next { s with evBad := s.evBad ++ [(k, tier, frame)] } := by
  have hx : exec (.uncorrectable 7 k frame tier) s = .next { errorNoted s tier frame with
    evBad := (errorNoted s tier frame).evBad ++ [(k, tier, frame)] } := rfl
  rw [hx, errorNoted_elsewhere h]

theorem osdAccess_meets {k tier frame : Nat} (h : 2 ≤ tier) (h3 : tier ≠ 3) (hb : (k, tier, frame) ∈ s.evBad) {idx pa e : Nat}
    {wr : Bool} (ha : evAccess s k idx wr = .ok pa e) : osdAccess s k idx wr = .bad cUNCORRECTABLE := by
  have htier : tier = 2 ∨ 3 < tier := by omega
  rw [osdAccess, ha]
  exact if_pos (List.any_eq_true.mpr ⟨_, hb, by simpa using .inl htier⟩)

end

/-! A group that consumes data with an error is frozen and takes none of it (R246, R465). -/

section

variable {s t u : State} {g : Nat}

/-- From s to t some operations of a group may be complete, and flags of it set. -/
structure OnlyFinished (s t : State) (g : Nat) : Prop where
  frame : t = { s with groups := t.groups }
  others : ∀ h, h ≠ g → gAt t h = gAt s h
  group : gAt t g = { gAt s g with pend := (gAt t g).pend, flags := (gAt t g).flags }
  pend : (gAt t g).pend ⊆ (gAt s g).pend

theorem OnlyFinished.refl (s : State) (g : Nat) : OnlyFinished s s g := ⟨rfl, fun _ _ => rfl, rfl, fun _ h => h⟩

theorem OnlyFinished.trans (h : OnlyFinished s t g) (k : OnlyFinished t u g) : OnlyFinished s u g where
  frame := by rw [k.frame, h.frame]
  others j hj := (k.others j hj).trans (h.others j hj)
  group := by rw [k.group, h.group]
  pend _ hq := h.pend (k.pend hq)

theorem onlyFinished_finishLoad (s : State) (g id : Nat) : OnlyFinished s (finishLoad s g id) g := by
  unfold finishLoad
  cases hp : findPend (gAt s g) id with
  | none => exact .refl s g
  | some p =>
    dsimp only
    split_ifs
    · have hg := gAt_dropPend hp
      refine ⟨rfl, fun j hj => gAt_updG_ne _ _ hj, by rw [hg]; rfl, ?_⟩
      rw [hg]
      exact List.filter_subset_self _
    · exact .refl s g

theorem onlyFinished_foldl (l : List Nat) (s : State) : OnlyFinished s (l.foldl (fun s id => finishLoad s g id) s) g :=
  List.foldlRecOn (motive := fun t => OnlyFinished s t g) l _ (.refl s g) fun t h id _ => h.trans (onlyFinished_finishLoad t g id)

/-- An access that takes no more data. -/
def Acc.dropped (a : Acc) : Acc := { a with got := true, put := allRegs }

/-- An operation whose accesses take no more of the data with an error. -/
def dropIn (s : State) (g tier frame : Nat) (p : Pend) : Pend :=
  if p.kind == .load || p.kind == .atomic || p.kind == .scaleq || p.kind == .amax then
    { p with accs := p.accs.map fun a => if inError s g tier frame p a then a.dropped else a }
  else p

theorem dropIn_kind (s : State) (g tier frame : Nat) (p : Pend) : (dropIn s g tier frame p).kind = p.kind := by
  unfold dropIn
  split_ifs <;> rfl

/-- What lies in error of a load, it has taken. -/
theorem put_of_inError {tier frame : Nat} {p : Pend} (hk : p.kind = .load) {a : Acc} (ha : a ∈ (dropIn s g tier frame p).accs)
    (he : inError s g tier frame (dropIn s g tier frame p) a = true) : a.put = allRegs := by
  have hd : dropIn s g tier frame p =
      { p with accs := p.accs.map fun a => if inError s g tier frame p a then a.dropped else a } := if_pos (by simp [hk])
  rw [hd] at ha he
  obtain ⟨b, -, rfl⟩ := List.mem_map.mp ha
  cases hb : inError s g tier frame p b with
  | true => rw [if_pos rfl]; rfl
  | false =>
    rw [hb] at he
    exact absurd (hb.symm.trans he) (by simp)

/-- The group and its requests once they hold none of the data, before what has now all its data is complete. -/
def erred (s : State) (hw : List HomeReq) (g tier frame : Nat) : State :=
  updG { s with hw := hw } g fun x => { x with pend := x.pend.map (dropIn s g tier frame) }

theorem dropError_finishes (s : State) (g tier frame : Nat) : ∃ hw, OnlyFinished (erred s hw g tier frame) (dropError s g tier frame) g :=
  ⟨_, onlyFinished_foldl _ _⟩

theorem violation_groups (s : State) (kind cause ctxid addr detail mid : Nat) :
    (violation s kind cause ctxid addr detail mid).groups = s.groups := by
  have hset (r : RecRing) : (setRing s 1 r).groups = s.groups := rfl
  have hwrite (pa : Nat) (bs : List Byte) (u : State) : (homePut u pa bs).groups = u.groups := by
    rw [(homePut_homeWrites u pa bs).frame]
  unfold violation ringPut
  dsimp only
  split_ifs
  · exact (interrupt_groups _ _).trans ((hwrite _ _ _).trans (hset _))
  · exact hset _
  · exact hset _

theorem gAt_freezeGroup (s : State) (g j cause : Nat) (pc : Quad) (flt : Word) : gAt (freezeGroup s g cause pc flt) j =
    gAt (updG s g fun x => mapFrags { x with viol := some cause } Frag.freeze) j := by
  rw [gAt, freezeGroup, violation_groups]
  rfl

theorem groupError_freezes (hp : (gAt s g).present = true) (hl : ∀ r ∈ s.rdvs, r.lists g = false) (tier frame : Nat) :
    ∃ u pc, (∃ hw, OnlyFinished (erred s hw g tier frame) u g) ∧
      groupError s g tier frame = freezeGroup u g cUNCORRECTABLE pc 0#32 := by
  obtain ⟨hw, hd⟩ := dropError_finishes s g tier frame
  have hx : ∃ pc, groupError s g tier frame = rdvDrop (freezeGroup (dropError s g tier frame) g cUNCORRECTABLE pc 0#32) g :=
    ⟨_, if_neg (by simp [hp])⟩
  obtain ⟨pc, hx⟩ := hx
  refine ⟨_, pc, ⟨hw, hd⟩, hx.trans (rdvDrop_unlisted ?_)⟩
  rw [freezeGroup, violation_rdvs, updG_rdvs, hd.frame]
  exact hl

/-- What a group keeps, and what it loses, where it meets an error. -/
theorem groupError_group (hp : (gAt s g).present = true) (hl : ∀ r ∈ s.rdvs, r.lists g = false) (tier frame : Nat) :
    let t := groupError s g tier frame
    (gAt t g).viol = some 0x30 ∧ (∀ i, i < 8 → fragAt t g i = (fragAt s g i).freeze) ∧
    (gAt t g).v = (gAt s g).v ∧ (gAt t g).s = (gAt s g).s ∧ (gAt t g).p = (gAt s g).p ∧
    (∀ q ∈ (gAt t g).pend, q.kind = .load → ∀ a ∈ q.accs, inError s g tier frame q a = true → a.put = allRegs) ∧
    ∀ h, h ≠ g → gAt t h = gAt s h := by
  intro t
  obtain ⟨u, pc, ⟨hw, hu⟩, ht⟩ := groupError_freezes hp hl tier frame
  change t = _ at ht
  clear_value t
  have he : gAt (erred s hw g tier frame) g = { gAt s g with pend := (gAt s g).pend.map (dropIn s g tier frame) } :=
    gAt_updG_self _ _ _
  have hg : gAt t g = mapFrags { gAt u g with viol := some cUNCORRECTABLE } Frag.freeze := by
    rw [ht, gAt_freezeGroup, gAt_updG_self]
  have hk := hu.group
  rw [he] at hk
  refine ⟨by rw [hg, mapFrags]; rfl, fun i hi => ?_, by rw [hg, mapFrags, hk], by rw [hg, mapFrags, hk], by rw [hg, mapFrags, hk],
    fun q hq hload a ha hin => ?_, fun h hh => ?_⟩
  · rw [fragAt, hg, get_mapFrags_freeze _ hi, hk]
    rfl
  · have hpend : (gAt t g).pend = (gAt u g).pend := by rw [hg, mapFrags]
    have hmem := hu.pend (hpend ▸ hq)
    rw [he] at hmem
    obtain ⟨p, -, rfl⟩ := List.mem_map.mp hmem
    exact put_of_inError ((dropIn_kind ..).symm.trans hload) ha hin
  · rw [ht, gAt_freezeGroup, gAt_updG_ne _ _ hh, hu.others h hh]
    exact gAt_updG_ne _ _ hh

end

/-- Settles O60: an event by what its parts leave. -/
theorem powerAndErrors : Obligations.PowerAndErrors := by
  intro s m rec_ req mismatch frame tier g die temp k u whole runs recovers Resets n c therm
  have resets {v : State} (hpaths : v.paths = s.paths) (hgt : v.gt = s.gt) (h : v.lrcHold = false) (nonce : Nat) :
      Resets (leaseRequest v nonce) ∧ (leaseRequest v nonce).lrcNonce = nonce := by
    obtain ⟨hpend, hhold, hstart, hcnt, hnonce, hshut⟩ := leaseRequest_resets h nonce
    exact ⟨⟨hpend, hhold, hstart.trans hgt, hcnt, hpaths ▸ hshut⟩, hnonce⟩
  refine ⟨fun h => ⟨fun hp => ?_, fun hp => powerOn_resets h hp m rec_⟩, ?_, fun h => ⟨fun hl => ?_, fun hl => ?_, ?_⟩, fun h => ?_,
    ?_, fun hp ht hl => ?_, fun ht => ?_, fun hp ht hf => ?_, fun hd => ⟨?_, ?_, ?_⟩, ?_⟩
  · refine ⟨_, exec_powerOn h m rec_, ?_⟩
    rw [if_neg (by simp [powered_scrubPend, hp])]
    exact ⟨(boot_power _ _ _).trans (powered_power s), boot_ends (powered s) m rec_ s.svn (powered_svn s)⟩
  · exact ⟨_, rfl, rfl, rfl, rfl, rfl, rfl, rfl, rfl⟩
  · exact ⟨_, exec_lrstN h, resets rfl rfl hl _⟩
  · rw [exec_lrstN h, leaseRequest_counts hl]
  · refine ⟨_, exec_leaseReset h req, fun hs hlen hl => ?_, fun hs => ?_⟩
    · rw [if_pos ⟨hs, hlen⟩]
      exact resets (v := answer s [0x7E#8, 0x02#8]) rfl rfl hl _
    · rw [if_neg (by rintro ⟨h1, h2⟩; simp [h1, h2] at hs)]
      rfl
  · exact scrubComplete_scrubs h mismatch rec_
  · have hecc : Store.get (eccCounted s frame).ecc frame = n := Store.get_set_self s.ecc frame n
    refine ⟨_, exec_eccCorrected s frame, ?_, fun h0 hn hframe hb hlen => ?_, fun hn => ?_⟩
    · split_ifs
      · rw [badPut_ecc, hecc]
      · exact hecc
    · rw [if_pos ⟨h0, hn, hframe⟩, badPut_appends (s := eccCounted s frame) hb hlen]
      rfl
    · rw [if_neg (by omega)]
      rfl
  · refine ⟨_, exec_uncorrectable_group s g frame tier, ?_⟩
    rw [errorNoted_elsewhere ht]
    exact groupError_group hp hl tier frame
  · exact ⟨_, exec_uncorrectable_events ht s k frame, rfl, fun h3 idx wr pa e ha => osdAccess_meets ht h3
      (List.mem_append_right _ (List.mem_singleton_self _)) ha⟩
  · refine ⟨_, exec_uncorrectable_group s g frame tier, ?_⟩
    rw [errorNoted, if_pos ht, faqPut_empty hf, groupError_absent (by exact hp)]
    exact ⟨Store.get_set_self _ _ _, rfl, bit_or_two_pow _ _⟩
  · intro h
    rw [exec_tjhotExceeded hd, if_neg (by omega)]
    rfl
  · intro hc ht hb
    rw [exec_tjhotExceeded hd, if_pos ⟨hc, ht, hb⟩]
    rfl
  · exact fun ht => exec_thermalTrip hd ht
  · intro hon hc
    refine ⟨_, exec_pmcWrap hon hc, ?_, ?_, fun h => ?_, fun h => ?_⟩
    · rw [Store.get_set_self]
      rfl
    · rw [Store.get_set_self]
      exact bit_or_two_pow _ _
    · dsimp only
      rw [if_pos h]
      exact bit_or_two_pow _ _
    · exact if_neg (Bool.eq_false_iff.mp h)

end Sys2Proof.Machine

end

/-! What memory being canonical asks of outcomes, of choices and of folds (R4, R230). -/

section

namespace Sys2Proof.Machine

/-- In the next state of an outcome, where there is one, memory is canonical. -/
inductive CanonicalNext : Res → Prop
  | next {t : State} : Memory.wf t.mem → CanonicalNext (.next t)
  | fault (e : Fault) : CanonicalNext (.fault e)
  | refused (e : Refusal) : CanonicalNext (.refused e)

@[simp] theorem canonicalNext_next {t : State} : CanonicalNext (.next t) ↔ Memory.wf t.mem :=
  ⟨fun h => by cases h; assumption, .next⟩

@[simp] theorem canonicalNext_ite {p : Prop} [Decidable p] {a b : Res} :
    CanonicalNext (if p then a else b) ↔ (p → CanonicalNext a) ∧ (¬p → CanonicalNext b) := by
  split_ifs with h <;> simp [h]

/-- Of a step that may be refused: where it is taken, memory is canonical. -/
def CanonicalSome (o : Option State) : Prop := ∀ t ∈ o, Memory.wf t.mem

@[simp] theorem canonicalSome_none : CanonicalSome none := by simp [CanonicalSome]

@[simp] theorem canonicalSome_some {t : State} : CanonicalSome (some t) ↔ Memory.wf t.mem := by simp [CanonicalSome]

@[simp] theorem canonicalSome_ite {p : Prop} [Decidable p] {a b : Option State} :
    CanonicalSome (if p then a else b) ↔ (p → CanonicalSome a) ∧ (¬p → CanonicalSome b) := by
  split_ifs with h <;> simp [h]

@[simp] theorem ite_mem {p : Prop} [Decidable p] {s t : State} :
    (if p then s else t).mem = if p then s.mem else t.mem := apply_ite _ _ _ _

@[simp] theorem ite_fst_mem {α : Type} {p : Prop} [Decidable p] {x y : State × α} :
    (if p then x else y).1.mem = if p then x.1.mem else y.1.mem := apply_ite (fun x : State × α => x.1.mem) _ _ _

@[simp] theorem wf_ite {p : Prop} [Decidable p] {m m' : Store Byte} :
    Memory.wf (if p then m else m') ↔ (p → Memory.wf m) ∧ (¬p → Memory.wf m') := by
  split_ifs with h <;> simp [h]

section

variable {α β : Type}

@[simp] theorem foldl_mem {f : State → α → State} (hf : ∀ s a, (f s a).mem = s.mem) (l : List α) (s : State) :
    (l.foldl f s).mem = s.mem := by
  induction l generalizing s with
  | nil => rfl
  | cons a l ih => exact (ih _).trans (hf s a)

@[simp] theorem foldl_fst_mem {f : State × β → α → State × β} (hf : ∀ x a, (f x a).1.mem = x.1.mem) (l : List α)
    (x : State × β) : (l.foldl f x).1.mem = x.1.mem := by
  induction l generalizing x with
  | nil => rfl
  | cons a l ih => exact (ih _).trans (hf x a)

@[simp] theorem foldl_wf {f : State → α → State} (hf : ∀ s a, Memory.wf s.mem → Memory.wf (f s a).mem) (l : List α)
    {s : State} (h : Memory.wf s.mem) : Memory.wf (l.foldl f s).mem := by
  induction l generalizing s with
  | nil => exact h
  | cons a l ih => exact ih (hf s a h)

@[simp] theorem foldl_fst_wf {f : State × β → α → State × β} (hf : ∀ x a, Memory.wf x.1.mem → Memory.wf (f x a).1.mem)
    (l : List α) {x : State × β} (h : Memory.wf x.1.mem) : Memory.wf (l.foldl f x).1.mem := by
  induction l generalizing x with
  | nil => exact h
  | cons a l ih => exact ih (hf x a h)

end

end Sys2Proof.Machine

end

/-! Homes and counters: what leaves memory as it is, and what keeps it canonical. -/

section

namespace Sys2Proof.Machine

variable {s : State} {n line slot page va core : Nat} {cl : Option Nat} {bs : List (Nat × Byte)} {caches : List Nat}

@[simp] theorem pmcAdd_mem {k : Nat} : (pmcAdd s k n).mem = s.mem := by simp [pmcAdd]
@[simp] theorem pmcCount_mem {ks : List Nat} {code : Nat} : (pmcCount s ks code n).mem = s.mem := by simp [pmcCount]
@[simp] theorem updL2_mem {f : L2Line → L2Line} : (updL2 s line f).mem = s.mem := by rfl
@[simp] theorem l2Hold_mem : (l2Hold s line).mem = s.mem := (l2Hold_onlyHomes s line).mem
@[simp] theorem l2Pin_mem : (l2Pin s line slot page).1.mem = s.mem := by simp [l2Pin]

@[simp] theorem l2Meet_mem : (l2Meet s cl line).mem = s.mem := by
  unfold l2Meet
  split <;> simp

@[simp] theorem pinPl_mem : (pinPl s cl line slot page).mem = s.mem := by simp [pinPl]
@[simp] theorem grantLease_mem : (grantLease s line).1.mem = s.mem := by rfl

@[simp] theorem homeBytes_wf (h : Memory.wf s.mem) : Memory.wf (homeBytes s line bs).mem := by
  simp +contextual [homeBytes, h, memPut_wf]

@[simp] theorem filterSet_mem : (filterSet s line).mem = s.mem := by rfl

@[simp] theorem perform_wf (h : Memory.wf s.mem) : Memory.wf (perform s line bs).1.mem := by
  simp +contextual [perform, h, memPut_wf]

@[simp] theorem performAll_wf (h : Memory.wf s.mem) : Memory.wf (performAll s bs).1.mem := by simp +contextual [performAll, h]

@[simp] theorem pinRange_mem : (pinRange s cl caches slot va n).mem = s.mem := by
  refine foldl_mem (fun s i => ?_) _ s
  dsimp only
  split <;> simp

@[simp] theorem homePut_wf {pa : Nat} {bs : List Byte} (h : Memory.wf s.mem) : Memory.wf (homePut s pa bs).mem := by
  simp [homePut, h]

@[simp] theorem meetCore_mem {ps : List Nat} : (meetCore s core ps).mem = s.mem := by simp [meetCore]
@[simp] theorem meetVa_mem {ctx : Nat} : (meetVa s core ctx va n).mem = s.mem := by simp [meetVa]

@[simp] theorem writeVa_wf {bs : List Byte} (h : Memory.wf s.mem) : Memory.wf (writeVa s caches slot va bs).mem := by
  induction bs generalizing s va with
  | nil => exact h
  | cons b r ih =>
    refine ih ?_
    split
    · exact perform_wf h
    · exact h

end Sys2Proof.Machine

end

/-! Fault batches and record rings: what leaves memory as it is, and what keeps it canonical. -/

section

namespace Sys2Proof.Machine

variable {s : State} {r : FaultRec}

@[simp] theorem closeBatch_mem : (closeBatch s).mem = s.mem := by rfl
@[simp] theorem putRec_mem : (putRec s r).mem = s.mem := by simp [putRec]
@[simp] theorem faultRec_mem : (faultRec s r).mem = s.mem := by simp [faultRec]

@[simp] theorem acceptWaiting_mem {n : Nat} : (acceptWaiting s n).mem = s.mem := by
  induction n generalizing s with
  | zero => rfl
  | succ n ih =>
    unfold acceptWaiting
    split
    · split_ifs
      · simp [ih]
      · rfl
    · rfl

end Sys2Proof.Machine

end

/-! The named operations of the units: what leaves memory as it is, and what keeps it canonical. -/

section

namespace Sys2Proof.Machine

variable {s : State} {g f k n cause id i : Nat} {pc fadr : Quad} {bs : List Byte} {flt : Word} {e : StkEntry} {own : Bool}
  {recs : List (Nat × Nat)} {m : Member}

@[simp] theorem updF_mem {h : Frag → Frag} : (updF s g f h).mem = s.mem := by rfl
@[simp] theorem updCG_mem {f : Group → Group} : (updCG s f).mem = s.mem := by rfl
@[simp] theorem updCF_mem {f : Frag → Frag} : (updCF s f).mem = s.mem := by rfl
@[simp] theorem advance_mem : (advance s).mem = s.mem := by rfl
@[simp] theorem jump_mem : (jump s pc).mem = s.mem := by rfl

@[simp] theorem setRing_mem {r : RecRing} : (setRing s k r).mem = s.mem := by
  unfold setRing
  split <;> simp

@[simp] theorem ringWrite_wf (h : Memory.wf s.mem) : Memory.wf (ringWrite s k bs).mem := by simp [ringWrite, h]
@[simp] theorem ringPut_wf (h : Memory.wf s.mem) : Memory.wf (ringPut s k bs).mem := by simp [ringPut, h]

@[simp] theorem ringFlush_wf (h : Memory.wf s.mem) : Memory.wf (ringFlush s k n).mem := by
  induction n generalizing s with
  | zero => exact h
  | succ n ih =>
    unfold ringFlush
    dsimp only
    split
    · split_ifs
      · exact ih (by simp [h])
      · exact h
    · exact h

@[simp] theorem violation_wf {kind ctxid addr detail mid : Nat} (h : Memory.wf s.mem) :
    Memory.wf (violation s kind cause ctxid addr detail mid).mem := by simp [violation, h]

@[simp] theorem addPend_mem {cls : Nat} {p : Pend} : (addPend s cls p).1.mem = s.mem := by rfl
@[simp] theorem updPend_mem {f : Pend → Pend} : (updPend s g id f).mem = s.mem := by rfl
@[simp] theorem dropPend_mem : (dropPend s g id).mem = s.mem := by rfl
@[simp] theorem stallHere_mem : (stallHere s).mem = s.mem := by rfl
@[simp] theorem closeRegion_mem : (closeRegion s).mem = s.mem := by rfl
@[simp] theorem freezeGroup_wf (h : Memory.wf s.mem) : Memory.wf (freezeGroup s g cause pc flt).mem := by simp [freezeGroup, h]
@[simp] theorem meetStack_mem : (meetStack s g i).mem = s.mem := by simp [meetStack]
@[simp] theorem spill_wf (h : Memory.wf s.mem) : Memory.wf (spill s g i e).mem := by simp [spill, h]
@[simp] theorem pushG_wf (h : Memory.wf s.mem) : Memory.wf (pushG s g e).mem := by simp [pushG, h]
@[simp] theorem popG_mem : (popG s g).mem = s.mem := by simp [popG]
@[simp] theorem pushHere_wf (h : Memory.wf s.mem) : Memory.wf (pushHere s e).mem := by simp [pushHere, h]
@[simp] theorem popHere_mem : (popHere s).mem = s.mem := by simp [popHere]
@[simp] theorem noteTrap_mem : (noteTrap s g cause flt).mem = s.mem := by rfl
@[simp] theorem makeRecords_mem {own : Option (Nat × Nat)} : (makeRecords s g own recs).mem = s.mem := by simp [makeRecords]
@[simp] theorem enterHandler_mem : (enterHandler s g f cause flt fadr pc recs own).mem = s.mem := by simp [enterHandler]

@[simp] theorem handlerTrap_wf (h : Memory.wf s.mem) : Memory.wf (handlerTrap s g f cause flt pc recs).mem := by
  simp [handlerTrap, h]

@[simp] theorem trapTo_wf (h : Memory.wf s.mem) : Memory.wf (trapTo s g f cause flt fadr pc recs).mem := by simp [trapTo, h]

@[simp] theorem unlessPart_wf {t : State} (h : Memory.wf s.mem) (ht : Memory.wf t.mem) : Memory.wf (unlessPart s g t).mem := by
  simp [unlessPart, h, ht]

@[simp] theorem memberTrap_wf (h : Memory.wf s.mem) : Memory.wf (memberTrap s m cause fadr).mem := by simp [memberTrap, h]
@[simp] theorem gangTrap_wf (h : Memory.wf s.mem) : Memory.wf (gangTrap s m).mem := by simp [gangTrap, h]

@[simp] theorem rdvFail_wf {gs : List Nat} (h : Memory.wf s.mem) : Memory.wf (rdvFail n gs s).mem := by
  induction n generalizing gs s with
  | zero => exact h
  | succ n ih =>
    cases gs with
    | nil => exact h
    | cons g rest => exact ih (foldl_wf (fun s m h => gangTrap_wf h) _ h)

@[simp] theorem rdvDrop_wf (h : Memory.wf s.mem) : Memory.wf (rdvDrop s g).mem := by simp [rdvDrop, h]
@[simp] theorem raiseAt_wf (h : Memory.wf s.mem) : Memory.wf (raiseAt s cause flt fadr pc recs own).mem := by simp [raiseAt, h]
@[simp] theorem raise_wf (h : Memory.wf s.mem) : Memory.wf (raise s cause flt fadr).mem := by simp [raise, h]
@[simp] theorem raiseAll_wf (h : Memory.wf s.mem) : Memory.wf (raiseAll s cause fadr).mem := by simp [raiseAll, h]
@[simp] theorem raiseStack_wf (h : Memory.wf s.mem) : Memory.wf (raiseStack s).mem := by simp [raiseStack, h]

@[simp] theorem raiseSome_wf {go : State → State} (hgo : ∀ s, Memory.wf s.mem → Memory.wf (go s).mem) (h : Memory.wf s.mem) :
    Memory.wf (raiseSome s cause flt fadr recs go own).mem := by simp [raiseSome, hgo, h]

@[simp] theorem returnFromTrap_mem {target : Option Quad} : (returnFromTrap s target).mem = s.mem := by
  unfold returnFromTrap
  split <;> simp

@[simp] theorem waitFor_mem {w : Wait} : (waitFor s w).mem = s.mem := by rfl
@[simp] theorem wake_mem : (wake s g f).mem = s.mem := by rfl
@[simp] theorem wakeWith_mem {d : Opnd} {ws : List Word} : (wakeWith s g f d ws).mem = s.mem := by rfl

@[simp] theorem withCur_mem {f : State → State} (hf : ∀ s, (f s).mem = s.mem) : (withCur s g i f).mem = s.mem := by
  simp [withCur, hf]

@[simp] theorem withCur_wf {f : State → State} (hf : ∀ s, Memory.wf s.mem → Memory.wf (f s).mem) (h : Memory.wf s.mem) :
    Memory.wf (withCur s g i f).mem := by simp [withCur, hf, h]

@[simp] theorem done_canonical (h : Memory.wf s.mem) : CanonicalNext (done s) := by simp [done, h]

end Sys2Proof.Machine

end

/-! Operands: what leaves memory as it is, and what keeps it canonical. -/

section

namespace Sys2Proof.Machine

variable {s : State} {d : Opnd} {p : Nat}

@[simp] theorem runOver_mem {f : Nat → Env → List Word × Env} : (runOver s d f).mem = s.mem := by
  unfold runOver
  dsimp only
  repeat' split
  all_goals simp

@[simp] theorem perThread_canonical {f : Nat → Word × Nat} (h : Memory.wf s.mem) : CanonicalNext (perThread s d f) := by
  simp [perThread, h]

@[simp] theorem perThreadEnv_canonical {f : Nat → Env → Word × Env} (h : Memory.wf s.mem) : CanonicalNext (perThreadEnv s d f) := by
  simp [perThreadEnv, h]

@[simp] theorem setPred_mem {f : Nat → Bool} : (setPred s p f).mem = s.mem := by rfl
@[simp] theorem perPred_canonical {f : Nat → Bool} (h : Memory.wf s.mem) : CanonicalNext (perPred s p f) := by simp [perPred, h]

end Sys2Proof.Machine

end

/-! Integer instructions: what leaves memory as it is, and what keeps it canonical. -/

section

namespace Sys2Proof.Machine

variable {s : State} {d a b : Opnd}

@[simp] theorem packed_canonical {f : ElemOp} (h : Memory.wf s.mem) : CanonicalNext (packed s d a b f) := by simp [packed, h]

@[simp] theorem whole_canonical {f : Word → Word → Word → Word} (h : Memory.wf s.mem) : CanonicalNext (whole s d a b f) := by
  simp [whole, h]

@[simp] theorem carryOp_canonical {f : Nat → Nat → Nat → Nat × Bool} (h : Memory.wf s.mem) : CanonicalNext (carryOp s d a b f) := by
  simp [carryOp, h]

@[simp] theorem execSel_canonical (h : Memory.wf s.mem) : CanonicalNext (execSel d a b s) := by
  unfold execSel
  dsimp only
  repeat' split
  all_goals simp [h]

@[simp] theorem predOp_canonical {p : BitVec 3} {n : BitVec 1} {q : BitVec 3} {m : BitVec 1} {r : BitVec 3}
    {f : Bool → Bool → Bool} (h : Memory.wf s.mem) : CanonicalNext (predOp s p n q m r f) := by
  simp [predOp, h]

end Sys2Proof.Machine

end

/-! Exchanges and reductions: what leaves memory as it is, and what keeps it canonical. -/

section

namespace Sys2Proof.Machine

variable {s : State} {d a : Opnd}

@[simp] theorem exchange_canonical {from_ : Nat → Option Nat} (h : Memory.wf s.mem) : CanonicalNext (exchange s d a from_) := by
  simp [exchange, h]

@[simp] theorem nibble_canonical {b : Opnd} {lo : Nat} (h : Memory.wf s.mem) : CanonicalNext (nibble s d a b lo) := by
  simp [nibble, h]

@[simp] theorem reduce_canonical {f : Nat → Nat → Nat → Nat × Nat} {ident : Nat → Nat} (h : Memory.wf s.mem) :
    CanonicalNext (reduce s d a f ident) := by simp [reduce, h]

@[simp] theorem prefixSum_canonical {k : Nat} (h : Memory.wf s.mem) : CanonicalNext (prefixSum s d a k) := by simp [prefixSum, h]

@[simp] theorem execVote_canonical {k : BitVec 2} {n : BitVec 1} {p : BitVec 3} (h : Memory.wf s.mem) :
    CanonicalNext (execVote d k n p s) := by simp [execVote, h]

end Sys2Proof.Machine

end

/-! Floating point and conversions: what leaves memory as it is, and what keeps it canonical. -/

section

namespace Sys2Proof.Machine

variable {s : State} {d a : Opnd}

@[simp] theorem rounded_canonical {f : FMode → Nat → Nat → Val} (h : Memory.wf s.mem) : CanonicalNext (rounded s d f) := by
  simp [rounded, h]

@[simp] theorem unrounded_canonical {f : FMode → Nat → Nat → Val} (h : Memory.wf s.mem) : CanonicalNext (unrounded s d f) := by
  simp [unrounded, h]

@[simp] theorem fnOp_canonical {f : Fn} (h : Memory.wf s.mem) : CanonicalNext (fnOp s d a f) := by simp [fnOp, h]
@[simp] theorem unpacked_canonical (h : Memory.wf s.mem) : CanonicalNext (unpacked s d) := by simp [unpacked, h]

@[simp] theorem toInts_canonical {lo hi : Nat → Int} (h : Memory.wf s.mem) : CanonicalNext (toInts s d a lo hi) := by
  simp [toInts, h]

@[simp] theorem fromInts_canonical {f : Nat → Nat → Int} (h : Memory.wf s.mem) : CanonicalNext (fromInts s d a f) := by
  simp [fromInts, h]

end Sys2Proof.Machine

end

/-! Scratch and the L1: what leaves memory as it is, and what keeps it canonical. -/

section

namespace Sys2Proof.Machine

variable {s : State} {c k b line rrpv : Nat}

@[simp] theorem updBank_mem {f : Bank → Bank} : (updBank s c k f).mem = s.mem := by rfl

@[simp] theorem noteScratch_mem {core : Nat} {own : Option (Nat × Nat)} {bs : List (Nat × Byte)} :
    (noteScratch s core own bs).mem = s.mem := by simp [noteScratch]

@[simp] theorem setL1_mem {t : Nat} {x : L1Tag} : (setL1 s c k t x).mem = s.mem := by rfl
@[simp] theorem sendHome_mem {r : HomeReq} : (sendHome s r).mem = s.mem := by rfl
@[simp] theorem writeBack_mem {set : Nat} : (writeBack s b k set).mem = s.mem := by simp [writeBack]
@[simp] theorem writeBackAll_mem : (writeBackAll s b).mem = s.mem := by simp [writeBackAll]

@[simp] theorem l1Evict_mem : (l1Evict s b line).mem = s.mem := by
  unfold l1Evict
  split <;> simp

@[simp] theorem dropBank_mem : (dropBank s c k).mem = s.mem := by rfl
@[simp] theorem dropL1_mem : (dropL1 s b).mem = s.mem := by simp [dropL1]

@[simp] theorem l1Alloc_mem : (l1Alloc s b line rrpv).1.mem = s.mem := by
  unfold l1Alloc
  dsimp only
  repeat' split
  all_goals simp

@[simp] theorem l1Store_mem {pa : Nat} {bs : List Byte} : (l1Store s b pa bs).mem = s.mem := by
  have h := l1Alloc_mem (s := s) (b := b) (line := lineOf pa) (rrpv := 2)
  unfold l1Store
  split <;> simp_all

@[simp] theorem l1Fill_mem {lease sectors : Nat} : (l1Fill s b line lease rrpv sectors).mem = s.mem := by
  have h := l1Alloc_mem (s := s) (b := b) (line := line) (rrpv := rrpv)
  unfold l1Fill
  split <;> simp_all

end Sys2Proof.Machine

end

/-! The memory instructions: what leaves memory as it is, and what keeps it canonical. -/

section

namespace Sys2Proof.Machine

variable {s : State} {n b scope g id regs slot line : Nat} {d a : Opnd} {p : Pend} {as : List Acc}

@[simp] theorem issueMem_canonical {cls : Nat} {uni shut : Bool} {kind : Nat} {cs : List ThreadCheck} {mk : List Acc → Pend}
    (h : Memory.wf s.mem) : CanonicalNext (issueMem s cls uni shut kind cs mk) := by
  simp +contextual [issueMem, h]

@[simp] theorem load_canonical {sx : Bool} {b : Opnd} (h : Memory.wf s.mem) : CanonicalNext (load s n sx d a b) := by simp [load, h]
@[simp] theorem store_canonical {x b : Opnd} (h : Memory.wf s.mem) : CanonicalNext (store s n x a b) := by simp [store, h]

@[simp] theorem atomic_canonical {op : Nat} {b : Opnd} {u w : Word} (h : Memory.wf s.mem) : CanonicalNext (atomic s op d a b u w) := by
  simp [atomic, h]

@[simp] theorem farWriteBack_mem : (farWriteBack s b).mem = s.mem := by rfl
@[simp] theorem fenceClose_mem {bound : Nat} : (fenceClose s b bound scope).1.mem = s.mem := by simp [fenceClose]

@[simp] theorem fenceRound_mem {f : Nat} : (fenceRound s g f).1.mem = s.mem := by
  unfold fenceRound
  dsimp only
  repeat' split
  all_goals simp

@[simp] theorem fence_canonical {rel acq : Bool} (h : Memory.wf s.mem) : CanonicalNext (fence s scope rel acq) := by simp [fence, h]

@[simp] theorem touchHit_mem {a : Acc} : (touchHit s g p a).mem = s.mem := by
  unfold touchHit
  dsimp only
  repeat' split
  all_goals simp

@[simp] theorem loadOne_mem {a : Acc} : (loadOne s g id regs a).mem = s.mem := by
  unfold loadOne
  dsimp only
  repeat' split
  all_goals simp

@[simp] theorem loadSome_mem {thr : Word} : (loadSome s g p thr regs).mem = s.mem := by simp [loadSome]

@[simp] theorem finishLoad_mem : (finishLoad s g id).mem = s.mem := by
  unfold finishLoad
  split <;> simp

@[simp] theorem execLoadComplete_canonical {thr : Word × Nat} (h : Memory.wf s.mem) :
    CanonicalNext (execLoadComplete g id thr s) := by
  unfold execLoadComplete
  split <;> simp [h]

@[simp] theorem homeMeet_mem : (homeMeet s b slot line as).mem = s.mem := by
  unfold homeMeet
  split <;> simp

@[simp] theorem homeFill_mem {rrpv sectors : Nat} : (homeFill s b line rrpv sectors).mem = s.mem := by simp [homeFill]

@[simp] theorem execHomeRead_canonical (h : Memory.wf s.mem) : CanonicalNext (execHomeRead g id line s) := by
  unfold execHomeRead
  split <;> simp [h]

@[simp] theorem prefetchLine_mem {level rd : Nat} : (prefetchLine s level rd b slot line as).mem = s.mem := by simp [prefetchLine]
@[simp] theorem storeLocal_mem : (storeLocal s g p as).mem = s.mem := by simp [storeLocal]
@[simp] theorem evictAccs_mem : (evictAccs s b line as).mem = s.mem := by simp [evictAccs]
@[simp] theorem storeSend_mem : (storeSend s g p as).mem = s.mem := by simp [storeSend]
@[simp] theorem storeGo_mem : (storeGo s g p).mem = s.mem := by simp [storeGo]

@[simp] theorem execStoreComplete_canonical (h : Memory.wf s.mem) : CanonicalNext (execStoreComplete g id s) := by
  unfold execStoreComplete
  dsimp only
  repeat' split
  all_goals simp [h]

@[simp] theorem atomicLocal_mem : (atomicLocal s g p).mem = s.mem := by simp [atomicLocal]
@[simp] theorem atomicSend_mem : (atomicSend s g p).mem = s.mem := by simp [atomicSend]

@[simp] theorem execAtomicComplete_canonical {id : Nat × Word} (h : Memory.wf s.mem) :
    CanonicalNext (execAtomicComplete g id s) := by
  unfold execAtomicComplete
  split <;> simp [h]

end Sys2Proof.Machine

end

/-! The matrix engine: what leaves memory as it is, and what keeps it canonical. -/

section

namespace Sys2Proof.Machine

variable {s : State} {o : MatOp} {m : Member} {cause n g : Nat} {fadr : Quad} {r : Rdv}

@[simp] theorem scrPut_mem {core o : Nat} {list : List Nat} {bs : List Byte} : (scrPut s core list o bs).mem = s.mem := by
  induction bs generalizing s o with
  | nil => rfl
  | cons b r ih => exact ih

@[simp] theorem failRdvs_wf {rs : List Rdv} (h : Memory.wf s.mem) : Memory.wf (failRdvs s rs).mem :=
  rdvFail_wf (foldl_wf (fun _ _ h => gangTrap_wf h) _ h)

@[simp] theorem arrive_wf (h : Memory.wf s.mem) : Memory.wf (arrive s m).mem := by
  unfold arrive
  split
  · dsimp only
    split_ifs <;> simpa using h
  · exact rdvDrop_wf (gangTrap_wf (failRdvs_wf h))

@[simp] theorem raiseGanged_canonical (h : Memory.wf s.mem) : CanonicalNext (raiseGanged s cause fadr) := by simp [raiseGanged, h]

@[simp] theorem arriveWhen_canonical {frag : Opnd} (h : Memory.wf s.mem) : CanonicalNext (arriveWhen s frag m) := by
  simp [arriveWhen, h]

@[simp] theorem mma_canonical {op : Nat} {f a : Opnd} {j : Nat} (h : Memory.wf s.mem) : CanonicalNext (mma s op f a j) := by
  simp [mma, h]

@[simp] theorem failAll_wf (h : Memory.wf s.mem) : Memory.wf (failAll s r cause fadr).mem :=
  rdvFail_wf (foldl_wf (fun _ _ h => memberTrap_wf h) _ h)

@[simp] theorem releaseRdv_mem : (releaseRdv s r).mem = s.mem := by simp [releaseRdv]
@[simp] theorem putOp_mem : (putOp s o).mem = s.mem := by rfl
@[simp] theorem markRead_mem : (markRead s o).mem = s.mem := by simp [markRead]
@[simp] theorem finishMember_mem : (finishMember s o m).mem = s.mem := by simp [finishMember]

@[simp] theorem completeMember_mem {cls : MatOp → Bool} {last : MatOp → State → State} (hl : ∀ o s, (last o s).mem = s.mem) :
    (completeMember s n g cls last).mem = s.mem := by
  unfold completeMember
  dsimp only
  repeat' split
  all_goals simp [hl]

@[simp] theorem execMatrixOpComplete_canonical {c : Nat} (h : Memory.wf s.mem) : CanonicalNext (execMatrixOpComplete c n g s) := by
  simp [execMatrixOpComplete, h]

end Sys2Proof.Machine

end

/-! Attention: what leaves memory as it is, and what keeps it canonical. -/

section

namespace Sys2Proof.Machine

variable {s : State} {c k n : Nat} {o : MatOp}

@[simp] theorem updRow_mem {f : RowSlot → RowSlot} : (updRow s c k f).mem = s.mem := by rfl
@[simp] theorem unbindRow_mem : (unbindRow s c k).mem = s.mem := by rfl
@[simp] theorem unbindRows_mem {b : Nat} : (unbindRows s b).mem = s.mem := by simp [unbindRows]

@[simp] theorem attend_canonical {closing : Bool} {frag : Opnd} {m : Member} (h : Memory.wf s.mem) :
    CanonicalNext (attend s closing frag m) := by simp [attend, h]

@[simp] theorem execCinchRelease_canonical (h : Memory.wf s.mem) : CanonicalNext (execCinchRelease c n s) := by
  unfold execCinchRelease
  dsimp only
  repeat' split
  all_goals simp [h]

@[simp] theorem performScore_mem : (performScore s o).mem = s.mem := by
  unfold performScore
  dsimp only
  rw [putOp_mem, foldl_mem]
  · simp
  · intro s e
    split <;> simp

@[simp] theorem performOp_mem : (performOp s o).mem = s.mem := by
  unfold performOp
  split <;> simp

@[simp] theorem execMxeQueuePerform_canonical (h : Memory.wf s.mem) : CanonicalNext (execMxeQueuePerform c s) := by
  unfold execMxeQueuePerform
  split <;> simp [h]

@[simp] theorem execAttentionOpComplete_canonical {g : Nat} (h : Memory.wf s.mem) :
    CanonicalNext (execAttentionOpComplete c n g s) := by
  rw [execAttentionOpComplete, canonicalNext_next, completeMember_mem fun o s => ?_]
  · exact h
  · dsimp only
    split
    · split_ifs <;> simp
    · simp

end Sys2Proof.Machine

end

/-! What homes do, page walks and migrations: what leaves memory as it is, and what keeps it canonical. -/

section

namespace Sys2Proof.Machine

variable {s : State} {pas : List Nat} {r : HomeReq} {t k id slot port base len tag : Nat} {blk : Option Nat} {i : Inv} {v : Word}
  {ls : List (Nat × L2Line)}

@[simp] theorem openEvents_wf {to_ : Nat → Nat} (h : Memory.wf s.mem) : Memory.wf (openEvents s to_ pas).mem := by
  simp +contextual [openEvents, h, memPut_wf]

@[simp] theorem markAccs_mem {as : List Acc} {fl : Nat} : (markAccs s r as fl t).mem = s.mem := by
  unfold markAccs
  split <;> simp

@[simp] theorem atomicsAt_wf (h : Memory.wf s.mem) : Memory.wf (atomicsAt s r).1.mem := by
  simp +contextual [atomicsAt, h, memPut_wf]

@[simp] theorem amaxAt_wf {scale : Bool} (h : Memory.wf s.mem) : Memory.wf (amaxAt s r scale).1.mem := by
  simp +contextual [amaxAt, h, memPut_wf]

@[simp] theorem raiseLct_mem : (raiseLct s blk t).mem = s.mem := by
  unfold raiseLct
  split <;> simp

@[simp] theorem updPath_mem {f : Path → Path} : (updPath s k f).mem = s.mem := by rfl
@[simp] theorem reflect_mem {w : ReflWrite} {dests : List Nat} : (reflect s w dests).mem = s.mem := by rfl

@[simp] theorem handOver_mem {fate : Option (Nat × Nat × List Nat × Nat)} : (handOver s r fate t).mem = s.mem := by
  unfold handOver
  split <;> simp

@[simp] theorem farNote_mem {line m : Nat} : (farNote s blk line m).mem = s.mem := by
  unfold farNote
  split <;> simp

@[simp] theorem noteGlobal_mem : (noteGlobal s blk pas).mem = s.mem := by simp [noteGlobal]

@[simp] theorem reqMeet_mem : (reqMeet s r).mem = s.mem := by
  unfold reqMeet
  split <;> simp

@[simp] theorem changeLine_wf (h : Memory.wf s.mem) : Memory.wf (changeLine s r pas).1.mem := by simp [changeLine, h]

@[simp] theorem homePerform_wf (h : Memory.wf s.mem) : Memory.wf (homePerform s r).mem := by
  have hm : Memory.wf (reqMeet { s with hw := s.hw.filter fun q => q.id != r.id } r).mem := by simpa using h
  unfold homePerform
  dsimp only
  split
  · split_ifs
    · simp only [raiseLct_mem, handOver_mem, markAccs_mem]
      exact openEvents_wf (foldl_wf (fun s b h => memPut_wf s _ _ h) _ (changeLine_wf hm))
    · simpa using hm
  · simp only [raiseLct_mem, markAccs_mem]
    exact openEvents_wf (atomicsAt_wf (changeLine_wf hm))
  · simp only [raiseLct_mem, markAccs_mem]
    exact amaxAt_wf (changeLine_wf hm)

@[simp] theorem execHomeWrite_canonical (h : Memory.wf s.mem) : CanonicalNext (execHomeWrite id s) := by
  unfold execHomeWrite
  split <;> simp [h]

@[simp] theorem cacheEntry_mem {x : TlbEnt} : (cacheEntry s x).mem = s.mem := by
  unfold cacheEntry
  dsimp only
  repeat' split
  all_goals simp

@[simp] theorem execPageWalk_canonical {cache page : Nat} (h : Memory.wf s.mem) : CanonicalNext (execPageWalk cache slot page s) := by
  simp [execPageWalk, h]

@[simp] theorem forgetEntry_mem : (forgetEntry s k).mem = s.mem := by rfl
@[simp] theorem unpinCleared_mem : (unpinCleared s i).mem = s.mem := by rfl
@[simp] theorem postInv_mem : (postInv s i).1.mem = s.mem := by rfl

@[simp] theorem execInvalidationComplete_canonical (h : Memory.wf s.mem) : CanonicalNext (execInvalidationComplete id s) := by
  unfold execInvalidationComplete
  dsimp only
  repeat' split
  all_goals simp [h]

@[simp] theorem execFaultBatchTimeout_canonical (h : Memory.wf s.mem) : CanonicalNext (execFaultBatchTimeout s) := by
  simp [execFaultBatchTimeout, h]

@[simp] theorem execFaultBatchFull_canonical (h : Memory.wf s.mem) : CanonicalNext (execFaultBatchFull s) := by
  simp [execFaultBatchFull, h]

@[simp] theorem deliverRanges_wf {n : Nat} (h : Memory.wf s.mem) : Memory.wf (deliverRanges s n).mem := by
  induction n generalizing s with
  | zero => exact h
  | succ n ih =>
    unfold deliverRanges
    split
    · split_ifs
      · exact ih (homePut_wf h)
      · exact h
    · exact h

@[simp] theorem execFaultDelivery_canonical (h : Memory.wf s.mem) : CanonicalNext (execFaultDelivery s) := by
  simp [execFaultDelivery, h]

@[simp] theorem fqhead_canonical (h : Memory.wf s.mem) : CanonicalNext (fqhead v s) := by simp [fqhead, h]
@[simp] theorem vrhead_canonical (h : Memory.wf s.mem) : CanonicalNext (vrhead v s) := by simp [vrhead, h]
@[simp] theorem lerhead_canonical (h : Memory.wf s.mem) : CanonicalNext (lerhead v s) := by simp [lerhead, h]
@[simp] theorem updMig_mem {f : Mig → Mig} : (updMig s k f).mem = s.mem := by rfl

@[simp] theorem migWrite_wf {bs : List (Nat × Byte)} (h : Memory.wf s.mem) : Memory.wf (migWrite s k bs).mem := by
  simp [migWrite, h]

@[simp] theorem copyLines_wf {ls : List Nat} (h : Memory.wf s.mem) : Memory.wf (copyLines s k ls).mem := by
  -- The kernel would compute the bytes of a line.
  obtain ⟨bytes, hbytes⟩ : ∃ f, f = memBytes := ⟨_, rfl⟩
  unfold copyLines
  rw [← hbytes]
  simp +contextual [h]

@[simp] theorem putPte_wf {e : Nat} (h : Memory.wf s.mem) : Memory.wf (putPte s k e).mem := by simp [putPte, h]
@[simp] theorem migEnd_mem {r : Nat} : (migEnd s k r).mem = s.mem := by rfl
@[simp] theorem migStop_wf {r : Nat} (h : Memory.wf s.mem) : Memory.wf (migStop s k r).mem := by simp [migStop, h]
@[simp] theorem tceNext_mem : (tceNext s k).mem = s.mem := by rfl
@[simp] theorem migStart_wf {w : Nat} (h : Memory.wf s.mem) : Memory.wf (migStart s k slot w).mem := by simp [migStart, h]

@[simp] theorem tceStart_wf (h : Memory.wf s.mem) : Memory.wf (tceStart s k).mem := by
  unfold tceStart
  split <;> simp [h]

@[simp] theorem execMigrate_canonical {tce : Nat} {cmd : BitVec 256} (h : Memory.wf s.mem) :
    CanonicalNext (execMigrate tce slot cmd s) := by simp [execMigrate, h]

@[simp] theorem migRound_wf (h : Memory.wf s.mem) : Memory.wf (migRound s k).mem := by simp [migRound, h]
@[simp] theorem redirectAll_wf (h : Memory.wf s.mem) : Memory.wf (redirectAll s k).mem := by simp [redirectAll, h]
@[simp] theorem endRedirects_mem : (endRedirects s k).mem = s.mem := by rfl
@[simp] theorem dcdSay_mem {kind rest : Nat} : (dcdSay s kind port base len rest tag).mem = s.mem := by rfl

@[simp] theorem execDcdAddCapacity_canonical (h : Memory.wf s.mem) : CanonicalNext (execDcdAddCapacity port base len tag s) := by
  unfold execDcdAddCapacity
  dsimp only
  repeat' split
  all_goals simp [h]

@[simp] theorem dropLines_mem : (dropLines s ls).mem = s.mem := by simp [dropLines]

@[simp] theorem loseLines_wf (h : Memory.wf s.mem) : Memory.wf (loseLines s ls).mem := by
  refine foldl_wf (fun s l h => foldl_wf (fun s j h => ?_) _ h) _ h
  split_ifs
  · exact memPut_wf s _ _ h
  · exact h

@[simp] theorem execDcdReleaseForced_canonical {ext : Nat} (h : Memory.wf s.mem) : CanonicalNext (execDcdReleaseForced ext s) := by
  have hl := loseLines_wf (ls := lostLines s (Store.get s.exts ext)) h
  unfold execDcdReleaseForced
  dsimp only
  split_ifs
  · exact .next h
  · simp only [canonicalNext_next, dropLines_mem]
    exact hl

end Sys2Proof.Machine

end

/-! Operator instructions: what leaves memory as it is, and what keeps it canonical. -/

section

namespace Sys2Proof.Machine

variable {s : State} {n slot : Nat}

@[simp] theorem updOp_mem {f : OpSlot → OpSlot} : (updOp s n f).mem = s.mem := by rfl
@[simp] theorem updStream_mem {k : Nat} {f : Stream → Stream} : (updStream s slot k f).mem = s.mem := by rfl
@[simp] theorem updPoint_mem {l : Nat} {f : Point → Point} : (updPoint s n l f).mem = s.mem := by rfl
@[simp] theorem askTokens_mem : (askTokens s).mem = s.mem := by simp [askTokens]
@[simp] theorem evNotify_mem {idx : Nat} {ctr : Word} : (evNotify s slot idx ctr).mem = s.mem := by simp [evNotify]

end Sys2Proof.Machine

end

/-! The event table: what leaves memory as it is, and what keeps it canonical. -/

section

namespace Sys2Proof.Machine

variable {s : State} {pa e slot g idx id f : Nat} {v inc name : Word} {d a : Opnd}

@[simp] theorem evWrite_wf (h : Memory.wf s.mem) : Memory.wf (evWrite s pa e).mem := by
  rw [evWrite_eq_homePut]
  exact homePut_wf h

@[simp] theorem eventFail_mem : (eventFail s slot).mem = s.mem := by rfl
@[simp] theorem sendMsg_mem {dest op : Nat} {msg : List Byte} : (sendMsg s slot dest g op msg).mem = s.mem := by rfl

@[simp] theorem evRelink_wf (h : Memory.wf s.mem) : Memory.wf (evRelink s slot idx).mem := by
  unfold evRelink
  split <;> simp [h]

@[simp] theorem evTell_wf (h : Memory.wf s.mem) : Memory.wf (evTell s slot idx v).mem := by simp [evTell, h]
@[simp] theorem evSetOwned_wf (h : Memory.wf s.mem) : Memory.wf (evSetOwned s slot idx pa e v).mem := by simp [evSetOwned, h]
@[simp] theorem evAdd_wf (h : Memory.wf s.mem) : Memory.wf (evAdd s slot idx pa e inc).mem := by simp [evAdd, h]

@[simp] theorem engineSignal_wf (h : Memory.wf s.mem) : Memory.wf (engineSignal s slot g id name inc).mem := by
  unfold engineSignal
  split_ifs
  · exact h
  · split
    · split_ifs
      · exact h
      · exact evAdd_wf h
    · simpa using h
  · simpa using h

@[simp] theorem evTrap_wf {cause kind : Nat} (h : Memory.wf s.mem) : Memory.wf (evTrap s slot idx cause kind).mem := by
  simp [evTrap, h]

@[simp] theorem evsigFinish_wf (h : Memory.wf s.mem) : Memory.wf (evsigFinish s g f id name inc).mem := by
  unfold evsigFinish
  dsimp only
  repeat' split
  all_goals simp +contextual [h]

@[simp] theorem execEvwait_canonical {b : Opnd} (h : Memory.wf s.mem) : CanonicalNext (execEvwait d a b s) := by
  unfold execEvwait
  dsimp only
  repeat' split
  all_goals simp [h]

@[simp] theorem execEvwaitWake_canonical (h : Memory.wf s.mem) : CanonicalNext (execEvwaitWake g f s) := by
  unfold execEvwaitWake
  split
  · split_ifs
    · exact .next h
    · split
      · exact .next (unlessPart_wf h (withCur_wf (fun _ h => evTrap_wf h) (by simpa using h)))
      · rw [canonicalNext_next]
        split <;> simp [h]
  · exact .next h

@[simp] theorem execEvpoll_canonical (h : Memory.wf s.mem) : CanonicalNext (execEvpoll d a s) := by
  unfold execEvpoll
  dsimp only
  repeat' split
  all_goals simp [h]

@[simp] theorem execMigrationResult_canonical {tce : Nat} (h : Memory.wf s.mem) : CanonicalNext (execMigrationResult tce s) := by
  -- The kernel would compute the posting.
  obtain ⟨post, hpost⟩ : ∃ f, f = postInv := ⟨_, rfl⟩
  have hp (s : State) (i : Inv) : (post s i).1.mem = s.mem := hpost ▸ postInv_mem
  unfold execMigrationResult
  rw [← hpost, canonicalNext_next]
  split <;> simp [h, hp]

end Sys2Proof.Machine

end

/-! Flits on their way: what leaves memory as it is, and what keeps it canonical. -/

section

namespace Sys2Proof.Machine

variable {s : State} {f : Flit}

@[simp] theorem emitOut_mem : (emitOut s f).mem = s.mem := by
  unfold emitOut
  dsimp only
  repeat' split
  all_goals simp

@[simp] theorem optAdmit_mem : (optAdmit s).mem = s.mem := by simp [optAdmit]
@[simp] theorem arriveControl_mem : (arriveControl s f).mem = s.mem := by simp [arriveControl]
@[simp] theorem takeFlit_wf (h : Memory.wf s.mem) : Memory.wf (takeFlit s f).mem := by simp [takeFlit, h]
@[simp] theorem emit_wf (h : Memory.wf s.mem) : Memory.wf (emit s f).mem := by simp [emit, h]

end Sys2Proof.Machine

end

/-! Windows: what leaves memory as it is, and what keeps it canonical. -/

section

namespace Sys2Proof.Machine

variable {s : State} {slot k path kind : Nat} {b a d : Opnd} {f : Flit} {n : Word}

@[simp] theorem makePaths_mem : (makePaths s slot).mem = s.mem := by
  refine foldl_mem (fun s p => ?_) _ s
  split <;> rfl

@[simp] theorem freezeMirrors_wf {ctxid peer b : Nat} (h : Memory.wf s.mem) : Memory.wf (freezeMirrors s ctxid peer b).mem := by
  unfold freezeMirrors
  split
  · exact h
  · refine foldl_wf (fun s m h => ?_) _ h
    split
    · split_ifs
      · exact h
      · exact evWrite_wf h
    · simpa using h

@[simp] theorem dropAcked_mem : (dropAcked s).mem = s.mem := by rfl
@[simp] theorem settleWmapi_mem : (settleWmapi s).mem = s.mem := by rfl
@[simp] theorem closeSend_wf {st : Nat} (h : Memory.wf s.mem) : Memory.wf (closeSend s k st).mem := by simp [closeSend, h]
@[simp] theorem downReceive_wf (h : Memory.wf s.mem) : Memory.wf (downReceive s k).mem := by simp [downReceive, h]
@[simp] theorem resetPath_mem : (resetPath s k).mem = s.mem := by simp [resetPath]

@[simp] theorem wmapiApply_canonical {a w : Nat} (h : Memory.wf s.mem) : CanonicalSome (wmapiApply s slot a w) := by
  -- The kernel would compute the write of an entry.
  obtain ⟨write, hwrite⟩ : ∃ f, f = evWrite := ⟨_, rfl⟩
  have hw (pa e : Nat) : Memory.wf (write s pa e).mem := hwrite ▸ evWrite_wf h
  unfold wmapiApply
  rw [← hwrite]
  dsimp only
  split
  case h_8 =>
    split_ifs
    · simp
    · split <;> simp [h]
  case h_9 | h_10 =>
    split_ifs
    · simp
    · split <;> simp [h, hw]
  all_goals simp [h]

@[simp] theorem execWmapi_canonical (h : Memory.wf s.mem) : CanonicalNext (execWmapi a s) := by
  unfold execWmapi
  dsimp only
  split
  · simpa using h
  · split
    · simp [h]
    next t ht =>
      have ht' := wmapiApply_canonical (by simpa using h) t ht
      split_ifs <;> simp [h, ht']

@[simp] theorem reduction_canonical {op : Nat} {x : Opnd} (h : Memory.wf s.mem) : CanonicalNext (reduction s op x a b) := by
  simp [reduction, h]

@[simp] theorem execWstat_canonical (h : Memory.wf s.mem) : CanonicalNext (execWstat d a b s) := by
  unfold execWstat
  split_ifs
  · simpa using h
  · split <;> simp [h]

@[simp] theorem execFrc_canonical (h : Memory.wf s.mem) : CanonicalNext (execFrc d s) := by
  unfold execFrc
  split <;> simp [h]

@[simp] theorem execFrcWake_canonical {g f : Nat} (h : Memory.wf s.mem) : CanonicalNext (execFrcWake g f s) := by
  unfold execFrcWake
  split
  · rw [canonicalNext_next]
    split_ifs
    · exact h
    · split <;> simp [h]
  · exact .next h

@[simp] theorem execReflectorForward_canonical (h : Memory.wf s.mem) : CanonicalNext (execReflectorForward path s) := by
  unfold execReflectorForward
  dsimp only
  split <;> simp [h]

@[simp] theorem execSliceReport_canonical {slice : Nat} (h : Memory.wf s.mem) : CanonicalNext (execSliceReport slice s) := by
  simp [execSliceReport, h]

@[simp] theorem ackPath_mem : (ackPath s k n).mem = s.mem := by simp [ackPath]
@[simp] theorem takeControl_mem {p : Path} : (takeControl s p kind n).mem = s.mem := by rfl

@[simp] theorem execPathAckReceive_canonical (h : Memory.wf s.mem) : CanonicalNext (execPathAckReceive path n s) := by
  simp [execPathAckReceive, h]

@[simp] theorem execPathDownReceive_canonical (h : Memory.wf s.mem) : CanonicalNext (execPathDownReceive path n s) := by
  simp [execPathDownReceive, h]

@[simp] theorem execPathAckTimeout_canonical (h : Memory.wf s.mem) : CanonicalNext (execPathAckTimeout path s) := by
  simp [execPathAckTimeout, h]

@[simp] theorem execPeerUnreachable_canonical {chip : Nat} (h : Memory.wf s.mem) : CanonicalNext (execPeerUnreachable chip s) := by
  simp +contextual [execPeerUnreachable, h]

@[simp] theorem cleanRx_mem : (cleanRx s k).mem = s.mem := by rfl
@[simp] theorem rxAck_wf (h : Memory.wf s.mem) : Memory.wf (rxAck s k).mem := by simp [rxAck, h]

@[simp] theorem rxClose_wf (h : Memory.wf s.mem) : Memory.wf (rxClose s k).mem := by
  unfold rxClose
  dsimp only
  split <;> simp [h]

@[simp] theorem rxTaken_mem {t : Nat} : (rxTaken s k f t).mem = s.mem := by rfl

@[simp] theorem rxRefuse_wf {va rwin reason : Nat} (h : Memory.wf s.mem) : Memory.wf (rxRefuse s k f va rwin reason).mem := by
  simp [rxRefuse, h]

@[simp] theorem rxApply_wf (h : Memory.wf s.mem) : Memory.wf (rxApply s k f).mem := by
  unfold rxApply
  dsimp only
  repeat' split
  all_goals simp [h]

@[simp] theorem execRxWriteApply_canonical (h : Memory.wf s.mem) : CanonicalNext (execRxWriteApply path s) := by
  have hc : Memory.wf (rxClose (rxAck (cleanRx s path) path) path).mem := rxClose_wf (rxAck_wf (by simpa using h))
  unfold execRxWriteApply
  dsimp only
  split_ifs
  · exact .next h
  · simpa using h
  · split
    · rw [canonicalNext_next]
      split_ifs
      · exact rxApply_wf hc
      · exact hc
    · exact .next hc

@[simp] theorem execPathClosedReceive_canonical (h : Memory.wf s.mem) : CanonicalNext (execPathClosedReceive path n s) := by
  simp [execPathClosedReceive, h]

@[simp] theorem eventStep_canonical {ok : Nat → Bool} {room : Nat → Nat → Nat → Word → Bool}
    {act : State → Nat → Nat → Nat → Nat → Word → State}
    (hact : ∀ s slot idx pa e v, Memory.wf s.mem → Memory.wf (act s slot idx pa e v).mem) (h : Memory.wf s.mem) :
    CanonicalNext (eventStep s path kind ok room act) := by
  have hc : Memory.wf (rxClose (rxAck (cleanRx s path) path) path).mem := rxClose_wf (rxAck_wf (by simpa using h))
  unfold eventStep
  dsimp only
  repeat' split
  all_goals simp [h, hc, hact]

@[simp] theorem execEventInc_canonical (h : Memory.wf s.mem) : CanonicalNext (execEventInc path s) := by
  simp +contextual [execEventInc, h]

@[simp] theorem execEventMir_canonical (h : Memory.wf s.mem) : CanonicalNext (execEventMir path s) := by
  refine eventStep_canonical (fun s slot idx pa e v h => ?_) h
  split_ifs
  · exact evTell_wf (evWrite_wf h)
  · exact h

@[simp] theorem execEventSub_canonical (h : Memory.wf s.mem) : CanonicalNext (execEventSub path s) := by
  simp +contextual [execEventSub, h]

end Sys2Proof.Machine

end

/-! The streamers: what leaves memory as it is, and what keeps it canonical. -/

section

namespace Sys2Proof.Machine

variable {s : State} {c q f n b k g : Nat} {m : Cmd} {loc : Bool} {bs : List (Nat × Byte)} {pages : List (Nat × Nat)}

@[simp] theorem updQueue_mem {f : List Cmd → List Cmd} : (updQueue s c q f).mem = s.mem := by rfl
@[simp] theorem updCmd_mem {f : Cmd → Cmd} : (updCmd s c q n f).mem = s.mem := by rfl
@[simp] theorem setQstat_mem : (setQstat s b k n).mem = s.mem := by rfl
@[simp] theorem qCancel_mem : (qCancel s b q n).mem = s.mem := by rfl
@[simp] theorem updRing_mem {f : Ring → Ring} : (updRing s b k f).mem = s.mem := by rfl

@[simp] theorem copy_canonical {op sel : Nat} {a b : Opnd} (h : Memory.wf s.mem) : CanonicalNext (copy s op sel a b) := by
  unfold copy
  dsimp only
  repeat' split
  all_goals simp [h]

@[simp] theorem execRngwWake_canonical (h : Memory.wf s.mem) : CanonicalNext (execRngwWake g f s) := by
  unfold execRngwWake
  split
  · dsimp only
    split_ifs
    · exact .next h
    · exact .next (unlessPart_wf h (withCur_wf (fun _ h => raiseAll_wf h) (by simpa using h)))
    · exact .next h
    · simpa using h
  · exact .next h

@[simp] theorem qwaitTake_mem {m : Nat} : (qwaitTake s b m).1.mem = s.mem := by simp [qwaitTake]

@[simp] theorem execQwaitWake_canonical (h : Memory.wf s.mem) : CanonicalNext (execQwaitWake g f s) := by
  unfold execQwaitWake
  split <;> simp [h]

@[simp] theorem amaxTake_mem {l : Nat} : (amaxTake s c l).1.mem = s.mem := by rfl

@[simp] theorem execLbclWake_canonical (h : Memory.wf s.mem) : CanonicalNext (execLbclWake g f s) := by
  unfold execLbclWake
  split <;> simp [h]

@[simp] theorem cmdFault_mem {cause : Nat} : (cmdFault s c q m cause).mem = s.mem := by simp [cmdFault]
@[simp] theorem cmdClaim_mem : (cmdClaim s c q m).mem = s.mem := by simp [cmdClaim]

@[simp] theorem execStreamerActivate_canonical (h : Memory.wf s.mem) : CanonicalNext (execStreamerActivate c q s) := by
  unfold execStreamerActivate
  split <;> simp [h]

@[simp] theorem putPlaces_wf {loc : Option Nat} (h : Memory.wf s.mem) : Memory.wf (putPlaces s loc bs).1.mem := by
  unfold putPlaces
  dsimp only
  repeat' split
  all_goals simp +contextual [h]

@[simp] theorem cmdPut_wf (h : Memory.wf s.mem) : Memory.wf (cmdPut s c q m bs).1.mem := by simp [cmdPut, h]

@[simp] theorem cmdMove_wf {from_ to_ : List Nat} (h : Memory.wf s.mem) : Memory.wf (cmdMove s c q m from_ to_).mem := by
  simp +contextual [cmdMove, h]

@[simp] theorem chunkRecords_mem {slot : Nat} {owner : Nat × Nat} : (chunkRecords s slot owner pages).mem = s.mem := by
  simp [chunkRecords]

@[simp] theorem cmdRecords_mem : (cmdRecords s m pages).mem = s.mem := by simp [cmdRecords]
@[simp] theorem pinPlaces_mem {va : Nat} : (pinPlaces s m loc va n).mem = s.mem := by simp [pinPlaces]
@[simp] theorem meetPlaces_mem {ps : List Nat} : (meetPlaces s m loc ps).mem = s.mem := by simp [meetPlaces]

@[simp] theorem execStreamerChunk_canonical (h : Memory.wf s.mem) : CanonicalNext (execStreamerChunk c q n s) := by
  unfold execStreamerChunk
  dsimp only
  repeat' split
  all_goals simp [h]

@[simp] theorem execStreamerComplete_canonical (h : Memory.wf s.mem) : CanonicalNext (execStreamerComplete c q n s) := by
  unfold execStreamerComplete
  dsimp only
  repeat' split
  all_goals simp [h]

@[simp] theorem execQueueFenceLeave_canonical (h : Memory.wf s.mem) : CanonicalNext (execQueueFenceLeave c n s) := by
  unfold execQueueFenceLeave
  dsimp only
  repeat' split
  all_goals simp +contextual [h]

end Sys2Proof.Machine

end

/-! The operator scheduler: what leaves memory as it is, and what keeps it canonical. -/

section

namespace Sys2Proof.Machine

variable {s : State} {slot k n ins g l b f id : Nat} {v : Quad} {p : Point} {x : OpSlot} {d a : Opnd}

@[simp] theorem tailValue_mem : (tailValue s slot k v).mem = s.mem := by rfl

@[simp] theorem streamTail_canonical (h : Memory.wf s.mem) : CanonicalNext (streamTail slot k v s) := by
  unfold streamTail
  dsimp only
  split <;> simp [h]

@[simp] theorem execStreamReconcile_canonical (h : Memory.wf s.mem) : CanonicalNext (execStreamReconcile s) := by
  unfold execStreamReconcile
  split_ifs
  · exact .next h
  · rw [canonicalNext_next, foldl_mem]
    · exact h
    · intro s e
      split_ifs
      · split <;> simp
      · rfl

@[simp] theorem streamEnable_canonical (h : Memory.wf s.mem) : CanonicalNext (streamEnable slot k s) := by simp [streamEnable, h]
@[simp] theorem returnTokens_mem : (returnTokens s n p).mem = s.mem := by simp [returnTokens]
@[simp] theorem freeOp_mem : (freeOp s n).mem = s.mem := by rfl
@[simp] theorem saveOp_mem : (saveOp s n).mem = s.mem := by rfl
@[simp] theorem endWaits_wf (h : Memory.wf s.mem) : Memory.wf (endWaits s x p).mem := by simp [endWaits, h]
@[simp] theorem freeReset_wf (h : Memory.wf s.mem) : Memory.wf (freeReset s n).mem := by simp +contextual [freeReset, h]

@[simp] theorem streamReset_canonical (h : Memory.wf s.mem) : CanonicalNext (streamReset slot k s) := by
  simp +contextual [streamReset, h]

@[simp] theorem streamNext_mem : (streamNext s slot k n).mem = s.mem := by rfl
@[simp] theorem streamError_mem {cause : Nat} : (streamError s slot k cause).mem = s.mem := by rfl
@[simp] theorem streamHold_mem : (streamHold s slot k).mem = s.mem := by rfl
@[simp] theorem streamCount_mem : (streamCount s slot k).mem = s.mem := by rfl

@[simp] theorem decodeSlot_mem {copy : Nat} : (decodeSlot s slot k ins copy).mem = s.mem := by
  unfold decodeSlot
  dsimp only
  split <;> simp

@[simp] theorem opPin_mem : (opPin s slot ins).mem = s.mem := by
  refine foldl_mem (fun s i => ?_) _ s
  split <;> simp

@[simp] theorem opSignal_wf (h : Memory.wf s.mem) : Memory.wf (opSignal s slot ins g).mem := by simp [opSignal, h]
@[simp] theorem decodeLater_mem : (decodeLater s slot k ins).mem = s.mem := by rfl

@[simp] theorem decodeOp_wf (h : Memory.wf s.mem) : Memory.wf (decodeOp s slot k ins).mem := by
  unfold decodeOp
  dsimp only
  repeat' split
  all_goals simp [h]

@[simp] theorem decodeStep_wf {opc : Nat} (h : Memory.wf s.mem) : Memory.wf (decodeStep s slot k opc).mem := by
  unfold decodeStep
  split <;> simp [h]

@[simp] theorem execOprun_canonical (h : Memory.wf s.mem) : CanonicalNext (execOprun slot k s) := by simp [execOprun, h]
@[simp] theorem execOpcopy_canonical (h : Memory.wf s.mem) : CanonicalNext (execOpcopy slot k s) := by simp [execOpcopy, h]
@[simp] theorem execOpwait_canonical (h : Memory.wf s.mem) : CanonicalNext (execOpwait slot k s) := by simp [execOpwait, h]
@[simp] theorem execOpsig_canonical (h : Memory.wf s.mem) : CanonicalNext (execOpsig slot k s) := by simp [execOpsig, h]
@[simp] theorem execOpfence_canonical (h : Memory.wf s.mem) : CanonicalNext (execOpfence slot k s) := by simp [execOpfence, h]
@[simp] theorem execOpjump_canonical (h : Memory.wf s.mem) : CanonicalNext (execOpjump slot k s) := by simp [execOpjump, h]
@[simp] theorem execOpend_canonical (h : Memory.wf s.mem) : CanonicalNext (execOpend slot k s) := by simp [execOpend, h]
@[simp] theorem execOppin_canonical (h : Memory.wf s.mem) : CanonicalNext (execOppin slot k s) := by simp [execOppin, h]
@[simp] theorem execOpamax_canonical (h : Memory.wf s.mem) : CanonicalNext (execOpamax slot k s) := by simp [execOpamax, h]

@[simp] theorem execDecodeResume_canonical (h : Memory.wf s.mem) : CanonicalNext (execDecodeResume slot k s) := by
  simp [execDecodeResume, h]

@[simp] theorem opAmax_wf (h : Memory.wf s.mem) : Memory.wf (opAmax s slot ins).mem := by
  refine foldl_wf (fun s i h => ?_) _ h
  dsimp only
  split
  · split_ifs
    · exact performAll_wf h
    · exact h
  · exact h

@[simp] theorem execOpsigSignal_canonical (h : Memory.wf s.mem) : CanonicalNext (execOpsigSignal slot k s) := by
  unfold execOpsigSignal
  split <;> simp [h]

@[simp] theorem firePoint_wf (h : Memory.wf s.mem) : Memory.wf (firePoint s n l).mem := by simp [firePoint, h]

@[simp] theorem execPointFire_canonical (h : Memory.wf s.mem) : CanonicalNext (execPointFire n s) := by
  unfold execPointFire
  dsimp only
  repeat' split
  all_goals simp [h]

@[simp] theorem retirePoint_wf {ok : Bool} (h : Memory.wf s.mem) : Memory.wf (retirePoint s n l ok g).mem := by
  unfold retirePoint
  dsimp only
  split <;> simp [h]

@[simp] theorem execTokenGrant_canonical (h : Memory.wf s.mem) : CanonicalNext (execTokenGrant s) := by
  unfold execTokenGrant
  dsimp only
  split <;> simp [h]

@[simp] theorem countShare_mem {prio : Nat} : (countShare s prio x).mem = s.mem := by rfl
@[simp] theorem postYields_mem : (postYields s).mem = s.mem := by simp [postYields]

@[simp] theorem execJobDispatch_canonical (h : Memory.wf s.mem) : CanonicalNext (execJobDispatch s) := by
  unfold execJobDispatch
  dsimp only
  repeat' split
  all_goals simp [h]

@[simp] theorem copyChunks_wf {tce src dst len cvt t : Nat} (h : Memory.wf s.mem) :
    Memory.wf (copyChunks slot tce src dst len cvt n k s t).1.mem := by
  induction n generalizing k s t with
  | zero => exact h
  | succ n ih =>
    unfold copyChunks
    dsimp only
    split_ifs
    · exact h
    all_goals
      split
      · simpa using h
      · simpa using h
      · exact ih (putPlaces_wf (by simpa using h))

@[simp] theorem execOpcopyPointComplete_canonical (h : Memory.wf s.mem) : CanonicalNext (execOpcopyPointComplete n l s) := by
  unfold execOpcopyPointComplete
  dsimp only
  split <;> simp [h]

@[simp] theorem takeMail_mem {m : Mail} : (takeMail s b m).mem = s.mem := by
  unfold takeMail
  split <;> simp

@[simp] theorem execMbxrd_canonical (h : Memory.wf s.mem) : CanonicalNext (execMbxrd d s) := by
  unfold execMbxrd
  dsimp only
  split <;> simp [h]

@[simp] theorem execMbxrdWake_canonical (h : Memory.wf s.mem) : CanonicalNext (execMbxrdWake g f s) := by
  unfold execMbxrdWake
  split
  · split
    · exact .next h
    · simp [h]
  · exact .next h

@[simp] theorem forceJobs_mem : (forceJobs s b).mem = s.mem := by simp [forceJobs]

@[simp] theorem mbxdoneFinish_wf {jobid : Word} (h : Memory.wf s.mem) : Memory.wf (mbxdoneFinish s g f id jobid).mem := by
  unfold mbxdoneFinish
  split
  · exact withCur_wf (fun _ h => raiseAll_wf h) (by simpa using h)
  · split_ifs <;> simp [h]

@[simp] theorem signalEnded_wf {t : State} (h : Memory.wf s.mem) (ht : Memory.wf t.mem) : Memory.wf (signalEnded s t g f id).mem := by
  simp [signalEnded, h, ht]

@[simp] theorem execFenceWake_canonical (h : Memory.wf s.mem) : CanonicalNext (execFenceWake g f s) := by
  unfold execFenceWake
  dsimp only
  repeat' split
  all_goals simp [h]

@[simp] theorem execOppush_canonical {b : Opnd} (h : Memory.wf s.mem) : CanonicalNext (execOppush a b s) := by
  have hc : Memory.wf (closeRegion s).mem := by simpa using h
  have hp : ∀ bs, Memory.wf (performAll (closeRegion s) bs).1.mem := fun _ => performAll_wf hc
  -- The kernel would compute these two on the push's eight bytes.
  obtain ⟨perf, hperf⟩ : ∃ f, f = performAll := ⟨_, rfl⟩
  obtain ⟨check, hcheck⟩ : ∃ f, f = checkGlobal := ⟨_, rfl⟩
  unfold execOppush
  rw [← hperf] at hp ⊢
  rw [← hcheck]
  dsimp only
  split
  · simpa using h
  · split
    · exact .next (raiseAll_wf hc)
    · split
      · exact done_canonical (by simpa using hp _)
      · exact .next (raiseAt_wf hc)
      · exact done_canonical hc

@[simp] theorem execFrq_canonical {b : Opnd} (h : Memory.wf s.mem) : CanonicalNext (execFrq d a b s) := by
  unfold execFrq
  split_ifs
  · simpa using h
  · split <;> simp [h]

end Sys2Proof.Machine

end

/-! KV pages: what leaves memory as it is, and what keeps it canonical. -/

section

namespace Sys2Proof.Machine

variable {k : Kv} {e : KvFault} {va n d i die id : Nat} {s : State} {ps : List PageImg} {m : KvCmd}

@[simp] theorem Kv.fail_mem : (Kv.fail k e).s.mem = k.s.mem := by
  unfold Kv.fail
  split <;> simp

@[simp] theorem Kv.rd_mem : (k.rd va n).1.s.mem = k.s.mem := by rw [Kv.rd_s]

@[simp] theorem KvWrite.go_wf {x1 : KvWrite} (h : Memory.wf s.mem) : Memory.wf (KvWrite.go s x1).1.mem := by
  unfold KvWrite.go
  split <;> simp [h]

@[simp] theorem Kv.put_wf {mk : List Nat → KvWrite} (h : Memory.wf k.s.mem) : Memory.wf (Kv.put k va n mk).s.mem := by
  unfold Kv.put
  dsimp only
  repeat' split
  all_goals simp [h]

@[simp] theorem Kv.wr_wf {bs : List Byte} (h : Memory.wf k.s.mem) : Memory.wf (Kv.wr k va bs).s.mem := by simp [Kv.wr, h]

@[simp] theorem Kv.check_mem : (k.check va n).s.mem = k.s.mem := by
  unfold Kv.check
  split_ifs
  · rfl
  · split <;> simp

@[simp] theorem Kv.upd_wf {f : Nat → Nat} (h : Memory.wf k.s.mem) : Memory.wf (Kv.upd k va n f).s.mem := by
  unfold Kv.upd
  dsimp only
  split <;> simp [h]

@[simp] theorem Kv.page_mem : (Kv.page k d i).1.s.mem = k.s.mem := by simp [Kv.page]
@[simp] theorem Kv.readPage_mem : (Kv.readPage k d i).1.s.mem = k.s.mem := by simp [Kv.readPage]

@[simp] theorem Kv.readPages_mem : (Kv.readPages d n i k).1.s.mem = k.s.mem := by
  induction n generalizing i k with
  | zero => rfl
  | succ n ih =>
    unfold Kv.readPages
    simp [ih]

@[simp] theorem Kv.movePage_wf {q : Nat} {ts : List (Tok × List Byte × List Byte)} (h : Memory.wf k.s.mem) :
    Memory.wf (k.movePage d ps q ts).1.s.mem :=
  List.foldlRecOn (motive := fun x : Kv × Nat => Memory.wf x.1.s.mem) _ _ (Kv.wr_wf h) fun _ h _ _ => Kv.wr_wf (Kv.wr_wf h)

@[simp] theorem Kv.freePages_wf {kept : Nat} (h : Memory.wf k.s.mem) : Memory.wf (k.freePages d ps kept n).1.s.mem :=
  Kv.wr_wf (Kv.wr_wf (List.foldlRecOn (motive := fun k : Kv => Memory.wf k.s.mem) _ _ h fun _ h _ _ => Kv.wr_wf h))

@[simp] theorem Kv.compact_wf {ts : List Tok} (h : Memory.wf k.s.mem) : Memory.wf (k.compact d ps ts).1.s.mem := by
  unfold Kv.compact
  dsimp only
  refine Kv.freePages_wf ?_
  exact List.foldlRecOn (motive := fun x : Kv × Nat => Memory.wf x.1.s.mem) _ _ h fun _ h _ _ => Kv.movePage_wf h

@[simp] theorem kvEvict_wf (h : Memory.wf k.s.mem) : Memory.wf (kvEvict m k).s.mem := by
  have hr : Memory.wf (k.rd (m.pair 0) 64).1.s.mem := by simpa using h
  unfold kvEvict
  dsimp only
  generalize selectToks _ _ _ _ = kept
  generalize (if (Kv.readPages _ _ _ _).1.err.isSome = true then dPcnt _ else _) = n
  split
  · refine Kv.wr_wf ?_
    rw [foldl_mem fun _ _ => faultRec_mem]
    exact hr
  · refine Kv.wr_wf (Kv.compact_wf ?_)
    refine List.foldlRecOn (motive := fun k : Kv => Memory.wf k.s.mem) _ _ (by simpa using h) fun k h r _ => ?_
    split_ifs
    · exact h
    · simpa using h

@[simp] theorem foldPin_mem {t : State} : (foldPin m s t die).mem = t.mem := by
  refine foldl_mem (fun t w => ?_) _ t
  split <;> simp

@[simp] theorem kvStart_mem : (kvStart s m).s.mem = s.mem := by rfl
@[simp] theorem kvPin_mem : (kvPin s k).mem = s.mem := by simp [kvPin]

@[simp] theorem kvIssue_canonical {op : Nat} {regs : List Word} (h : Memory.wf s.mem) : CanonicalNext (kvIssue s op regs) := by
  simp [kvIssue, h]

@[simp] theorem updKv_mem {f : KvCmd → KvCmd} : (updKv s die id f).mem = s.mem := by rfl
@[simp] theorem dropKv_mem : (dropKv s die id).mem = s.mem := by rfl
@[simp] theorem kvTrap_wf (h : Memory.wf s.mem) : Memory.wf (kvTrap s m e).mem := by simp +contextual [kvTrap, h]

@[simp] theorem execKvAccept_canonical {held : State} (h : Memory.wf held.mem) : CanonicalNext (execKvAccept die held) := by
  unfold execKvAccept
  dsimp only
  repeat' split
  all_goals simp [h]

@[simp] theorem kvPerform_wf (h : Memory.wf s.mem) : Memory.wf (kvPerform s die m).mem := by simp +contextual [kvPerform, h]

@[simp] theorem execKvComplete_canonical (h : Memory.wf s.mem) : CanonicalNext (execKvComplete die s) := by
  unfold execKvComplete
  dsimp only
  repeat' split
  all_goals simp [h]

@[simp] theorem viewMeet_mem {pages : List PageImg} : (viewMeet s va d pages).mem = s.mem := by simp [viewMeet]

@[simp] theorem execKvpos_canonical {d a b : Opnd} (h : Memory.wf s.mem) : CanonicalNext (execKvpos d a b s) := by
  unfold execKvpos
  dsimp only
  repeat' split
  all_goals simp [h]

end Sys2Proof.Machine

end

/-! Banks: what leaves memory as it is, and what keeps it canonical. -/

section

namespace Sys2Proof.Machine

@[simp] theorem execBankDrainComplete_canonical {c k : Nat} {s : State} (h : Memory.wf s.mem) :
    CanonicalNext (execBankDrainComplete c k s) := by
  unfold execBankDrainComplete
  dsimp only
  repeat' split
  all_goals simp [h]

end Sys2Proof.Machine

end

/-! Control: what leaves memory as it is, and what keeps it canonical. -/

section

namespace Sys2Proof.Machine

variable {s : State} {a b : Opnd} {m : Word} {yielded : Bool} {g unit : Nat}

@[simp] theorem transfer_canonical {t : Quad} {go : State → State} (hgo : ∀ s, Memory.wf s.mem → Memory.wf (go s).mem)
    (h : Memory.wf s.mem) : CanonicalNext (transfer s t go) := by
  simp [transfer, hgo, h]

@[simp] theorem diverge_wf {join : Quad} {paths : List (Word × Quad)} {first : Word} {go : State → State}
    (hgo : ∀ s, Memory.wf s.mem → Memory.wf (go s).mem) (h : Memory.wf s.mem) : Memory.wf (diverge s join paths first go).mem := by
  unfold diverge
  dsimp only
  split_ifs
  · exact raiseStack_wf h
  all_goals
    refine hgo _ ?_
    rw [updCF_mem]
    refine foldl_wf (fun s p h => pushHere_wf h) _ ?_
    simp [h]

@[simp] theorem execBrx_canonical (h : Memory.wf s.mem) : CanonicalNext (execBrx a b s) := by
  unfold execBrx
  split
  · exact transfer_canonical (fun _ h => by simpa using h) h
  · refine .next (raiseSome_wf (fun s h => ?_) h)
    dsimp only
    split
    · simpa using h
    · simpa using h
    · split
      · exact raiseAll_wf h
      · exact diverge_wf (fun _ h => by simpa using h) h

@[simp] theorem execCall_canonical (h : Memory.wf s.mem) : CanonicalNext (execCall a s) := by simp +contextual [execCall, h]
@[simp] theorem takeEntry_mem {e : StkEntry} : (takeEntry s e).mem = s.mem := by rfl

@[simp] theorem execRet_canonical (h : Memory.wf s.mem) : CanonicalNext (execRet s) := by
  unfold execRet
  split <;> simp [h]

@[simp] theorem popChain_mem {drop : StkEntry → Bool} {n : Nat} : (popChain drop n s).1.mem = s.mem := by
  induction n generalizing s with
  | zero => rfl
  | succ n ih =>
    unfold popChain
    split
    · rfl
    · split_ifs
      · rfl
      · simp [ih]
      · split <;> rfl

@[simp] theorem execSync_canonical (h : Memory.wf s.mem) : CanonicalNext (execSync s) := by
  have hp := popChain_mem (drop := fun e => e.kind == 1) (n := 32) (s := s)
  unfold execSync
  split <;> simp_all

@[simp] theorem removeThreads_wf (h : Memory.wf s.mem) : Memory.wf (removeThreads s m).mem := by simp +contextual [removeThreads, h]
@[simp] theorem freeFragment_mem : (freeFragment s).mem = s.mem := by rfl
@[simp] theorem maybeEnd_mem : (maybeEnd s yielded).mem = s.mem := by simp [maybeEnd]

@[simp] theorem exitThreads_wf (h : Memory.wf s.mem) : Memory.wf (exitThreads s).mem := by
  have hr := removeThreads_wf (m := active s) h
  have hp := popChain_mem (drop := fun _ => true) (n := 32) (s := removeThreads s (active s))
  unfold exitThreads
  dsimp only
  split <;> simp_all

@[simp] theorem endAll_mem : (endAll s g yielded).mem = s.mem := by rfl
@[simp] theorem endedDrop_wf (h : Memory.wf s.mem) : Memory.wf (endedDrop s g).mem := by simp [endedDrop, h]
@[simp] theorem setMode_canonical (h : Memory.wf s.mem) : CanonicalNext (setMode s m) := by simp [setMode, h]

@[simp] theorem writeAll_mem {d : Opnd} {w : Word} : (writeAll s d w).mem = s.mem := by
  unfold writeAll
  split <;> simp

@[simp] theorem execMts_canonical {i : BitVec 8} (h : Memory.wf s.mem) : CanonicalNext (execMts i b s) := by
  unfold execMts
  split <;> simp [h]

@[simp] theorem arriveBar_mem {k : Nat} {f : Bar → Bar} : (arriveBar s k f).mem = s.mem := by rfl
@[simp] theorem keepCode_mem {slot pa : Nat} {bs : List Byte} : (keepCode s unit slot pa bs).mem = s.mem := by simp [keepCode]
@[simp] theorem cacheCode_mem {blk64 : Nat} : (cacheCode s unit blk64).mem = s.mem := by simp [cacheCode]
@[simp] theorem pinLine_mem {limit x : Nat} : (pinLine s unit limit x).mem = s.mem := by simp [pinLine]

end Sys2Proof.Machine

end

/-! Clauses: what leaves memory as it is, and what keeps it canonical. -/

section

namespace Sys2Proof.Machine

variable {s : State} {slot g b w f : Nat} {pc : Quad} {ws : List Word}

@[simp] theorem prefetchCode_mem {c va : Nat} : (prefetchCode s c slot va).mem = s.mem := by
  unfold prefetchCode
  split_ifs
  · rfl
  · split <;> simp

@[simp] theorem fetch_mem : (fetch s g pc).1.mem = s.mem := by
  unfold fetch
  dsimp only
  repeat' split
  all_goals simp

@[simp] theorem converge_wf {n : Nat} (h : Memory.wf s.mem) : Memory.wf (converge pc n s).mem := by
  induction n generalizing s with
  | zero => exact h
  | succ n ih =>
    unfold converge
    repeat' split
    all_goals simp [h, ih]

@[simp] theorem openRegion_mem : (openRegion s).mem = s.mem := by rfl
@[simp] theorem blockStops_mem : (blockStops s b).mem = s.mem := by simp [blockStops]
@[simp] theorem enterClause_mem : (enterClause s).mem = s.mem := by simp [enterClause]
@[simp] theorem atConvergence_wf (h : Memory.wf s.mem) : Memory.wf (atConvergence s).mem := by simp [atConvergence, h]
@[simp] theorem startClause_wf (h : Memory.wf s.mem) : Memory.wf (startClause s).mem := by simp [startClause, h]

@[simp] theorem raiseWord_wf {cause : Nat} {w : Word} (h : Memory.wf s.mem) : Memory.wf (raiseWord s cause pc w).mem := by
  simp [raiseWord, h]

@[simp] theorem startAt_wf (h : Memory.wf s.mem) : Memory.wf (startAt s ws w).mem := by
  unfold startAt
  dsimp only
  repeat' split
  all_goals simp [h]

@[simp] theorem resumeInside_mem {h : Word} {hw : Nat} : (resumeInside s h hw w ws).mem = s.mem := by rfl

@[simp] theorem execClauseStart_canonical (h : Memory.wf s.mem) : CanonicalNext (execClauseStart s) := by
  have hf := fetch_mem (s := s) (g := s.curG) (pc := (cf s).pc)
  unfold execClauseStart
  dsimp only
  split_ifs
  · exact .next h
  · simpa using h
  all_goals
    split
    · simp_all
    · repeat' split
      all_goals simp_all

@[simp] theorem execFragmentMerge_canonical (h : Memory.wf s.mem) : CanonicalNext (execFragmentMerge g s) := by
  unfold execFragmentMerge
  dsimp only
  split
  · exact .next h
  · refine .next (unlessPart_wf h (foldl_wf (fun s pc h => ?_) _ h))
    split
    · exact h
    · refine withCur_wf (fun s h => ?_) (by simpa using h)
      have hc := converge_wf (pc := w64 pc) (n := 33) h
      split_ifs
      · simpa using hc
      · exact hc

@[simp] theorem execHandlerStart_canonical (h : Memory.wf s.mem) : CanonicalNext (execHandlerStart g f s) := by
  unfold execHandlerStart
  split <;> simp [h]

@[simp] theorem execFragmentWake_canonical (h : Memory.wf s.mem) : CanonicalNext (execFragmentWake g f s) := by
  unfold execFragmentWake
  split <;> simp [h]

@[simp] theorem execSleepWake_canonical (h : Memory.wf s.mem) : CanonicalNext (execSleepWake g f s) := by
  unfold execSleepWake
  split <;> simp [h]

@[simp] theorem execWtimeWake_canonical (h : Memory.wf s.mem) : CanonicalNext (execWtimeWake g f s) := by
  unfold execWtimeWake
  split <;> simp [h]

@[simp] theorem freeBanks_mem : (freeBanks s b).mem = s.mem := by simp [freeBanks]
@[simp] theorem endBlock_mem : (endBlock s b).mem = s.mem := by simp [endBlock]
@[simp] theorem dropGroup_mem : (dropGroup s g).mem = s.mem := by rfl
@[simp] theorem endGroup_mem : (endGroup s g).mem = s.mem := by simp [endGroup]
@[simp] theorem execGroupEnd_canonical (h : Memory.wf s.mem) : CanonicalNext (execGroupEnd g s) := by simp [execGroupEnd, h]

@[simp] theorem queueRelease_canonical {v : Word} (h : Memory.wf s.mem) : CanonicalNext (queueRelease slot v s) := by
  simp [queueRelease, h]

end Sys2Proof.Machine

end

/-! Placement: what leaves memory as it is, and what keeps it canonical. -/

section

namespace Sys2Proof.Machine

variable {s : State} {b slot g : Nat}

@[simp] theorem setBank_mem {k mode : Nat} : (setBank s b k mode).mem = s.mem := by rfl
@[simp] theorem makeBlock_mem : (makeBlock s slot b).mem = s.mem := by simp [makeBlock]
@[simp] theorem makeGroup_mem {p : Placed} : (makeGroup s slot g p).mem = s.mem := by rfl
@[simp] theorem makeCore_mem {c : Nat} : (makeCore s slot c).mem = s.mem := by simp [makeCore]

@[simp] theorem cutStack_mem {n : Nat} : (cutStack g n s).mem = s.mem := by
  induction n generalizing s with
  | zero => rfl
  | succ n ih => exact ih.trans popG_mem

@[simp] theorem rollback_mem : (rollback s g).mem = s.mem := by simp [rollback]
@[simp] theorem gresDone_mem : (gresDone s g).mem = s.mem := by simp [gresDone]

@[simp] theorem execGroupRollback_canonical (h : Memory.wf s.mem) : CanonicalNext (execGroupRollback g s) := by
  simp [execGroupRollback, h]

end Sys2Proof.Machine

end

/-! Records of saves: what leaves memory as it is, and what keeps it canonical. -/

section

namespace Sys2Proof.Machine

variable {s : State} {g : Nat} {bs : List Byte}

@[simp] theorem loadFront_mem {n : Nat} {x : OpSlot} : (loadFront s n x).mem = s.mem := by simp [loadFront]
@[simp] theorem keepViol_mem : (keepViol s g).mem = s.mem := by rfl
@[simp] theorem restoreGroup_mem {ctx : Nat} {freeze : Bool} : (restoreGroup s ctx g bs freeze).mem = s.mem := by rfl

@[simp] theorem restoreBlock_mem {b : Nat} : (restoreBlock s b bs).mem = s.mem := by
  unfold restoreBlock
  dsimp only
  rw [updB_mem, foldl_mem fun _ _ => lsPut_mem _ _ _, foldl_mem, unbindRows_mem]
  intro s k
  split_ifs <;> simp

end Sys2Proof.Machine

end

/-! The privileged instructions: what leaves memory as it is, and what keeps it canonical. -/

section

namespace Sys2Proof.Machine

variable {s : State} {g i sub cls idx va slot : Nat} {w : Word} {d a b : Opnd}

@[simp] theorem stackWrite_canonical (h : Memory.wf s.mem) : CanonicalSome (stackWrite s g i sub w) := by simp [stackWrite, h]

@[simp] theorem fragWrite_canonical (h : Memory.wf s.mem) : CanonicalSome (fragWrite s g i sub w) := by
  unfold fragWrite
  extract_lets f move
  split
  · simp
  · split <;> simp [move, h]

@[simp] theorem itemWrite_canonical (h : Memory.wf s.mem) : CanonicalSome (itemWrite s g cls idx sub w) := by
  unfold itemWrite
  extract_lets at0
  have h0 (f : Group → Group) : CanonicalSome (at0 f) := by simp [at0, h]
  clear_value at0
  split <;> simp [h, h0]

@[simp] theorem itemMeet_mem : (itemMeet s g cls idx).mem = s.mem := by simp [itemMeet]

@[simp] theorem execGrd_canonical (h : Memory.wf s.mem) : CanonicalNext (execGrd d a b s) := by
  unfold execGrd
  dsimp only
  split <;> simp [h]

@[simp] theorem execGwr_canonical {x : Opnd} (h : Memory.wf s.mem) : CanonicalNext (execGwr x a b s) := by
  unfold execGwr
  dsimp only
  split
  next t ht =>
    obtain ⟨g, -, hg⟩ := Option.bind_eq_some_iff.1 ht
    split_ifs at hg
    exact done_canonical (itemWrite_canonical (by simpa using h) t hg)
  · simp [h]

@[simp] theorem execGres_canonical (h : Memory.wf s.mem) : CanonicalNext (execGres a s) := by
  unfold execGres
  split <;> simp [h]

@[simp] theorem execGfrz_canonical {u : BitVec 1} (h : Memory.wf s.mem) : CanonicalNext (execGfrz u a s) := by
  unfold execGfrz
  dsimp only
  split <;> simp [h]

@[simp] theorem execTlbi_canonical (h : Memory.wf s.mem) : CanonicalNext (execTlbi a s) := by
  unfold execTlbi
  dsimp only
  repeat' split
  all_goals simp [h]

@[simp] theorem recTrap_wf {wr : Bool} {e : Nat × Nat × List Nat} (h : Memory.wf s.mem) : Memory.wf (recTrap s wr e).mem := by
  simp [recTrap, h]

@[simp] theorem saveRecord_canonical {bs : List Byte} {after : State → State} (ha : ∀ s, (after s).mem = s.mem)
    (h : Memory.wf s.mem) : CanonicalNext (saveRecord s va bs after) := by
  unfold saveRecord
  split <;> simp [ha, h]

@[simp] theorem execFrld_canonical (h : Memory.wf s.mem) : CanonicalNext (execFrld d a s) := by
  unfold execFrld
  dsimp only
  repeat' split
  all_goals simp [h]

@[simp] theorem execCtxsv_canonical (h : Memory.wf s.mem) : CanonicalNext (execCtxsv a b s) := by
  unfold execCtxsv
  dsimp only
  repeat' split
  all_goals simp [h]

@[simp] theorem freshCode_mem : (freshCode s slot).mem = s.mem := by rfl
@[simp] theorem takeForced_mem {b : Nat} : (takeForced s slot b).mem = s.mem := by rfl
@[simp] theorem loadDone_canonical (h : Memory.wf s.mem) : CanonicalNext (loadDone s) := by simp [loadDone, h]

@[simp] theorem ctxldBlock_canonical (h : Memory.wf s.mem) : CanonicalNext (ctxldBlock s va) := by
  unfold ctxldBlock
  dsimp only
  repeat' split
  all_goals simp [h]

@[simp] theorem ctxldGroup_canonical {n : Nat} (h : Memory.wf s.mem) : CanonicalNext (ctxldGroup s va n) := by
  unfold ctxldGroup
  dsimp only
  repeat' split
  all_goals simp [h]

end Sys2Proof.Machine

end

/-! Contexts: what leaves memory as it is, and what keeps it canonical. -/

section

namespace Sys2Proof.Machine

variable {s : State} {slot n g b : Nat}

@[simp] theorem heldRun_mem : (heldRun s slot).mem = s.mem := by rfl
@[simp] theorem createCtx_mem {p : Plan} : (createCtx s slot p).mem = s.mem := by simp [createCtx]

@[simp] theorem ctxLaunch_canonical (h : Memory.wf s.mem) : CanonicalNext (ctxLaunch slot s) := by
  unfold ctxLaunch
  split <;> simp [h]

@[simp] theorem unfire_wf {p : Point} (h : Memory.wf s.mem) : Memory.wf (unfire s n p).mem := by simp [unfire, h]

@[simp] theorem drainOps_wf (h : Memory.wf s.mem) : Memory.wf (drainOps s slot).mem := by
  refine foldl_wf (fun s e h => ?_) _ h
  dsimp only
  split_ifs
  · refine foldl_wf (fun s p h => ?_) _ (by simpa using h)
    split_ifs <;> simp [h]
  · exact h

@[simp] theorem dropMail_mem {k : Nat → Bool} : (dropMail s slot k).mem = s.mem := by rfl

@[simp] theorem ctxPreempt_canonical (h : Memory.wf s.mem) : CanonicalNext (ctxPreempt slot s) := by
  simp +contextual [ctxPreempt, h]

@[simp] theorem stopGroup_mem {standing : Bool} : (stopGroup s g standing).mem = s.mem := by rfl
@[simp] theorem stopDue_mem : (stopDue s b).mem = s.mem := by simp [stopDue]
@[simp] theorem stopQuiet_mem : (stopQuiet s b).mem = s.mem := by simp [stopQuiet]
@[simp] theorem forceBlock_mem : (forceBlock s b).mem = s.mem := by simp [forceBlock]

@[simp] theorem execForcedSaveDecision_canonical {c : Nat} (h : Memory.wf s.mem) : CanonicalNext (execForcedSaveDecision c b s) := by
  simp [execForcedSaveDecision, h]

@[simp] theorem execPreemptDeadline_canonical (h : Memory.wf s.mem) : CanonicalNext (execPreemptDeadline slot s) := by
  simp [execPreemptDeadline, h]

@[simp] theorem freezeLate_wf (h : Memory.wf s.mem) : Memory.wf (freezeLate s g).mem := by simp [freezeLate, h]
@[simp] theorem lateBlock_wf (h : Memory.wf s.mem) : Memory.wf (lateBlock s b).1.mem := by simp +contextual [lateBlock, h]
@[simp] theorem ctxLeaves_mem {f : Ctx → Ctx} : (ctxLeaves s slot f).mem = s.mem := by rfl

@[simp] theorem execPreemptHardDeadline_canonical (h : Memory.wf s.mem) : CanonicalNext (execPreemptHardDeadline slot s) := by
  simp +contextual [execPreemptHardDeadline, h]

@[simp] theorem forcePoints_mem : (forcePoints s slot).mem = s.mem := by simp [forcePoints]

@[simp] theorem putSave_canonical {va : Nat} {bs : List Byte} (h : Memory.wf s.mem) : CanonicalSome (putSave s slot va bs) := by
  unfold putSave
  split <;> simp [h]

@[simp] theorem dropBlocks_mem : (dropBlocks s slot).mem = s.mem := by simp [dropBlocks]
@[simp] theorem invContext_mem : (invContext s slot).mem = s.mem := by rfl

@[simp] theorem execContextSave_canonical (h : Memory.wf s.mem) : CanonicalNext (execContextSave slot s) := by
  have hw : Memory.wf ((blocksOf s slot).foldl (fun s b => updB (writeBackAll s b) b fun x => { x with saved := true })
      (forcePoints s slot)).mem := by simpa using h
  unfold execContextSave
  dsimp only
  split_ifs
  · exact .next h
  · rw [canonicalNext_next, ctxLeaves_mem]
    cases hp : putSave _ _ _ _ with
    | none => exact hw
    | some t => exact putSave_canonical hw t hp
  · split
    · simpa using h
    next t ht =>
      have ht' := putSave_canonical hw t ht
      simp [ht']

@[simp] theorem restoreSaved_mem {ys : List Nat} {e : Nat × List Byte} : (restoreSaved s slot ys e).mem = s.mem := by
  simp [restoreSaved]

@[simp] theorem resumeFail_mem : (resumeFail s slot).mem = s.mem := by rfl

@[simp] theorem loadFronts_mem : (loadFronts slot n s).mem = s.mem := by
  induction n generalizing s with
  | zero => rfl
  | succ n ih =>
    unfold loadFronts
    dsimp only
    repeat' split
    all_goals simp [ih]

@[simp] theorem resumeOn_mem : (resumeOn s slot).mem = s.mem := by simp [resumeOn]

@[simp] theorem ctxResume_canonical (h : Memory.wf s.mem) : CanonicalNext (ctxResume slot s) := by
  unfold ctxResume
  dsimp only
  repeat' split
  all_goals simp [h]

@[simp] theorem dropWindows_wf (h : Memory.wf s.mem) : Memory.wf (dropWindows s slot).mem := by
  refine foldl_wf (fun s e h => ?_) _ h
  dsimp only
  split_ifs
  · simpa using h
  · exact closeSend_wf (emit_wf h)
  · exact closeSend_wf h
  · exact h

@[simp] theorem dropStreams_mem : (dropStreams s slot).mem = s.mem := by simp [dropStreams]
@[simp] theorem dropPending_mem : (dropPending s slot).mem = s.mem := by rfl
@[simp] theorem ctxKill_canonical (h : Memory.wf s.mem) : CanonicalNext (ctxKill slot s) := by simp [ctxKill, h]

@[simp] theorem invhiPost_canonical {v : Quad} (h : Memory.wf s.mem) : CanonicalNext (invhiPost slot v s) := by
  -- Unfolded as a function: the kernel would compute what it matches on.
  have e : @invhiPost = @invhiPost := rfl
  conv at e => rhs; delta invhiPost
  rw [e]
  beta_reduce
  split <;> simp [h]

end Sys2Proof.Machine

end

/-! Links: what leaves memory as it is, and what keeps it canonical. -/

section

namespace Sys2Proof.Machine

variable {s : State} {p port k fseq start time : Nat}

@[simp] theorem updPort_mem {f : Port → Port} : (updPort s p f).mem = s.mem := by rfl
@[simp] theorem requeue_mem {d : Nat} {fs : List Flit} : (requeue s port d fs).mem = s.mem := by rfl
@[simp] theorem returnPort_mem {n : Nat} : (returnPort s n p).mem = s.mem := by simp [returnPort]

@[simp] theorem returnFlits_mem : (returnFlits s).mem = s.mem := by
  unfold returnFlits
  split
  · rfl
  · exact foldl_mem (fun _ _ => returnPort_mem) _ s

@[simp] theorem execSlotEnd_canonical (h : Memory.wf s.mem) : CanonicalNext (execSlotEnd s) := by
  unfold execSlotEnd
  split <;> simp [h]

@[simp] theorem rotationStart_mem : (rotationStart s).mem = s.mem := by
  unfold rotationStart
  split <;> simp

@[simp] theorem execSlotStart_canonical (h : Memory.wf s.mem) : CanonicalNext (execSlotStart s) := by simp [execSlotStart, h]
@[simp] theorem swapOn_mem : (swapOn s).mem = s.mem := by rfl
@[simp] theorem slotEnWrite_mem {en : Bool} : (slotEnWrite s en).mem = s.mem := by simp [slotEnWrite]

@[simp] theorem linkEvent_wf {kind : Nat} {loc rx : Bool} {peer lost live replay : Nat} (h : Memory.wf s.mem) :
    Memory.wf (linkEvent s kind loc rx port peer lost live replay).mem := by simp [linkEvent, h]

@[simp] theorem installKey_mem : (installKey s k).mem = s.mem := by simp [installKey]
@[simp] theorem sendCap_mem : (sendCap s k).mem = s.mem := by rfl

@[simp] theorem execLinkTrained_canonical {lanes : Nat} {cap : Word} (h : Memory.wf s.mem) :
    CanonicalNext (execLinkTrained port lanes cap s) := by simp [execLinkTrained, h]

@[simp] theorem tellLive_mem {mask : Nat} : (tellLive s port mask).mem = s.mem := by simp [tellLive]
@[simp] theorem restripeTx_wf (h : Memory.wf s.mem) : Memory.wf (restripeTx s port fseq).mem := by simp [restripeTx, h]
@[simp] theorem restripeRx_wf (h : Memory.wf s.mem) : Memory.wf (restripeRx s port).mem := by simp [restripeRx, h]
@[simp] theorem resendAll_mem : (resendAll s port).mem = s.mem := by rfl

@[simp] theorem execFlitReplayTimeout_canonical (h : Memory.wf s.mem) : CanonicalNext (execFlitReplayTimeout port s) := by
  simp [execFlitReplayTimeout, h]

@[simp] theorem sendImage_mem {f : Flit} : (sendImage s port start time f fseq).mem = s.mem := by rfl
@[simp] theorem sendIdle_mem : (sendIdle s port start time).mem = s.mem := by rfl

@[simp] theorem execFlitSend_canonical (h : Memory.wf s.mem) : CanonicalNext (execFlitSend port s) := by
  unfold execFlitSend
  dsimp only
  repeat' split
  all_goals simp [h]

@[simp] theorem owe_mem {nak : Bool} : (owe s port nak).mem = s.mem := by rfl
@[simp] theorem linkControlTaken_mem {w : Word} : (linkControlTaken s port w).mem = s.mem := by simp [linkControlTaken]

@[simp] theorem execFlitReceive_canonical {flit : List Byte} (h : Memory.wf s.mem) :
    CanonicalNext (execFlitReceive port flit s) := by
  unfold execFlitReceive
  dsimp only
  repeat' split
  all_goals simp [h]

@[simp] theorem refuseUalink_mem {link tag : Nat} : (refuseUalink s link tag).mem = s.mem := by simp [refuseUalink]

end Sys2Proof.Machine

end

/-! Firmware, registers and errors: what leaves memory as it is, and what keeps it canonical. -/

section

namespace Sys2Proof.Machine

variable {s : State} {l : Lanes} {proc a k u frame v tier g c t r off : Nat} {gsc : Bool} {w : Word}

@[simp] theorem updLink_mem {l : Nat} {f : FwLink → FwLink} : (updLink s l f).mem = s.mem := by rfl
@[simp] theorem sramPut_mem {bs : List Byte} : (sramPut s proc a bs).mem = s.mem := by rfl

@[simp] theorem firmwareMove_wf {store : Bool} {slot va n : Nat} (h : Memory.wf s.mem) :
    Memory.wf (firmwareMove store proc slot va a n s).mem := by
  unfold firmwareMove
  split_ifs
  · exact h
  all_goals
    refine foldl_wf (fun s i h => ?_) _ h
    split
    · split_ifs <;> simp [h]
    · exact h

@[simp] theorem permitBack_mem {l : Nat} : (permitBack s l).mem = s.mem := by rfl

@[simp] theorem execFirmwareMessage_canonical {link : Nat} {msg : List Byte} (h : Memory.wf s.mem) :
    CanonicalNext (execFirmwareMessage link msg s) := by simp [execFirmwareMessage, h]

@[simp] theorem freezeLfc_wf {cause : Nat} (h : Memory.wf s.mem) : Memory.wf (freezeLfc s k cause).mem := by simp [freezeLfc, h]
@[simp] theorem settleReserve_mem : (settleReserve s).mem = s.mem := by simp [settleReserve]

@[simp] theorem execProbeTimeout_canonical (h : Memory.wf s.mem) : CanonicalNext (execProbeTimeout u s) := by
  simp [execProbeTimeout, h]

@[simp] theorem emergency_mem : (emergency s u).mem = s.mem := by simp [emergency]

@[simp] theorem execProbeToken_canonical (h : Memory.wf s.mem) : CanonicalNext (execProbeToken u s) := by
  unfold execProbeToken
  split <;> simp [h]

@[simp] theorem badPut_mem {reason : Nat} : (badPut s reason frame).mem = s.mem := by simp [badPut]

@[simp] theorem bfapp_mem {op : Nat} : (bfapp s op v).mem = s.mem := by
  unfold bfapp
  dsimp only
  repeat' split
  all_goals simp

@[simp] theorem faqPut_mem : (faqPut s tier frame).mem = s.mem := by
  unfold faqPut
  dsimp only
  split <;> simp

@[simp] theorem dropError_mem : (dropError s g tier frame).mem = s.mem := by simp [dropError]
@[simp] theorem groupError_wf (h : Memory.wf s.mem) : Memory.wf (groupError s g tier frame).mem := by simp [groupError, h]

@[simp] theorem queueError_wf {q : Nat} (h : Memory.wf s.mem) : Memory.wf (queueError s c q).mem := by
  unfold queueError
  split <;> simp [h]

@[simp] theorem pathError_wf (h : Memory.wf s.mem) : Memory.wf (pathError s k).mem := by
  unfold pathError
  dsimp only
  split_ifs
  · exact h
  all_goals
    refine foldl_wf (fun s e h => ?_) _ (by simp [h])
    split_ifs <;> simp [h]

@[simp] theorem skiverError_wf {die : Nat} (h : Memory.wf s.mem) : Memory.wf (skiverError s die).mem := by
  unfold skiverError
  dsimp only
  repeat' split
  all_goals simp [h]

@[simp] theorem copyError_mem : (copyError s t).mem = s.mem := by
  unfold copyError
  split <;> simp

@[simp] theorem tceError_wf (h : Memory.wf s.mem) : Memory.wf (tceError s t).mem := by
  unfold tceError
  split <;> simp [h]

@[simp] theorem execUncorrectable_canonical {kind unit : Nat} (h : Memory.wf s.mem) :
    CanonicalNext (execUncorrectable kind unit frame tier s) := by
  unfold execUncorrectable
  dsimp only
  split <;> simp [h]

@[simp] theorem ptaPool_canonical {v : Quad} (h : Memory.wf s.mem) : CanonicalNext (ptaPool v s) := by simp [ptaPool, h]

@[simp] theorem stateOf_wf {r : Res} (hr : CanonicalNext r) (h : Memory.wf s.mem) : Memory.wf (stateOf r s).mem := by
  cases r with
  | next t => exact canonicalNext_next.mp hr
  | fault e => exact h
  | refused e => exact h

@[simp] theorem ringRegs_wf (h : Memory.wf s.mem) : Memory.wf (ringRegs s k r l).mem := by
  unfold ringRegs
  dsimp only
  split
  · simp [h]
  · split <;> simp [h]
  · cases l.lo <;> cases l.hi <;> simp [h]
  · exact h

@[simp] theorem queueRegs_wf (h : Memory.wf s.mem) : Memory.wf (queueRegs s r l).mem := by simp [queueRegs, h]

-- The match on the register's number is one `if` on each number in turn, which only whole unfolding shows.
set_option smartUnfolding false in
/-- POWER registers beyond those named (R400, R457): nothing changes. -/
theorem powerRegs_elsewhere (h0 : r ≠ 0) (h8 : r ≠ 8) (h16 : r ≠ 16) (h24 : r ≠ 24) (h64 : r ≠ 64) : powerRegs s r l gsc = s :=
  (dif_neg h0).trans <| (dif_neg h8).trans <| (dif_neg h16).trans <| (dif_neg h24).trans <| dif_neg h64

/-- TJHOT and THSTAT in one register. -/
theorem powerRegs_heat (h : Memory.wf s.mem) : Memory.wf (powerRegs s 64 l gsc).mem := by
  obtain ⟨_ | w, _ | v⟩ := l
  · exact h
  · show Memory.wf (ite _ _ _ : State).mem
    split_ifs <;> exact h
  · show Memory.wf (ite _ _ _ : State).mem
    split_ifs <;> exact h
  · show Memory.wf (ite _ _ _ : State).mem
    simp [h]

@[simp] theorem powerRegs_wf (h : Memory.wf s.mem) : Memory.wf (powerRegs s r l gsc).mem := by
  by_cases hr : r = 0 ∨ r = 8 ∨ r = 16 ∨ r = 24 ∨ r = 64
  · obtain ⟨lo, hi⟩ := l
    obtain rfl | rfl | rfl | rfl | rfl := hr
    · cases lo with
      | none => exact h
      | some w => exact stateOf_wf (ptaPool_canonical h) h
    · cases lo <;> exact h
    · cases lo <;> exact h
    · cases lo with
      | none => exact h
      | some w => cases gsc <;> exact h
    · exact powerRegs_heat h
  · simp only [not_or] at hr
    obtain ⟨h0, h8, h16, h24, h64⟩ := hr
    rw [powerRegs_elsewhere h0 h8 h16 h24 h64]
    exact h

@[simp] theorem slotctl_mem : (slotctl s v).mem = s.mem := by simp [slotctl]

@[simp] theorem slotRegs_mem : (slotRegs s r l).mem = s.mem := by
  unfold slotRegs
  dsimp only
  split_ifs
  · exact slotctl_mem
  · rfl
  · rfl
  · cases l.lo <;> cases l.hi <;> rfl
  · rfl

@[simp] theorem ctxctl_wf (h : Memory.wf s.mem) : Memory.wf (ctxctl s c w).mem := by simp [ctxctl, h]

@[simp] theorem ctxRegs_wf (h : Memory.wf s.mem) : Memory.wf (ctxRegs s c r l).mem := by
  unfold ctxRegs
  dsimp only
  split
  case h_1 | h_10 | h_11 | h_12 => split <;> simp [h]
  case h_6 => cases l.lo <;> cases l.hi <;> simp [h]
  all_goals simp [h]

@[simp] theorem pmcRegs_mem : (pmcRegs s k r l).mem = s.mem := by
  unfold pmcRegs
  dsimp only
  repeat' split
  all_goals simp

@[simp] theorem emergRegs_mem : (emergRegs s k l).mem = s.mem := by
  unfold emergRegs
  dsimp only
  repeat' split
  all_goals simp

@[simp] theorem msixRegs_mem : (msixRegs s r l gsc).mem = s.mem := by
  unfold msixRegs
  dsimp only
  repeat' split
  all_goals simp

@[simp] theorem bar0_wf (h : Memory.wf s.mem) : Memory.wf (bar0 s off l gsc).mem := by
  unfold bar0
  split_ifs
  · simpa using h
  · exact queueRegs_wf h
  · exact powerRegs_wf h
  · simpa using h
  · exact ctxRegs_wf h
  · exact h
  · simpa using h
  · simpa using h
  · exact h
  · simpa using h
  · dsimp only
    split <;> simp [h]
  · exact h

@[simp] theorem streamCtl_wf (h : Memory.wf s.mem) : Memory.wf (streamCtl s c k w).mem := by
  unfold streamCtl
  extract_lets u v
  have hu : Memory.wf u.mem := by simpa [u] using h
  have hv : Memory.wf v.mem := by
    unfold v
    split_ifs
    · exact stateOf_wf (streamReset_canonical hu) hu
    · exact hu
  split_ifs
  · exact stateOf_wf (streamEnable_canonical hv) hv
  · exact hv

@[simp] theorem bar2_wf (h : Memory.wf s.mem) : Memory.wf (bar2 s off l).mem := by
  unfold bar2
  dsimp only
  split
  · split <;> simp [h]
  · simp [h]
  · simp [h]
  · split <;> simp [h]
  · exact h

@[simp] theorem keyRegs_mem : (keyRegs s off l).mem = s.mem := by simp [keyRegs]

@[simp] theorem placeRegs_mem {cl : Nat} : (placeRegs s cl off l).mem = s.mem := by
  unfold placeRegs
  dsimp only
  repeat' split
  all_goals simp

@[simp] theorem registerWrite_canonical {bar size : Nat} {v : Quad} {master : Nat} (h : Memory.wf s.mem) :
    CanonicalNext (registerWrite bar off size v master s) := by
  unfold registerWrite
  dsimp only
  repeat' split
  all_goals simp [h]

end Sys2Proof.Machine

end

/-! Power, boot and management: what leaves memory as it is, and what keeps it canonical. -/

section

namespace Sys2Proof.Machine

variable {s : State} {m rec_ bs req : List Byte} {v : BitVec 256}

theorem memory_wf_nil : Memory.wf [] := rfl
@[simp] theorem execLossOfPower_canonical : CanonicalNext (execLossOfPower s) := .next rfl
@[simp] theorem bootRecovery_mem : (bootRecovery s m).mem = s.mem := by rw [bootRecovery_onlyBoot s m]

@[simp] theorem boot_mem : (boot s m rec_).mem = s.mem := by
  rw [boot_onlyBoot s m rec_]
  rfl

@[simp] theorem shutPaths_wf (h : Memory.wf s.mem) : Memory.wf (shutPaths s).mem := by
  refine foldl_wf (fun s e h => ?_) _ h
  split_ifs
  · simpa using h
  · exact closeSend_wf (emit_wf h)
  · exact closeSend_wf h
  · exact h

@[simp] theorem leaseRequest_wf {nonce : Nat} (h : Memory.wf s.mem) : Memory.wf (leaseRequest s nonce).mem := by
  simp [leaseRequest, h]

@[simp] theorem execPowerOn_canonical (h : Memory.wf s.mem) : CanonicalNext (execPowerOn m rec_ s) := by
  unfold execPowerOn
  split
  · exact .next h
  · have hu : Memory.wf (powered s).mem := by
      unfold powered
      split_ifs
      · exact h
      · exact memory_wf_nil
    have hn : CanonicalNext (.next (if (powered s).scrubPend then leaseRequest (powered s) (powered s).nonce
        else boot (powered s) m rec_)) := by simp [hu]
    exact hn

@[simp] theorem execScrubComplete_canonical {l : List Nat} (h : Memory.wf s.mem) : CanonicalNext (execScrubComplete l rec_ s) := by
  unfold execScrubComplete
  split_ifs
  · exact .next h
  · rw [canonicalNext_next, bootRecovery_mem, foldl_mem]
    · exact Store.wf_filter s.mem _ h
    · intro s f
      split_ifs <;> simp

@[simp] theorem sendMctp_mem {type : Byte} : (sendMctp s type bs).mem = s.mem := by rfl
@[simp] theorem answer_mem : (answer s bs).mem = s.mem := by rfl
@[simp] theorem answerSealed_mem : (answerSealed s bs).mem = s.mem := by rfl
@[simp] theorem setMctpUnit_mem {n : Nat} : (setMctpUnit s n).mem = s.mem := by simp [setMctpUnit]
@[simp] theorem respond_mem : (respond s bs).mem = s.mem := by simp [respond]
@[simp] theorem respondSigned_mem : (respondSigned s bs).mem = s.mem := by simp [respondSigned]

@[simp] theorem spdm_canonical {ready : Bool} {f : State → State} (hf : ∀ s, Memory.wf s.mem → Memory.wf (f s).mem)
    (h : Memory.wf s.mem) : CanonicalNext (spdm s ready f) := by
  simp [spdm, hf, h]

@[simp] theorem execNonce_canonical (h : Memory.wf s.mem) : CanonicalNext (execNonce v s) := by simp [execNonce, h]

@[simp] theorem execLeaseReset_canonical (h : Memory.wf s.mem) : CanonicalNext (execLeaseReset req s) := by
  simp +contextual [execLeaseReset, h]

@[simp] theorem execTenantKey_canonical (h : Memory.wf s.mem) : CanonicalNext (execTenantKey req s) := by simp [execTenantKey, h]

@[simp] theorem execNegotiateAlgorithms_canonical {offer : Word} (h : Memory.wf s.mem) :
    CanonicalNext (execNegotiateAlgorithms offer s) := by simp [execNegotiateAlgorithms, h]

@[simp] theorem execGetCertificate_canonical {certSlot off len : Nat} (h : Memory.wf s.mem) :
    CanonicalNext (execGetCertificate certSlot off len s) := by simp [execGetCertificate, h]

@[simp] theorem execGetMeasurements_canonical {idx : Nat} (h : Memory.wf s.mem) : CanonicalNext (execGetMeasurements idx v s) := by
  refine spdm_canonical (fun s h => ?_) h
  dsimp only
  split_ifs
  · simpa using h
  · simpa using h
  · split <;> simpa using h

@[simp] theorem execKeyExchange_canonical (h : Memory.wf s.mem) : CanonicalNext (execKeyExchange req s) := by
  simp [execKeyExchange, h]

@[simp] theorem execFinish_canonical (h : Memory.wf s.mem) : CanonicalNext (execFinish req s) := by
  refine spdm_canonical (fun s h => ?_) h
  split
  · split_ifs <;> simpa using h
  · simpa using h

@[simp] theorem largeRequest_canonical (h : Memory.wf s.mem) : CanonicalNext (largeRequest req s) := by
  unfold largeRequest
  split <;> simp [h]

@[simp] theorem execChunkSend_canonical {seq : Nat} {last : Bool} {chunk : List Byte} (h : Memory.wf s.mem) :
    CanonicalNext (execChunkSend seq last chunk s) := by
  refine spdm_canonical (fun s h => ?_) h
  split
  · exact h
  · extract_lets req u
    split
    · exact stateOf_wf (largeRequest_canonical h) h
    · exact h

@[simp] theorem execUnsupportedRequest_canonical {code : Nat} (h : Memory.wf s.mem) :
    CanonicalNext (execUnsupportedRequest code s) := by
  unfold execUnsupportedRequest
  dsimp only
  repeat' split
  all_goals simp [h]

end Sys2Proof.Machine

end

/-! The host link: what leaves memory as it is, and what keeps it canonical. -/

section

namespace Sys2Proof.Machine

variable {pa : Nat} {s : State} {r : HostReq}

@[simp] theorem hostWrite_wf {bs : List Byte} (h : Memory.wf s.mem) : Memory.wf (hostWrite pa bs s).mem := by
  unfold hostWrite
  dsimp only
  repeat' split
  all_goals simp [h]

@[simp] theorem hostRead_mem {n : Nat} : (hostRead pa n s).mem = s.mem := by
  unfold hostRead
  split <;> simp

@[simp] theorem hostAct_canonical (h : Memory.wf s.mem) : CanonicalNext (hostAct r s) := by
  unfold hostAct
  split <;> simp [h]

@[simp] theorem posted_canonical (h : Memory.wf s.mem) : CanonicalNext (posted r s) := by simp [posted, h]

@[simp] theorem hostNext_canonical (h : Memory.wf s.mem) : CanonicalNext (hostNext s) := by
  unfold hostNext
  split
  · exact .next h
  next r rest _ =>
    have ha := hostAct_canonical (r := r) (s := { s with hostq := [] }) h
    split
    next t ht =>
      rw [ht, canonicalNext_next] at ha
      exact .next ha
    · exact .fault _
    · exact .refused _

@[simp] theorem execRegisterWrite_canonical {bar off size : Nat} {v : Quad} {master : Nat} (h : Memory.wf s.mem) :
    CanonicalNext (execRegisterWrite bar off size v master s) := by simp [execRegisterWrite, h]

end Sys2Proof.Machine

end

/-! Every instruction and step: what leaves memory as it is, and what keeps it canonical. -/

section

namespace Sys2Proof.Machine

/-- An arm that only names the operation it shares is unfolded here; of any other a lemma tells. -/
@[simp] theorem exec_canonical {i : Instr} {s : State} (h : Memory.wf s.mem) : CanonicalNext (exec i s) := by
  unfold exec
  split <;>
    simp [h,
      execAtfmax, execAndn, execMinn, execRngr, execMds, execLfcReset, execGetm, execPor, execAtcas, execAtminn, execCmp,
      execGetDigests, execF2i, execLdbs, execBfappNop, execBfappFlashDone, execFrsv, execFcmp, execStw, execPk8, execFlush,
      execKvevict, execFma, execBrc, execCpyz, execArst, execRemn, execSubb, execTrap, execH2f, execYield, execCtxctlResume,
      execNibl, execPget, execStopDescriptorPost, execCtxctlPre, execGetCapabilities, execLdhs, execChunkGet, execShup,
      execCtxld, execInvhiWrite, execRmin, execStreamTailWrite, execAfin, execSetdasa, execSetm, execLbcl, execAtfadd,
      execRot, execMad, execMma, execFscal, execStq, execMul, execBfappCommit, execPopc, execArow, execMbxq, execMfs,
      execAdd, execRxbadd, execBfappAppend, execMin, execPtaPoolWrite, execPermitReturn, execQfnc, execHostMemoryRead,
      execLossOfLight, execFsqrt, execXor, execMdecay, execLfcWatchdog, execEntdaa, execThermalTrip, execPgreq,
      execBfappDiscard, execRngq, execCtxctlLaunch, execFrsq, execSth, execPortDisable, execQwait, execCpyc, execCpyr,
      execPin, execUalinkOtherRequest, execGetVersion, execOr, execFrel, execPset, execFmul, execMaxn, execShdn,
      execHostMemoryWrite, execBrev, execGang, execAtand, execLrstN, execFcos, execRxadd, execNibh, execQxh, execRngw,
      execL1LeaseExpiry, execDivn, execExit, execEndSession, execUpk8, execQfpk, execBfe, execClz, execFtanh, execQxv,
      execQrelWrite, execFneg, execCpy, execRadd, execQswz, execFadd, execUnpin, execPsum, execSub, execPortEnable,
      execPsumx, execLdh, execVrheadWrite, execAwait, execSleep, execAmaxr, execRte, execBra, execFmax, execMov,
      execStreamCtlEn, execFsin, execSar, execFrcp, execF2n, execLdb, execMax, execStreamCtlRst, execFrmax, execFexp2,
      execAtxor, execMulhn, execMbxdone, execPrf, execFmin, execArrive, execSlotctlSwap, execPrmt, execAtmin,
      execEccCorrected, execScaleq, execQxd, execAtxch, execShfl, execRngi, execLdq, execPand, execAvacc, execAtadd,
      execAbs, execCpy2, execMfold, execI2f, execFacq, execKvapp, execStb, execHeartbeat, execPxor, execShr, execFlog2,
      execSlotctlEn, execN2f, execFrnd, execRxmax, execFqheadWrite, execTjhotExceeded, execCmpn, execMmas, execMzro,
      execRem, execRmax, execUalinkWriteReceive, execAtmaxn, execDiv, execWtime, execChallenge, execFseq, execLerheadWrite,
      execBankm, execBar, execNop, execAddc, execFsub, execStd, execAtmax, execDcdReleaseOrderly, execLdd, execF2h,
      execCtxctlKill, execQfupk, execCpyg, execFabs, execFdot2, execIpf, execFms, execAscore, execKvseal, execSetEndpointId,
      execFradd, execAtor, execRxfadd, execBfi, execShl, execEvsig, execPmcWrap, execMulh, execAnd, execLdw,
      execRestripeDone]

end Sys2Proof.Machine

end

/-! A move: what leaves memory as it is, and what keeps it canonical. -/

section

namespace Sys2Proof.Machine

variable {s t : State} {g i n id : Nat} {ready : List (Nat × Nat)} {x1 : Turn}

@[simp] theorem readyTo_mem : (readyTo s g i n).mem = s.mem := by rfl

@[simp] theorem issue_canonical (h : Memory.wf s.mem) : CanonicalNext (issue s g i) := by
  unfold issue
  dsimp only
  repeat' split
  all_goals simp [h]

@[simp] theorem countIssue_mem {x : Nat × Nat} : (countIssue s t x ready).mem = t.mem := by simp [countIssue]
@[simp] theorem keepStall_mem : (keepStall s t g i).mem = s.mem := by simp [keepStall]

@[simp] theorem issueFirst_canonical {xs : List (Nat × Nat)} (h : Memory.wf s.mem) : CanonicalNext (issueFirst s ready xs) := by
  induction xs generalizing s ready with
  | nil => exact .next h
  | cons x r ih =>
    have hi := issue_canonical (g := x.1) (i := x.2) h
    unfold issueFirst
    split_ifs
    · exact ih h
    · split
      next t ht =>
        rw [ht, canonicalNext_next] at hi
        split_ifs
        · exact ih h
        · exact ih hi
        · exact ih (by simp [h])
        · simpa using hi
      · exact .fault _
      · exact .refused _

@[simp] theorem laneIssue_canonical {c l : Nat} (h : Memory.wf s.mem) : CanonicalNext (laneIssue s c l) := by simp [laneIssue, h]

@[simp] theorem takePush_canonical {p : Pend} (h : Memory.wf s.mem) : CanonicalNext (takePush g p s) := by
  unfold takePush
  split <;> simp [h]

@[simp] theorem someData_canonical (h : Memory.wf s.mem) : CanonicalNext (someData g id s) := by simp [someData, h]
@[simp] theorem someOld_canonical (h : Memory.wf s.mem) : CanonicalNext (someOld g id s) := by simp [someOld, h]
@[simp] theorem timePasses_mem : (timePasses s n).mem = s.mem := by simp [timePasses]

@[simp] theorem takeTurn_canonical (h : Memory.wf s.mem) : CanonicalNext (takeTurn s x1) := by
  unfold takeTurn
  split <;> simp [h]

@[simp] theorem cacheAny_canonical (h : Memory.wf s.mem) : CanonicalNext (cacheAny s) := by
  unfold cacheAny
  dsimp only
  split <;> simp [h]

@[simp] theorem powerless_canonical (h : Memory.wf s.mem) : CanonicalNext (powerless s x1) := by
  unfold powerless
  split <;> simp [h]

@[simp] theorem resetPassed_mem : (resetPassed s).mem = s.mem := by simp [resetPassed]
@[simp] theorem settleBlocked_mem : (settleBlocked s).mem = s.mem := by simp [settleBlocked]
@[simp] theorem settle_mem : (settle s).mem = s.mem := by simp [settle]

end Sys2Proof.Machine

end

/-! Every move, and so every step, keeps memory canonical (R414). -/

section

namespace Sys2Proof.Machine

/-- Steps that keep memory canonical, whatever state they are taken in. -/
def CanonicalSteps (l : List (State → Res)) : Prop := ∀ f ∈ l, ∀ s, Memory.wf s.mem → CanonicalNext (f s)

section

variable {α : Type} {f : State → Res} {l m : List (State → Res)} {s : State}

@[simp] theorem canonicalSteps_nil : CanonicalSteps [] := fun _ h => absurd h List.not_mem_nil

@[simp] theorem canonicalSteps_cons :
    CanonicalSteps (f :: l) ↔ (∀ s, Memory.wf s.mem → CanonicalNext (f s)) ∧ CanonicalSteps l := List.forall_mem_cons

@[simp] theorem canonicalSteps_append : CanonicalSteps (l ++ m) ↔ CanonicalSteps l ∧ CanonicalSteps m := List.forall_mem_append

@[simp] theorem canonicalSteps_map {as : List α} {g : α → State → Res} :
    CanonicalSteps (as.map g) ↔ ∀ a ∈ as, ∀ s, Memory.wf s.mem → CanonicalNext (g a s) := List.forall_mem_map

@[simp] theorem canonicalSteps_flatMap {as : List α} {g : α → List (State → Res)} :
    CanonicalSteps (as.flatMap g) ↔ ∀ a ∈ as, CanonicalSteps (g a) := List.forall_mem_flatMap

@[simp] theorem canonicalSteps_ite {p : Prop} [Decidable p] :
    CanonicalSteps (if p then l else m) ↔ (p → CanonicalSteps l) ∧ (¬p → CanonicalSteps m) := by
  split_ifs with h <;> simp [h]

@[simp] theorem canonicalSteps_toList_map {o : Option α} {g : α → State → Res} :
    CanonicalSteps (o.map g).toList ↔ ∀ a ∈ o, ∀ s, Memory.wf s.mem → CanonicalNext (g a s) := by
  cases o <;> simp

theorem pendSteps_canonical {g : Nat} {p : Pend} : CanonicalSteps (pendSteps g p) := by
  unfold pendSteps
  split <;> simp +contextual

theorem waitSteps_canonical {g i : Nat} {f : Frag} : CanonicalSteps (waitSteps g i f) := by
  unfold waitSteps
  cases f.wait <;> simp +contextual

theorem groupSteps_canonical {g : Nat} {x : Group} : CanonicalSteps (groupSteps g x) := by
  simp +contextual [groupSteps, pendSteps_canonical, waitSteps_canonical]

theorem coreSteps_canonical : CanonicalSteps (coreSteps s) := by
  simp +contextual [coreSteps, ite_apply]

theorem engineSteps_canonical : CanonicalSteps (engineSteps s) := by
  simp +contextual [engineSteps]

theorem decodeSteps_canonical {k : Nat} : CanonicalSteps (decodeSteps s k) := by
  unfold decodeSteps
  extract_lets c n x
  split_ifs
  · simp
  · simp +contextual
  · split <;> simp +contextual

theorem osdSteps_canonical : CanonicalSteps (osdSteps s) := by
  simp +contextual [osdSteps, decodeSteps_canonical]

theorem ctxSteps_canonical : CanonicalSteps (ctxSteps s) := by
  simp +contextual [ctxSteps]

theorem fabricSteps_canonical : CanonicalSteps (fabricSteps s) := by
  simp only [fabricSteps, canonicalSteps_append, canonicalSteps_flatMap, canonicalSteps_ite]
  refine ⟨⟨⟨⟨fun e _ => ⟨fun _ => ⟨?_, ?_⟩, fun _ => ?_⟩, fun f _ => ?_⟩, ?_⟩, ?_⟩, ?_⟩
  · simp +contextual
  · split
    · split_ifs
      · simp +contextual
      · split <;> simp +contextual
    · simp
  · simp +contextual
  · split <;> simp +contextual
  · simp +contextual
  · simp +contextual
  · simp +contextual

theorem faultSteps_canonical : CanonicalSteps (faultSteps s) := by
  simp +contextual [faultSteps]

theorem hostSteps_canonical : CanonicalSteps (hostSteps s) := by
  simp +contextual [hostSteps]

theorem partSteps_canonical : CanonicalSteps (partSteps s) := by
  simp +contextual [partSteps, groupSteps_canonical, coreSteps_canonical, engineSteps_canonical, osdSteps_canonical, ctxSteps_canonical,
    fabricSteps_canonical, faultSteps_canonical, hostSteps_canonical]

theorem possible_canonical : CanonicalSteps (possible s) := by
  simp +contextual [possible, partSteps_canonical]

end

/-- A choice is one of what it is made from. -/
theorem mem_of_pickOf {α : Type} {s : State} {l : List α} {a : α} (h : pickOf s l = some a) : a ∈ l := by
  unfold pickOf at h
  split at h
  · contradiction
  · exact Option.some.inj h ▸ List.mem_singleton_self _
  · exact List.mem_of_getElem? h

theorem moveOn_canonical {s : State} (h : Memory.wf s.mem) : CanonicalNext (moveOn s) := by
  unfold moveOn
  dsimp only
  split
  · simpa using h
  next f hf =>
    have hn := possible_canonical f (mem_of_pickOf hf) (if (possible s).length ≤ 1 then s else spend s) (by simpa using h)
    split
    next t ht =>
      rw [ht, canonicalNext_next] at hn
      simpa using hn
    · exact .fault _
    · exact .refused _

theorem move_canonical {s : State} (h : Memory.wf s.mem) : CanonicalNext (move s) := by
  unfold move
  split
  · dsimp only
    split_ifs
    · exact takeTurn_canonical h
    · exact powerless_canonical h
  · split_ifs
    · exact moveOn_canonical h
    · exact .fault _

theorem settled_canonical {r : Res} (h : CanonicalNext r) : CanonicalNext (settled r) := by
  cases h with
  | next h => exact .next (by simpa using h)
  | fault e => exact .fault e
  | refused e => exact .refused e

/-- Settles O6: a step is a move, which keeps memory canonical, and what settles after it touches none. -/
theorem stepKeepsMemoryCanonical : Obligations.StepKeepsMemoryCanonical := by
  intro s t h hstep
  have hn : CanonicalNext (step s) := settled_canonical (move_canonical h)
  rw [hstep] at hn
  exact canonicalNext_next.mp hn

end Sys2Proof.Machine

end
